-- ==== Sys2Proof/Word.lean ====
section
/-! DEFINITION. The word types of the Cheold: registers, vectors, bytes and instruction words. -/

namespace Sys2Proof

/-- A scalar register or status word (R14). -/
abbrev Word := BitVec 64

/-- A vector register (R14). -/
abbrev VReg := BitVec 128

/-- A byte of memory. -/
abbrev Byte := BitVec 8

/-- One 32-bit instruction word (R103). -/
abbrev IWord := BitVec 32

/-- A register number of five bits (R109). -/
abbrev RegNo := BitVec 5

end Sys2Proof
end

