-- ==== Sys2Proof/Config.lean ====
section
/-! DEFINITION. What an implementation fixes and what the spec leaves open: constants without a value.
Nothing can be proved of them but what holds for every value. A free value takes the device's tick (log
entry 3), so that two of them need not agree. -/

namespace Sys2Proof.Config

/-- The part's device identifier (R325). -/
opaque deviceId : BitVec 20

/-- Core cycles an issue takes beyond one (R45, R121: latencies do not bind). -/
opaque extraCycles (tick : Nat) : Nat

/-- Whether the cached copies of a line are invalidated only at the next boundary (R56). -/
opaque lateInvalidation (tick line : Nat) : Bool

/-- The unit a faulted stream read gives (R167 raises the fault, and states no value). -/
opaque faultedUnit (tick : Nat) : BitVec 128

/-- Wall-clock time (R158). -/
opaque wallClock (tick : Nat) : Word

/-- A cluster's junction temperature while nothing has evaluated it (R158). -/
opaque junction (tick cluster : Nat) : Word

/-- Whether an access issued while a mapping command is in progress uses the old entry (R293). -/
opaque staleEntry (tick : Nat) : Bool

/-- The egress ranges that the boot ROM writes (R328): first device, and first device above. -/
opaque egressBase (range : Nat) : BitVec 20

/-- The first device above an egress range. -/
opaque egressLimit (range : Nat) : BitVec 20

/-- Where the dispatcher keeps an argument record, in 64-byte units of its shingle's loft (R208). -/
opaque argRecord (part owner slot : Nat) : BitVec 21

/-- Where the successor rules of a node stand in the loft (R208). -/
opaque succRules (part owner node : Nat) : BitVec 32

/-- Whether the eave station holds a translation when a task is placed by the home of an argument (R272). -/
opaque placementHit (tick : Nat) : Bool

/-- A byte that a remote part's home returns as of an instant (R55, R68). -/
opaque remoteByte (key inst : Nat) : BitVec 8

/-- Whether a remote part answers a request with protection (R291, R328). -/
opaque remoteRefuses (tick : Nat) : Bool

/-- Whether a read at a home meets an uncorrectable error (R282). -/
opaque homeEcc (tick : Nat) : Bool

/-- Whether a read of a table entry meets an uncorrectable error (R291). -/
opaque tableEcc (tick : Nat) : Bool

/-- Whether a read of the scratchpad at an offset meets an uncorrectable error (R282). -/
opaque spadEcc (tick off : Nat) : Bool

/-- A byte that a remote part's home held before it applied an atomic, by the atomic's number (R73). -/
opaque remoteOld (id byte : Nat) : BitVec 8

/-- A byte of host memory that a host copy reads (R322). -/
opaque hostByte (tick addr : Nat) : BitVec 8

/-- Which of several cores the dispatcher chooses (R233, R275, R284). -/
opaque coreChoice (tick : Nat) : Nat

/-- The sending route of a record that a spilled buffer brings back: its entry does not hold it (R265). -/
opaque recordSource (tick : Nat) : BitVec 20

/-- A byte of the flop section of an image (R305). -/
opaque flopByte (tick index : Nat) : BitVec 8

/-- What stands in the flops of a core restored from a flop section that no stop made (R305, R308). -/
opaque strayFlop (tick index : Nat) : BitVec 64

/-- The hash of the scan map of a silicon revision (R306). -/
opaque mapHash (physCore : Nat) : Word

/-- The silicon revision of a physical core (R158, R308). -/
opaque coreRev (physCore : Nat) : Word

/-- The generation that a publication or signal of a supervisor with no task carries (R214 to R216 name the
issuing task's). -/
opaque noTaskGen (tick : Nat) : BitVec 16

/-- The PUB that a signal of a supervisor with no task carries (R216). -/
opaque noTaskPub (tick : Nat) : BitVec 56

/-- The address and the clause that a protection fault of a message refused at the sending NI carries (R327 names
the fault alone). -/
opaque refusedSend (tick : Nat) : BitVec 80

/-- How many flits of a class a port may send before credit comes back (R326). -/
opaque linkCredit (port cls : Nat) : Nat

/-- The link delay of a port measured at training, in instants (R330). -/
opaque linkDelay (port : Nat) : Nat

/-- By how many picoseconds a part slews its reference phase for an offset (R330). -/
opaque slew (offset : BitVec 32) : Int

end Sys2Proof.Config
end

