-- ==== Sys2Proof/Syntax.lean ====
section
/-! DEFINITION. The syntax of the Cheold: one constructor of `Instr` for every row of
spec/opcode_table.json, and the plain data that the operands of the steps without a word carry
(task records, images, register accesses). A row with a word has its fields as arguments, in the
order of the row, bit 31 (the clause bit, R103) apart. A row without a word is a step of one of the
part's agents: its arguments say which pending item the step acts on, or what came from outside. -/

namespace Sys2Proof

/-- A clause or word that is no instruction, as R115 sorts it (R116 gives its `xval`). -/
inductive Reject where
  /-- Orders 1 and 2: both words. -/
  | illegalClause (w0 w1 : IWord)
  /-- Orders 3 to 7: the word. -/
  | illegalWord (w : IWord)
  /-- The fetch of a clause in a reserved frame in user mode (R257). -/
  | privilegedFetch (addr : BitVec 16)
  deriving DecidableEq, Repr

/-- The fault policy of a node (R23). -/
inductive Policy where
  | hold | retry | poison | abort
  deriving DecidableEq, Repr

/-- A placement hint (R23, R272). -/
inductive Place where
  | any
  | home (j : Nat)
  | near (x y : Nat)
  deriving DecidableEq, Repr

/-- A successor rule (R27): node number, field and signed delta. -/
structure SuccRule where
  node : Nat
  field : Nat
  delta : Int
  deriving DecidableEq, Repr

/-- An argument of a node (R26): base and one stride per work-identifier field. -/
structure NodeArg where
  base : Word
  strides : List Word
  deriving DecidableEq, Repr

/-- The attributes of a node (R23). `seg` numbers a code segment of the image and `entry` is the byte
offset of the entry point in it. -/
structure NodeDesc where
  index : Nat
  seg : Nat
  entry : BitVec 16
  args : List NodeArg
  succs : List SuccRule
  deps : Nat
  budget : Nat
  prio : Nat
  policy : Policy
  preempt : Bool
  nowOnly : Bool
  place : Place
  deriving DecidableEq, Repr

/-- A graph template (R22): identifier, work-identifier field widths, nodes. -/
structure Template where
  id : Nat
  widths : List Nat
  nodes : List NodeDesc
  deriving DecidableEq, Repr

/-- The kinds of a segment (R18). -/
inductive SegKind where
  | code | tcm | spad | loft | global
  deriving DecidableEq, Repr

/-- A segment of a loadable image (R20). -/
structure Segment where
  kind : SegKind
  addr : Nat
  bytes : List Byte
  profiling : Bool
  deriving DecidableEq, Repr

/-- A queue binding of an image (R18, `.queue`). -/
structure QueueBinding where
  core : Nat
  queue : Nat
  ring : Word
  cap : Nat
  mode : BitVec 2
  node : Nat
  gen : BitVec 16
  deriving DecidableEq, Repr

/-- A loadable image (R20). -/
structure Image where
  segs : List Segment
  templates : List Template
  queues : List QueueBinding
  deriving DecidableEq, Repr

/-- What R270 and R272 leave to the loader and the dispenser for one template: its owner's shingle, the log of its
TCB table's size, its spread. -/
structure TemplateChoice where
  owner : Nat
  slotBits : Nat
  spread : List Nat
  deriving DecidableEq, Repr

/-- The choices R342, R270 and R272 leave to the loader and the dispenser: those of each template in the image's
order, the DRAM frames of the pages and of the page tables to make, and the clusters that the placement tables name for the
homes, 80 a shingle in the order of the shingles. -/
structure LoadChoice where
  templates : List TemplateChoice
  frames : List Nat
  tables : List Nat
  placement : List Nat
  deriving DecidableEq, Repr

/-- Who performs an access to a device register (R320, R302): a core's supervisor, a host port, or
the firmware of a shingle's ridge core. -/
inductive RegSrc where
  | core (k : Nat)
  | host (port : Nat)
  | firmware (shingle : Nat)
  deriving DecidableEq, Repr

/-- A supervisor as the ridge core reloads it (R264): its IM and TCM segments by address, and the CSRs that the firmware
gives it. -/
structure SupImage where
  im : List (Nat × List Byte)
  tcm : List (Nat × List Byte)
  csrs : List (Nat × Word)
  deriving DecidableEq, Repr

/-- The core that a ridge core recovers, and the supervisor that it reloads there (R264). -/
structure Recovery where
  core : Nat
  image : SupImage
  deriving DecidableEq, Repr

/-- The window of a droop or of an error: the cores that spent a cycle of it in supervisor mode, and the supervisor that the
ridge core reloads on one of these (R282). -/
structure ErrorWindow where
  sup : List Nat
  image : SupImage
  deriving DecidableEq, Repr

/-- What comes to wait at an arbiter (R230, R286): a message or a timed store in flight by its position, a core's remote
access by its tag, the code request of a core's frame, a page move by its position. -/
inductive FlightRef where
  | message (n : Nat)
  | store (n : Nat)
  | access (core tag : Nat)
  | fetch (core frame : Nat)
  | move (n : Nat)
  deriving DecidableEq, Repr

/-- An arbiter, and what has come to wait there since its last grant, oldest first (R286). -/
structure Arbitration where
  arbiter : Nat
  waiting : List FlightRef
  deriving DecidableEq, Repr

/-- Which pending access a table walk serves (R291): a core's remote access by tag, or a timed store
in flight by position. -/
inductive WalkRef where
  | load (core tag : Nat)
  | store (n : Nat)
  deriving DecidableEq, Repr

/-- Which pending untimed access a bank performs (R80): a core's own store, a core's own load whose register
nothing has used yet, one word of a copy, or the oldest append of a write port. -/
inductive BankRef where
  | store (n : Nat)
  | load (n word : Nat)
  | copyRead (tag word : Nat)
  | copyWord (tag word : Nat)
  | append (port : Nat)
  deriving DecidableEq, Repr

namespace Machine

/-- What issues a timed store (R72): a task, a host port, a ridge core, or a supervisor with no task context. -/
inductive StoreSrc where
  | task | host | firmware | supervisor
  deriving DecidableEq, Repr

/-- A record of a receive queue (R221, R222). `src` identifies the sending
route: 4 × core + route on this part, and (device + 1) × 2^20 more than that on another part. -/
structure Record where
  payload : List Byte
  len : Nat
  serial : BitVec 32
  kind : BitVec 3
  as : Bool
  src : Nat
  deriving DecidableEq, Repr

/-- A late or tie report to a core (R67, R74). -/
structure Report where
  core : Nat
  /-- The start of the task that issued the store; 0 for a store of a supervisor with no task. -/
  run : Nat
  addr : Word
  dropped : Bool
  clause : BitVec 16
  deriving DecidableEq, Repr

/-- What a message carries (R230). -/
inductive Body where
  | publish (part node : Nat) (wid : Word) (gen : BitVec 16) (nb : Nat) (inline : Option (List Byte)) (reply : Word)
  | signal (part node : Nat) (wid : Word) (gen : BitVec 16) (pub : Nat) (poison abort : Bool)
  | taskRecord (part : Option Nat) (bytes : List Byte) (window : Option Nat)
  | mailbox (core word : Nat) (value : Word)
  | record (ep : Nat) (r : Record)
  | seam (ep : Nat) (src : Nat)
  /-- The seam-seen report of R249, to the NI of a route. -/
  | seamSeen (src : Nat) (r : Record)
  /-- An elide's link: the predecessor's route, and the 41-bit endpoint of the core that asks. -/
  | link (src : Nat) (oldEp newEp : Nat) (asker : Nat) (serial reply : Nat)
  | linkAck (asker serial reply : Nat)
  /-- A time beacon (R330): its instant, its period, and the reference phase of the part that sends it, in picoseconds. -/
  | beacon (inst period : Nat) (phase : Int)
  /-- What a home tells the NI of a store's core on another part (R63, R67, R74). -/
  | ack (core run : Nat) (drop : Bool)
  | late (r : Report)
  | tie (r : Report)
  /-- A purge to the homes of another part (R76). -/
  | purge (token : Word)
  /-- The state block that an elide copies to its successor on another part: the core, the TCM offset, the bytes
  (R235). -/
  | block (core off : Nat) (bytes : List Byte)
  /-- A load, timed atomic or timed store of this part on its way to the home of a key on another part (R291, R327). -/
  | access (key : Nat)
  /-- An answer to a request of another part: the core and tag of the request, the bytes, and the cause of a refusal or
  fault, 0 for none (R291, R328). -/
  | answer (core tag : Nat) (bytes : List Byte) (cause : BitVec 8)
  deriving DecidableEq, Repr

/-- The classes of R230 that messages of the model use; timed stores go on the tier of C2. -/
inductive Cls where
  | c0 | c1 | c2
  deriving DecidableEq, Repr

/-- How a message reaches a core whose remap was swapped (R309): directly, by way of the former NI, or
forwarded from it; or from the log of a core that was stopped for an image (R306, R307). -/
inductive Via where
  | direct | former | forwarded | logged
  deriving DecidableEq, Repr

/-- A message in flight: class, source and destination (an order holds for each pair), destination
device, body. An endpoint of a core is 8 × its number + the queue; the dispatcher of a shingle is
2^32 + its number. -/
structure Message where
  cls : Cls
  src : Nat
  dst : Nat
  device : Nat
  via : Via
  body : Body
  deriving DecidableEq, Repr

/-- What a request of a remote part asks of a home (R328): a load as of an instant, or as visible now for a
read-only line; a timed store with its late policy; a timed atomic; or a purge of a task's entries (R76). -/
inductive FabricOp where
  | load (width : Nat) (inst : Option Nat)
  | store (bytes : List Byte) (drop : Bool)
  | atomic (fn : BitVec 4) (wide : Bool) (s cmp : Word)
  | purge
  deriving DecidableEq, Repr

/-- A request of a remote part arriving over the fabric (R328): the device, core and tag it comes from, what
issued it and its token, its address, the instant a store or atomic names, and the fields of its key (R72). -/
structure FabricReq where
  src : Nat
  core : Nat
  tag : Nat
  kind : StoreSrc
  token : Word
  va : Nat
  inst : Nat
  node : Nat
  wid : Word
  seq : Nat
  op : FabricOp
  deriving DecidableEq, Repr

end Machine

/-- What a power-on finds besides its checks: the bytes of the signed partition configuration (R297), the shingle whose
ridge core is elected module ridge controller (R4), whether slot 1 is authenticated where slot 0 is not, the version of
the image that runs, and the instant of the master that the part locks to (R336). -/
structure BootConfig where
  partitions : List Byte
  controller : Nat
  slot1 : Bool
  version : BitVec 32
  instant : Nat
  deriving DecidableEq, Repr

/-- What a receiver tells the sender of flits: those up to a sequence number have arrived, or the one of that number failed
its CRC (R326). -/
inductive LinkReply where
  | ack (seq : BitVec 12)
  | nack (seq : BitVec 12)
  deriving DecidableEq, Repr

/-- A flit as it arrives: whether its CRC holds, the message of another part that it completes, what it tells of this
part's own flits, and the credit it returns, a class for each unit (R326). -/
structure FlitBody where
  ok : Bool
  carries : Option Machine.Message
  reply : Option LinkReply
  credit : List Machine.Cls
  deriving DecidableEq, Repr

/-- The instruction set and the part's other steps. -/
inductive Instr where
  /-- R118: Writes the sum of two scalar registers, wrapping modulo 2^64 or 2^32 under .32. -/
  | add (d a b : RegNo) (w : BitVec 1)
  /-- R118: Writes the difference of two scalar registers. -/
  | sub (d a b : RegNo) (w : BitVec 1)
  /-- R118: Writes the bitwise AND of two scalar registers. -/
  | and (d a b : RegNo) (w : BitVec 1)
  /-- R118: Writes the bitwise OR of two scalar registers. -/
  | or (d a b : RegNo) (w : BitVec 1)
  /-- R118: Writes the bitwise XOR of two scalar registers. -/
  | xor (d a b : RegNo) (w : BitVec 1)
  /-- R118: Writes x AND NOT y. -/
  | andn (d a b : RegNo) (w : BitVec 1)
  /-- R118: Shifts left by the low bits of the second source. -/
  | shl (d a b : RegNo) (w : BitVec 1)
  /-- R118: Shifts right logically by the low bits of the second source. -/
  | shr (d a b : RegNo) (w : BitVec 1)
  /-- R118: Shifts right arithmetically by the low bits of the second source. -/
  | sra (d a b : RegNo) (w : BitVec 1)
  /-- R118: Rotates left within the operation width. -/
  | rol (d a b : RegNo) (w : BitVec 1)
  /-- R118: Writes 1 if x is below y as signed, else 0. -/
  | slt (d a b : RegNo) (w : BitVec 1)
  /-- R118: Writes 1 if x is below y as unsigned, else 0. -/
  | sltn (d a b : RegNo) (w : BitVec 1)
  /-- R118: Writes the signed minimum of two registers. -/
  | min (d a b : RegNo) (w : BitVec 1)
  /-- R118: Writes the signed maximum of two registers. -/
  | max (d a b : RegNo) (w : BitVec 1)
  /-- R118: Writes the unsigned minimum of two registers. -/
  | minn (d a b : RegNo) (w : BitVec 1)
  /-- R118: Writes the unsigned maximum of two registers. -/
  | maxn (d a b : RegNo) (w : BitVec 1)
  /-- R118: Selects g[a] or g[b] by bit 0 of a predicate. -/
  | sel (d a b : RegNo) (p : BitVec 3)
  /-- R119: Adds a sign-extended 15-bit immediate to a register. -/
  | addi (d a : RegNo) (i : BitVec 15)
  /-- R119: ANDs a register with a sign-extended immediate. -/
  | andi (d a : RegNo) (i : BitVec 15)
  /-- R119: ORs a register with a sign-extended immediate. -/
  | ori (d a : RegNo) (i : BitVec 15)
  /-- R119: XORs a register with a sign-extended immediate. -/
  | xori (d a : RegNo) (i : BitVec 15)
  /-- R119: Shifts a register left by an immediate amount. -/
  | shli (d a : RegNo) (n : BitVec 6)
  /-- R119: Shifts a register right logically by an immediate amount. -/
  | shri (d a : RegNo) (n : BitVec 6)
  /-- R119: Shifts a register right arithmetically by an immediate amount. -/
  | srai (d a : RegNo) (n : BitVec 6)
  /-- R119: Rotates a register left by an immediate amount. -/
  | roli (d a : RegNo) (n : BitVec 6)
  /-- R120: Sets a register to a sign-extended 20-bit immediate. -/
  | movi (d : RegNo) (i : BitVec 20)
  /-- R120: Shifts a register left 20 bits and ORs in a 20-bit immediate. -/
  | movs (d : RegNo) (i : BitVec 20)
  /-- R121: Writes the low bits of the product. -/
  | mul (d a b : RegNo) (w : BitVec 1)
  /-- R121: Writes the high bits of the signed product. -/
  | mulh (d a b : RegNo) (w : BitVec 1)
  /-- R121: Writes the high bits of the unsigned product. -/
  | mulhn (d a b : RegNo) (w : BitVec 1)
  /-- R121: Writes the signed quotient, with defined results for zero and overflow. -/
  | div (d a b : RegNo) (w : BitVec 1)
  /-- R121: Writes the unsigned quotient. -/
  | divn (d a b : RegNo) (w : BitVec 1)
  /-- R121: Writes the signed remainder. -/
  | rem (d a b : RegNo) (w : BitVec 1)
  /-- R121: Writes the unsigned remainder. -/
  | remn (d a b : RegNo) (w : BitVec 1)
  /-- R122: Counts leading zero bits. -/
  | clz (d a : RegNo) (w : BitVec 1)
  /-- R122: Counts trailing zero bits. -/
  | ctz (d a : RegNo) (w : BitVec 1)
  /-- R122: Counts one bits. -/
  | pop (d a : RegNo) (w : BitVec 1)
  /-- R122: Reverses the bit order. -/
  | brev (d a : RegNo) (w : BitVec 1)
  /-- R122: Sign-extends a field of given length. -/
  | sext (d a b : RegNo) (w : BitVec 1)
  /-- R122: Zero-extends a field of given length. -/
  | zext (d a b : RegNo) (w : BitVec 1)
  /-- R122: Extracts a bit field at a position and length. -/
  | bext (d a b : RegNo) (w : BitVec 1)
  /-- R122: Inserts a bit field into the destination. -/
  | bins (d a b : RegNo) (w : BitVec 1)
  /-- R176: Adds integer lanes modulo the lane width. -/
  | vadd (d a b : RegNo) (p : BitVec 3) (l : BitVec 2)
  /-- R176: Subtracts integer lanes. -/
  | vsub (d a b : RegNo) (p : BitVec 3) (l : BitVec 2)
  /-- R176: Low bits of lane products. -/
  | vmul (d a b : RegNo) (p : BitVec 3) (l : BitVec 2)
  /-- R176: High bits of signed lane products. -/
  | vmulh (d a b : RegNo) (p : BitVec 3) (l : BitVec 2)
  /-- R176: High bits of unsigned lane products. -/
  | vmulhn (d a b : RegNo) (p : BitVec 3) (l : BitVec 2)
  /-- R176: Signed lane minimum. -/
  | vmin (d a b : RegNo) (p : BitVec 3) (l : BitVec 2)
  /-- R176: Signed lane maximum. -/
  | vmax (d a b : RegNo) (p : BitVec 3) (l : BitVec 2)
  /-- R176: Unsigned lane minimum. -/
  | vminn (d a b : RegNo) (p : BitVec 3) (l : BitVec 2)
  /-- R176: Unsigned lane maximum. -/
  | vmaxn (d a b : RegNo) (p : BitVec 3) (l : BitVec 2)
  /-- R176: Absolute value of signed lanes. -/
  | vabs (d a : RegNo) (p : BitVec 3) (l : BitVec 2)
  /-- R176: Negates signed lanes. -/
  | vneg (d a : RegNo) (p : BitVec 3) (l : BitVec 2)
  /-- R176: Lane-wise AND. -/
  | vand (d a b : RegNo) (p : BitVec 3) (l : BitVec 2)
  /-- R176: Lane-wise OR. -/
  | vor (d a b : RegNo) (p : BitVec 3) (l : BitVec 2)
  /-- R176: Lane-wise XOR. -/
  | vxor (d a b : RegNo) (p : BitVec 3) (l : BitVec 2)
  /-- R176: Lane-wise AND NOT. -/
  | vandn (d a b : RegNo) (p : BitVec 3) (l : BitVec 2)
  /-- R176: Shifts lanes left. -/
  | vshl (d a b : RegNo) (p : BitVec 3) (l : BitVec 2)
  /-- R176: Shifts lanes right logically. -/
  | vshr (d a b : RegNo) (p : BitVec 3) (l : BitVec 2)
  /-- R176: Shifts lanes right arithmetically. -/
  | vsra (d a b : RegNo) (p : BitVec 3) (l : BitVec 2)
  /-- R176: Signed saturating lane add. -/
  | vadds (d a b : RegNo) (p : BitVec 3) (l : BitVec 2)
  /-- R176: Unsigned saturating lane add. -/
  | vaddsn (d a b : RegNo) (p : BitVec 3) (l : BitVec 2)
  /-- R176: Signed saturating lane subtract. -/
  | vsubs (d a b : RegNo) (p : BitVec 3) (l : BitVec 2)
  /-- R176: Unsigned saturating lane subtract. -/
  | vsubsn (d a b : RegNo) (p : BitVec 3) (l : BitVec 2)
  /-- R176: Signed rounded lane average. -/
  | vavg (d a b : RegNo) (p : BitVec 3) (l : BitVec 2)
  /-- R176: Unsigned rounded lane average. -/
  | vavgn (d a b : RegNo) (p : BitVec 3) (l : BitVec 2)
  /-- R177: Sets predicate lanes where lanes are equal. -/
  | vcmpeq (d : BitVec 3) (a b : RegNo) (p : BitVec 3) (l : BitVec 2)
  /-- R177: Sets predicate lanes where lanes differ. -/
  | vcmpne (d : BitVec 3) (a b : RegNo) (p : BitVec 3) (l : BitVec 2)
  /-- R177: Signed less-than compare into a predicate. -/
  | vcmplt (d : BitVec 3) (a b : RegNo) (p : BitVec 3) (l : BitVec 2)
  /-- R177: Signed less-or-equal compare into a predicate. -/
  | vcmple (d : BitVec 3) (a b : RegNo) (p : BitVec 3) (l : BitVec 2)
  /-- R177: Unsigned less-than compare into a predicate. -/
  | vcmpltn (d : BitVec 3) (a b : RegNo) (p : BitVec 3) (l : BitVec 2)
  /-- R177: Unsigned less-or-equal compare into a predicate. -/
  | vcmplen (d : BitVec 3) (a b : RegNo) (p : BitVec 3) (l : BitVec 2)
  /-- R177: Floating-point equal compare into a predicate. -/
  | vfcmpeq (d : BitVec 3) (a b : RegNo) (p : BitVec 3) (l : BitVec 2)
  /-- R177: Floating-point less-than compare into a predicate. -/
  | vfcmplt (d : BitVec 3) (a b : RegNo) (p : BitVec 3) (l : BitVec 2)
  /-- R177: Floating-point less-or-equal compare into a predicate. -/
  | vfcmple (d : BitVec 3) (a b : RegNo) (p : BitVec 3) (l : BitVec 2)
  /-- R177: Sets predicate lanes where either operand is NaN. -/
  | vfcmpun (d : BitVec 3) (a b : RegNo) (p : BitVec 3) (l : BitVec 2)
  /-- R178: Floating-point lane add, RNE. -/
  | vfadd (d a b : RegNo) (p : BitVec 3) (l : BitVec 2)
  /-- R178: Floating-point lane subtract. -/
  | vfsub (d a b : RegNo) (p : BitVec 3) (l : BitVec 2)
  /-- R178: Floating-point lane multiply. -/
  | vfmul (d a b : RegNo) (p : BitVec 3) (l : BitVec 2)
  /-- R178: Floating-point lane minimum. -/
  | vfmin (d a b : RegNo) (p : BitVec 3) (l : BitVec 2)
  /-- R178: Floating-point lane maximum. -/
  | vfmax (d a b : RegNo) (p : BitVec 3) (l : BitVec 2)
  /-- R178: Clears lane signs. -/
  | vfabs (d a : RegNo) (p : BitVec 3) (l : BitVec 2)
  /-- R178: Inverts lane signs. -/
  | vfneg (d a : RegNo) (p : BitVec 3) (l : BitVec 2)
  /-- R178: Correctly rounded lane reciprocal. -/
  | vfrcp (d a : RegNo) (p : BitVec 3) (l : BitVec 2)
  /-- R178: Correctly rounded lane reciprocal square root. -/
  | vfrsq (d a : RegNo) (p : BitVec 3) (l : BitVec 2)
  /-- R180: Fused a*b+c per lane. -/
  | vfma (d a b c : RegNo) (l : BitVec 2)
  /-- R180: Fused a*b-c per lane. -/
  | vfms (d a b c : RegNo) (l : BitVec 2)
  /-- R180: Fused -(a*b)+c per lane. -/
  | vfnma (d a b c : RegNo) (l : BitVec 2)
  /-- R180: Fused -(a*b)-c per lane. -/
  | vfnms (d a b c : RegNo) (l : BitVec 2)
  /-- R180: Signed saturating multiply-accumulate per lane. -/
  | vmac (d a b c : RegNo) (l : BitVec 2)
  /-- R180: Unsigned saturating multiply-accumulate per lane. -/
  | vmacn (d a b c : RegNo) (l : BitVec 2)
  /-- R181: Permutes lanes by indices in a vector. -/
  | vshuf (d a b : RegNo) (p : BitVec 3) (l : BitVec 2)
  /-- R181: Copies the low bits of a scalar into every lane. -/
  | vsplat (d a : RegNo) (p : BitVec 3) (l : BitVec 2)
  /-- R181: Extracts one lane into a scalar register. -/
  | vext (d a b : RegNo) (l : BitVec 2)
  /-- R181: Inserts a scalar into one lane. -/
  | vins (d a b : RegNo) (p : BitVec 3) (l : BitVec 2)
  /-- R181: Interleaves low halves of two vectors. -/
  | vzip (d a b : RegNo) (p : BitVec 3) (l : BitVec 2)
  /-- R181: De-interleaves even lanes of two vectors. -/
  | vunzip (d a b : RegNo) (p : BitVec 3) (l : BitVec 2)
  /-- R181: Rotates lanes by a scalar count. -/
  | vrot (d a b : RegNo) (p : BitVec 3) (l : BitVec 2)
  /-- R181: Selects bytes from two vectors by a predicate. -/
  | vsel (d a b : RegNo) (p : BitVec 3) (l : BitVec 2)
  /-- R181: Copies a vector under a predicate. -/
  | vmov (d a : RegNo) (p : BitVec 3) (l : BitVec 2)
  /-- R182: Sums active integer lanes into bits 63:0. -/
  | vredadd (d a : RegNo) (p : BitVec 3) (l : BitVec 2)
  /-- R182: Pairwise-tree f32 sum of active lanes. -/
  | vfredadd (d a : RegNo) (p : BitVec 3) (l : BitVec 2)
  /-- R182: Signed minimum over active lanes. -/
  | vredmin (d a : RegNo) (p : BitVec 3) (l : BitVec 2)
  /-- R182: Signed maximum over active lanes. -/
  | vredmax (d a : RegNo) (p : BitVec 3) (l : BitVec 2)
  /-- R182: Unsigned minimum over active lanes. -/
  | vredminn (d a : RegNo) (p : BitVec 3) (l : BitVec 2)
  /-- R182: Unsigned maximum over active lanes. -/
  | vredmaxn (d a : RegNo) (p : BitVec 3) (l : BitVec 2)
  /-- R183: Accumulates signed byte dot products into 32-bit lanes. -/
  | vdot8 (d a b : RegNo) (p : BitVec 3) (l : BitVec 2)
  /-- R183: Accumulates unsigned byte dot products into 32-bit lanes. -/
  | vdot8n (d a b : RegNo) (p : BitVec 3) (l : BitVec 2)
  /-- R184: Counts one bits per lane. -/
  | vpop (d a : RegNo) (p : BitVec 3) (l : BitVec 2)
  /-- R184: Counts leading zeros per lane. -/
  | vclz (d a : RegNo) (p : BitVec 3) (l : BitVec 2)
  /-- R184: Counts trailing zeros per lane. -/
  | vctz (d a : RegNo) (p : BitVec 3) (l : BitVec 2)
  /-- R185: Converts lanes between number types under a rounding mode. -/
  | vcvt (d a : RegNo) (t u : BitVec 4) (r p : BitVec 3)
  /-- R186: Decodes four codes through a decode table into f32 lanes. -/
  | vdec (d a : RegNo) (f : BitVec 1) (k : BitVec 3) (t : BitVec 2)
  /-- R187: Encodes four f32 lanes into table codes. -/
  | venc (d a : RegNo) (f : BitVec 1) (k : BitVec 3) (t : BitVec 2) (r : BitVec 3)
  /-- R189: Evaluates a piecewise-linear segment table on f32 lanes. -/
  | segev (d a : RegNo) (t : BitVec 2)
  /-- R124: Branches if two registers are equal. -/
  | beq (a b : RegNo) (o : BitVec 12)
  /-- R124: Branches if two registers differ. -/
  | bne (a b : RegNo) (o : BitVec 12)
  /-- R124: Branches if signed less than. -/
  | blt (a b : RegNo) (o : BitVec 12)
  /-- R124: Branches if signed greater or equal. -/
  | bge (a b : RegNo) (o : BitVec 12)
  /-- R124: Branches if unsigned less than. -/
  | bltn (a b : RegNo) (o : BitVec 12)
  /-- R124: Branches if unsigned greater or equal. -/
  | bgen (a b : RegNo) (o : BitVec 12)
  /-- R124: Branches if any bit of a predicate is set. -/
  | bpany (a : RegNo) (o : BitVec 12)
  /-- R124: Branches if no bit of a predicate is set. -/
  | bpnone (a : RegNo) (o : BitVec 12)
  /-- R125: Links the next clause address and jumps by a clause offset. -/
  | jal (d : RegNo) (o : BitVec 20)
  /-- R125: Jumps by a clause offset without a link. -/
  | j (o : BitVec 20)
  /-- R126: Jumps to the clause address in a register. -/
  | jr (a : RegNo)
  /-- R126: Links the next clause and jumps to a register target. -/
  | jalr (d a : RegNo)
  /-- R126: Jumps to the address in g1. -/
  | ret
  /-- R128: Jumps to a register target after checking its frame is resident. -/
  | fjmp (a : RegNo)
  /-- R129: Starts a zero-overhead loop level with a trip count. -/
  | loop (l : BitVec 2) (c : RegNo) (n : BitVec 6)
  /-- R129: Starts a loop level with a step record advancing registers per pass. -/
  | loopx (l : BitVec 2) (c : RegNo) (n : BitVec 6) (s : RegNo)
  /-- R135: Requests a gang of the named cluster cores. -/
  | fuse (a : RegNo)
  /-- R137: Dissolves the issuing core's gang. -/
  | split
  /-- R138: Ends the current group, advancing REL and PUB and taking boundary actions. -/
  | yield (a : RegNo)
  /-- R140: Parks the context with a live mask after outstanding accesses resolve. -/
  | park (a : RegNo)
  /-- R142: Loads a byte, sign- or zero-extended. -/
  | ldb (t b : RegNo) (i : BitVec 2) (e : BitVec 1) (o : BitVec 10)
  /-- R142: Loads a half-word, sign- or zero-extended. -/
  | ldh (t b : RegNo) (i : BitVec 2) (e : BitVec 1) (o : BitVec 10)
  /-- R142: Loads a word, sign- or zero-extended. -/
  | ldw (t b : RegNo) (i : BitVec 2) (e : BitVec 1) (o : BitVec 10)
  /-- R142: Loads a double-word. -/
  | ldd (t b : RegNo) (i : BitVec 2) (o : BitVec 10)
  /-- R144: Stores a byte, timed or untimed, with a late policy. -/
  | stb (t b : RegNo) (i : BitVec 2) (e : BitVec 1) (o : BitVec 10)
  /-- R144: Stores a half-word. -/
  | sth (t b : RegNo) (i : BitVec 2) (e : BitVec 1) (o : BitVec 10)
  /-- R144: Stores a word. -/
  | stw (t b : RegNo) (i : BitVec 2) (e : BitVec 1) (o : BitVec 10)
  /-- R144: Stores a double-word. -/
  | std (t b : RegNo) (i : BitVec 2) (e : BitVec 1) (o : BitVec 10)
  /-- R146: Loads 16 bytes into a vector under a predicate. -/
  | vld (t b : RegNo) (i : BitVec 2) (p : BitVec 3) (o : BitVec 10)
  /-- R146: Stores 16 bytes of a vector under a predicate. -/
  | vst (t b : RegNo) (i : BitVec 2) (p : BitVec 3) (o : BitVec 10)
  /-- R150: Atomic add returning the old value. -/
  | aadd (t b s : RegNo) (i : BitVec 2) (w : BitVec 1)
  /-- R150: Atomic AND. -/
  | aand (t b s : RegNo) (i : BitVec 2) (w : BitVec 1)
  /-- R150: Atomic OR. -/
  | aor (t b s : RegNo) (i : BitVec 2) (w : BitVec 1)
  /-- R150: Atomic XOR. -/
  | axor (t b s : RegNo) (i : BitVec 2) (w : BitVec 1)
  /-- R150: Atomic signed minimum. -/
  | amin (t b s : RegNo) (i : BitVec 2) (w : BitVec 1)
  /-- R150: Atomic signed maximum. -/
  | amax (t b s : RegNo) (i : BitVec 2) (w : BitVec 1)
  /-- R150: Atomic unsigned minimum. -/
  | aminn (t b s : RegNo) (i : BitVec 2) (w : BitVec 1)
  /-- R150: Atomic unsigned maximum. -/
  | amaxn (t b s : RegNo) (i : BitVec 2) (w : BitVec 1)
  /-- R150: Atomic swap. -/
  | aswap (t b s : RegNo) (i : BitVec 2) (w : BitVec 1)
  /-- R150: Atomic compare-and-swap. -/
  | acas (t b s : RegNo) (i : BitVec 2) (w : BitVec 1)
  /-- R150: Atomic f32 add. -/
  | afadd (t b s : RegNo) (i : BitVec 2)
  /-- R153: Orders earlier untimed accesses before later ones within a rectangle. -/
  | fence (a : RegNo)
  /-- R155: Sets ix from a base instant plus a register and an immediate. -/
  | seti (a : RegNo) (b : BitVec 2) (n : BitVec 10)
  /-- R156: Reads a status word. -/
  | rds (d : RegNo) (n : BitVec 12)
  /-- R156: Writes a status word. -/
  | wrs (a : RegNo) (n : BitVec 12)
  /-- R158: Samples a clock or physical-identity value into a quarantine register. -/
  | qrd (q : BitVec 3) (n : BitVec 12)
  /-- R159: Stores a quarantine register into a profiling range. -/
  | qst (q : BitVec 3) (a : RegNo) (o : BitVec 10)
  /-- R161: Issues a copy or reduce-on-copy to the copy engine and returns its tag. -/
  | xcopy (d a b c : RegNo)
  /-- R162: Reports whether a copy is incomplete. -/
  | xstat (d a : RegNo)
  /-- R162: Waits until a copy, or every copy, completes. -/
  | xwait (d : RegNo)
  /-- R165: Binds a stream port to a strided stream. -/
  | sbind (d a b : RegNo)
  /-- R166: Waits for appends and unbinds a stream port. -/
  | sunbind (d : RegNo)
  /-- R166: Reports a stream port's binding and remaining units. -/
  | sstat (d a : RegNo)
  /-- R168: Requests a 4 KiB code segment into an IM frame. -/
  | cfetch (a : RegNo) (f : BitVec 4)
  /-- R168: Reports the residency state of an IM frame. -/
  | cstat (d : RegNo) (f : BitVec 4)
  /-- R169: Starts loading a decode table and its encode index. -/
  | dtld (a : RegNo) (v : BitVec 1) (n : BitVec 8) (t : BitVec 2)
  /-- R170: Starts loading a segment table. -/
  | segld (a : RegNo) (t : BitVec 2)
  /-- R194: Takes an operand slot from FREE to CLAIMED. -/
  | mclaim (p : BitVec 4)
  /-- R194: Returns an operand slot to FREE. -/
  | mrel (p : BitVec 4)
  /-- R195: Starts loading a claimed slot from memory rows. -/
  | mload (p : BitVec 4) (g k : RegNo)
  /-- R204: Stores an accumulator as a converted 16x16 tile. -/
  | mstore (p : BitVec 4) (g k : RegNo)
  /-- R205: Zeroes an accumulator and sets kind Z. -/
  | mzero (p : BitVec 4)
  /-- R198: Multiplies two slots into an accumulator, overwriting or accumulating. -/
  | mma (p q s : BitVec 4) (c : BitVec 1)
  /-- R200: Gathers a sparse B into a slot and multiplies with K-group skipping. -/
  | mmas (p q s : BitVec 4) (g : RegNo) (x c : BitVec 1)
  /-- R202: Binds block scales to a k-format slot. -/
  | mscale (q : BitVec 4) (g : RegNo) (l : BitVec 2)
  /-- R203: Converts an accumulator into a claimed slot. -/
  | mcvt (p q : BitVec 4) (r : BitVec 3) (k : RegNo)
  /-- R205: Transposes an accumulator in place. -/
  | mtr (p : BitVec 4)
  /-- R214: Publishes a task from a 64-byte TCM task record. -/
  | tspawn (d : RegNo)
  /-- R215: Publishes a task by node, work identifier and not-before instant. -/
  | tpub (d a b : RegNo)
  /-- R216: Signals a task identity carrying the current PUB. -/
  | tsig (d a : RegNo)
  /-- R217: Retires the task after fences and waits, signalling its successors. -/
  | tret
  /-- R218: Returns an argument address or task item. -/
  | targ (d a : RegNo)
  /-- R225: Stages a data record, mailbox write or task record for sending. -/
  | send (d a : RegNo)
  /-- R226: Takes the head record of a receive queue into TCM. -/
  | recv (d a b : RegNo)
  /-- R227: Pops a data record and adds its words into four vectors. -/
  | recvadd (d a : RegNo)
  /-- R223: Binds a receive queue, output route or stage id. -/
  | qbind (d a b : RegNo)
  /-- R228: Reports the state of a queue, route or stage id. -/
  | qstat (d a : RegNo)
  /-- R232: Sends an insert splice record on a route. -/
  | spliceIns (d a : RegNo)
  /-- R232: Sends an elide splice record on a route. -/
  | spliceEli (d a : RegNo)
  /-- R232: Sends a rebind splice record on a route. -/
  | spliceReb (d a : RegNo)
  /-- R233: Begins preparing the splice at a queue head. -/
  | splPrep (d a b : RegNo)
  /-- R234: Waits for preparation and commits or fails the splice. -/
  | splCmt (d : RegNo)
  /-- R234: Fails the prepared splice with reason 6. -/
  | splAbt
  /-- R174: Returns from a user-level interrupt handler. -/
  | uiret
  /-- R174: Enables user-level interrupt causes. -/
  | uien (m : BitVec 6)
  /-- R174: Disables and clears pending user-level interrupt causes. -/
  | uidis (m : BitVec 6)
  /-- R174: Takes trap 0x20 with a value as it retires. -/
  | trap (n : BitVec 12)
  /-- R260: Reads a CSR. -/
  | csrr (d : RegNo) (n : BitVec 12)
  /-- R260: Writes a CSR. -/
  | csrw (a : RegNo) (n : BitVec 12)
  /-- R260: Sets CSR bits. -/
  | csrs (a : RegNo) (n : BitVec 12)
  /-- R260: Clears CSR bits. -/
  | csrc (a : RegNo) (n : BitVec 12)
  /-- R262: Returns from a trap or takes next work after an ended context. -/
  | xret
  /-- R260: Waits for a system event or a mailbox arrival. -/
  | wfi
  /-- R115: a clause or word that is no instruction reaches issue and traps. -/
  | illegalWordIssue (r : Reject)
  /-- R264: the ridge core images the stopped core, ends its context and reloads the supervisor. -/
  | doubleTrapRecovery (r : Recovery)
  /-- R263: a pending deferred task fault is taken at a clause boundary of the acting core. -/
  | deferredFaultTake
  /-- R263: a pending system event is taken at a clause boundary of the acting core. -/
  | systemEventTake
  /-- R173: an enabled pending user-level cause enters the handler of the acting core. -/
  | userInterruptEntry
  /-- R7, R73: the instant counter advances and the homes apply what the new instant makes visible. -/
  | instantBoundary
  /-- R65: a home accepts the `n`-th timed store or atomic in flight. -/
  | homeStoreAccept (n : Nat)
  /-- R68: a home serves a core's timed load by tag. -/
  | homeLoadRequest (core tag : Nat)
  /-- R56: a GLOBAL-RO miss fills its line and is served. -/
  | roCacheFill (core tag : Nat)
  /-- R63: the `n`-th acknowledgement reaches its issuing NI. -/
  | storeAck (n : Nat)
  /-- R67: the `n`-th late report reaches its core. -/
  | lateReport (n : Nat)
  /-- R74: the `n`-th tie report reaches its core. -/
  | tieReport (n : Nat)
  /-- R147: the reply of a remote access arrives. -/
  | remoteReply (core tag : Nat)
  /-- R76: the `n`-th purge is sent once every store of its task is accepted. -/
  | taskPurgeSend (n : Nat)
  /-- R76: a home applies the `n`-th purge and confirms. -/
  | purgeApply (n home : Nat)
  /-- R278: with the `n`-th purge confirmed everywhere, the owner applies the policy. -/
  | faultPolicyApply (n : Nat)
  /-- R213: the owner applies the `n`-th message in flight, a publication. -/
  | publish (n : Nat)
  /-- R213: the owner applies the `n`-th message in flight, a signal. -/
  | signal (n : Nat)
  /-- R213: the `n`-th held record of a newer generation is applied. -/
  | heldGenerationApply (n : Nat)
  /-- R270: the owner reclaims the `n`-th TCB. -/
  | tcbReclaim (n : Nat)
  /-- R274: the `n`-th record in transit enters a ready queue or the overflow. -/
  | clusterRecordArrival (n : Nat)
  /-- R274: the `n`-th overflow record returns to its cluster. -/
  | overflowReturn (n : Nat)
  /-- R275: an idle core takes the first eligible record. -/
  | takeRecord (core : Nat)
  /-- R276: the aged priority of the `n`-th queued record rises. -/
  | priorityAging (n : Nat)
  /-- R273: the `n`-th queued record has waited DHINT instants at the head. -/
  | nearHintExpiry (n : Nat)
  /-- R36: a waiting context parks automatically. -/
  | autoPark (core : Nat)
  /-- R40: a kernel waiting at `yield` continues. -/
  | yieldResume (core : Nat)
  /-- R43: a gang member blocked for more than 4,096 cycles leaves its gang. -/
  | gangWaitSplit (core : Nat)
  /-- R135: a fuse not formed in 4,096 cycles continues alone. -/
  | fuseTimeout (core : Nat)
  /-- R161: a waiting `xcopy` is accepted. -/
  | copyAccept (core : Nat)
  /-- R162: a copy whose writes are all performed completes. -/
  | copyComplete (core tag : Nat)
  /-- R168: a code fetch into a frame completes or fails; or one clause of it has landed (R49). -/
  | codeFetchComplete (core frame : Nat) (clause : Option Nat)
  /-- R169: the oldest decode-table load completes. -/
  | dtldComplete (core : Nat)
  /-- R170: the oldest segment-table load completes. -/
  | segldComplete (core : Nat)
  /-- R195: all rows of a loading slot land. -/
  | mloadLand (core slot : Nat)
  /-- R221: the `n`-th message in flight, a record, arrives at its queue. -/
  | recordArrival (n : Nat)
  /-- R157: the `n`-th message in flight, a mailbox write, arrives. -/
  | mailboxWrite (n : Nat)
  /-- R232: the splice watchdog of a queue expires. -/
  | spliceWatchdogExpiry (core queue : Nat)
  /-- R246: a splice preparation ends. -/
  | splicePrepEnd (core : Nat)
  /-- R236: the `n`-th message in flight, a seam, reaches its queue. -/
  | seamArrival (n : Nat)
  /-- R249: the `n`-th message in flight, a seam-seen report, arrives. -/
  | seamSeenReport (n : Nat)
  /-- R235: the `n`-th message in flight, an elide link, arrives. -/
  | spliceLink (n : Nat)
  /-- R248: the `n`-th message in flight, a link acknowledgement, arrives. -/
  | linkAck (n : Nat)
  /-- R326: a flit arrives at a purlin port. -/
  | flitReceive (port : Nat) (seq : BitVec 12) (flit : FlitBody)
  /-- R327: a port fails eight consecutive replays and goes down. -/
  | portDown (port : Nat)
  /-- R327: the firmware rewrites a device's route entry. -/
  | portReroute (device port : Nat)
  /-- R328: a request of a remote part arrives. -/
  | fabricInboundRequest (r : Machine.FabricReq)
  /-- R330: a time beacon arrives from the upstream port. -/
  | timeBeacon (port inst period : Nat) (offset : BitVec 32)
  /-- R330: the master sends its beacon. -/
  | beaconSend
  /-- R330: the part loses lock. -/
  | lockLoss
  /-- R291: an eave walker completes a walk. -/
  | pageWalk (w : WalkRef)
  /-- R293: a map command is started. -/
  | tmcmdMap (src : RegSrc) (shingle : Nat) (v : Word)
  /-- R293: an unmap command is started. -/
  | tmcmdUnmap (src : RegSrc) (shingle : Nat) (v : Word)
  /-- R293: the mapping command of a shingle completes. -/
  | tmCommandComplete (shingle : Nat)
  /-- R295: a page home move is started. -/
  | pmcmdMove (src : RegSrc) (shingle : Nat) (v : Word)
  /-- R296: the old home of the `n`-th move hands over. -/
  | homeHandover (n : Nat)
  /-- R296: the new home of the `n`-th move applies the hand-over. -/
  | handoverApply (n : Nat)
  /-- R296: the `n`-th move completes. -/
  | moveComplete (n : Nat)
  /-- R284: the dispenser starts a move. -/
  | dispenserHomeMove (part va frame inst : Nat)
  /-- R300: a frequency request. -/
  | vdreqWrite (src : RegSrc) (shingle : Nat) (v : Word)
  /-- R301: a domain has drained; its clocks stop. -/
  | vdDrainDone (shingle domain : Nat)
  /-- R301: a domain's clocks restart. -/
  | vdSwitchDone (shingle domain : Nat)
  /-- R282: a cluster's droop detector fires; `cores` retired a clause in the window. -/
  | droopDetect (cluster : Nat) (cores : List Nat) (window : ErrorWindow)
  /-- R282: an array of a core has an uncorrectable error. -/
  | coreArrayError (core : Nat) (array : BitVec 8) (window : ErrorWindow)
  /-- R283: a cluster's temperature and power are evaluated and it is withheld. -/
  | clusterWithhold (cluster : Nat) (tjunc : Int) (power : Nat)
  /-- R283: a cluster's temperature and power are evaluated and it is released. -/
  | clusterUnwithhold (cluster : Nat) (tjunc : Int) (power : Nat)
  /-- R286: a starved tier's oldest message is granted at an arbiter. -/
  | starvationGrant (a : Arbitration)
  /-- R256: the ridge core sets a migration request. -/
  | xmigRidgeWrite (core : Nat) (v : Word)
  /-- R312: a request not honoured by its deadline. -/
  | migrationDeadline (core : Nat)
  /-- R267: the acting core's supervisor ends the task context. -/
  | xtendWrite (v : Word)
  /-- R265: the acting core's `xnis` spill command. -/
  | xnisSpill (v : Word)
  /-- R265: the acting core's `xnis` reinjection command. -/
  | xnisReinject (v : Word)
  /-- R265: the acting core's copy control squashes. -/
  | copySquash
  /-- R265: the acting core's copy control reissues. -/
  | copyReissue
  /-- R304: a stop command. -/
  | sccmdStop (src : RegSrc) (shingle : Nat) (v : Word)
  /-- R304: the stop takes effect. -/
  | coreStop (shingle : Nat)
  /-- R305: the image has been streamed. -/
  | imageStreamDone (shingle : Nat)
  /-- R307: a restore command. -/
  | sccmdRestore (src : RegSrc) (shingle : Nat) (v : Word)
  /-- R307: the restore is complete. -/
  | restoreDone (shingle : Nat)
  /-- R314: a move command. -/
  | mgcmdMove (src : RegSrc) (shingle : Nat) (v : Word)
  /-- R314: the move completes. -/
  | mgcmdDone (shingle : Nat)
  /-- R309: the `n`-th message in flight reaches a swapped-out NI and is forwarded. -/
  | stragglerForward (n : Nat)
  /-- R309: the former NI of the `n`-th swap sends its drain markers. -/
  | drainMarkerSend (n : Nat)
  /-- R309: the drain marker of a class of the `n`-th swap arrives. -/
  | drainMarker (n : Nat) (c2 : Bool)
  /-- R281: a DREL write. -/
  | drelWrite (src : RegSrc) (v : Word)
  /-- R281: a DABORT write. -/
  | dabortWrite (src : RegSrc) (v : Word)
  /-- R281: a DHELD read. -/
  | dheldRead (src : RegSrc)
  /-- R285: a DIGI write starts a digest. -/
  | digestStart (src : RegSrc) (v : Word)
  /-- R285: the digest of a partition completes. -/
  | digestDone (part : Nat)
  /-- R285: an exclusion register is written. -/
  | exclusionWrite (src : RegSrc) (offset : Nat) (v : Word)
  /-- R318: a host write to BAR 0 at a byte offset. -/
  | hostEnqueueWrite (port offset : Nat) (bytes : List Byte)
  /-- R319: a host write to BAR 2 at a byte offset. -/
  | hostMailboxWrite (port offset : Nat) (bytes : List Byte)
  /-- R322: a host copy into the module is started. -/
  | hostCopyToModule (port : Nat)
  /-- R322: a host copy out of the module is started. -/
  | hostCopyToHost (port : Nat)
  /-- R322: a host copy completes or faults. -/
  | hostCopyDone (port : Nat)
  /-- R334: a firmware update advances; the operands are what the checks of its steps find. -/
  | fwUpdate (sigOk verOk fmtOk : Bool) (version : BitVec 32)
  /-- R331: a partition reconfiguration is run from the FWSRC of a shingle. -/
  | fwReconfigure (shingle : Nat)
  /-- R334: the new image writes its heartbeat. -/
  | fwHeartbeat
  /-- R334: no heartbeat within 100 ms. -/
  | fwHeartbeatTimeout
  /-- R329: an IPERIOD write. -/
  | iperiodWrite (v : Word)
  /-- R331: a junction of a shingle reaches 105 degrees. -/
  | thermalTrip (shingle : Nat) (tjunc : Int)
  /-- R331: a TRIPRST write; `hottest` is the highest sensor reading. -/
  | triprstWrite (shingle : Nat) (hottest : Int)
  /-- R336: power-on; `ok` says which steps 1 to 6 succeed, `locked` whether the clock locks, and
  `config` is the partition configuration, with the elected ridge controller. -/
  | powerOn (ok : List Bool) (locked : Bool) (config : BootConfig)
  /-- R335: power is removed. -/
  | powerLoss
  /-- R340: a write of a device register. -/
  | registerWrite (src : RegSrc) (shingle offset : Nat) (bytes : List Byte)
  /-- R80: a pending untimed access is performed. -/
  | bankAccessPerformed (core : Nat) (b : BankRef)
  /-- R59: the next unit of a bound read port arrives. -/
  | streamDataArrival (core port : Nat)
  /-- R193: the oldest matrix instruction in progress finishes. -/
  | matrixInstructionDone (core : Nat)
  /-- R265: an `xnis` command finishes. -/
  | xnisCommandDone (core : Nat)
  /-- R225: the `n`-th staged message of a core leaves its NI. -/
  | stagedMessageSent (core n : Nat)
  /-- R327: a purlin port comes up. -/
  | purlinPortUp (port : Nat) (lanes : BitVec 4)
  /-- R342: the loader places an image. -/
  | imageLoad (part : Nat) (img : Image) (choice : LoadChoice)
  deriving DecidableEq, Repr

end Sys2Proof
end

