-- ==== Sys2Proof/WellFormed.lean ====
section
/-! DEFINITION. Which instruction terms the encoding admits: the field values that R111 to R114
declare legal. A step without a word is no instruction word, so it is not well-formed as one. -/

namespace Sys2Proof

/-- The status words by their `walas` names (R114). -/
inductive StatusName where
  | now | rel | pub | ix | lid | lclu | lshg | task | wid
  | widField (k : Fin 6)
  | mbox (k : Fin 4)
  | mboxf
  | lc (k : Fin 3)
  | uepc | ucause | uval | uvec | uien | fstat | late | tie | stkb | stkl | scope | parkth
  deriving DecidableEq, Repr

/-- The status word a selector names (R114); every other selector is reserved. -/
def statusWord (n : Nat) : Option StatusName :=
  match n with
  | 0x000 => some .now
  | 0x001 => some .rel
  | 0x002 => some .pub
  | 0x003 => some .ix
  | 0x004 => some .lid
  | 0x005 => some .lclu
  | 0x006 => some .lshg
  | 0x007 => some .task
  | 0x008 => some .wid
  | 0x009 => some (.widField 0)
  | 0x00A => some (.widField 1)
  | 0x00B => some (.widField 2)
  | 0x00C => some (.widField 3)
  | 0x00D => some (.widField 4)
  | 0x00E => some (.widField 5)
  | 0x010 => some (.mbox 0)
  | 0x011 => some (.mbox 1)
  | 0x012 => some (.mbox 2)
  | 0x013 => some (.mbox 3)
  | 0x014 => some .mboxf
  | 0x018 => some (.lc 0)
  | 0x019 => some (.lc 1)
  | 0x01A => some (.lc 2)
  | 0x020 => some .uepc
  | 0x021 => some .ucause
  | 0x022 => some .uval
  | 0x023 => some .uvec
  | 0x024 => some .uien
  | 0x028 => some .fstat
  | 0x029 => some .late
  | 0x02A => some .tie
  | 0x02B => some .stkb
  | 0x02C => some .stkl
  | 0x02D => some .scope
  | 0x02E => some .parkth
  | _ => none

/-- Whether `wrs` may write the word a selector names (R114). -/
def statusWritable (n : Nat) : Bool :=
  match statusWord n with
  | none => false
  | some .now | some .rel | some .pub | some .lid | some .lclu | some .lshg | some .task
  | some .wid | some (.widField _) => false
  | some _ => true

/-- The shapes of the floating-point lanes: `.h8` and `.w4` (R112). -/
def floatShape (l : BitVec 2) : Bool := decide (l.toNat = 1) || decide (l.toNat = 2)

/-- The group field of `vdec` and `venc`: with 8-bit codes bit 12 is zero (R186). -/
def groupOk (f : BitVec 1) (k : BitVec 3) : Bool := decide (f.toNat = 1) || decide (k.toNat < 4)

/-- The instruction words: every field at a value R111 to R114 admit. `jal` has d ≠ 0, since with
d = 0 its word is `j` (R113). -/
def wellFormed : Instr → Bool
  | .add _ _ _ _ => true
  | .sub _ _ _ _ => true
  | .and _ _ _ _ => true
  | .or _ _ _ _ => true
  | .xor _ _ _ _ => true
  | .andn _ _ _ _ => true
  | .shl _ _ _ _ => true
  | .shr _ _ _ _ => true
  | .sra _ _ _ _ => true
  | .rol _ _ _ _ => true
  | .slt _ _ _ _ => true
  | .sltn _ _ _ _ => true
  | .min _ _ _ _ => true
  | .max _ _ _ _ => true
  | .minn _ _ _ _ => true
  | .maxn _ _ _ _ => true
  | .sel _ _ _ _ => true
  | .addi _ _ _ => true
  | .andi _ _ _ => true
  | .ori _ _ _ => true
  | .xori _ _ _ => true
  | .shli _ _ _ => true
  | .shri _ _ _ => true
  | .srai _ _ _ => true
  | .roli _ _ _ => true
  | .movi _ _ => true
  | .movs _ _ => true
  | .mul _ _ _ _ => true
  | .mulh _ _ _ _ => true
  | .mulhn _ _ _ _ => true
  | .div _ _ _ _ => true
  | .divn _ _ _ _ => true
  | .rem _ _ _ _ => true
  | .remn _ _ _ _ => true
  | .clz _ _ _ => true
  | .ctz _ _ _ => true
  | .pop _ _ _ => true
  | .brev _ _ _ => true
  | .sext _ _ _ _ => true
  | .zext _ _ _ _ => true
  | .bext _ _ _ _ => true
  | .bins _ _ _ _ => true
  | .vadd _ _ _ _ _ => true
  | .vsub _ _ _ _ _ => true
  | .vmul _ _ _ _ _ => true
  | .vmulh _ _ _ _ _ => true
  | .vmulhn _ _ _ _ _ => true
  | .vmin _ _ _ _ _ => true
  | .vmax _ _ _ _ _ => true
  | .vminn _ _ _ _ _ => true
  | .vmaxn _ _ _ _ _ => true
  | .vabs _ _ _ _ => true
  | .vneg _ _ _ _ => true
  | .vand _ _ _ _ _ => true
  | .vor _ _ _ _ _ => true
  | .vxor _ _ _ _ _ => true
  | .vandn _ _ _ _ _ => true
  | .vshl _ _ _ _ _ => true
  | .vshr _ _ _ _ _ => true
  | .vsra _ _ _ _ _ => true
  | .vadds _ _ _ _ _ => true
  | .vaddsn _ _ _ _ _ => true
  | .vsubs _ _ _ _ _ => true
  | .vsubsn _ _ _ _ _ => true
  | .vavg _ _ _ _ _ => true
  | .vavgn _ _ _ _ _ => true
  | .vcmpeq _ _ _ _ _ => true
  | .vcmpne _ _ _ _ _ => true
  | .vcmplt _ _ _ _ _ => true
  | .vcmple _ _ _ _ _ => true
  | .vcmpltn _ _ _ _ _ => true
  | .vcmplen _ _ _ _ _ => true
  | .vfcmpeq _ _ _ _ l => floatShape l
  | .vfcmplt _ _ _ _ l => floatShape l
  | .vfcmple _ _ _ _ l => floatShape l
  | .vfcmpun _ _ _ _ l => floatShape l
  | .vfadd _ _ _ _ l => floatShape l
  | .vfsub _ _ _ _ l => floatShape l
  | .vfmul _ _ _ _ l => floatShape l
  | .vfmin _ _ _ _ l => floatShape l
  | .vfmax _ _ _ _ l => floatShape l
  | .vfabs _ _ _ l => floatShape l
  | .vfneg _ _ _ l => floatShape l
  | .vfrcp _ _ _ l => floatShape l
  | .vfrsq _ _ _ l => floatShape l
  | .vfma _ _ _ _ l => floatShape l
  | .vfms _ _ _ _ l => floatShape l
  | .vfnma _ _ _ _ l => floatShape l
  | .vfnms _ _ _ _ l => floatShape l
  | .vmac _ _ _ _ l => decide (l.toNat < 3)
  | .vmacn _ _ _ _ l => decide (l.toNat < 3)
  | .vshuf _ _ _ _ _ => true
  | .vsplat _ _ _ _ => true
  | .vext _ _ _ _ => true
  | .vins _ _ _ _ _ => true
  | .vzip _ _ _ _ _ => true
  | .vunzip _ _ _ _ _ => true
  | .vrot _ _ _ _ _ => true
  | .vsel _ _ _ _ _ => true
  | .vmov _ _ _ _ => true
  | .vredadd _ _ _ _ => true
  | .vfredadd _ _ _ l => floatShape l
  | .vredmin _ _ _ _ => true
  | .vredmax _ _ _ _ => true
  | .vredminn _ _ _ _ => true
  | .vredmaxn _ _ _ _ => true
  | .vdot8 _ _ _ _ l => decide (l.toNat = 2)
  | .vdot8n _ _ _ _ l => decide (l.toNat = 2)
  | .vpop _ _ _ _ => true
  | .vclz _ _ _ _ => true
  | .vctz _ _ _ _ => true
  | .vcvt _ _ t u r _ => decide (t.toNat < 10) && decide (u.toNat < 10) && decide (r.toNat < 5)
  | .vdec _ _ f k _ => groupOk f k
  | .venc _ _ f k _ r => groupOk f k && decide (r.toNat < 5)
  | .segev _ _ _ => true
  | .beq _ _ _ => true
  | .bne _ _ _ => true
  | .blt _ _ _ => true
  | .bge _ _ _ => true
  | .bltn _ _ _ => true
  | .bgen _ _ _ => true
  | .bpany a _ => decide (a.toNat < 8)
  | .bpnone a _ => decide (a.toNat < 8)
  | .jal d _ => decide (d.toNat ≠ 0)
  | .j _ => true
  | .jr _ => true
  | .jalr _ _ => true
  | .ret => true
  | .fjmp _ => true
  | .loop l _ _ => decide (l.toNat < 3)
  | .loopx l _ _ _ => decide (l.toNat < 3)
  | .fuse _ => true
  | .split => true
  | .yield _ => true
  | .park _ => true
  | .ldb _ _ _ _ _ => true
  | .ldh _ _ _ _ _ => true
  | .ldw _ _ _ _ _ => true
  | .ldd _ _ _ _ => true
  | .stb _ _ _ _ _ => true
  | .sth _ _ _ _ _ => true
  | .stw _ _ _ _ _ => true
  | .std _ _ _ _ _ => true
  | .vld _ _ _ _ _ => true
  | .vst _ _ _ _ _ => true
  | .aadd _ _ _ i _ => decide (i.toNat < 3)
  | .aand _ _ _ i _ => decide (i.toNat < 3)
  | .aor _ _ _ i _ => decide (i.toNat < 3)
  | .axor _ _ _ i _ => decide (i.toNat < 3)
  | .amin _ _ _ i _ => decide (i.toNat < 3)
  | .amax _ _ _ i _ => decide (i.toNat < 3)
  | .aminn _ _ _ i _ => decide (i.toNat < 3)
  | .amaxn _ _ _ i _ => decide (i.toNat < 3)
  | .aswap _ _ _ i _ => decide (i.toNat < 3)
  | .acas _ _ _ i _ => decide (i.toNat < 3)
  | .afadd _ _ _ i => decide (i.toNat < 3)
  | .fence _ => true
  | .seti _ _ _ => true
  | .rds _ n => (statusWord n.toNat).isSome
  | .wrs _ n => statusWritable n.toNat
  | .qrd _ n => decide (n.toNat < 6)
  | .qst _ _ _ => true
  | .xcopy _ _ _ _ => true
  | .xstat _ _ => true
  | .xwait _ => true
  | .sbind _ _ _ => true
  | .sunbind _ => true
  | .sstat _ _ => true
  | .cfetch _ _ => true
  | .cstat _ _ => true
  | .dtld _ _ _ _ => true
  | .segld _ _ => true
  | .mclaim _ => true
  | .mrel _ => true
  | .mload _ g _ => decide (g.toNat < 31)
  | .mstore p _ _ => decide (p.toNat < 4)
  | .mzero p => decide (p.toNat < 4)
  | .mma p _ _ _ => decide (p.toNat < 4)
  | .mmas p _ _ g _ _ => decide (p.toNat < 4) && decide (g.toNat < 31)
  | .mscale _ g l => decide (g.toNat < 31) && decide (l.toNat < 3)
  | .mcvt p _ r _ => decide (p.toNat < 4) && decide (r.toNat < 5)
  | .mtr p => decide (p.toNat < 4)
  | .tspawn _ => true
  | .tpub _ _ _ => true
  | .tsig _ _ => true
  | .tret => true
  | .targ _ _ => true
  | .send _ _ => true
  | .recv _ _ _ => true
  | .recvadd _ _ => true
  | .qbind _ _ _ => true
  | .qstat _ _ => true
  | .spliceIns _ _ => true
  | .spliceEli _ _ => true
  | .spliceReb _ _ => true
  | .splPrep _ _ _ => true
  | .splCmt _ => true
  | .splAbt => true
  | .uiret => true
  | .uien _ => true
  | .uidis _ => true
  | .trap _ => true
  | .csrr _ _ => true
  | .csrw _ _ => true
  | .csrs _ _ => true
  | .csrc _ _ => true
  | .xret => true
  | .wfi => true
  | .illegalWordIssue _ => false
  | .doubleTrapRecovery _ => false
  | .deferredFaultTake => false
  | .systemEventTake => false
  | .userInterruptEntry => false
  | .instantBoundary => false
  | .homeStoreAccept _ => false
  | .homeLoadRequest _ _ => false
  | .roCacheFill _ _ => false
  | .storeAck _ => false
  | .lateReport _ => false
  | .tieReport _ => false
  | .remoteReply _ _ => false
  | .taskPurgeSend _ => false
  | .purgeApply _ _ => false
  | .faultPolicyApply _ => false
  | .publish _ => false
  | .signal _ => false
  | .heldGenerationApply _ => false
  | .tcbReclaim _ => false
  | .clusterRecordArrival _ => false
  | .overflowReturn _ => false
  | .takeRecord _ => false
  | .priorityAging _ => false
  | .nearHintExpiry _ => false
  | .autoPark _ => false
  | .yieldResume _ => false
  | .gangWaitSplit _ => false
  | .fuseTimeout _ => false
  | .copyAccept _ => false
  | .copyComplete _ _ => false
  | .codeFetchComplete _ _ _ => false
  | .dtldComplete _ => false
  | .segldComplete _ => false
  | .mloadLand _ _ => false
  | .recordArrival _ => false
  | .mailboxWrite _ => false
  | .spliceWatchdogExpiry _ _ => false
  | .splicePrepEnd _ => false
  | .seamArrival _ => false
  | .seamSeenReport _ => false
  | .spliceLink _ => false
  | .linkAck _ => false
  | .flitReceive _ _ _ => false
  | .portDown _ => false
  | .portReroute _ _ => false
  | .fabricInboundRequest _ => false
  | .timeBeacon _ _ _ _ => false
  | .beaconSend => false
  | .lockLoss => false
  | .pageWalk _ => false
  | .tmcmdMap _ _ _ => false
  | .tmcmdUnmap _ _ _ => false
  | .tmCommandComplete _ => false
  | .pmcmdMove _ _ _ => false
  | .homeHandover _ => false
  | .handoverApply _ => false
  | .moveComplete _ => false
  | .dispenserHomeMove _ _ _ _ => false
  | .vdreqWrite _ _ _ => false
  | .vdDrainDone _ _ => false
  | .vdSwitchDone _ _ => false
  | .droopDetect _ _ _ => false
  | .coreArrayError _ _ _ => false
  | .clusterWithhold _ _ _ => false
  | .clusterUnwithhold _ _ _ => false
  | .starvationGrant _ => false
  | .xmigRidgeWrite _ _ => false
  | .migrationDeadline _ => false
  | .xtendWrite _ => false
  | .xnisSpill _ => false
  | .xnisReinject _ => false
  | .copySquash => false
  | .copyReissue => false
  | .sccmdStop _ _ _ => false
  | .coreStop _ => false
  | .imageStreamDone _ => false
  | .sccmdRestore _ _ _ => false
  | .restoreDone _ => false
  | .mgcmdMove _ _ _ => false
  | .mgcmdDone _ => false
  | .stragglerForward _ => false
  | .drainMarkerSend _ => false
  | .drainMarker _ _ => false
  | .drelWrite _ _ => false
  | .dabortWrite _ _ => false
  | .dheldRead _ => false
  | .digestStart _ _ => false
  | .digestDone _ => false
  | .exclusionWrite _ _ _ => false
  | .hostEnqueueWrite _ _ _ => false
  | .hostMailboxWrite _ _ _ => false
  | .hostCopyToModule _ => false
  | .hostCopyToHost _ => false
  | .hostCopyDone _ => false
  | .fwUpdate _ _ _ _ => false
  | .fwReconfigure _ => false
  | .fwHeartbeat => false
  | .fwHeartbeatTimeout => false
  | .iperiodWrite _ => false
  | .thermalTrip _ _ => false
  | .triprstWrite _ _ => false
  | .powerOn _ _ _ => false
  | .powerLoss => false
  | .registerWrite _ _ _ _ => false
  | .bankAccessPerformed _ _ => false
  | .streamDataArrival _ _ => false
  | .matrixInstructionDone _ => false
  | .xnisCommandDone _ => false
  | .stagedMessageSent _ _ => false
  | .purlinPortUp _ _ => false
  | .imageLoad _ _ _ => false

end Sys2Proof
end

