-- ==== Sys2Proof/Decode.lean ====
section
/-! DEFINITION. The decoder of one 32-bit word, total and rejecting by name, the encoder written from
the same formats, and `decodeTableWord`. Bit 31 is the clause bit of word0 and reserved in word1
(R103): the clause logic judges it, the word decoder does not read it. -/

namespace Sys2Proof

/-- Why a word is no instruction (R115, orders 4 to 7). -/
inductive DecodeError where
  | reservedMajor | reservedCode | nonzeroField | illegalValue
  deriving DecidableEq, Repr

/-- Field of `k` bits from bit `lo` upward. -/
def bf (n lo k : Nat) : BitVec k := BitVec.ofNat k (n / 2 ^ lo)

/-- Major 0x0, ALU: the code in bits 9:4 names the instruction (R112, R113). -/
def decodeAlu (n : Nat) : Except DecodeError Instr :=
  match n / 16 % 64 with
  | 0 => if n / 2 % 8 = 0 then .ok (.add (bf n 20 5) (bf n 15 5) (bf n 10 5) (bf n 0 1)) else .error .nonzeroField
  | 1 => if n / 2 % 8 = 0 then .ok (.sub (bf n 20 5) (bf n 15 5) (bf n 10 5) (bf n 0 1)) else .error .nonzeroField
  | 2 => if n / 2 % 8 = 0 then .ok (.and (bf n 20 5) (bf n 15 5) (bf n 10 5) (bf n 0 1)) else .error .nonzeroField
  | 3 => if n / 2 % 8 = 0 then .ok (.or (bf n 20 5) (bf n 15 5) (bf n 10 5) (bf n 0 1)) else .error .nonzeroField
  | 4 => if n / 2 % 8 = 0 then .ok (.xor (bf n 20 5) (bf n 15 5) (bf n 10 5) (bf n 0 1)) else .error .nonzeroField
  | 5 => if n / 2 % 8 = 0 then .ok (.andn (bf n 20 5) (bf n 15 5) (bf n 10 5) (bf n 0 1)) else .error .nonzeroField
  | 6 => if n / 2 % 8 = 0 then .ok (.shl (bf n 20 5) (bf n 15 5) (bf n 10 5) (bf n 0 1)) else .error .nonzeroField
  | 7 => if n / 2 % 8 = 0 then .ok (.shr (bf n 20 5) (bf n 15 5) (bf n 10 5) (bf n 0 1)) else .error .nonzeroField
  | 8 => if n / 2 % 8 = 0 then .ok (.sra (bf n 20 5) (bf n 15 5) (bf n 10 5) (bf n 0 1)) else .error .nonzeroField
  | 9 => if n / 2 % 8 = 0 then .ok (.rol (bf n 20 5) (bf n 15 5) (bf n 10 5) (bf n 0 1)) else .error .nonzeroField
  | 10 => if n / 2 % 8 = 0 then .ok (.slt (bf n 20 5) (bf n 15 5) (bf n 10 5) (bf n 0 1)) else .error .nonzeroField
  | 11 => if n / 2 % 8 = 0 then .ok (.sltn (bf n 20 5) (bf n 15 5) (bf n 10 5) (bf n 0 1)) else .error .nonzeroField
  | 12 => if n / 2 % 8 = 0 then .ok (.min (bf n 20 5) (bf n 15 5) (bf n 10 5) (bf n 0 1)) else .error .nonzeroField
  | 13 => if n / 2 % 8 = 0 then .ok (.max (bf n 20 5) (bf n 15 5) (bf n 10 5) (bf n 0 1)) else .error .nonzeroField
  | 14 => if n / 2 % 8 = 0 then .ok (.minn (bf n 20 5) (bf n 15 5) (bf n 10 5) (bf n 0 1)) else .error .nonzeroField
  | 15 => if n / 2 % 8 = 0 then .ok (.maxn (bf n 20 5) (bf n 15 5) (bf n 10 5) (bf n 0 1)) else .error .nonzeroField
  | 16 => if n / 8 % 2 = 0 then .ok (.sel (bf n 20 5) (bf n 15 5) (bf n 10 5) (bf n 0 3)) else .error .nonzeroField
  | _ => .error .reservedCode

/-- Major 0x5, shift immediates: the code in bits 14:13 names the instruction (R112, R113). -/
def decodeShiftImm (n : Nat) : Except DecodeError Instr :=
  match n / 8192 % 4 with
  | 0 => if n / 64 % 128 = 0 then .ok (.shli (bf n 20 5) (bf n 15 5) (bf n 0 6)) else .error .nonzeroField
  | 1 => if n / 64 % 128 = 0 then .ok (.shri (bf n 20 5) (bf n 15 5) (bf n 0 6)) else .error .nonzeroField
  | 2 => if n / 64 % 128 = 0 then .ok (.srai (bf n 20 5) (bf n 15 5) (bf n 0 6)) else .error .nonzeroField
  | 3 => if n / 64 % 128 = 0 then .ok (.roli (bf n 20 5) (bf n 15 5) (bf n 0 6)) else .error .nonzeroField
  | _ => .error .reservedCode

/-- Major 0x8, MULDIV: the code in bits 9:4 names the instruction (R112, R113). -/
def decodeMulDiv (n : Nat) : Except DecodeError Instr :=
  match n / 16 % 64 with
  | 0 => if n / 2 % 8 = 0 then .ok (.mul (bf n 20 5) (bf n 15 5) (bf n 10 5) (bf n 0 1)) else .error .nonzeroField
  | 1 => if n / 2 % 8 = 0 then .ok (.mulh (bf n 20 5) (bf n 15 5) (bf n 10 5) (bf n 0 1)) else .error .nonzeroField
  | 2 => if n / 2 % 8 = 0 then .ok (.mulhn (bf n 20 5) (bf n 15 5) (bf n 10 5) (bf n 0 1)) else .error .nonzeroField
  | 3 => if n / 2 % 8 = 0 then .ok (.div (bf n 20 5) (bf n 15 5) (bf n 10 5) (bf n 0 1)) else .error .nonzeroField
  | 4 => if n / 2 % 8 = 0 then .ok (.divn (bf n 20 5) (bf n 15 5) (bf n 10 5) (bf n 0 1)) else .error .nonzeroField
  | 5 => if n / 2 % 8 = 0 then .ok (.rem (bf n 20 5) (bf n 15 5) (bf n 10 5) (bf n 0 1)) else .error .nonzeroField
  | 6 => if n / 2 % 8 = 0 then .ok (.remn (bf n 20 5) (bf n 15 5) (bf n 10 5) (bf n 0 1)) else .error .nonzeroField
  | _ => .error .reservedCode

/-- Major 0x9, BITS: the code in bits 9:4 names the instruction (R112, R113). -/
def decodeBits (n : Nat) : Except DecodeError Instr :=
  match n / 16 % 64 with
  | 0 => if n / 2 % 8 = 0 ∧ n / 1024 % 32 = 0 then .ok (.clz (bf n 20 5) (bf n 15 5) (bf n 0 1)) else .error .nonzeroField
  | 1 => if n / 2 % 8 = 0 ∧ n / 1024 % 32 = 0 then .ok (.ctz (bf n 20 5) (bf n 15 5) (bf n 0 1)) else .error .nonzeroField
  | 2 => if n / 2 % 8 = 0 ∧ n / 1024 % 32 = 0 then .ok (.pop (bf n 20 5) (bf n 15 5) (bf n 0 1)) else .error .nonzeroField
  | 3 => if n / 2 % 8 = 0 ∧ n / 1024 % 32 = 0 then .ok (.brev (bf n 20 5) (bf n 15 5) (bf n 0 1)) else .error .nonzeroField
  | 4 => if n / 2 % 8 = 0 then .ok (.sext (bf n 20 5) (bf n 15 5) (bf n 10 5) (bf n 0 1)) else .error .nonzeroField
  | 5 => if n / 2 % 8 = 0 then .ok (.zext (bf n 20 5) (bf n 15 5) (bf n 10 5) (bf n 0 1)) else .error .nonzeroField
  | 6 => if n / 2 % 8 = 0 then .ok (.bext (bf n 20 5) (bf n 15 5) (bf n 10 5) (bf n 0 1)) else .error .nonzeroField
  | 7 => if n / 2 % 8 = 0 then .ok (.bins (bf n 20 5) (bf n 15 5) (bf n 10 5) (bf n 0 1)) else .error .nonzeroField
  | _ => .error .reservedCode

/-- Major 0x10, VINT: the code in bits 4:0 names the instruction (R112, R113). -/
def decodeVint (n : Nat) : Except DecodeError Instr :=
  match n % 32 with
  | 0 => .ok (.vadd (bf n 20 5) (bf n 15 5) (bf n 10 5) (bf n 7 3) (bf n 5 2))
  | 1 => .ok (.vsub (bf n 20 5) (bf n 15 5) (bf n 10 5) (bf n 7 3) (bf n 5 2))
  | 2 => .ok (.vmul (bf n 20 5) (bf n 15 5) (bf n 10 5) (bf n 7 3) (bf n 5 2))
  | 3 => .ok (.vmulh (bf n 20 5) (bf n 15 5) (bf n 10 5) (bf n 7 3) (bf n 5 2))
  | 4 => .ok (.vmulhn (bf n 20 5) (bf n 15 5) (bf n 10 5) (bf n 7 3) (bf n 5 2))
  | 5 => .ok (.vmin (bf n 20 5) (bf n 15 5) (bf n 10 5) (bf n 7 3) (bf n 5 2))
  | 6 => .ok (.vmax (bf n 20 5) (bf n 15 5) (bf n 10 5) (bf n 7 3) (bf n 5 2))
  | 7 => .ok (.vminn (bf n 20 5) (bf n 15 5) (bf n 10 5) (bf n 7 3) (bf n 5 2))
  | 8 => .ok (.vmaxn (bf n 20 5) (bf n 15 5) (bf n 10 5) (bf n 7 3) (bf n 5 2))
  | 9 => if n / 1024 % 32 = 0 then .ok (.vabs (bf n 20 5) (bf n 15 5) (bf n 7 3) (bf n 5 2)) else .error .nonzeroField
  | 10 => if n / 1024 % 32 = 0 then .ok (.vneg (bf n 20 5) (bf n 15 5) (bf n 7 3) (bf n 5 2)) else .error .nonzeroField
  | 11 => .ok (.vand (bf n 20 5) (bf n 15 5) (bf n 10 5) (bf n 7 3) (bf n 5 2))
  | 12 => .ok (.vor (bf n 20 5) (bf n 15 5) (bf n 10 5) (bf n 7 3) (bf n 5 2))
  | 13 => .ok (.vxor (bf n 20 5) (bf n 15 5) (bf n 10 5) (bf n 7 3) (bf n 5 2))
  | 14 => .ok (.vandn (bf n 20 5) (bf n 15 5) (bf n 10 5) (bf n 7 3) (bf n 5 2))
  | 15 => .ok (.vshl (bf n 20 5) (bf n 15 5) (bf n 10 5) (bf n 7 3) (bf n 5 2))
  | 16 => .ok (.vshr (bf n 20 5) (bf n 15 5) (bf n 10 5) (bf n 7 3) (bf n 5 2))
  | 17 => .ok (.vsra (bf n 20 5) (bf n 15 5) (bf n 10 5) (bf n 7 3) (bf n 5 2))
  | 18 => .ok (.vadds (bf n 20 5) (bf n 15 5) (bf n 10 5) (bf n 7 3) (bf n 5 2))
  | 19 => .ok (.vaddsn (bf n 20 5) (bf n 15 5) (bf n 10 5) (bf n 7 3) (bf n 5 2))
  | 20 => .ok (.vsubs (bf n 20 5) (bf n 15 5) (bf n 10 5) (bf n 7 3) (bf n 5 2))
  | 21 => .ok (.vsubsn (bf n 20 5) (bf n 15 5) (bf n 10 5) (bf n 7 3) (bf n 5 2))
  | 22 => .ok (.vavg (bf n 20 5) (bf n 15 5) (bf n 10 5) (bf n 7 3) (bf n 5 2))
  | 23 => .ok (.vavgn (bf n 20 5) (bf n 15 5) (bf n 10 5) (bf n 7 3) (bf n 5 2))
  | _ => .error .reservedCode

/-- Major 0x11, VCMP: the code in bits 4:0 names the instruction (R112, R113). -/
def decodeVcmp (n : Nat) : Except DecodeError Instr :=
  match n % 32 with
  | 0 => if n / 8388608 % 4 = 0 then .ok (.vcmpeq (bf n 20 3) (bf n 15 5) (bf n 10 5) (bf n 7 3) (bf n 5 2)) else .error .nonzeroField
  | 1 => if n / 8388608 % 4 = 0 then .ok (.vcmpne (bf n 20 3) (bf n 15 5) (bf n 10 5) (bf n 7 3) (bf n 5 2)) else .error .nonzeroField
  | 2 => if n / 8388608 % 4 = 0 then .ok (.vcmplt (bf n 20 3) (bf n 15 5) (bf n 10 5) (bf n 7 3) (bf n 5 2)) else .error .nonzeroField
  | 3 => if n / 8388608 % 4 = 0 then .ok (.vcmple (bf n 20 3) (bf n 15 5) (bf n 10 5) (bf n 7 3) (bf n 5 2)) else .error .nonzeroField
  | 4 => if n / 8388608 % 4 = 0 then .ok (.vcmpltn (bf n 20 3) (bf n 15 5) (bf n 10 5) (bf n 7 3) (bf n 5 2)) else .error .nonzeroField
  | 5 => if n / 8388608 % 4 = 0 then .ok (.vcmplen (bf n 20 3) (bf n 15 5) (bf n 10 5) (bf n 7 3) (bf n 5 2)) else .error .nonzeroField
  | 6 => if n / 8388608 % 4 = 0 then .ok (.vfcmpeq (bf n 20 3) (bf n 15 5) (bf n 10 5) (bf n 7 3) (bf n 5 2)) else .error .nonzeroField
  | 7 => if n / 8388608 % 4 = 0 then .ok (.vfcmplt (bf n 20 3) (bf n 15 5) (bf n 10 5) (bf n 7 3) (bf n 5 2)) else .error .nonzeroField
  | 8 => if n / 8388608 % 4 = 0 then .ok (.vfcmple (bf n 20 3) (bf n 15 5) (bf n 10 5) (bf n 7 3) (bf n 5 2)) else .error .nonzeroField
  | 9 => if n / 8388608 % 4 = 0 then .ok (.vfcmpun (bf n 20 3) (bf n 15 5) (bf n 10 5) (bf n 7 3) (bf n 5 2)) else .error .nonzeroField
  | _ => .error .reservedCode

/-- Major 0x12, VFP: the code in bits 4:0 names the instruction (R112, R113). -/
def decodeVfp (n : Nat) : Except DecodeError Instr :=
  match n % 32 with
  | 0 => .ok (.vfadd (bf n 20 5) (bf n 15 5) (bf n 10 5) (bf n 7 3) (bf n 5 2))
  | 1 => .ok (.vfsub (bf n 20 5) (bf n 15 5) (bf n 10 5) (bf n 7 3) (bf n 5 2))
  | 2 => .ok (.vfmul (bf n 20 5) (bf n 15 5) (bf n 10 5) (bf n 7 3) (bf n 5 2))
  | 3 => .ok (.vfmin (bf n 20 5) (bf n 15 5) (bf n 10 5) (bf n 7 3) (bf n 5 2))
  | 4 => .ok (.vfmax (bf n 20 5) (bf n 15 5) (bf n 10 5) (bf n 7 3) (bf n 5 2))
  | 5 => if n / 1024 % 32 = 0 then .ok (.vfabs (bf n 20 5) (bf n 15 5) (bf n 7 3) (bf n 5 2)) else .error .nonzeroField
  | 6 => if n / 1024 % 32 = 0 then .ok (.vfneg (bf n 20 5) (bf n 15 5) (bf n 7 3) (bf n 5 2)) else .error .nonzeroField
  | 7 => if n / 1024 % 32 = 0 then .ok (.vfrcp (bf n 20 5) (bf n 15 5) (bf n 7 3) (bf n 5 2)) else .error .nonzeroField
  | 8 => if n / 1024 % 32 = 0 then .ok (.vfrsq (bf n 20 5) (bf n 15 5) (bf n 7 3) (bf n 5 2)) else .error .nonzeroField
  | _ => .error .reservedCode

/-- Major 0x13, VFMA: the code in bits 2:0 names the instruction (R112, R113). -/
def decodeVfma (n : Nat) : Except DecodeError Instr :=
  match n % 8 with
  | 0 => .ok (.vfma (bf n 20 5) (bf n 15 5) (bf n 10 5) (bf n 5 5) (bf n 3 2))
  | 1 => .ok (.vfms (bf n 20 5) (bf n 15 5) (bf n 10 5) (bf n 5 5) (bf n 3 2))
  | 2 => .ok (.vfnma (bf n 20 5) (bf n 15 5) (bf n 10 5) (bf n 5 5) (bf n 3 2))
  | 3 => .ok (.vfnms (bf n 20 5) (bf n 15 5) (bf n 10 5) (bf n 5 5) (bf n 3 2))
  | 4 => .ok (.vmac (bf n 20 5) (bf n 15 5) (bf n 10 5) (bf n 5 5) (bf n 3 2))
  | 5 => .ok (.vmacn (bf n 20 5) (bf n 15 5) (bf n 10 5) (bf n 5 5) (bf n 3 2))
  | _ => .error .reservedCode

/-- Major 0x14, VPERM: the code in bits 4:0 names the instruction (R112, R113). -/
def decodeVperm (n : Nat) : Except DecodeError Instr :=
  match n % 32 with
  | 0 => .ok (.vshuf (bf n 20 5) (bf n 15 5) (bf n 10 5) (bf n 7 3) (bf n 5 2))
  | 1 => if n / 1024 % 32 = 0 then .ok (.vsplat (bf n 20 5) (bf n 15 5) (bf n 7 3) (bf n 5 2)) else .error .nonzeroField
  | 2 => if n / 128 % 8 = 0 then .ok (.vext (bf n 20 5) (bf n 15 5) (bf n 10 5) (bf n 5 2)) else .error .nonzeroField
  | 3 => .ok (.vins (bf n 20 5) (bf n 15 5) (bf n 10 5) (bf n 7 3) (bf n 5 2))
  | 4 => .ok (.vzip (bf n 20 5) (bf n 15 5) (bf n 10 5) (bf n 7 3) (bf n 5 2))
  | 5 => .ok (.vunzip (bf n 20 5) (bf n 15 5) (bf n 10 5) (bf n 7 3) (bf n 5 2))
  | 6 => .ok (.vrot (bf n 20 5) (bf n 15 5) (bf n 10 5) (bf n 7 3) (bf n 5 2))
  | 7 => .ok (.vsel (bf n 20 5) (bf n 15 5) (bf n 10 5) (bf n 7 3) (bf n 5 2))
  | 8 => if n / 1024 % 32 = 0 then .ok (.vmov (bf n 20 5) (bf n 15 5) (bf n 7 3) (bf n 5 2)) else .error .nonzeroField
  | _ => .error .reservedCode

/-- Major 0x15, VRED: the code in bits 4:0 names the instruction (R112, R113). -/
def decodeVred (n : Nat) : Except DecodeError Instr :=
  match n % 32 with
  | 0 => if n / 1024 % 32 = 0 then .ok (.vredadd (bf n 20 5) (bf n 15 5) (bf n 7 3) (bf n 5 2)) else .error .nonzeroField
  | 1 => if n / 1024 % 32 = 0 then .ok (.vfredadd (bf n 20 5) (bf n 15 5) (bf n 7 3) (bf n 5 2)) else .error .nonzeroField
  | 2 => if n / 1024 % 32 = 0 then .ok (.vredmin (bf n 20 5) (bf n 15 5) (bf n 7 3) (bf n 5 2)) else .error .nonzeroField
  | 3 => if n / 1024 % 32 = 0 then .ok (.vredmax (bf n 20 5) (bf n 15 5) (bf n 7 3) (bf n 5 2)) else .error .nonzeroField
  | 4 => if n / 1024 % 32 = 0 then .ok (.vredminn (bf n 20 5) (bf n 15 5) (bf n 7 3) (bf n 5 2)) else .error .nonzeroField
  | 5 => if n / 1024 % 32 = 0 then .ok (.vredmaxn (bf n 20 5) (bf n 15 5) (bf n 7 3) (bf n 5 2)) else .error .nonzeroField
  | 6 => .ok (.vdot8 (bf n 20 5) (bf n 15 5) (bf n 10 5) (bf n 7 3) (bf n 5 2))
  | 7 => .ok (.vdot8n (bf n 20 5) (bf n 15 5) (bf n 10 5) (bf n 7 3) (bf n 5 2))
  | 8 => if n / 1024 % 32 = 0 then .ok (.vpop (bf n 20 5) (bf n 15 5) (bf n 7 3) (bf n 5 2)) else .error .nonzeroField
  | 9 => if n / 1024 % 32 = 0 then .ok (.vclz (bf n 20 5) (bf n 15 5) (bf n 7 3) (bf n 5 2)) else .error .nonzeroField
  | 10 => if n / 1024 % 32 = 0 then .ok (.vctz (bf n 20 5) (bf n 15 5) (bf n 7 3) (bf n 5 2)) else .error .nonzeroField
  | _ => .error .reservedCode

/-- Major 0x17, VTAB: the code in bits 4:0 names the instruction (R112, R113). -/
def decodeVtab (n : Nat) : Except DecodeError Instr :=
  match n % 32 with
  | 0 => if n / 32 % 8 = 0 ∧ n / 8192 % 2 = 0 then .ok (.vdec (bf n 20 5) (bf n 15 5) (bf n 14 1) (bf n 10 3) (bf n 8 2)) else .error .nonzeroField
  | 1 => if n / 8192 % 2 = 0 then .ok (.venc (bf n 20 5) (bf n 15 5) (bf n 14 1) (bf n 10 3) (bf n 8 2) (bf n 5 3)) else .error .nonzeroField
  | 2 => if n / 32 % 8 = 0 ∧ n / 1024 % 32 = 0 then .ok (.segev (bf n 20 5) (bf n 15 5) (bf n 8 2)) else .error .nonzeroField
  | _ => .error .reservedCode

/-- Major 0x20, BR: the code in bits 24:22 names the instruction (R112, R113). -/
def decodeBr (n : Nat) : Except DecodeError Instr :=
  match n / 4194304 % 8 with
  | 0 => .ok (.beq (bf n 17 5) (bf n 12 5) (bf n 0 12))
  | 1 => .ok (.bne (bf n 17 5) (bf n 12 5) (bf n 0 12))
  | 2 => .ok (.blt (bf n 17 5) (bf n 12 5) (bf n 0 12))
  | 3 => .ok (.bge (bf n 17 5) (bf n 12 5) (bf n 0 12))
  | 4 => .ok (.bltn (bf n 17 5) (bf n 12 5) (bf n 0 12))
  | 5 => .ok (.bgen (bf n 17 5) (bf n 12 5) (bf n 0 12))
  | 6 => if n / 4096 % 32 = 0 then .ok (.bpany (bf n 17 5) (bf n 0 12)) else .error .nonzeroField
  | 7 => if n / 4096 % 32 = 0 then .ok (.bpnone (bf n 17 5) (bf n 0 12)) else .error .nonzeroField
  | _ => .error .reservedCode

/-- Major 0x22, JMP: the code in bits 14:12 names the instruction (R112, R113). -/
def decodeJmp (n : Nat) : Except DecodeError Instr :=
  match n / 4096 % 8 with
  | 0 => if n % 4096 = 0 ∧ n / 1048576 % 32 = 0 then .ok (.jr (bf n 15 5)) else .error .nonzeroField
  | 1 => if n % 4096 = 0 then .ok (.jalr (bf n 20 5) (bf n 15 5)) else .error .nonzeroField
  | 2 => if n % 4096 = 0 ∧ n / 32768 % 1024 = 0 then .ok .ret else .error .nonzeroField
  | 3 => if n % 4096 = 0 ∧ n / 1048576 % 32 = 0 then .ok (.fjmp (bf n 15 5)) else .error .nonzeroField
  | _ => .error .reservedCode

/-- Major 0x23, LOOP: the code in bits 11:11 names the instruction (R112, R113). -/
def decodeLoop (n : Nat) : Except DecodeError Instr :=
  match n / 2048 % 2 with
  | 0 => if n % 2048 = 0 then .ok (.loop (bf n 23 2) (bf n 18 5) (bf n 12 6)) else .error .nonzeroField
  | 1 => if n % 64 = 0 then .ok (.loopx (bf n 23 2) (bf n 18 5) (bf n 12 6) (bf n 6 5)) else .error .nonzeroField
  | _ => .error .reservedCode

/-- Major 0x24, GANG: the code in bits 14:12 names the instruction (R112, R113). -/
def decodeGang (n : Nat) : Except DecodeError Instr :=
  match n / 4096 % 8 with
  | 0 => if n % 4096 = 0 ∧ n / 1048576 % 32 = 0 then .ok (.fuse (bf n 15 5)) else .error .nonzeroField
  | 1 => if n % 4096 = 0 ∧ n / 32768 % 1024 = 0 then .ok .split else .error .nonzeroField
  | 2 => if n % 4096 = 0 ∧ n / 1048576 % 32 = 0 then .ok (.yield (bf n 15 5)) else .error .nonzeroField
  | 3 => if n % 4096 = 0 ∧ n / 1048576 % 32 = 0 then .ok (.park (bf n 15 5)) else .error .nonzeroField
  | _ => .error .reservedCode

/-- Major 0x25, LD: the code in bits 12:11 names the instruction (R112, R113). -/
def decodeLd (n : Nat) : Except DecodeError Instr :=
  match n / 2048 % 4 with
  | 0 => .ok (.ldb (bf n 20 5) (bf n 15 5) (bf n 13 2) (bf n 10 1) (bf n 0 10))
  | 1 => .ok (.ldh (bf n 20 5) (bf n 15 5) (bf n 13 2) (bf n 10 1) (bf n 0 10))
  | 2 => .ok (.ldw (bf n 20 5) (bf n 15 5) (bf n 13 2) (bf n 10 1) (bf n 0 10))
  | 3 => if n / 1024 % 2 = 0 then .ok (.ldd (bf n 20 5) (bf n 15 5) (bf n 13 2) (bf n 0 10)) else .error .nonzeroField
  | _ => .error .reservedCode

/-- Major 0x26, ST: the code in bits 12:11 names the instruction (R112, R113). -/
def decodeSt (n : Nat) : Except DecodeError Instr :=
  match n / 2048 % 4 with
  | 0 => .ok (.stb (bf n 20 5) (bf n 15 5) (bf n 13 2) (bf n 10 1) (bf n 0 10))
  | 1 => .ok (.sth (bf n 20 5) (bf n 15 5) (bf n 13 2) (bf n 10 1) (bf n 0 10))
  | 2 => .ok (.stw (bf n 20 5) (bf n 15 5) (bf n 13 2) (bf n 10 1) (bf n 0 10))
  | 3 => .ok (.std (bf n 20 5) (bf n 15 5) (bf n 13 2) (bf n 10 1) (bf n 0 10))
  | _ => .error .reservedCode

/-- Major 0x29, AMO: the code in bits 6:3 names the instruction (R112, R113). -/
def decodeAmo (n : Nat) : Except DecodeError Instr :=
  match n / 8 % 16 with
  | 0 => if n % 8 = 0 then .ok (.aadd (bf n 20 5) (bf n 15 5) (bf n 10 5) (bf n 8 2) (bf n 7 1)) else .error .nonzeroField
  | 1 => if n % 8 = 0 then .ok (.aand (bf n 20 5) (bf n 15 5) (bf n 10 5) (bf n 8 2) (bf n 7 1)) else .error .nonzeroField
  | 2 => if n % 8 = 0 then .ok (.aor (bf n 20 5) (bf n 15 5) (bf n 10 5) (bf n 8 2) (bf n 7 1)) else .error .nonzeroField
  | 3 => if n % 8 = 0 then .ok (.axor (bf n 20 5) (bf n 15 5) (bf n 10 5) (bf n 8 2) (bf n 7 1)) else .error .nonzeroField
  | 4 => if n % 8 = 0 then .ok (.amin (bf n 20 5) (bf n 15 5) (bf n 10 5) (bf n 8 2) (bf n 7 1)) else .error .nonzeroField
  | 5 => if n % 8 = 0 then .ok (.amax (bf n 20 5) (bf n 15 5) (bf n 10 5) (bf n 8 2) (bf n 7 1)) else .error .nonzeroField
  | 6 => if n % 8 = 0 then .ok (.aminn (bf n 20 5) (bf n 15 5) (bf n 10 5) (bf n 8 2) (bf n 7 1)) else .error .nonzeroField
  | 7 => if n % 8 = 0 then .ok (.amaxn (bf n 20 5) (bf n 15 5) (bf n 10 5) (bf n 8 2) (bf n 7 1)) else .error .nonzeroField
  | 8 => if n % 8 = 0 then .ok (.aswap (bf n 20 5) (bf n 15 5) (bf n 10 5) (bf n 8 2) (bf n 7 1)) else .error .nonzeroField
  | 9 => if n % 8 = 0 then .ok (.acas (bf n 20 5) (bf n 15 5) (bf n 10 5) (bf n 8 2) (bf n 7 1)) else .error .nonzeroField
  | 10 => if n % 8 = 0 ∧ n / 128 % 2 = 0 then .ok (.afadd (bf n 20 5) (bf n 15 5) (bf n 10 5) (bf n 8 2)) else .error .nonzeroField
  | _ => .error .reservedCode

/-- Major 0x2a, SYNC: the code in bits 14:12 names the instruction (R112, R113). -/
def decodeSync (n : Nat) : Except DecodeError Instr :=
  match n / 4096 % 8 with
  | 0 => if n % 4096 = 0 ∧ n / 1048576 % 32 = 0 then .ok (.fence (bf n 15 5)) else .error .nonzeroField
  | 1 => if n / 1048576 % 32 = 0 then .ok (.seti (bf n 15 5) (bf n 10 2) (bf n 0 10)) else .error .nonzeroField
  | 2 => if n / 32768 % 32 = 0 then .ok (.rds (bf n 20 5) (bf n 0 12)) else .error .nonzeroField
  | 3 => if n / 1048576 % 32 = 0 then .ok (.wrs (bf n 15 5) (bf n 0 12)) else .error .nonzeroField
  | 4 => if n / 32768 % 32 = 0 ∧ n / 8388608 % 4 = 0 then .ok (.qrd (bf n 20 3) (bf n 0 12)) else .error .nonzeroField
  | 5 => if n / 1024 % 4 = 0 ∧ n / 8388608 % 4 = 0 then .ok (.qst (bf n 20 3) (bf n 15 5) (bf n 0 10)) else .error .nonzeroField
  | _ => .error .reservedCode

/-- Major 0x2b, XFER: the code in bits 4:0 names the instruction (R112, R113). -/
def decodeXfer (n : Nat) : Except DecodeError Instr :=
  match n % 32 with
  | 0 => .ok (.xcopy (bf n 20 5) (bf n 15 5) (bf n 10 5) (bf n 5 5))
  | 1 => if n / 32 % 1024 = 0 then .ok (.xstat (bf n 20 5) (bf n 15 5)) else .error .nonzeroField
  | 2 => if n / 32 % 32768 = 0 then .ok (.xwait (bf n 20 5)) else .error .nonzeroField
  | _ => .error .reservedCode

/-- Major 0x2c, STRM: the code in bits 4:0 names the instruction (R112, R113). -/
def decodeStrm (n : Nat) : Except DecodeError Instr :=
  match n % 32 with
  | 0 => if n / 32 % 32 = 0 then .ok (.sbind (bf n 20 5) (bf n 15 5) (bf n 10 5)) else .error .nonzeroField
  | 1 => if n / 32 % 32768 = 0 then .ok (.sunbind (bf n 20 5)) else .error .nonzeroField
  | 2 => if n / 32 % 1024 = 0 then .ok (.sstat (bf n 20 5) (bf n 15 5)) else .error .nonzeroField
  | _ => .error .reservedCode

/-- Major 0x2d, CODE: the code in bits 14:12 names the instruction (R112, R113). -/
def decodeCode (n : Nat) : Except DecodeError Instr :=
  match n / 4096 % 8 with
  | 0 => if n / 16 % 256 = 0 ∧ n / 1048576 % 32 = 0 then .ok (.cfetch (bf n 15 5) (bf n 0 4)) else .error .nonzeroField
  | 1 => if n / 16 % 256 = 0 ∧ n / 32768 % 32 = 0 then .ok (.cstat (bf n 20 5) (bf n 0 4)) else .error .nonzeroField
  | 2 => if n / 2048 % 2 = 0 ∧ n / 1048576 % 32 = 0 then .ok (.dtld (bf n 15 5) (bf n 10 1) (bf n 2 8) (bf n 0 2)) else .error .nonzeroField
  | 3 => if n / 4 % 1024 = 0 ∧ n / 1048576 % 32 = 0 then .ok (.segld (bf n 15 5) (bf n 0 2)) else .error .nonzeroField
  | _ => .error .reservedCode

/-- Major 0x2e, MAT0: the code in bits 7:5 names the instruction (R112, R113). -/
def decodeMat0 (n : Nat) : Except DecodeError Instr :=
  match n / 32 % 8 with
  | 0 => if n % 32 = 0 ∧ n / 256 % 8192 = 0 then .ok (.mclaim (bf n 21 4)) else .error .nonzeroField
  | 1 => if n % 32 = 0 ∧ n / 256 % 8192 = 0 then .ok (.mrel (bf n 21 4)) else .error .nonzeroField
  | 2 => if n / 8192 % 256 = 0 then .ok (.mload (bf n 21 4) (bf n 8 5) (bf n 0 5)) else .error .nonzeroField
  | 3 => if n / 8192 % 256 = 0 then .ok (.mstore (bf n 21 4) (bf n 8 5) (bf n 0 5)) else .error .nonzeroField
  | 4 => if n % 32 = 0 ∧ n / 256 % 8192 = 0 then .ok (.mzero (bf n 21 4)) else .error .nonzeroField
  | _ => .error .reservedCode

/-- Major 0x2f, MAT1: the code in bits 7:5 names the instruction (R112, R113). -/
def decodeMat1 (n : Nat) : Except DecodeError Instr :=
  match n / 32 % 8 with
  | 0 => if n / 2 % 16 = 0 ∧ n / 256 % 32 = 0 then .ok (.mma (bf n 21 4) (bf n 17 4) (bf n 13 4) (bf n 0 1)) else .error .nonzeroField
  | 1 => if n / 4 % 8 = 0 then .ok (.mmas (bf n 21 4) (bf n 17 4) (bf n 13 4) (bf n 8 5) (bf n 1 1) (bf n 0 1)) else .error .nonzeroField
  | 2 => if n / 4 % 8 = 0 ∧ n / 8192 % 16 = 0 ∧ n / 2097152 % 16 = 0 then .ok (.mscale (bf n 17 4) (bf n 8 5) (bf n 0 2)) else .error .nonzeroField
  | 3 => if n / 2048 % 64 = 0 then .ok (.mcvt (bf n 21 4) (bf n 17 4) (bf n 8 3) (bf n 0 5)) else .error .nonzeroField
  | 4 => if n % 32 = 0 ∧ n / 256 % 8192 = 0 then .ok (.mtr (bf n 21 4)) else .error .nonzeroField
  | _ => .error .reservedCode

/-- Major 0x30, TASK: the code in bits 4:0 names the instruction (R112, R113). -/
def decodeTask (n : Nat) : Except DecodeError Instr :=
  match n % 32 with
  | 0 => if n / 32 % 32768 = 0 then .ok (.tspawn (bf n 20 5)) else .error .nonzeroField
  | 1 => if n / 32 % 32 = 0 then .ok (.tpub (bf n 20 5) (bf n 15 5) (bf n 10 5)) else .error .nonzeroField
  | 2 => if n / 32 % 1024 = 0 then .ok (.tsig (bf n 20 5) (bf n 15 5)) else .error .nonzeroField
  | 3 => if n / 32 % 1048576 = 0 then .ok .tret else .error .nonzeroField
  | 4 => if n / 32 % 1024 = 0 then .ok (.targ (bf n 20 5) (bf n 15 5)) else .error .nonzeroField
  | _ => .error .reservedCode

/-- Major 0x31, MSG: the code in bits 4:0 names the instruction (R112, R113). -/
def decodeMsg (n : Nat) : Except DecodeError Instr :=
  match n % 32 with
  | 0 => if n / 32 % 1024 = 0 then .ok (.send (bf n 20 5) (bf n 15 5)) else .error .nonzeroField
  | 1 => if n / 32 % 32 = 0 then .ok (.recv (bf n 20 5) (bf n 15 5) (bf n 10 5)) else .error .nonzeroField
  | 2 => if n / 32 % 1024 = 0 then .ok (.recvadd (bf n 20 5) (bf n 15 5)) else .error .nonzeroField
  | 3 => if n / 32 % 32 = 0 then .ok (.qbind (bf n 20 5) (bf n 15 5) (bf n 10 5)) else .error .nonzeroField
  | 4 => if n / 32 % 1024 = 0 then .ok (.qstat (bf n 20 5) (bf n 15 5)) else .error .nonzeroField
  | _ => .error .reservedCode

/-- Major 0x32, SPLC: the code in bits 4:0 names the instruction (R112, R113). -/
def decodeSplc (n : Nat) : Except DecodeError Instr :=
  match n % 32 with
  | 0 =>
    if n / 1024 % 32 = 0 then
      match n / 32 % 32 with
      | 0 => .ok (.spliceIns (bf n 20 5) (bf n 15 5))
      | 1 => .ok (.spliceEli (bf n 20 5) (bf n 15 5))
      | 2 => .ok (.spliceReb (bf n 20 5) (bf n 15 5))
      | _ => .error .illegalValue
    else .error .nonzeroField
  | 1 => if n / 32 % 32 = 0 then .ok (.splPrep (bf n 20 5) (bf n 15 5) (bf n 10 5)) else .error .nonzeroField
  | 2 => if n / 32 % 32768 = 0 then .ok (.splCmt (bf n 20 5)) else .error .nonzeroField
  | 3 => if n / 32 % 1048576 = 0 then .ok .splAbt else .error .nonzeroField
  | _ => .error .reservedCode

/-- Major 0x33, UINT: the code in bits 14:12 names the instruction (R112, R113). -/
def decodeUint (n : Nat) : Except DecodeError Instr :=
  match n / 4096 % 8 with
  | 0 => if n % 4096 = 0 ∧ n / 32768 % 1024 = 0 then .ok .uiret else .error .nonzeroField
  | 1 => if n / 64 % 64 = 0 ∧ n / 32768 % 1024 = 0 then .ok (.uien (bf n 0 6)) else .error .nonzeroField
  | 2 => if n / 64 % 64 = 0 ∧ n / 32768 % 1024 = 0 then .ok (.uidis (bf n 0 6)) else .error .nonzeroField
  | 3 => if n / 32768 % 1024 = 0 then .ok (.trap (bf n 0 12)) else .error .nonzeroField
  | _ => .error .reservedCode

/-- Major 0x34, SYS: the code in bits 14:12 names the instruction (R112, R113). -/
def decodeSys (n : Nat) : Except DecodeError Instr :=
  match n / 4096 % 8 with
  | 0 => if n / 32768 % 32 = 0 then .ok (.csrr (bf n 20 5) (bf n 0 12)) else .error .nonzeroField
  | 1 => if n / 1048576 % 32 = 0 then .ok (.csrw (bf n 15 5) (bf n 0 12)) else .error .nonzeroField
  | 2 => if n / 1048576 % 32 = 0 then .ok (.csrs (bf n 15 5) (bf n 0 12)) else .error .nonzeroField
  | 3 => if n / 1048576 % 32 = 0 then .ok (.csrc (bf n 15 5) (bf n 0 12)) else .error .nonzeroField
  | 4 => if n % 4096 = 0 ∧ n / 32768 % 1024 = 0 then .ok .xret else .error .nonzeroField
  | 5 => if n % 4096 = 0 ∧ n / 32768 % 1024 = 0 then .ok .wfi else .error .nonzeroField
  | _ => .error .reservedCode

/-- The instruction a word names by its fields, before the values of the fields are judged: the major
opcode, the code in it, the fields that must be zero (R115, orders 4 to 6). Bit 31 is not read. -/
def decodeFields (n : Nat) : Except DecodeError Instr :=
  match n / 33554432 % 64 with
  | 0 => decodeAlu n
  | 1 => .ok (.addi (bf n 20 5) (bf n 15 5) (bf n 0 15))
  | 2 => .ok (.andi (bf n 20 5) (bf n 15 5) (bf n 0 15))
  | 3 => .ok (.ori (bf n 20 5) (bf n 15 5) (bf n 0 15))
  | 4 => .ok (.xori (bf n 20 5) (bf n 15 5) (bf n 0 15))
  | 5 => decodeShiftImm n
  | 6 => .ok (.movi (bf n 20 5) (bf n 0 20))
  | 7 => .ok (.movs (bf n 20 5) (bf n 0 20))
  | 8 => decodeMulDiv n
  | 9 => decodeBits n
  | 16 => decodeVint n
  | 17 => decodeVcmp n
  | 18 => decodeVfp n
  | 19 => decodeVfma n
  | 20 => decodeVperm n
  | 21 => decodeVred n
  | 22 => if n % 2 = 0 then .ok (.vcvt (bf n 20 5) (bf n 15 5) (bf n 11 4) (bf n 7 4) (bf n 4 3) (bf n 1 3)) else .error .nonzeroField
  | 23 => decodeVtab n
  | 32 => decodeBr n
  | 33 => if n / 1048576 % 32 = 0 then .ok (.j (bf n 0 20)) else .ok (.jal (bf n 20 5) (bf n 0 20))
  | 34 => decodeJmp n
  | 35 => decodeLoop n
  | 36 => decodeGang n
  | 37 => decodeLd n
  | 38 => decodeSt n
  | 39 => .ok (.vld (bf n 20 5) (bf n 15 5) (bf n 13 2) (bf n 10 3) (bf n 0 10))
  | 40 => .ok (.vst (bf n 20 5) (bf n 15 5) (bf n 13 2) (bf n 10 3) (bf n 0 10))
  | 41 => decodeAmo n
  | 42 => decodeSync n
  | 43 => decodeXfer n
  | 44 => decodeStrm n
  | 45 => decodeCode n
  | 46 => decodeMat0 n
  | 47 => decodeMat1 n
  | 48 => decodeTask n
  | 49 => decodeMsg n
  | 50 => decodeSplc n
  | 51 => decodeUint n
  | 52 => decodeSys n
  | _ => .error .reservedMajor

/-- The decoder: the instruction a word holds, or why it holds none (R115, orders 4 to 7). -/
def decode (w : IWord) : Except DecodeError Instr :=
  match decodeFields w.toNat with
  | .error e => .error e
  | .ok i => if wellFormed i then .ok i else .error .illegalValue

/-- Majors 0x00 to 0x1F make a word A-class (R103). -/
def isAClass (w : IWord) : Bool := decide (w.toNat / 33554432 % 64 < 32)

/-- The bits of an instruction's word, from R108 to R113, with bit 31 zero. A step without a word has
none; it gets zero, which is no claim about it. -/
def encodeNat : Instr → Nat
  | .add d a b w => d.toNat * 1048576 + a.toNat * 32768 + b.toNat * 1024 + w.toNat
  | .sub d a b w => 16 + d.toNat * 1048576 + a.toNat * 32768 + b.toNat * 1024 + w.toNat
  | .and d a b w => 32 + d.toNat * 1048576 + a.toNat * 32768 + b.toNat * 1024 + w.toNat
  | .or d a b w => 48 + d.toNat * 1048576 + a.toNat * 32768 + b.toNat * 1024 + w.toNat
  | .xor d a b w => 64 + d.toNat * 1048576 + a.toNat * 32768 + b.toNat * 1024 + w.toNat
  | .andn d a b w => 80 + d.toNat * 1048576 + a.toNat * 32768 + b.toNat * 1024 + w.toNat
  | .shl d a b w => 96 + d.toNat * 1048576 + a.toNat * 32768 + b.toNat * 1024 + w.toNat
  | .shr d a b w => 112 + d.toNat * 1048576 + a.toNat * 32768 + b.toNat * 1024 + w.toNat
  | .sra d a b w => 128 + d.toNat * 1048576 + a.toNat * 32768 + b.toNat * 1024 + w.toNat
  | .rol d a b w => 144 + d.toNat * 1048576 + a.toNat * 32768 + b.toNat * 1024 + w.toNat
  | .slt d a b w => 160 + d.toNat * 1048576 + a.toNat * 32768 + b.toNat * 1024 + w.toNat
  | .sltn d a b w => 176 + d.toNat * 1048576 + a.toNat * 32768 + b.toNat * 1024 + w.toNat
  | .min d a b w => 192 + d.toNat * 1048576 + a.toNat * 32768 + b.toNat * 1024 + w.toNat
  | .max d a b w => 208 + d.toNat * 1048576 + a.toNat * 32768 + b.toNat * 1024 + w.toNat
  | .minn d a b w => 224 + d.toNat * 1048576 + a.toNat * 32768 + b.toNat * 1024 + w.toNat
  | .maxn d a b w => 240 + d.toNat * 1048576 + a.toNat * 32768 + b.toNat * 1024 + w.toNat
  | .sel d a b p => 256 + d.toNat * 1048576 + a.toNat * 32768 + b.toNat * 1024 + p.toNat
  | .addi d a i => 33554432 + d.toNat * 1048576 + a.toNat * 32768 + i.toNat
  | .andi d a i => 67108864 + d.toNat * 1048576 + a.toNat * 32768 + i.toNat
  | .ori d a i => 100663296 + d.toNat * 1048576 + a.toNat * 32768 + i.toNat
  | .xori d a i => 134217728 + d.toNat * 1048576 + a.toNat * 32768 + i.toNat
  | .shli d a n => 167772160 + d.toNat * 1048576 + a.toNat * 32768 + n.toNat
  | .shri d a n => 167780352 + d.toNat * 1048576 + a.toNat * 32768 + n.toNat
  | .srai d a n => 167788544 + d.toNat * 1048576 + a.toNat * 32768 + n.toNat
  | .roli d a n => 167796736 + d.toNat * 1048576 + a.toNat * 32768 + n.toNat
  | .movi d i => 201326592 + d.toNat * 1048576 + i.toNat
  | .movs d i => 234881024 + d.toNat * 1048576 + i.toNat
  | .mul d a b w => 268435456 + d.toNat * 1048576 + a.toNat * 32768 + b.toNat * 1024 + w.toNat
  | .mulh d a b w => 268435472 + d.toNat * 1048576 + a.toNat * 32768 + b.toNat * 1024 + w.toNat
  | .mulhn d a b w => 268435488 + d.toNat * 1048576 + a.toNat * 32768 + b.toNat * 1024 + w.toNat
  | .div d a b w => 268435504 + d.toNat * 1048576 + a.toNat * 32768 + b.toNat * 1024 + w.toNat
  | .divn d a b w => 268435520 + d.toNat * 1048576 + a.toNat * 32768 + b.toNat * 1024 + w.toNat
  | .rem d a b w => 268435536 + d.toNat * 1048576 + a.toNat * 32768 + b.toNat * 1024 + w.toNat
  | .remn d a b w => 268435552 + d.toNat * 1048576 + a.toNat * 32768 + b.toNat * 1024 + w.toNat
  | .clz d a w => 301989888 + d.toNat * 1048576 + a.toNat * 32768 + w.toNat
  | .ctz d a w => 301989904 + d.toNat * 1048576 + a.toNat * 32768 + w.toNat
  | .pop d a w => 301989920 + d.toNat * 1048576 + a.toNat * 32768 + w.toNat
  | .brev d a w => 301989936 + d.toNat * 1048576 + a.toNat * 32768 + w.toNat
  | .sext d a b w => 301989952 + d.toNat * 1048576 + a.toNat * 32768 + b.toNat * 1024 + w.toNat
  | .zext d a b w => 301989968 + d.toNat * 1048576 + a.toNat * 32768 + b.toNat * 1024 + w.toNat
  | .bext d a b w => 301989984 + d.toNat * 1048576 + a.toNat * 32768 + b.toNat * 1024 + w.toNat
  | .bins d a b w => 301990000 + d.toNat * 1048576 + a.toNat * 32768 + b.toNat * 1024 + w.toNat
  | .vadd d a b p l => 536870912 + d.toNat * 1048576 + a.toNat * 32768 + b.toNat * 1024 + p.toNat * 128 + l.toNat * 32
  | .vsub d a b p l => 536870913 + d.toNat * 1048576 + a.toNat * 32768 + b.toNat * 1024 + p.toNat * 128 + l.toNat * 32
  | .vmul d a b p l => 536870914 + d.toNat * 1048576 + a.toNat * 32768 + b.toNat * 1024 + p.toNat * 128 + l.toNat * 32
  | .vmulh d a b p l => 536870915 + d.toNat * 1048576 + a.toNat * 32768 + b.toNat * 1024 + p.toNat * 128 + l.toNat * 32
  | .vmulhn d a b p l => 536870916 + d.toNat * 1048576 + a.toNat * 32768 + b.toNat * 1024 + p.toNat * 128 + l.toNat * 32
  | .vmin d a b p l => 536870917 + d.toNat * 1048576 + a.toNat * 32768 + b.toNat * 1024 + p.toNat * 128 + l.toNat * 32
  | .vmax d a b p l => 536870918 + d.toNat * 1048576 + a.toNat * 32768 + b.toNat * 1024 + p.toNat * 128 + l.toNat * 32
  | .vminn d a b p l => 536870919 + d.toNat * 1048576 + a.toNat * 32768 + b.toNat * 1024 + p.toNat * 128 + l.toNat * 32
  | .vmaxn d a b p l => 536870920 + d.toNat * 1048576 + a.toNat * 32768 + b.toNat * 1024 + p.toNat * 128 + l.toNat * 32
  | .vabs d a p l => 536870921 + d.toNat * 1048576 + a.toNat * 32768 + p.toNat * 128 + l.toNat * 32
  | .vneg d a p l => 536870922 + d.toNat * 1048576 + a.toNat * 32768 + p.toNat * 128 + l.toNat * 32
  | .vand d a b p l => 536870923 + d.toNat * 1048576 + a.toNat * 32768 + b.toNat * 1024 + p.toNat * 128 + l.toNat * 32
  | .vor d a b p l => 536870924 + d.toNat * 1048576 + a.toNat * 32768 + b.toNat * 1024 + p.toNat * 128 + l.toNat * 32
  | .vxor d a b p l => 536870925 + d.toNat * 1048576 + a.toNat * 32768 + b.toNat * 1024 + p.toNat * 128 + l.toNat * 32
  | .vandn d a b p l => 536870926 + d.toNat * 1048576 + a.toNat * 32768 + b.toNat * 1024 + p.toNat * 128 + l.toNat * 32
  | .vshl d a b p l => 536870927 + d.toNat * 1048576 + a.toNat * 32768 + b.toNat * 1024 + p.toNat * 128 + l.toNat * 32
  | .vshr d a b p l => 536870928 + d.toNat * 1048576 + a.toNat * 32768 + b.toNat * 1024 + p.toNat * 128 + l.toNat * 32
  | .vsra d a b p l => 536870929 + d.toNat * 1048576 + a.toNat * 32768 + b.toNat * 1024 + p.toNat * 128 + l.toNat * 32
  | .vadds d a b p l => 536870930 + d.toNat * 1048576 + a.toNat * 32768 + b.toNat * 1024 + p.toNat * 128 + l.toNat * 32
  | .vaddsn d a b p l => 536870931 + d.toNat * 1048576 + a.toNat * 32768 + b.toNat * 1024 + p.toNat * 128 + l.toNat * 32
  | .vsubs d a b p l => 536870932 + d.toNat * 1048576 + a.toNat * 32768 + b.toNat * 1024 + p.toNat * 128 + l.toNat * 32
  | .vsubsn d a b p l => 536870933 + d.toNat * 1048576 + a.toNat * 32768 + b.toNat * 1024 + p.toNat * 128 + l.toNat * 32
  | .vavg d a b p l => 536870934 + d.toNat * 1048576 + a.toNat * 32768 + b.toNat * 1024 + p.toNat * 128 + l.toNat * 32
  | .vavgn d a b p l => 536870935 + d.toNat * 1048576 + a.toNat * 32768 + b.toNat * 1024 + p.toNat * 128 + l.toNat * 32
  | .vcmpeq d a b p l => 570425344 + d.toNat * 1048576 + a.toNat * 32768 + b.toNat * 1024 + p.toNat * 128 + l.toNat * 32
  | .vcmpne d a b p l => 570425345 + d.toNat * 1048576 + a.toNat * 32768 + b.toNat * 1024 + p.toNat * 128 + l.toNat * 32
  | .vcmplt d a b p l => 570425346 + d.toNat * 1048576 + a.toNat * 32768 + b.toNat * 1024 + p.toNat * 128 + l.toNat * 32
  | .vcmple d a b p l => 570425347 + d.toNat * 1048576 + a.toNat * 32768 + b.toNat * 1024 + p.toNat * 128 + l.toNat * 32
  | .vcmpltn d a b p l => 570425348 + d.toNat * 1048576 + a.toNat * 32768 + b.toNat * 1024 + p.toNat * 128 + l.toNat * 32
  | .vcmplen d a b p l => 570425349 + d.toNat * 1048576 + a.toNat * 32768 + b.toNat * 1024 + p.toNat * 128 + l.toNat * 32
  | .vfcmpeq d a b p l => 570425350 + d.toNat * 1048576 + a.toNat * 32768 + b.toNat * 1024 + p.toNat * 128 + l.toNat * 32
  | .vfcmplt d a b p l => 570425351 + d.toNat * 1048576 + a.toNat * 32768 + b.toNat * 1024 + p.toNat * 128 + l.toNat * 32
  | .vfcmple d a b p l => 570425352 + d.toNat * 1048576 + a.toNat * 32768 + b.toNat * 1024 + p.toNat * 128 + l.toNat * 32
  | .vfcmpun d a b p l => 570425353 + d.toNat * 1048576 + a.toNat * 32768 + b.toNat * 1024 + p.toNat * 128 + l.toNat * 32
  | .vfadd d a b p l => 603979776 + d.toNat * 1048576 + a.toNat * 32768 + b.toNat * 1024 + p.toNat * 128 + l.toNat * 32
  | .vfsub d a b p l => 603979777 + d.toNat * 1048576 + a.toNat * 32768 + b.toNat * 1024 + p.toNat * 128 + l.toNat * 32
  | .vfmul d a b p l => 603979778 + d.toNat * 1048576 + a.toNat * 32768 + b.toNat * 1024 + p.toNat * 128 + l.toNat * 32
  | .vfmin d a b p l => 603979779 + d.toNat * 1048576 + a.toNat * 32768 + b.toNat * 1024 + p.toNat * 128 + l.toNat * 32
  | .vfmax d a b p l => 603979780 + d.toNat * 1048576 + a.toNat * 32768 + b.toNat * 1024 + p.toNat * 128 + l.toNat * 32
  | .vfabs d a p l => 603979781 + d.toNat * 1048576 + a.toNat * 32768 + p.toNat * 128 + l.toNat * 32
  | .vfneg d a p l => 603979782 + d.toNat * 1048576 + a.toNat * 32768 + p.toNat * 128 + l.toNat * 32
  | .vfrcp d a p l => 603979783 + d.toNat * 1048576 + a.toNat * 32768 + p.toNat * 128 + l.toNat * 32
  | .vfrsq d a p l => 603979784 + d.toNat * 1048576 + a.toNat * 32768 + p.toNat * 128 + l.toNat * 32
  | .vfma d a b c l => 637534208 + d.toNat * 1048576 + a.toNat * 32768 + b.toNat * 1024 + c.toNat * 32 + l.toNat * 8
  | .vfms d a b c l => 637534209 + d.toNat * 1048576 + a.toNat * 32768 + b.toNat * 1024 + c.toNat * 32 + l.toNat * 8
  | .vfnma d a b c l => 637534210 + d.toNat * 1048576 + a.toNat * 32768 + b.toNat * 1024 + c.toNat * 32 + l.toNat * 8
  | .vfnms d a b c l => 637534211 + d.toNat * 1048576 + a.toNat * 32768 + b.toNat * 1024 + c.toNat * 32 + l.toNat * 8
  | .vmac d a b c l => 637534212 + d.toNat * 1048576 + a.toNat * 32768 + b.toNat * 1024 + c.toNat * 32 + l.toNat * 8
  | .vmacn d a b c l => 637534213 + d.toNat * 1048576 + a.toNat * 32768 + b.toNat * 1024 + c.toNat * 32 + l.toNat * 8
  | .vshuf d a b p l => 671088640 + d.toNat * 1048576 + a.toNat * 32768 + b.toNat * 1024 + p.toNat * 128 + l.toNat * 32
  | .vsplat d a p l => 671088641 + d.toNat * 1048576 + a.toNat * 32768 + p.toNat * 128 + l.toNat * 32
  | .vext d a b l => 671088642 + d.toNat * 1048576 + a.toNat * 32768 + b.toNat * 1024 + l.toNat * 32
  | .vins d a b p l => 671088643 + d.toNat * 1048576 + a.toNat * 32768 + b.toNat * 1024 + p.toNat * 128 + l.toNat * 32
  | .vzip d a b p l => 671088644 + d.toNat * 1048576 + a.toNat * 32768 + b.toNat * 1024 + p.toNat * 128 + l.toNat * 32
  | .vunzip d a b p l => 671088645 + d.toNat * 1048576 + a.toNat * 32768 + b.toNat * 1024 + p.toNat * 128 + l.toNat * 32
  | .vrot d a b p l => 671088646 + d.toNat * 1048576 + a.toNat * 32768 + b.toNat * 1024 + p.toNat * 128 + l.toNat * 32
  | .vsel d a b p l => 671088647 + d.toNat * 1048576 + a.toNat * 32768 + b.toNat * 1024 + p.toNat * 128 + l.toNat * 32
  | .vmov d a p l => 671088648 + d.toNat * 1048576 + a.toNat * 32768 + p.toNat * 128 + l.toNat * 32
  | .vredadd d a p l => 704643072 + d.toNat * 1048576 + a.toNat * 32768 + p.toNat * 128 + l.toNat * 32
  | .vfredadd d a p l => 704643073 + d.toNat * 1048576 + a.toNat * 32768 + p.toNat * 128 + l.toNat * 32
  | .vredmin d a p l => 704643074 + d.toNat * 1048576 + a.toNat * 32768 + p.toNat * 128 + l.toNat * 32
  | .vredmax d a p l => 704643075 + d.toNat * 1048576 + a.toNat * 32768 + p.toNat * 128 + l.toNat * 32
  | .vredminn d a p l => 704643076 + d.toNat * 1048576 + a.toNat * 32768 + p.toNat * 128 + l.toNat * 32
  | .vredmaxn d a p l => 704643077 + d.toNat * 1048576 + a.toNat * 32768 + p.toNat * 128 + l.toNat * 32
  | .vdot8 d a b p l => 704643078 + d.toNat * 1048576 + a.toNat * 32768 + b.toNat * 1024 + p.toNat * 128 + l.toNat * 32
  | .vdot8n d a b p l => 704643079 + d.toNat * 1048576 + a.toNat * 32768 + b.toNat * 1024 + p.toNat * 128 + l.toNat * 32
  | .vpop d a p l => 704643080 + d.toNat * 1048576 + a.toNat * 32768 + p.toNat * 128 + l.toNat * 32
  | .vclz d a p l => 704643081 + d.toNat * 1048576 + a.toNat * 32768 + p.toNat * 128 + l.toNat * 32
  | .vctz d a p l => 704643082 + d.toNat * 1048576 + a.toNat * 32768 + p.toNat * 128 + l.toNat * 32
  | .vcvt d a t u r p => 738197504 + d.toNat * 1048576 + a.toNat * 32768 + t.toNat * 2048 + u.toNat * 128 + r.toNat * 16 + p.toNat * 2
  | .vdec d a f k t => 771751936 + d.toNat * 1048576 + a.toNat * 32768 + f.toNat * 16384 + k.toNat * 1024 + t.toNat * 256
  | .venc d a f k t r => 771751937 + d.toNat * 1048576 + a.toNat * 32768 + f.toNat * 16384 + k.toNat * 1024 + t.toNat * 256 + r.toNat * 32
  | .segev d a t => 771751938 + d.toNat * 1048576 + a.toNat * 32768 + t.toNat * 256
  | .beq a b o => 1073741824 + a.toNat * 131072 + b.toNat * 4096 + o.toNat
  | .bne a b o => 1077936128 + a.toNat * 131072 + b.toNat * 4096 + o.toNat
  | .blt a b o => 1082130432 + a.toNat * 131072 + b.toNat * 4096 + o.toNat
  | .bge a b o => 1086324736 + a.toNat * 131072 + b.toNat * 4096 + o.toNat
  | .bltn a b o => 1090519040 + a.toNat * 131072 + b.toNat * 4096 + o.toNat
  | .bgen a b o => 1094713344 + a.toNat * 131072 + b.toNat * 4096 + o.toNat
  | .bpany a o => 1098907648 + a.toNat * 131072 + o.toNat
  | .bpnone a o => 1103101952 + a.toNat * 131072 + o.toNat
  | .jal d o => 1107296256 + d.toNat * 1048576 + o.toNat
  | .j o => 1107296256 + o.toNat
  | .jr a => 1140850688 + a.toNat * 32768
  | .jalr d a => 1140854784 + d.toNat * 1048576 + a.toNat * 32768
  | .ret => 1140858880
  | .fjmp a => 1140862976 + a.toNat * 32768
  | .loop l c n => 1174405120 + l.toNat * 8388608 + c.toNat * 262144 + n.toNat * 4096
  | .loopx l c n s => 1174407168 + l.toNat * 8388608 + c.toNat * 262144 + n.toNat * 4096 + s.toNat * 64
  | .fuse a => 1207959552 + a.toNat * 32768
  | .split => 1207963648
  | .yield a => 1207967744 + a.toNat * 32768
  | .park a => 1207971840 + a.toNat * 32768
  | .ldb t b i e o => 1241513984 + t.toNat * 1048576 + b.toNat * 32768 + i.toNat * 8192 + e.toNat * 1024 + o.toNat
  | .ldh t b i e o => 1241516032 + t.toNat * 1048576 + b.toNat * 32768 + i.toNat * 8192 + e.toNat * 1024 + o.toNat
  | .ldw t b i e o => 1241518080 + t.toNat * 1048576 + b.toNat * 32768 + i.toNat * 8192 + e.toNat * 1024 + o.toNat
  | .ldd t b i o => 1241520128 + t.toNat * 1048576 + b.toNat * 32768 + i.toNat * 8192 + o.toNat
  | .stb t b i e o => 1275068416 + t.toNat * 1048576 + b.toNat * 32768 + i.toNat * 8192 + e.toNat * 1024 + o.toNat
  | .sth t b i e o => 1275070464 + t.toNat * 1048576 + b.toNat * 32768 + i.toNat * 8192 + e.toNat * 1024 + o.toNat
  | .stw t b i e o => 1275072512 + t.toNat * 1048576 + b.toNat * 32768 + i.toNat * 8192 + e.toNat * 1024 + o.toNat
  | .std t b i e o => 1275074560 + t.toNat * 1048576 + b.toNat * 32768 + i.toNat * 8192 + e.toNat * 1024 + o.toNat
  | .vld t b i p o => 1308622848 + t.toNat * 1048576 + b.toNat * 32768 + i.toNat * 8192 + p.toNat * 1024 + o.toNat
  | .vst t b i p o => 1342177280 + t.toNat * 1048576 + b.toNat * 32768 + i.toNat * 8192 + p.toNat * 1024 + o.toNat
  | .aadd t b s i w => 1375731712 + t.toNat * 1048576 + b.toNat * 32768 + s.toNat * 1024 + i.toNat * 256 + w.toNat * 128
  | .aand t b s i w => 1375731720 + t.toNat * 1048576 + b.toNat * 32768 + s.toNat * 1024 + i.toNat * 256 + w.toNat * 128
  | .aor t b s i w => 1375731728 + t.toNat * 1048576 + b.toNat * 32768 + s.toNat * 1024 + i.toNat * 256 + w.toNat * 128
  | .axor t b s i w => 1375731736 + t.toNat * 1048576 + b.toNat * 32768 + s.toNat * 1024 + i.toNat * 256 + w.toNat * 128
  | .amin t b s i w => 1375731744 + t.toNat * 1048576 + b.toNat * 32768 + s.toNat * 1024 + i.toNat * 256 + w.toNat * 128
  | .amax t b s i w => 1375731752 + t.toNat * 1048576 + b.toNat * 32768 + s.toNat * 1024 + i.toNat * 256 + w.toNat * 128
  | .aminn t b s i w => 1375731760 + t.toNat * 1048576 + b.toNat * 32768 + s.toNat * 1024 + i.toNat * 256 + w.toNat * 128
  | .amaxn t b s i w => 1375731768 + t.toNat * 1048576 + b.toNat * 32768 + s.toNat * 1024 + i.toNat * 256 + w.toNat * 128
  | .aswap t b s i w => 1375731776 + t.toNat * 1048576 + b.toNat * 32768 + s.toNat * 1024 + i.toNat * 256 + w.toNat * 128
  | .acas t b s i w => 1375731784 + t.toNat * 1048576 + b.toNat * 32768 + s.toNat * 1024 + i.toNat * 256 + w.toNat * 128
  | .afadd t b s i => 1375731792 + t.toNat * 1048576 + b.toNat * 32768 + s.toNat * 1024 + i.toNat * 256
  | .fence a => 1409286144 + a.toNat * 32768
  | .seti a b n => 1409290240 + a.toNat * 32768 + b.toNat * 1024 + n.toNat
  | .rds d n => 1409294336 + d.toNat * 1048576 + n.toNat
  | .wrs a n => 1409298432 + a.toNat * 32768 + n.toNat
  | .qrd q n => 1409302528 + q.toNat * 1048576 + n.toNat
  | .qst q a o => 1409306624 + q.toNat * 1048576 + a.toNat * 32768 + o.toNat
  | .xcopy d a b c => 1442840576 + d.toNat * 1048576 + a.toNat * 32768 + b.toNat * 1024 + c.toNat * 32
  | .xstat d a => 1442840577 + d.toNat * 1048576 + a.toNat * 32768
  | .xwait d => 1442840578 + d.toNat * 1048576
  | .sbind d a b => 1476395008 + d.toNat * 1048576 + a.toNat * 32768 + b.toNat * 1024
  | .sunbind d => 1476395009 + d.toNat * 1048576
  | .sstat d a => 1476395010 + d.toNat * 1048576 + a.toNat * 32768
  | .cfetch a f => 1509949440 + a.toNat * 32768 + f.toNat
  | .cstat d f => 1509953536 + d.toNat * 1048576 + f.toNat
  | .dtld a v n t => 1509957632 + a.toNat * 32768 + v.toNat * 1024 + n.toNat * 4 + t.toNat
  | .segld a t => 1509961728 + a.toNat * 32768 + t.toNat
  | .mclaim p => 1543503872 + p.toNat * 2097152
  | .mrel p => 1543503904 + p.toNat * 2097152
  | .mload p g k => 1543503936 + p.toNat * 2097152 + g.toNat * 256 + k.toNat
  | .mstore p g k => 1543503968 + p.toNat * 2097152 + g.toNat * 256 + k.toNat
  | .mzero p => 1543504000 + p.toNat * 2097152
  | .mma p q s c => 1577058304 + p.toNat * 2097152 + q.toNat * 131072 + s.toNat * 8192 + c.toNat
  | .mmas p q s g x c => 1577058336 + p.toNat * 2097152 + q.toNat * 131072 + s.toNat * 8192 + g.toNat * 256 + x.toNat * 2 + c.toNat
  | .mscale q g l => 1577058368 + q.toNat * 131072 + g.toNat * 256 + l.toNat
  | .mcvt p q r k => 1577058400 + p.toNat * 2097152 + q.toNat * 131072 + r.toNat * 256 + k.toNat
  | .mtr p => 1577058432 + p.toNat * 2097152
  | .tspawn d => 1610612736 + d.toNat * 1048576
  | .tpub d a b => 1610612737 + d.toNat * 1048576 + a.toNat * 32768 + b.toNat * 1024
  | .tsig d a => 1610612738 + d.toNat * 1048576 + a.toNat * 32768
  | .tret => 1610612739
  | .targ d a => 1610612740 + d.toNat * 1048576 + a.toNat * 32768
  | .send d a => 1644167168 + d.toNat * 1048576 + a.toNat * 32768
  | .recv d a b => 1644167169 + d.toNat * 1048576 + a.toNat * 32768 + b.toNat * 1024
  | .recvadd d a => 1644167170 + d.toNat * 1048576 + a.toNat * 32768
  | .qbind d a b => 1644167171 + d.toNat * 1048576 + a.toNat * 32768 + b.toNat * 1024
  | .qstat d a => 1644167172 + d.toNat * 1048576 + a.toNat * 32768
  | .spliceIns d a => 1677721600 + d.toNat * 1048576 + a.toNat * 32768
  | .spliceEli d a => 1677721632 + d.toNat * 1048576 + a.toNat * 32768
  | .spliceReb d a => 1677721664 + d.toNat * 1048576 + a.toNat * 32768
  | .splPrep d a b => 1677721601 + d.toNat * 1048576 + a.toNat * 32768 + b.toNat * 1024
  | .splCmt d => 1677721602 + d.toNat * 1048576
  | .splAbt => 1677721603
  | .uiret => 1711276032
  | .uien m => 1711280128 + m.toNat
  | .uidis m => 1711284224 + m.toNat
  | .trap n => 1711288320 + n.toNat
  | .csrr d n => 1744830464 + d.toNat * 1048576 + n.toNat
  | .csrw a n => 1744834560 + a.toNat * 32768 + n.toNat
  | .csrs a n => 1744838656 + a.toNat * 32768 + n.toNat
  | .csrc a n => 1744842752 + a.toNat * 32768 + n.toNat
  | .xret => 1744846848
  | .wfi => 1744850944
  | .illegalWordIssue _ => 0
  | .doubleTrapRecovery _ => 0
  | .deferredFaultTake => 0
  | .systemEventTake => 0
  | .userInterruptEntry => 0
  | .instantBoundary => 0
  | .homeStoreAccept _ => 0
  | .homeLoadRequest _ _ => 0
  | .roCacheFill _ _ => 0
  | .storeAck _ => 0
  | .lateReport _ => 0
  | .tieReport _ => 0
  | .remoteReply _ _ => 0
  | .taskPurgeSend _ => 0
  | .purgeApply _ _ => 0
  | .faultPolicyApply _ => 0
  | .publish _ => 0
  | .signal _ => 0
  | .heldGenerationApply _ => 0
  | .tcbReclaim _ => 0
  | .clusterRecordArrival _ => 0
  | .overflowReturn _ => 0
  | .takeRecord _ => 0
  | .priorityAging _ => 0
  | .nearHintExpiry _ => 0
  | .autoPark _ => 0
  | .yieldResume _ => 0
  | .gangWaitSplit _ => 0
  | .fuseTimeout _ => 0
  | .copyAccept _ => 0
  | .copyComplete _ _ => 0
  | .codeFetchComplete _ _ _ => 0
  | .dtldComplete _ => 0
  | .segldComplete _ => 0
  | .mloadLand _ _ => 0
  | .recordArrival _ => 0
  | .mailboxWrite _ => 0
  | .spliceWatchdogExpiry _ _ => 0
  | .splicePrepEnd _ => 0
  | .seamArrival _ => 0
  | .seamSeenReport _ => 0
  | .spliceLink _ => 0
  | .linkAck _ => 0
  | .flitReceive _ _ _ => 0
  | .portDown _ => 0
  | .portReroute _ _ => 0
  | .fabricInboundRequest _ => 0
  | .timeBeacon _ _ _ _ => 0
  | .beaconSend => 0
  | .lockLoss => 0
  | .pageWalk _ => 0
  | .tmcmdMap _ _ _ => 0
  | .tmcmdUnmap _ _ _ => 0
  | .tmCommandComplete _ => 0
  | .pmcmdMove _ _ _ => 0
  | .homeHandover _ => 0
  | .handoverApply _ => 0
  | .moveComplete _ => 0
  | .dispenserHomeMove _ _ _ _ => 0
  | .vdreqWrite _ _ _ => 0
  | .vdDrainDone _ _ => 0
  | .vdSwitchDone _ _ => 0
  | .droopDetect _ _ _ => 0
  | .coreArrayError _ _ _ => 0
  | .clusterWithhold _ _ _ => 0
  | .clusterUnwithhold _ _ _ => 0
  | .starvationGrant _ => 0
  | .xmigRidgeWrite _ _ => 0
  | .migrationDeadline _ => 0
  | .xtendWrite _ => 0
  | .xnisSpill _ => 0
  | .xnisReinject _ => 0
  | .copySquash => 0
  | .copyReissue => 0
  | .sccmdStop _ _ _ => 0
  | .coreStop _ => 0
  | .imageStreamDone _ => 0
  | .sccmdRestore _ _ _ => 0
  | .restoreDone _ => 0
  | .mgcmdMove _ _ _ => 0
  | .mgcmdDone _ => 0
  | .stragglerForward _ => 0
  | .drainMarkerSend _ => 0
  | .drainMarker _ _ => 0
  | .drelWrite _ _ => 0
  | .dabortWrite _ _ => 0
  | .dheldRead _ => 0
  | .digestStart _ _ => 0
  | .digestDone _ => 0
  | .exclusionWrite _ _ _ => 0
  | .hostEnqueueWrite _ _ _ => 0
  | .hostMailboxWrite _ _ _ => 0
  | .hostCopyToModule _ => 0
  | .hostCopyToHost _ => 0
  | .hostCopyDone _ => 0
  | .fwUpdate _ _ _ _ => 0
  | .fwReconfigure _ => 0
  | .fwHeartbeat => 0
  | .fwHeartbeatTimeout => 0
  | .iperiodWrite _ => 0
  | .thermalTrip _ _ => 0
  | .triprstWrite _ _ => 0
  | .powerOn _ _ _ => 0
  | .powerLoss => 0
  | .registerWrite _ _ _ _ => 0
  | .bankAccessPerformed _ _ => 0
  | .streamDataArrival _ _ => 0
  | .matrixInstructionDone _ => 0
  | .xnisCommandDone _ => 0
  | .stagedMessageSent _ _ => 0
  | .purlinPortUp _ _ => 0
  | .imageLoad _ _ _ => 0

/-- The word of a well-formed instruction, bit 31 zero. -/
def encode (i : Instr) : IWord := BitVec.ofNat 32 (encodeNat i)

/-- The bytes of a word as the hardware stores it: little-endian (R6). -/
def wordBytes (w : IWord) : List Byte :=
  [w.extractLsb' 0 8, w.extractLsb' 8 8, w.extractLsb' 16 8, w.extractLsb' 24 8]

/-- The word four stored bytes hold. -/
def bytesWord (b0 b1 b2 b3 : Byte) : IWord := b3 ++ b2 ++ b1 ++ b0

/-- The instruction the decoder reads from a table word: its bytes laid out as stored and read back. -/
def decodeTableWord (nbits w : Nat) : Option Instr :=
  match wordBytes (BitVec.ofNat 32 (w % 2 ^ nbits)) with
  | [b0, b1, b2, b3] =>
    match decode (bytesWord b0 b1 b2 b3) with
    | .ok i => some i
    | .error _ => none
  | _ => none

end Sys2Proof
end

