-- ==== Sys2Proof/Machine/State.lean ====
section
/-! DEFINITION. The state of the machine as plain data: the acting core whole, every other core, the
device around them, and the agenda that says what happens next. -/

namespace Sys2Proof.Machine

/-- Why a step stops the run. -/
inductive Fault where
  /-- Raised by `step` while the part has no power (R335): nothing but a power-on happens. Safe: the hardware does
  nothing either. -/
  | noPower
  /-- Raised by `step` while the part stands at a failed step of bring-up (R336): it halts there, and nothing but a
  power-on happens. Safe. -/
  | halted
  deriving DecidableEq, Repr

/-- Why an instruction has no meaning. -/
inductive Refusal where
  /-- An instruction of the table that the model does not reach yet. Safe. -/
  | notModelled (mnemonic : String)
  deriving DecidableEq, Repr

/-- A byte memory: the listed bytes, addresses strictly rising, none listed that reads as an unlisted
address does. An unlisted address reads as zero (R68, R128; for TCM, the scratchpad and page tables
log entry 2). -/
abbrev Memory := List Host.Cell

/-- A sparse table by number, numbers strictly rising. -/
abbrev Assoc (α : Type) := List (Nat × α)

/-- The mode of a core (R253). -/
inductive Mode where
  | user | supervisor
  deriving DecidableEq, Repr

/-- How a context leaves its core when the clause retires: `park` or a parking `yield` with a live mask,
or `tret`. -/
inductive Leave where
  | park (mask : Word)
  | boundary (mask : Word)
  | retire
  deriving DecidableEq, Repr

/-- How an instruction ends: on to the next word, a taken branch or jump, a zero-trip loop ending at an
address, a precise trap (or the trap of `trap`, taken after it retires), a return from a handler, a context
that leaves its core, or a wait. -/
inductive Flow where
  | next
  | jump (target : BitVec 16)
  | zeroTrip (stop : Nat)
  | trap (code : BitVec 8) (val val2 : Word)
  | trapAfter (code : BitVec 8) (val : Word)
  | userReturn
  | trapReturn
  | leave (l : Leave)
  | stay
  deriving DecidableEq, Repr

/-- What a waiting instruction waits for; the first six have the reason codes of R34. -/
inductive WaitReason where
  | fullEmpty | future | queue | copy | remote
  | yieldRel | fuse | copySlot | remoteSlot | streamData | table | slot | staging | prep | drain | event | seam
  deriving DecidableEq, Repr

/-- A wait in progress: what for, the object of R34, and the core cycles it has lasted. -/
structure Wait where
  reason : WaitReason
  obj : Word
  cycles : Nat
  deriving DecidableEq, Repr

/-- One hardware loop level (R129, R134). `cap` holds the clauses captured on the first pass (R132). -/
structure LoopLevel where
  active : Bool
  start : Nat
  stop : Nat
  step : Word
  pass : Nat
  lc : Word
  cap : List (Nat × Word)
  deriving DecidableEq, Repr

/-- An inactive level whose counter holds zero. -/
def LoopLevel.idle : LoopLevel := ⟨false, 0, 0, 0, 0, 0, []⟩

/-- The register files (R14). `bank` is the hidden bank of g12 to g19 (R173). -/
structure Regs where
  g : Vector Word 32
  v : Vector VReg 32
  p : Vector (BitVec 16) 8
  q : Vector Word 8
  bank : Vector Word 8
  deriving DecidableEq, Repr

/-- The status words a context or core holds (R114) that have no other home. -/
structure StatusWords where
  ix : BitVec 56
  mbox : Vector Word 4
  mboxf : BitVec 4
  uepc : BitVec 16
  ucause : BitVec 8
  uval : Word
  uvec : BitVec 16
  en : BitVec 6
  pend : BitVec 6
  /-- The `uval` each pending cause will give (R171). -/
  pendVal : Vector Word 6
  fstat : BitVec 7
  late : Word
  tie : Word
  stkb : Word
  stkl : Word
  scope : BitVec 37
  rscope : BitVec 2
  parkCycles : BitVec 32
  deriving DecidableEq, Repr

/-- The control and status registers (R254). -/
structure Csrs where
  me : Bool
  sb : Bool
  la : Bool
  puh : Bool
  pm : Mode
  tip : Bool
  xepc : BitVec 16
  xcause : BitVec 8
  xval : Word
  xval2 : Word
  xtvec : BitVec 16
  xscratch : Word
  req : Bool
  why : BitVec 2
  target : BitVec 18
  nisBusy : Bool
  /-- The command in progress, as written. -/
  nisCmd : Word
  nisErr : Bool
  nisCount : BitVec 16
  supEn : Bool
  ifr : BitVec 4
  tfr : BitVec 4
  sstkb : Word
  sstkl : Word
  sRscope : BitVec 2
  sParkCycles : BitVec 32
  sscope : BitVec 37
  suvec : BitVec 16
  suien : BitVec 6
  prof : Vector Word 8
  deriving DecidableEq, Repr

/-- The context of a task on a core: what the TCB gives the core (R32, R72, R208, R217). -/
structure Ctx where
  token : Word
  /-- The start of the task on its core, which tells it from every other start of a task: not the spec's (log entry 18). -/
  run : Nat
  part : Nat
  node : Nat
  /-- The node under which its TCB stands; a rebind changes `node` alone (R235). -/
  tcbNode : Nat
  wid : Word
  gen : BitVec 16
  rel : Nat
  pub : Nat
  budget : Nat
  prio : Nat
  nowOnly : Bool
  preempt : Bool
  seq : Nat
  /-- Group boundaries passed (R40, R282). -/
  groups : Nat
  inline : Option Nat
  /-- The reply endpoint in bits 40:0, RV in bit 63 (R218). -/
  reply : Word
  poison : Bool
  copies : Nat
  deriving DecidableEq, Repr

/-- A deferred task fault not yet taken (R149, R261). -/
structure Deferred where
  cause : BitVec 8
  addr : Word
  clause : BitVec 16
  /-- The copy that the fault ends, by its tag (R162, R243). -/
  copy : Option Nat
  deriving DecidableEq, Repr

/-- Why a core's clock stands (R264, R304). -/
inductive StopWhy where
  | doubleTrap
  | image (reason : BitVec 8)
  deriving DecidableEq, Repr

/-- What a core does: it issues clauses, it waits for work (R275), or it waits for the code of the
task placed on it (R246). -/
inductive RunState where
  | running
  | idle
  | codeWait (frame : Nat)
  deriving DecidableEq, Repr

/-- The execution state of a core. `inPair` and `flow` are the model's own: they carry a paired
clause in progress (log entry 3). -/
structure ExecState where
  pc : BitVec 16
  mode : Mode
  inHandler : Bool
  /-- The handler's g12 to g19 are the ones in use, as they are in a supervisor handler that a user-level one trapped into
  (R173, R262). -/
  handBank : Bool
  loops : Vector LoopLevel 3
  uLoops : Vector LoopLevel 3
  xLoops : Vector LoopLevel 3
  ras : List (BitVec 16)
  run : RunState
  stopped : Option StopWhy
  wait : Option Wait
  cycle : Word
  inPair : Bool
  flow : Flow
  ctx : Option Ctx
  ended : Bool
  supIssue : Word
  deferred : List Deferred
  ev18 : Bool
  ev19 : Option Word
  double : Option (BitVec 8 × Word × Word)
  mglive : Word
  touchTcm : BitVec 16
  touchIm : BitVec 16
  /-- The instant at which REQ was set, while the deadline of R312 runs. -/
  reqSince : Option Nat
  /-- Registers written since the task started, in the layout of the live mask (R36). -/
  written : Word
  /-- v28 to v31 written as registers since the task started (R36). -/
  writtenHigh : Bool
  /-- The context has resumed and has not issued since (R148). -/
  fresh : Bool
  /-- A context has come by a move, and its event 0x18 has still to be taken (R314). -/
  arrived : Bool
  deriving DecidableEq, Repr

/-- For whom an engine reads: a task or a supervisor with no task context, its translation's partition,
and whether it was in supervisor mode (R54, R72, R291). -/
structure Reader where
  task : Bool
  token : Word
  run : Nat
  part : Option Nat
  sup : Bool
  deriving DecidableEq, Repr

/-- A request of a code segment into a frame (R168, R246): a `cfetch`, or a dispatcher's, by the loaded
segment's number; the clauses that have landed. -/
structure CodeReq where
  addr : Word
  inst : Nat
  reader : Reader
  seg : Option Nat
  landed : List Nat
  deriving DecidableEq, Repr

/-- The state of an IM frame (R128, R168). -/
inductive Frame where
  | empty
  | resident (seg : Option Nat)
  | landing (r : CodeReq)
  | failed
  deriving DecidableEq, Repr

/-- The memories of a core. `tcmEmpty` lists the TCM words whose full/empty bit is empty (R57). -/
structure CoreMem where
  im : Memory
  tcm : Memory
  tcmEmpty : List Nat
  frames : Vector Frame 16
  deriving DecidableEq, Repr

/-- Where the reply of a remote access goes (R147); `p` is the predicate as it stood at issue. -/
inductive RDst where
  | g (r : RegNo) (zeroExt : Bool)
  | v (r : RegNo) (p : BitVec 16)
  | port (r : RegNo) (p : BitVec 16)
  | amo (r : RegNo) (wide : Bool)
  deriving DecidableEq, Repr

/-- How far a remote access has come: it awaits its walk (R291), it stands at its home (the key of
its first byte), it is answered, or its reply carries a deferred fault. -/
inductive RStat where
  | walk
  | home (key : Nat)
  | served (bytes : List Byte) (flags : BitVec 7)
  | faulted (cause : BitVec 8)
  | atomic
  deriving DecidableEq, Repr

/-- A remote access outstanding (R147). `inst` is the instant read, none on GLOBAL-RO. -/
structure Remote where
  tag : Nat
  dst : RDst
  addr : Word
  width : Nat
  inst : Option Nat
  stat : RStat
  clause : BitVec 16
  sup : Bool
  /-- Issued while the handler's g12 to g19 were in use, so that its destination is of that bank (R149, R173). -/
  hand : Bool
  /-- Of the task context that the core held at issue (R148, R149, R255). -/
  ofCtx : Bool
  /-- What the ends of bodies have added to its destination since, which comes after its reply (R130, R147). -/
  stride : Word
  /-- Waits at the gate of its core's voltage domain (R301). -/
  gate : Bool
  deriving DecidableEq, Repr

/-- The operation of a timed atomic (R150). -/
structure AtomOp where
  fn : BitVec 4
  wide : Bool
  s : Word
  cmp : Word
  /-- Where the reply goes: the core, and the tag there of the access. -/
  core : Nat
  tag : Nat
  deriving DecidableEq, Repr

/-- A timed store or atomic (R62 to R75). `home` is the key of its first byte once translated; `data`
lists (offset, byte). -/
structure TStore where
  id : Nat
  src : StoreSrc
  /-- The part that issued it; none for this one. -/
  device : Option Nat
  /-- Issued in supervisor mode, so that a supervisor-only page admits it (R291). -/
  sup : Bool
  core : Nat
  token : Word
  /-- The start of the task that issued it; 0 for none. -/
  run : Nat
  part : Nat
  node : Nat
  wid : Word
  seq : Nat
  inst : Nat
  drop : Bool
  qst : Bool
  addr : Word
  data : List (Nat × Byte)
  atomic : Option AtomOp
  clause : BitVec 16
  copy : Option Nat
  /-- The port and unit of a stream append. -/
  append : Option Nat
  home : Option Nat
  /-- Its key at the new home, where the move of its page has ended before it was accepted (R79). -/
  fwd : Option Nat
  /-- Waits at the gate of its core's voltage domain (R301). -/
  gate : Bool
  accepted : Nat
  vis : Nat
  late : Bool
  deriving DecidableEq, Repr

/-- A copy (R160, R161). `todo` lists the words not yet performed; `frame` is what its timed writes carry:
the destination address, the instant named, the sequence number and the issuing clause. -/
structure Copy where
  tag : Nat
  reader : Reader
  frame : TStore
  src : Word
  desc : Word
  todo : List Nat
  readInst : Nat
  flags : BitVec 7
  /-- An access took a deferred fault: incomplete until the fault is taken (R243). -/
  failed : Bool
  /-- The words read at their source and not yet written. -/
  got : List (Nat × List Byte)
  /-- When it was issued: its untimed source reads come after what its core issued earlier (R161). -/
  no : Nat
  deriving DecidableEq, Repr

/-- A copy record of the DEV window (R265). -/
structure CopyRec where
  dst : Word
  src : Word
  desc : Word
  valid : Bool
  tag : Nat
  seq : Nat
  readInst : Word
  writeInst : Word
  /-- For whom a squash filled the record, with what the copy's writes carry; none once DEV wrote it. -/
  owner : Option (Reader × TStore)
  deriving DecidableEq, Repr

/-- A bound stream (R165). `taken` counts units consumed or appended, `fifo` the prefetched units
with the deferred fault a unit carries, `appends` the appended units not yet performed. -/
structure Stream where
  base : Word
  desc : Word
  taken : Nat
  fetched : Nat
  fifo : List (VReg × Option Deferred)
  appends : List (Nat × VReg)
  saved : VReg
  reader : Reader
  clause : BitVec 16
  deriving DecidableEq, Repr

/-- A decode table (R92). -/
structure DecTab where
  entries : Assoc (BitVec 32)
  nan : Option Byte
  deriving DecidableEq, Repr

/-- A load of a decode or segment table in progress (R169, R170). `data` is captured at issue on an
untimed path; a timed source is read as of `inst` when it completes. -/
structure TabLoad where
  table : Nat
  nan : Option Byte
  addr : Word
  inst : Nat
  data : Option (List Byte)
  reader : Reader
  clause : BitVec 16
  deriving DecidableEq, Repr

/-- A scratchpad atomic of a core not yet performed at its bank (R80): its operation and its destination, of the
handler's bank where `hand` says so. -/
structure PendAtomic where
  op : AtomOp
  dst : RegNo
  hand : Bool
  /-- What the ends of bodies have added to its destination since (R130). -/
  stride : Word
  deriving DecidableEq, Repr

/-- A load of a core from its scratchpad whose banks may still perform it (R80): nothing has used its register
since. It gave the register what the banks held at issue; `hand` says of which bank it is (R173), `todo` lists the
words that their banks may still perform. -/
structure LateLoad where
  dst : RDst
  addr : Word
  width : Nat
  hand : Bool
  todo : List Nat
  no : Nat
  deriving DecidableEq, Repr

/-- An access of a core not yet performed at its bank (R80): a scratchpad store or atomic, a synchronising store, also of
TCM (`tcm`), or a word of a scratchpad load that comes after an earlier access to that word (R51). `no` tells when it was
issued. -/
structure PendStore where
  off : Nat
  tcm : Bool
  bytes : List (Nat × Byte)
  setsFull : Bool
  atomic : Option PendAtomic
  load : Option LateLoad
  no : Nat
  deriving DecidableEq, Repr

/-- The engines of a core. -/
structure Engines where
  remote : List Remote
  nextTag : Nat
  copies : List Copy
  /-- An `xcopy` waiting at issue has its place in the engine granted (R161). -/
  copyGrant : Bool
  copyRecs : Vector CopyRec 8
  streams : Vector (Option Stream) 4
  tabs : Vector DecTab 4
  dtLoads : List TabLoad
  segs : Vector Memory 4
  segLoads : List TabLoad
  pend : List PendStore
  loads : List LateLoad
  deriving DecidableEq, Repr

/-- The state of an operand slot (R191). -/
inductive SlotState where
  | free | claimed | loading | ready
  deriving DecidableEq, Repr

/-- An operand slot (R191): data by row (64 bytes a row), scales at 16 × row + block; `absent` lists the
elements, as 128 × row + k, that an `mmas` gather left out and that are zero whatever their bits (R201). -/
structure Slot where
  st : SlotState
  fmt : BitVec 5
  kv : Nat
  blk : Option Nat
  scales : Memory
  data : Memory
  absent : List Nat
  deriving DecidableEq, Repr

/-- The kind of an accumulator (R192). -/
inductive AccKind where
  | z | f32 | s32
  deriving DecidableEq, Repr

/-- An accumulator (R192): element 16 i + j, elements rising, none listed that is zero. -/
structure Acc where
  kind : AccKind
  elems : Assoc (BitVec 32)
  deriving DecidableEq, Repr

/-- A matrix load whose rows have not landed (R195): rows as (row index in memory, address), with the
bytes of untimed rows captured at issue; `old` is the slot as it was, which a deferred fault gives back (R196). -/
structure MLoad where
  slot : Nat
  trans : Bool
  fmt : BitVec 5
  kv : Nat
  rows : List (Nat × Word × Option (List Byte))
  inst : Nat
  reader : Reader
  clause : BitVec 16
  old : Slot
  deriving DecidableEq, Repr

/-- The matrix unit (R191 to R193). `flags` holds the flags of matrix instructions in progress, oldest
first. -/
structure Matrix where
  slots : Vector Slot 16
  accs : Vector Acc 4
  flags : List (BitVec 7)
  loads : List MLoad
  deriving DecidableEq, Repr

/-- A receive queue (R221 to R224, R232, R236, R249). `ringHead` and `ringTail` count the records that
left and entered the ring; `heldSince` is the instant of a splice hold and
the watchdog's span at it. -/
structure Queue where
  bound : Bool
  mode : BitVec 2
  pipe : Bool
  ring : Word
  cap : Nat
  node : Nat
  gen : BitVec 16
  arrivals : Nat
  recs : List Record
  ringHead : Nat
  ringTail : Nat
  /-- The sending routes of the records in the ring, in order. -/
  ringSrcs : List Nat
  held : List Record
  /-- The source of the seam that is kept (R249). -/
  keptSeam : Option Nat
  /-- Sources whose AS records pass without a hold: their seam has been consumed (R249). -/
  seamSrcs : List Nat
  heldSince : Option (Nat × Nat)
  /-- Cause 2 was raised for the splice at the head (R232). -/
  raised : Bool
  /-- How many of the records last spilled were held for a seam (R265). -/
  spilledHeld : Nat
  deriving DecidableEq, Repr

/-- An output route (R223, R236). -/
structure Route where
  ep : Option Nat
  serial : BitVec 32
  as : Bool
  deriving DecidableEq, Repr

/-- A splice in preparation on an NI (R233). `ready` when preparation has ended; `reason` is then the
failure reason, 0 for none. `placed` is the core an insert placed its task on. -/
structure Prep where
  queue : Nat
  record : Record
  block : Word
  ready : Bool
  reason : Nat
  /-- The failure has taken effect; `spl.cmt` has only to write its reason (R304). -/
  failed : Bool
  placed : Option Nat
  /-- The start of the placed task. -/
  run : Nat
  deriving DecidableEq, Repr

/-- The NI of a logical core. -/
structure Ni where
  queues : Vector Queue 8
  routes : Vector Route 4
  stage : BitVec 32
  /-- The staged messages, each with the start of the task that sent it, 0 for none (R225, R327). -/
  staging : List (Nat × Message)
  prep : Option Prep
  /-- Serials whose later copies are dropped on arrival (R232). -/
  dropped : List (BitVec 32)
  /-- The elide in progress: this stage retires when its seam arrives (R235). -/
  eliding : Option Prep
  /-- A committed rebind, applied at `uiret` (R235): the new node. -/
  rebind : Option Nat
  /-- The next serial of the reports to each endpoint (R222). -/
  reportSerial : Assoc (BitVec 32)
  deriving DecidableEq, Repr

/-- One core, by logical number. `gang` lists the members of its gang (R42); `fuse` is a request in
progress (R135), by its mask, and whether it is decided. -/
structure Core where
  id : Nat
  phys : Nat
  r : Regs
  sw : StatusWords
  csr : Csrs
  x : ExecState
  mem : CoreMem
  eng : Engines
  mat : Matrix
  ni : Ni
  gang : List Nat
  fuse : Option (Word × Bool)
  deriving DecidableEq, Repr

/-- An acknowledgement to an issuing NI (R63). -/
structure Ack where
  core : Nat
  run : Nat
  drop : Bool
  deriving DecidableEq, Repr

/-- A purge in progress (R76). `sent` once every store of the token is accepted. -/
structure Purge where
  token : Word
  core : Nat
  part : Nat
  node : Nat
  wid : Word
  cause : BitVec 8
  /-- The task had passed a group boundary (R282). -/
  passed : Bool
  sent : Bool
  deriving DecidableEq, Repr

/-- A line version in the thatch of its home (R62, R64): the partition whose store made it (128 for none), the line,
and the instant at which it became visible. -/
structure LineVersion where
  part : Nat
  line : Nat
  vis : Nat
  deriving DecidableEq, Repr

/-- Timed memory: the versions by instant, newest first (R68), the tense entries in order of
acceptance, the stores in flight, the reports and acknowledgements, the purges. -/
structure Timed where
  versions : List (Nat × Memory)
  /-- The line versions that the thatches hold (R62, R78). -/
  lines : List LineVersion
  tense : List TStore
  flight : List TStore
  acks : List Ack
  lateReports : List Report
  tieReports : List Report
  purges : List Purge
  nextId : Nat
  lateCount : Assoc Word
  tieCount : Assoc Word
  /-- Read-only cache lines: (shingle, line key) and the 64 bytes (R56). -/
  ro : List ((Nat × Nat) × List Byte)
  /-- Lines whose copies are to be invalidated before the next instant (R56). -/
  roStale : List Nat
  deriving DecidableEq, Repr

/-- A page home move (R295, R296): the shingle whose registers started it, and the instant of acceptance. -/
structure Move where
  shingle : Nat
  since : Nat
  part : Nat
  va : Nat
  oldFrame : Nat
  newFrame : Nat
  inst : Nat
  entryAddr : Nat
  handed : Bool
  applied : Bool
  deriving DecidableEq, Repr

/-- A mapping command in progress (R293): the entry it changed, and what the entry held. -/
structure MapCmd where
  shingle : Nat
  entryAddr : Nat
  old : List Byte
  deriving DecidableEq, Repr

/-- How often the eave stations of a shingle sent an access to a page whose home lies on another shingle (R284):
the partition, the first address of the page, the shingle. -/
structure PageCount where
  part : Nat
  va : Nat
  shingle : Nat
  count : Nat
  deriving DecidableEq, Repr

/-- Translation: the page tables (by physical byte), the mapping commands in progress, the moves, and the
stations' counts of remote accesses. -/
structure Trans where
  ptab : Memory
  busy : List MapCmd
  moves : List Move
  counts : List PageCount
  deriving DecidableEq, Repr

/-- The state of a TCB (R209). -/
inductive TcbState where
  | empty | armed | waiting | ready | running | parked | held | retired
  deriving DecidableEq, Repr

/-- A task control block (R208) of a partition. -/
structure Tcb where
  part : Nat
  owner : Nat
  slot : Nat
  node : Nat
  wid : Word
  gen : BitVec 16
  st : TcbState
  /-- The dependence counter, signed (R208). -/
  count : BitVec 32
  published : Bool
  poison : Bool
  tries : Nat
  rel : Nat
  /-- REL of the current group (R77, R138). -/
  groupRel : Nat
  pub : Nat
  sigmax : Nat
  notBefore : Nat
  inline : Option (List Byte)
  /-- The reply endpoint in bits 40:0, RV in bit 63 (R218). -/
  reply : Word
  /-- In the owner's abort table (R280). -/
  abort : Bool
  /-- A DREL or DABORT naming the token before its purge is confirmed (R281). -/
  relPending : Bool
  abortPending : Bool
  /-- Read by DHELD (R281); the order in which it became HELD. -/
  heldRead : Bool
  heldOrder : Nat
  deriving DecidableEq, Repr

/-- A parked context (R33 to R39). -/
structure Cont where
  ctx : Ctx
  mask : Word
  slots : List Word
  pred : Vector (BitVec 16) 8
  ix : BitVec 56
  fstat : BitVec 7
  code : BitVec 8
  obj : Word
  pc : BitVec 16
  core : Nat
  /-- Effective resume scope: 0 partition, 1 cluster, 2 own core (R38). -/
  scope : Nat
  /-- Remote accesses not replied to yet (R148), and deferred faults of those that were. -/
  remote : List Remote
  deferred : List Deferred
  /-- The written registers of R36, which the parked context keeps. -/
  written : Word
  writtenHigh : Bool
  /-- What MGTOUCH marked on the core that parked it (R302). -/
  touchTcm : BitVec 16
  touchIm : BitVec 16
  deriving DecidableEq, Repr

/-- A record of a ready queue: a task record or a continuation (R274, R275). `place` 0 in transit,
1 in its cluster's queue, 2 in its shingle's overflow. -/
structure QRec where
  place : Nat
  cluster : Nat
  part : Nat
  node : Nat
  wid : Word
  prio : Nat
  rel : Nat
  since : Nat
  aged : Nat
  near : Option Nat
  headSince : Option Nat
  expired : Bool
  /-- Counted as waiting on a full overflow (R274). -/
  waited : Bool
  cont : Option Cont
  deriving DecidableEq, Repr

/-- A publication or signal held at its owner: of a newer generation (R213), or `full` when no slot of the
TCB table may be taken (R270). -/
structure HeldMsg where
  body : Body
  full : Bool
  deriving DecidableEq, Repr

/-- The configuration of a partition (R297). -/
structure PartCfg where
  space : Nat
  dfb : Nat
  dfl : Nat
  spf : Nat
  sps : Nat
  root : Nat
  tqc : Nat
  hqc : Nat
  tql : Nat
  hql : Nat
  lb0 : Nat
  ll0 : Nat
  lb1 : Nat
  ll1 : Nat
  deriving DecidableEq, Repr

/-- A partition: configuration, dispatcher and digest registers by offset (R281, R285), the broadcast
horizon (R277) and the one to come, and a digest in progress. -/
structure Partition where
  cfg : PartCfg
  regs : Assoc Word
  horizon : Nat
  horizon1 : Nat
  digest : Bool
  nextHeld : Nat
  deriving DecidableEq, Repr

/-- A template loaded in a partition (R270, R342): its owner shingle, the log of its TCB-table size,
the frame of each code segment, the spread of shingles, the code segments' loft-independent bytes. -/
structure Loaded where
  part : Nat
  /-- The image the template came with, by the number of its first template. -/
  image : Nat
  owner : Nat
  slotBits : Nat
  tmpl : Template
  /-- Code segment number of the template's image, IM frame and bytes. -/
  frames : List (Nat × Nat × List Byte)
  spread : List Nat
  deriving DecidableEq, Repr

/-- A data segment the loader writes to a core or cluster before its first task there (R342). -/
structure Staged where
  part : Nat
  image : Nat
  kind : SegKind
  off : Nat
  bytes : List Byte
  profiling : Bool
  /-- Cores or clusters already written. -/
  done : List Nat
  deriving DecidableEq, Repr

/-- Dispatch: partitions, the partition of each cluster, templates, TCBs, held records, ready queues,
withheld clusters. -/
structure Dispatch where
  parts : Assoc Partition
  clusters : Assoc Nat
  loaded : List Loaded
  staged : List Staged
  /-- The IM frames that the images loaded in a partition hold (R342). -/
  codeFrames : Assoc Nat
  /-- The placement tables of a partition: the cluster of each home by its number (R272). -/
  placement : Assoc (List Nat)
  tcbs : List Tcb
  heldMsgs : List HeldMsg
  recs : List QRec
  /-- Clusters withheld for their temperature, and for their power (R283). -/
  hot : List Nat
  drawing : List Nat
  /-- Withheld clusters treated as not withheld, one for a partition (R283). -/
  exempt : List Nat
  tjunc : Assoc Int
  power : Assoc Nat
  windows : Assoc (BitVec 16)
  deriving DecidableEq, Repr

/-- A port (R326, R327): its link, the credit it has left for each class, its replay buffer, and, for the other end's flits,
what it last told of them and the credit it has returned. -/
structure Port where
  up : Bool
  lanes : BitVec 4
  expect : BitVec 12
  replays : Nat
  sendSeq : BitVec 12
  replay : List (BitVec 12 × Message)
  credit : Vector Nat 3
  told : Option LinkReply
  returned : Vector Nat 3
  deriving DecidableEq, Repr

/-- A port that has not come up. -/
def Port.reset : Port := ⟨false, 0, 0, 0, 0, [], Vector.replicate 3 0, none, Vector.replicate 3 0⟩

/-- What waits at an arbiter (R230): a message, a timed store by its number, a remote access, a code request, or the hand-over
of a moving page. -/
inductive Waiting where
  | message (m : Message)
  | store (id : Nat)
  | access (core tag : Nat)
  | fetch (core frame : Nat)
  | move (part va : Nat)
  deriving DecidableEq, Repr

/-- An arbiter (R286): its counters for tier 1 and tier 2, and what waits there, oldest first. -/
structure Arbiter where
  tier1 : Nat
  tier2 : Nat
  waiting : List Waiting
  deriving DecidableEq, Repr

/-- The fabric edge: messages in flight in the mesh, messages that wait at the gates of voltage domains or for a port (R301,
R327), ports, what was sent to other parts, the arbiters. The route table stands in DRAM. -/
structure Fabric where
  msgs : List Message
  gate : List Message
  ports : Assoc Port
  sent : List (Nat × Message)
  starve : Assoc Arbiter
  deriving DecidableEq, Repr

/-- A stop-anywhere image (R305, R306): the header fields and the core's state at the stop. `seed` is the tick that
its flop section's bytes are drawn for, `log` the records and seams that have arrived since the seal; `valid` while the
core stands under it. -/
structure ImageRec where
  base : Nat
  ctxbuf : Nat
  lcore : Nat
  reason : BitVec 8
  inst : Nat
  srev : Nat
  maphash : Word
  token : Word
  sup : Bool
  dbl : Bool
  core : Core
  streamed : Bool
  valid : Bool
  seed : Nat
  log : List Message
  deriving DecidableEq, Repr

/-- A remap swap whose drain is under way (R309). -/
structure SwapRec where
  a : Nat
  b : Nat
  acked : Bool
  sentMarkers : Bool
  c0Held : Bool
  c2Held : Bool
  deriving DecidableEq, Repr

/-- A command of the image or move registers in progress on a shingle (R302): 1 stop, 2 restore,
3 move, 4 the stop and 5 the restore of a deadline image (R312); its operands. -/
structure ImgCmd where
  shingle : Nat
  op : Nat
  core : Nat
  target : Nat
  why : BitVec 8
  base : Nat
  ctxbuf : Nat
  deriving DecidableEq, Repr

/-- Images and moves. -/
structure Imaging where
  images : List ImageRec
  cmds : List ImgCmd
  swaps : List SwapRec
  deriving DecidableEq, Repr

/-- A voltage domain of a shingle that has had a request (R300, R301): the phase of a transition (1
draining, 2 switching), the frequency code and the one it moves to, a write that waits, the last accepted
request, whether the last write was refused, and the instant at which the gate closed. -/
structure VoltDomain where
  shingle : Nat
  index : Nat
  phase : Nat
  since : Nat
  code : Nat
  goal : Nat
  waiting : Option Nat
  req : Nat
  refused : Bool
  deriving DecidableEq, Repr

/-- A host copy in progress (R322): the port, the direction, the instant named or read, the host's address, the
module's, the keys of the lines before the first that fails, and that line's offset and cause. -/
structure HostCopy where
  port : Nat
  toHost : Bool
  inst : Nat
  host : Nat
  base : Word
  keys : List Nat
  fail : Option (Nat × Nat)
  deriving DecidableEq, Repr

/-- The outside and the firmware: raised MSI-X vectors (R317), host copies in progress, the bytes sent to the
host, the bring-up status, the firmware slot and phase registers, the voltage domains. -/
structure Outside where
  msix : List Nat
  hostCopies : List HostCopy
  hostOut : List (Nat × Nat × List Byte)
  powered : Bool
  bust : Word
  fwSlot : Bool
  fwVersion : BitVec 32
  fwNewVersion : BitVec 32
  /-- The images whose digests extended measurement index 2, by version, the last one last (R334). -/
  measured : List (BitVec 32)
  /-- The store issue counter of each ridge core (R72). -/
  fwIssue : Assoc Word
  volt : List VoltDomain
  /-- The shingle whose ridge core is the module ridge controller (R4). -/
  controller : Nat
  /-- The part's reference phase in picoseconds (R330). -/
  phase : Int
  deriving DecidableEq, Repr

/-- The device around the cores. `regs` holds the shingle registers by 0x10000 × shingle + offset that
differ from their reset value. -/
structure Device where
  now : Nat
  iperiodNext : Option (BitVec 13)
  missed : Nat
  tick : Nat
  /-- The instant is ending: an owner has reclaimed a slot of it (R270), and only such reclaims come before the boundary. -/
  ending : Bool
  regs : Assoc Word
  spads : Assoc Memory
  spadEmpty : Assoc (List Nat)
  timed : Timed
  trans : Trans
  disp : Dispatch
  fab : Fabric
  img : Imaging
  out : Outside
  deriving DecidableEq, Repr

/-- An entry of the agenda: a core issues, or a step without a word happens. -/
inductive Act where
  | issue (core : Nat)
  | event (i : Instr)
  deriving DecidableEq, Repr

/-- The machine. `cores` holds the cores other than the acting one that differ from their state after
reset, by logical number; `agenda` what happens next (log entry 3). -/
structure State where
  core : Core
  cores : Assoc Core
  dev : Device
  agenda : List Act
  deriving DecidableEq, Repr

/-- The registers after reset (log entry 1). -/
def Regs.reset : Regs :=
  ⟨Vector.replicate 32 0, Vector.replicate 32 0, Vector.replicate 8 0, Vector.replicate 8 0, Vector.replicate 8 0⟩

/-- The status words after reset (R35, R60, R67, R96, R154, R157, R172; log entry 1). -/
def StatusWords.reset : StatusWords where
  ix := 0
  mbox := Vector.replicate 4 0
  mboxf := 0
  uepc := 0
  ucause := 0
  uval := 0
  uvec := 0
  en := 0
  pend := 0
  pendVal := Vector.replicate 6 0
  fstat := 0
  late := 0
  tie := 0
  stkb := 0
  stkl := 0
  scope := 0x1000000000
  rscope := 0
  parkCycles := 0x1000

/-- The CSRs after reset (R254 to R257). -/
def Csrs.reset : Csrs where
  me := false
  sb := false
  la := false
  puh := false
  pm := .supervisor
  tip := false
  xepc := 0
  xcause := 0
  xval := 0
  xval2 := 0
  xtvec := 0xF000
  xscratch := 0
  req := false
  why := 0
  target := 0
  nisBusy := false
  nisCmd := 0
  nisErr := false
  nisCount := 0
  supEn := true
  ifr := 14
  tfr := 14
  sstkb := 0
  sstkl := 0
  sRscope := 0
  sParkCycles := 0x1000
  sscope := 0x1000000000
  suvec := 0
  suien := 0
  prof := Vector.replicate 8 0

/-- The execution state after reset: in the supervisor, at the clause of `xtvec` (R253). -/
def ExecState.reset : ExecState where
  pc := 0xF000
  mode := .supervisor
  inHandler := false
  handBank := false
  loops := Vector.replicate 3 .idle
  uLoops := Vector.replicate 3 .idle
  xLoops := Vector.replicate 3 .idle
  ras := []
  run := .running
  stopped := none
  wait := none
  cycle := 0
  inPair := false
  flow := .next
  ctx := none
  ended := false
  supIssue := 0
  deferred := []
  ev18 := false
  ev19 := none
  double := none
  mglive := 0
  touchTcm := 0
  touchIm := 0
  reqSince := none
  written := 0
  writtenHigh := false
  fresh := false
  arrived := false

/-- Empty IM, full TCM words, empty frames (R57, R128). -/
def CoreMem.reset : CoreMem := ⟨[], [], [], Vector.replicate 16 .empty⟩

/-- No copy record. -/
def CopyRec.none : CopyRec := ⟨0, 0, 0, false, 0, 0, 0, 0, .none⟩

/-- Engines idle, tables never loaded (R92, R188). -/
def Engines.reset : Engines where
  remote := []
  nextTag := 0
  copies := []
  copyGrant := false
  copyRecs := Vector.replicate 8 .none
  streams := Vector.replicate 4 none
  tabs := Vector.replicate 4 ⟨[], none⟩
  dtLoads := []
  segs := Vector.replicate 4 []
  segLoads := []
  pend := []
  loads := []

/-- A FREE slot. -/
def Slot.reset : Slot := ⟨.free, 0, 0, none, [], [], []⟩

/-- Slots FREE, accumulators Z (R191, R192). -/
def Matrix.reset : Matrix :=
  ⟨Vector.replicate 16 .reset, Vector.replicate 4 ⟨.z, []⟩, [], []⟩

/-- An unbound queue. -/
def Queue.unbound : Queue where
  bound := false
  mode := 0
  pipe := false
  ring := 0
  cap := 0
  node := 0
  gen := 0
  arrivals := 0
  recs := []
  ringHead := 0
  ringTail := 0
  ringSrcs := []
  held := []
  keptSeam := none
  seamSrcs := []
  heldSince := none
  raised := false
  spilledHeld := 0

/-- An NI with nothing bound. -/
def Ni.reset : Ni :=
  ⟨Vector.replicate 8 .unbound, Vector.replicate 4 ⟨none, 0, false⟩, 0, [], none, [], none, none, []⟩

/-- Logical core `k` after reset; its physical core is numbered as R158 does, under the identity remap
(log entry 5). -/
def Core.reset (k : Nat) : Core where
  id := k
  phys := (k / 768 / 54 * 8 + k % 768 / 96) * 8192 + (k / 768 % 54 / 6 * 12 + k % 96 / 8) * 48
    + (k / 768 % 6 * 8 + k % 8)
  r := .reset
  sw := .reset
  csr := .reset
  x := .reset
  mem := .reset
  eng := .reset
  mat := .reset
  ni := .reset
  gang := []
  fuse := none

/-- The device after a completed bring-up with no partition configured (R336, R337; log entry 6). -/
def Device.reset : Device where
  now := 0
  iperiodNext := none
  missed := 0
  tick := 0
  ending := false
  regs := []
  spads := []
  spadEmpty := []
  timed := ⟨[], [], [], [], [], [], [], [], 0, [], [], [], []⟩
  trans := ⟨[], [], [], []⟩
  disp := ⟨[], [], [], [], [], [], [], [], [], [], [], [], [], [], []⟩
  fab := ⟨[], [], [], [], []⟩
  img := ⟨[], [], []⟩
  out := ⟨[], [], [], true, 7, false, 0, 0, [], [], [], 0, 0⟩

/-- The machine after reset. -/
def State.reset : State := ⟨Core.reset 0, [], Device.reset, []⟩

end Sys2Proof.Machine
end

