-- ==== Sys2Proof/Machine/Mem.lean ====
section
/-! DEFINITION. Byte memories, sparse tables and lists of numbers, with every operation that the rest of
the model uses on them. -/

namespace Sys2Proof.Machine

/-- A number of `8 n` bits as bytes, lowest first (R6). -/
def bytesOf : Nat → Nat → List Byte
  | 0, _ => []
  | n + 1, v => BitVec.ofNat 8 v :: bytesOf n (v / 256)

/-- The number that bytes hold, the lowest first (R6). -/
def natOf : List Byte → Nat
  | [] => 0
  | b :: bs => b.toNat + 256 * natOf bs

/-- The byte at an address; an unlisted one reads zero. -/
def Memory.read : Memory → Nat → Byte
  | [], _ => 0
  | (k, v) :: m, a => if a = k then v else if a < k then 0 else Memory.read m a

/-- Write one byte, keeping the canonical form. -/
def Memory.write : Memory → Nat → Byte → Memory
  | [], a, b => if b = 0 then [] else [(a, b)]
  | (k, v) :: m, a, b =>
    if a < k then (if b = 0 then (k, v) :: m else (a, b) :: (k, v) :: m)
    else if a = k then (if b = 0 then m else (k, b) :: m)
    else (k, v) :: Memory.write m a b

/-- The `n` bytes from an address. -/
def Memory.readN (m : Memory) (a : Nat) : Nat → List Byte
  | 0 => []
  | n + 1 => m.read a :: Memory.readN m (a + 1) n

/-- Write bytes from an address on. -/
def Memory.writeN (m : Memory) (a : Nat) : List Byte → Memory
  | [] => m
  | b :: bs => Memory.writeN (m.write a b) (a + 1) bs

/-- Write listed (address, byte) pairs. -/
def Memory.writeAll (m : Memory) : List (Nat × Byte) → Memory
  | [] => m
  | (a, b) :: bs => Memory.writeAll (m.write a b) bs

/-- The canonical form from an address on: addresses rising, no byte listed that reads as an unlisted one. -/
def Memory.wfFrom : Nat → Memory → Bool
  | _, [] => true
  | lo, (k, v) :: m => decide (lo ≤ k) && decide (v ≠ 0) && Memory.wfFrom (k + 1) m

/-- The canonical form of a memory. -/
def Memory.wf (m : Memory) : Bool := Memory.wfFrom 0 m

/-- Look a number up in a table. -/
def aget {α : Type} : Assoc α → Nat → Option α
  | [], _ => none
  | (k, v) :: t, a => if a = k then some v else if a < k then none else aget t a

/-- Put an entry into a table. -/
def aset {α : Type} : Assoc α → Nat → α → Assoc α
  | [], a, x => [(a, x)]
  | (k, v) :: t, a, x =>
    if a < k then (a, x) :: (k, v) :: t else if a = k then (k, x) :: t else (k, v) :: aset t a x

/-- Take an entry out of a table. -/
def adel {α : Type} : Assoc α → Nat → Assoc α
  | [], _ => []
  | (k, v) :: t, a => if a < k then (k, v) :: t else if a = k then t else (k, v) :: adel t a

/-- A memory held in a table by number; an unlisted one is empty. -/
def agetMem (t : Assoc Memory) (k : Nat) : Memory := (aget t k).getD []

/-- Add a number to a rising list. -/
def insertNat : List Nat → Nat → List Nat
  | [], a => [a]
  | k :: t, a => if a < k then a :: k :: t else if a = k then k :: t else k :: insertNat t a

/-- Take a number out of a list. -/
def eraseNat (t : List Nat) (a : Nat) : List Nat := t.filter (fun k => k ≠ a)

/-- Replace the `n`-th element of a list. -/
def setAt {α : Type} : List α → Nat → α → List α
  | [], _, _ => []
  | _ :: t, 0, x => x :: t
  | y :: t, n + 1, x => y :: setAt t n x

/-- Drop the `n`-th element of a list. -/
def dropAt {α : Type} : List α → Nat → List α
  | [], _ => []
  | _ :: t, 0 => t
  | y :: t, n + 1 => y :: dropAt t n

/-- The words of four bytes that `n` bytes from an offset touch. -/
def wordsTouched (off n : Nat) : List Nat :=
  if n = 0 then [] else (List.range ((off + n - 1) / 4 - off / 4 + 1)).map (fun i => off / 4 + i)

end Sys2Proof.Machine
end

