-- ==== Sys2Proof/Machine/Bits.lean ====
section
/-! DEFINITION. Bit fields, the 32-bit forms of the scalar operations, lanes and predicates. -/

namespace Sys2Proof.Machine

/-- Bits `hi : lo` of a number. -/
def bitsOf (n hi lo : Nat) : Nat := n / 2 ^ lo % 2 ^ (hi + 1 - lo)

/-- Bit `i` of a number. -/
def bitOf (n i : Nat) : Bool := decide (n / 2 ^ i % 2 = 1)

/-- The signed value of the low `w` bits of a number. -/
def signedOf (w n : Nat) : Int :=
  let m := n % 2 ^ w
  if 2 * m < 2 ^ w then (m : Int) else (m : Int) - ((2 ^ w : Nat) : Int)

/-- The low `w` bits of an integer, as a number. -/
def wrapInt (w : Nat) (z : Int) : Nat := (z % ((2 ^ w : Nat) : Int)).toNat

/-- `Sat(z, lo, hi)` (R176). -/
def satInt (z lo hi : Int) : Int := if z < lo then lo else if hi < z then hi else z

/-- The low `8 n` bits of a word, zero- or sign-extended. -/
def extend (n : Nat) (zeroExt : Bool) (v : Nat) : Word :=
  if zeroExt then BitVec.ofNat 64 (v % 2 ^ (8 * n)) else BitVec.ofInt 64 (signedOf (8 * n) v)

/-- The operation width of an AR instruction: 64, or 32 under `.32` (R117). -/
def opWidth (w : BitVec 1) : Nat := if w = 1 then 32 else 64

/-- A binary AR operation at either width, the 32-bit result sign-extended (R117). -/
def alu2 (w : BitVec 1) (f : {n : Nat} → BitVec n → BitVec n → BitVec n) (x y : Word) : Word :=
  if w = 1 then (f (x.setWidth 32) (y.setWidth 32)).signExtend 64 else f x y

/-- A unary AR operation at either width. -/
def alu1 (w : BitVec 1) (f : {n : Nat} → BitVec n → BitVec n) (x : Word) : Word :=
  if w = 1 then (f (x.setWidth 32)).signExtend 64 else f x

/-- A shift amount: the low bits of a register, as many as the width has (R118, R176). -/
def shAmt {n : Nat} (y : BitVec n) : Nat := y.toNat % n

/-- 1 or 0. -/
def boolBits {n : Nat} (b : Bool) : BitVec n := if b then BitVec.ofNat n 1 else 0

/-- Leading zero bits of the low `n` bits of a number, counting at most `n`. -/
def clzNat : Nat → Nat → Nat
  | 0, _ => 0
  | n + 1, x => if x / 2 ^ n % 2 = 1 then 0 else clzNat n x + 1

/-- Trailing zero bits, counting at most `n`. -/
def ctzNat : Nat → Nat → Nat
  | 0, _ => 0
  | n + 1, x => if x % 2 = 1 then 0 else ctzNat n (x / 2) + 1

/-- One bits of the low `n` bits. -/
def popNat : Nat → Nat → Nat
  | 0, _ => 0
  | n + 1, x => x % 2 + popNat n (x / 2)

/-- The low `n` bits in reverse order. -/
def revNat : Nat → Nat → Nat
  | 0, _ => 0
  | n + 1, x => x % 2 * 2 ^ n + revNat n (x / 2)

/-- The lane width of a shape: `.b16` 8, `.h8` 16, `.w4` 32, `.d2` 64 bits (R111). -/
def laneBits (l : BitVec 2) : Nat := 8 * 2 ^ l.toNat

/-- Lane `i` of `w` bits (R175). -/
def lane (w : Nat) (v : VReg) (i : Nat) : BitVec w := v.extractLsb' (w * i) w

/-- A vector of lanes of `w` bits from `i` on, lowest first. -/
def ofLanes (w : Nat) : Nat → List (BitVec w) → VReg
  | _, [] => 0
  | i, x :: xs => (x.setWidth 128 <<< (w * i)) ||| ofLanes w (i + 1) xs

/-- The lanes of a vector. -/
def lanesOf (w : Nat) (v : VReg) : List (BitVec w) := (List.range (128 / w)).map (lane w v)

/-- The bytes of a vector, lowest first. -/
def vbytes (v : VReg) : List Byte := lanesOf 8 v

/-- A vector from its bytes. -/
def vecOf (bs : List Byte) : VReg := ofLanes 8 0 bs

/-- The byte mask of a predicate. -/
def maskOf (p : BitVec 16) : VReg := ofLanes 8 0 ((List.range 16).map (fun b => if p.getLsbD b then 0xFF else 0))

/-- The bytes whose predicate bit is 1 from `new`, the others from `old` (R175). -/
def mergeBytes (p : BitVec 16) (new old : VReg) : VReg :=
  (new &&& maskOf p) ||| (old &&& ~~~(maskOf p))

/-- `Active(i)`: the predicate bit of the lowest byte of lane `i` (R175). -/
def laneActive (w : Nat) (p : BitVec 16) (i : Nat) : Bool := p.getLsbD (w / 8 * i)

/-- Whether some byte of lane `i` is written (R175). -/
def laneWritten (w : Nat) (p : BitVec 16) (i : Nat) : Bool :=
  (List.range (w / 8)).any (fun b => p.getLsbD (w / 8 * i + b))

end Sys2Proof.Machine
end

