-- ==== Sys2Proof/Machine/Float.lean ====
section
/-! DEFINITION. Binary floating point: exact values, one rounding, the operations and conversions of
R87 to R102, and the decode tables of R92 and R93. -/

namespace Sys2Proof.Machine

/-- The flags of `fstat` (R96). -/
abbrev FpFlags := BitVec 7

/-- Inexact. -/
def flagNX : FpFlags := 1
/-- Underflow. -/
def flagUF : FpFlags := 2
/-- Overflow. -/
def flagOF : FpFlags := 4
/-- Divide by zero. -/
def flagDZ : FpFlags := 8
/-- Invalid. -/
def flagNV : FpFlags := 16
/-- Integer overflow of an s32 accumulation. -/
def flagIO : FpFlags := 32
/-- Scale surplus. -/
def flagSS : FpFlags := 64

/-- A binary format: bits, precision with the hidden bit, bias (R88, R90). -/
structure FpFmt where
  width : Nat
  prec : Nat
  bias : Nat
  deriving DecidableEq, Repr

/-- binary32. -/
def fmtF32 : FpFmt := ⟨32, 24, 127⟩
/-- The upper half of binary32. -/
def fmtBf16 : FpFmt := ⟨16, 8, 127⟩
/-- binary16. -/
def fmtF16 : FpFmt := ⟨16, 11, 15⟩
/-- Kamset's 19-bit format, without its container. -/
def fmtW19 : FpFmt := ⟨19, 11, 127⟩

/-- The rounding modes (R99). -/
inductive Rnd where
  | rne | rtz | rup | rdn | rto
  deriving DecidableEq, Repr

/-- A rounding field; values above 4 do not decode. -/
def rndOf (r : BitVec 3) : Rnd :=
  if r = 0 then .rne else if r = 1 then .rtz else if r = 2 then .rup else if r = 3 then .rdn else .rto

/-- An exact value: a NaN (signalling or quiet), an infinity, or ± m × 2^e. -/
inductive Fp where
  | nan (signalling : Bool)
  | inf (neg : Bool)
  | fin (neg : Bool) (m : Nat) (e : Int)
  deriving DecidableEq, Repr

/-- The exponent of the lowest bit of a subnormal. -/
def FpFmt.emin (f : FpFmt) : Int := 2 - (f.bias : Int) - (f.prec : Int)

/-- The bits of an infinity without its sign. -/
def FpFmt.infBits (f : FpFmt) : Nat := (2 * f.bias + 1) * 2 ^ (f.prec - 1)

/-- The canonical quiet NaN (R89). -/
def FpFmt.qnan (f : FpFmt) : Nat := f.infBits + 2 ^ (f.prec - 2)

/-- The sign bit of a format. -/
def FpFmt.signBit (f : FpFmt) (neg : Bool) : Nat := if neg then 2 ^ (f.width - 1) else 0

/-- The exact value of a bit pattern (R88). -/
def fpDecode (f : FpFmt) (bits : Nat) : Fp :=
  let neg := bitOf bits (f.width - 1)
  let mag := bits % 2 ^ (f.width - 1)
  let ex := mag / 2 ^ (f.prec - 1)
  let fr := mag % 2 ^ (f.prec - 1)
  if f.infBits < mag then .nan (decide (fr < 2 ^ (f.prec - 2)))
  else if f.infBits = mag then .inf neg
  else if ex = 0 then .fin neg fr f.emin
  else .fin neg (fr + 2 ^ (f.prec - 1)) (f.emin + (ex : Int) - 1)

/-- `m` divided by `2^sh` and rounded to an integer, and whether it was inexact (R99). Round to odd sets bit 0 of the
magnitude: of a negative value the spec does not say whether it is that of the magnitude or that of the two's-complement
result (log entry 75, DESIGN CHOICE). -/
def roundShift (r : Rnd) (neg : Bool) (m sh : Nat) : Nat × Bool :=
  let q := m / 2 ^ sh
  let rest := m % 2 ^ sh
  let inexact := decide (rest ≠ 0)
  let up := match r with
    | .rne => decide (2 ^ sh < 2 * rest) || (decide (2 * rest = 2 ^ sh) && inexact && decide (q % 2 = 1))
    | .rtz => false
    | .rup => inexact && !neg
    | .rdn => inexact && neg
    | .rto => inexact && decide (q % 2 = 0)
  (if up then q + 1 else q, inexact)

/-- The result of an overflow, without its sign (R99). -/
def overflowBits (f : FpFmt) (r : Rnd) (neg : Bool) : Nat :=
  match r with
  | .rne => f.infBits
  | .rtz | .rto => f.infBits - 1
  | .rup => if neg then f.infBits - 1 else f.infBits
  | .rdn => if neg then f.infBits else f.infBits - 1

/-- `Round(x, fmt, rnd)` of an exact value into a floating-point format, with its flags (R89, R97, R99). -/
def fpRound (f : FpFmt) (r : Rnd) (x : Fp) : Nat × FpFlags :=
  match x with
  | .nan sig => (f.qnan, if sig then flagNV else 0)
  | .inf neg => (f.signBit neg + f.infBits, 0)
  | .fin neg m e =>
    if m = 0 then (f.signBit neg, 0)
    else
      let top := e + (Nat.log2 m : Int)
      let q := max (top - ((f.prec : Int) - 1)) f.emin
      let k := if q ≤ e then (m * 2 ^ (e - q).toNat, false) else roundShift r neg m (q - e).toNat
      let bits := (q - f.emin).toNat * 2 ^ (f.prec - 1) + k.1
      if f.infBits ≤ bits then (f.signBit neg + overflowBits f r neg, flagOF ||| flagNX)
      else
        let uf := decide (top < f.emin + (f.prec : Int) - 1) && k.2
        (f.signBit neg + bits, (if uf then flagUF else 0) ||| (if k.2 then flagNX else 0))

/-- Whether a value is a signalling NaN. -/
def Fp.isSNaN : Fp → Bool
  | .nan s => s
  | _ => false

/-- Whether a value is a NaN. -/
def Fp.isNaN : Fp → Bool
  | .nan _ => true
  | _ => false

/-- The sign of a value (a NaN has none). -/
def Fp.isNeg : Fp → Bool
  | .nan _ => false
  | .inf n => n
  | .fin n _ _ => n

/-- The value with its sign changed. -/
def Fp.negate : Fp → Fp
  | .nan s => .nan s
  | .inf n => .inf !n
  | .fin n m e => .fin (!n) m e

/-- The value with its sign cleared. -/
def Fp.abs : Fp → Fp
  | .nan s => .nan s
  | .inf _ => .inf false
  | .fin _ m e => .fin false m e

/-- NV for a signalling NaN among two operands. -/
def nvOf (x y : Fp) : FpFlags := if x.isSNaN || y.isSNaN then flagNV else 0

/-- The exact product, under IEEE 754. -/
def fpMul (x y : Fp) : Fp × FpFlags :=
  match x, y with
  | .nan _, _ | _, .nan _ => (.nan false, nvOf x y)
  | .inf n, .inf n' => (.inf (xor n n'), 0)
  | .inf n, .fin n' m _ => if m = 0 then (.nan false, flagNV) else (.inf (xor n n'), 0)
  | .fin n m _, .inf n' => if m = 0 then (.nan false, flagNV) else (.inf (xor n n'), 0)
  | .fin n m e, .fin n' m' e' => (.fin (xor n n') (m * m') (e + e'), 0)

/-- The significand of a value as a signed number of units of `2^e0`, for `e0` at most its exponent. -/
def unitsAt (neg : Bool) (m : Nat) (e e0 : Int) : Int :=
  let z : Int := ((m * 2 ^ (e - e0).toNat : Nat) : Int)
  if neg then -z else z

/-- The exact sum, under IEEE 754 with round to nearest: an exact zero of unlike signs is +0. -/
def fpAdd (x y : Fp) : Fp × FpFlags :=
  match x, y with
  | .nan _, _ | _, .nan _ => (.nan false, nvOf x y)
  | .inf n, .inf n' => if n = n' then (.inf n, 0) else (.nan false, flagNV)
  | .inf n, .fin _ _ _ => (.inf n, 0)
  | .fin _ _ _, .inf n' => (.inf n', 0)
  | .fin n m e, .fin n' m' e' =>
    let e0 := min e e'
    let z := unitsAt n m e e0 + unitsAt n' m' e' e0
    if z = 0 then (.fin (n && n') 0 e0, 0) else (.fin (decide (z < 0)) z.natAbs e0, 0)

/-- The exact `x × y + z`: an invalid product prevails over a quiet NaN (R180). -/
def fpFma (x y z : Fp) : Fp × FpFlags :=
  let p := fpMul x y
  let s := fpAdd p.1 z
  (s.1, p.2 ||| s.2)

/-- Compare two values that are not NaN, as reals. -/
def fpCompare (x y : Fp) : Ordering :=
  match x, y with
  | .nan _, _ | _, .nan _ => .eq
  | .inf n, .inf n' => if n = n' then .eq else if n then .lt else .gt
  | .inf n, .fin _ _ _ => if n then .lt else .gt
  | .fin _ _ _, .inf n' => if n' then .gt else .lt
  | .fin n m e, .fin n' m' e' =>
    let e0 := min e e'
    compare (unitsAt n m e e0) (unitsAt n' m' e' e0)

/-- Round an exact value and its flags into a format. -/
def fpFinish (f : FpFmt) (r : Rnd) (x : Fp × FpFlags) : Nat × FpFlags :=
  let y := fpRound f r x.1
  (y.1, x.2 ||| y.2)

/-- `RoundF32` of an exact value. -/
def roundF32 (x : Fp × FpFlags) : Nat × FpFlags := fpFinish fmtF32 .rne x

/-- The smaller (`lt = true`) or larger of two values, −0 below +0, NaN canonical (R178). -/
def fpMinMax (smaller : Bool) (x y : Fp) : Fp × FpFlags :=
  if x.isNaN || y.isNaN then (.nan false, nvOf x y)
  else
    match fpCompare x y with
    | .lt => (if smaller then x else y, 0)
    | .gt => (if smaller then y else x, 0)
    | .eq => (if x.isNeg == smaller then x else y, 0)

/-- The integer square root, bit by bit from bit `b − 1`. -/
def isqrtFrom (n : Nat) : Nat → Nat → Nat
  | 0, r => r
  | b + 1, r => if (r + 2 ^ b) * (r + 2 ^ b) ≤ n then isqrtFrom n b (r + 2 ^ b) else isqrtFrom n b r

/-- 1/x to more bits than any format keeps, the last one sticky (R178, R179). -/
def fpRecip (x : Fp) : Fp × FpFlags :=
  match x with
  | .nan s => (.nan false, if s then flagNV else 0)
  | .inf n => (.fin n 0 0, 0)
  | .fin n m e =>
    if m = 0 then (.inf n, flagDZ)
    else
      let k := Nat.log2 m + 66
      let q := 2 ^ k / m
      (.fin n (2 * q + (if 2 ^ k % m = 0 then 0 else 1)) (-(k : Int) - e - 1), 0)

/-- 1/√x to more bits than any format keeps, the last one sticky (R178, R179). -/
def fpRsqrt (x : Fp) : Fp × FpFlags :=
  match x with
  | .nan s => (.nan false, if s then flagNV else 0)
  | .inf n => if n then (.nan false, flagNV) else (.fin false 0 0, 0)
  | .fin n m e =>
    if m = 0 then (.inf n, flagDZ)
    else if n then (.nan false, flagNV)
    else
      let odd := decide (e % 2 = 1)
      let m' := if odd then 2 * m else m
      let e' := if odd then e - 1 else e
      let k := Nat.log2 m' + 66
      let s := isqrtFrom (2 ^ (2 * k) / m') (k + 1) 0
      (.fin false (2 * s + (if s * s * m' = 2 ^ (2 * k) then 0 else 1)) (-(k : Int) - e' / 2 - 1), 0)

/-- `floor(x / y)` for a finite `y` above zero; an infinite `x` gives a value beyond every segment (R189). -/
def fpFloorDiv (x y : Fp) : Int :=
  match x, y with
  | .fin n m e, .fin _ m' e' =>
    let e0 := min e e'
    let d := unitsAt false m' e' e0
    if d = 0 then 0 else Int.fdiv (unitsAt n m e e0) d
  | .inf n, _ => if n then -1 else 16
  | _, _ => 0

/-- A value rounded to an integer of `w` bits, saturating, with its flags (R99). -/
def fpToInt (signed : Bool) (w : Nat) (r : Rnd) (x : Fp) : Nat × FpFlags :=
  let lo : Int := if signed then -((2 ^ (w - 1) : Nat) : Int) else 0
  let hi : Int := if signed then ((2 ^ (w - 1) : Nat) : Int) - 1 else ((2 ^ w : Nat) : Int) - 1
  match x with
  | .nan _ => (0, flagNV)
  | .inf n => (wrapInt w (if n then lo else hi), flagNV)
  | .fin n m e =>
    let k := if 0 ≤ e then (m * 2 ^ e.toNat, false) else roundShift r n m (-e).toNat
    let z : Int := if n then -(k.1 : Int) else (k.1 : Int)
    if z < lo then (wrapInt w lo, flagNV)
    else if hi < z then (wrapInt w hi, flagNV)
    else (wrapInt w z, if k.2 then flagNX else 0)

/-- An integer as an exact value; zero is +0. -/
def fpOfInt (z : Int) : Fp := .fin (decide (z < 0)) z.natAbs 0

/-- An f32 bit pattern as an exact value. -/
def f32 (x : Nat) : Fp := fpDecode fmtF32 (x % 2 ^ 32)

/-- The value of a w19 container: bits 12:0 are ignored (R90). -/
def w19Value (x : Nat) : Fp := fpDecode fmtW19 (x / 2 ^ 13 % 2 ^ 19)

/-- The width of a conversion type (R185). -/
def cvtBits (t : Nat) : Nat :=
  match t with
  | 0 | 3 | 8 | 9 => 32
  | 1 | 2 | 6 | 7 => 16
  | _ => 8

/-- An element read under a conversion type (R111). -/
def cvtRead (t : Nat) (x : Nat) : Fp :=
  match t with
  | 0 => f32 x
  | 1 => fpDecode fmtBf16 x
  | 2 => fpDecode fmtF16 x
  | 3 => w19Value x
  | 4 => fpOfInt (signedOf 8 x)
  | 6 => fpOfInt (signedOf 16 x)
  | 8 => fpOfInt (signedOf 32 x)
  | _ => fpOfInt x

/-- `Convert(x, dt, rnd)` (R99, R100). -/
def cvtWrite (t : Nat) (r : Rnd) (x : Fp) : Nat × FpFlags :=
  match t with
  | 0 => fpRound fmtF32 r x
  | 1 => fpRound fmtBf16 r x
  | 2 => fpRound fmtF16 r x
  | 3 => let y := fpRound fmtW19 r x; (y.1 * 2 ^ 13, y.2)
  | 4 => fpToInt true 8 r x
  | 5 => fpToInt false 8 r x
  | 6 => fpToInt true 16 r x
  | 7 => fpToInt false 16 r x
  | 8 => fpToInt true 32 r x
  | _ => fpToInt false 32 r x

/-- The container of an entry of a decode table. -/
def DecTab.entry (t : DecTab) (c : Nat) : Nat := ((aget t.entries c).getD 0).toNat

/-- `Decode(c, tab)`: the w19 container (R92). -/
def tabDecode (t : DecTab) (c : Nat) : Nat :=
  if t.nan = some (BitVec.ofNat 8 c) then 0x7FC00000
  else
    let x := t.entry c / 2 ^ 13 * 2 ^ 13
    if (w19Value x).isNaN then 0x7FC00000 else x

/-- The codes below `n` that take part in encoding, with their values, codes rising (R93). -/
def tabCodes (t : DecTab) (n : Nat) : List (Nat × Fp) :=
  ((List.range n).map (fun c => (c, w19Value (t.entry c)))).filter
    (fun cv => !(decide (t.nan = some (BitVec.ofNat 8 cv.1))) && !cv.2.isNaN)

/-- The lowest code of a value. -/
def tabRep (es : List (Nat × Fp)) (y : Fp) : Nat :=
  match es.find? (fun cv => fpCompare cv.2 y = .eq) with
  | some cv => cv.1
  | none => 0

/-- The best value of a list under an order, the first on equal ones. -/
def bestOf (better : Fp → Fp → Bool) : List (Nat × Fp) → Option Fp
  | [] => none
  | cv :: es =>
    match bestOf better es with
    | none => some cv.2
    | some y => some (if better y cv.2 then y else cv.2)

/-- A value whose distance to `x` decides RNE: infinite for an infinite neighbour. -/
def distance (x y : Fp) : Fp := (fpAdd y x.negate).1.abs

/-- `Encode(x, tab, n, rnd)` with its flags (R93). -/
def tabEncode (t : DecTab) (n : Nat) (r : Rnd) (x : Fp) : Nat × FpFlags :=
  let es := tabCodes t n
  if es.isEmpty then (0, flagNV)
  else if x.isNaN then
    match t.nan with
    | some c => if c.toNat < n then (c.toNat, 0) else (tabRep es (largest es), flagNV)
    | none => (tabRep es (largest es), flagNV)
  else if es.any (fun cv => fpCompare cv.2 x = .eq) then (tabRep es x, 0)
  else
    let lo := bestOf (fun y z => fpCompare y z = .gt) (es.filter (fun cv => fpCompare cv.2 x = .lt))
    let hi := bestOf (fun y z => fpCompare y z = .lt) (es.filter (fun cv => fpCompare cv.2 x = .gt))
    match lo, hi with
    | none, none => (0, flagNV)
    | none, some h => (tabRep es h, flagOF ||| flagNX)
    | some l, none => (tabRep es l, flagOF ||| flagNX)
    | some l, some h =>
      let cl := tabRep es l
      let ch := tabRep es h
      let near := match fpCompare (distance x l) (distance x h) with
        | .lt => cl
        | .gt => ch
        | .eq => if cl % 2 = ch % 2 then min cl ch else if cl % 2 = 0 then cl else ch
      let toZero := match fpCompare x (.fin false 0 0) with
        | .gt => cl
        | .lt => ch
        | .eq => near
      let code := match r with
        | .rne => near
        | .rtz => toZero
        | .rup => ch
        | .rdn => cl
        | .rto => if cl % 2 = ch % 2 then toZero else if cl % 2 = 1 then cl else ch
      (code, flagNX)
where
  /-- The entry of largest magnitude, the positive one on equal magnitude. -/
  largest (es : List (Nat × Fp)) : Fp :=
    (bestOf (fun y z => match fpCompare y.abs z.abs with
      | .gt => true
      | .lt => false
      | .eq => !y.isNeg && z.isNeg) es).getD (.fin false 0 0)

end Sys2Proof.Machine
end

