-- ==== Sys2Proof/Machine/Ops.lean ====
section
/-! DEFINITION. The shared operations on a core: which core acts, registers, waits, loops, gangs, taking a
trap and returning from it, and how an instruction ends. -/

namespace Sys2Proof.Machine

/-- The outcome of an instruction or a step. -/
abbrev Result := Host.Outcome State Fault Refusal

/-! ### Cores -/

/-- Logical core `k`. -/
def State.coreAt (s : State) (k : Nat) : Core :=
  if k = s.core.id then s.core else (aget s.cores k).getD (Core.reset k)

/-- Put a core back under its own number. -/
def State.putCore (s : State) (c : Core) : State :=
  if c.id = s.core.id then { s with core := c } else { s with cores := aset s.cores c.id c }

/-- Change logical core `k`. -/
def State.onCore (s : State) (k : Nat) (f : Core → Core) : State := s.putCore (f (s.coreAt k))

/-- Make logical core `k` the acting one. -/
def State.actAs (s : State) (k : Nat) : State :=
  if k = s.core.id then s
  else { s with core := s.coreAt k, cores := aset (adel s.cores k) s.core.id s.core }

/-- Change the execution state of the acting core. -/
def State.onX (s : State) (f : ExecState → ExecState) : State :=
  { s with core := { s.core with x := f s.core.x } }

/-- Change the engines of the acting core. -/
def State.onEng (s : State) (f : Engines → Engines) : State :=
  { s with core := { s.core with eng := f s.core.eng } }

/-- Change the status words of the acting core. -/
def State.onSw (s : State) (f : StatusWords → StatusWords) : State :=
  { s with core := { s.core with sw := f s.core.sw } }

/-- Change the CSRs of the acting core. -/
def State.onCsr (s : State) (f : Csrs → Csrs) : State :=
  { s with core := { s.core with csr := f s.core.csr } }

/-- Change the matrix unit of the acting core. -/
def State.onMat (s : State) (f : Matrix → Matrix) : State :=
  { s with core := { s.core with mat := f s.core.mat } }

/-- Change the memories of the acting core. -/
def State.onMem (s : State) (f : CoreMem → CoreMem) : State :=
  { s with core := { s.core with mem := f s.core.mem } }

/-- Change the NI of the acting core. -/
def State.onNi (s : State) (f : Ni → Ni) : State :=
  { s with core := { s.core with ni := f s.core.ni } }

/-- Change the device. -/
def State.onDev (s : State) (f : Device → Device) : State := { s with dev := f s.dev }

/-- Change timed memory. -/
def State.onTimed (s : State) (f : Timed → Timed) : State :=
  { s with dev := { s.dev with timed := f s.dev.timed } }

/-- Change dispatch. -/
def State.onDisp (s : State) (f : Dispatch → Dispatch) : State :=
  { s with dev := { s.dev with disp := f s.dev.disp } }

/-! ### Names of cores, clusters and shingles (R2) -/

/-- The number of logical cores. -/
def coreCount : Nat := 165888

/-- Logical cluster of a logical core: `lclu`. -/
def clusterOf (k : Nat) : Nat := k / 768 / 6 * 96 + k % 768 / 8

/-- Shingle of a logical core: `lshg`. -/
def shingleOf (k : Nat) : Nat := k / 768 / 54 * 8 + k % 768 / 96

/-- Cluster-local index of a logical core (R51). -/
def localIndex (k : Nat) : Nat := k % 8 + 8 * (k / 768 % 6)

/-- Logical core number of a cluster-local index in a logical cluster. -/
def coreInCluster (cl c : Nat) : Nat := (cl / 96 * 6 + c / 8) * 768 + cl % 96 * 8 + c % 8

/-- Shingle of a logical cluster. -/
def clusterShingle (cl : Nat) : Nat := cl / 96 / 9 * 8 + cl % 96 / 12

/-- Index of a logical cluster within its shingle: cluster row × 12 + cluster column (R269). -/
def clusterIndex (cl : Nat) : Nat := cl / 96 % 9 * 12 + cl % 96 % 12

/-- The partition that holds a logical cluster. -/
def State.clusterPart (s : State) (cl : Nat) : Option Nat := aget s.dev.disp.clusters cl

/-- The partition that a core works for: its task's, or else its cluster's. -/
def Core.part (c : Core) (s : State) : Option Nat :=
  match c.x.ctx with
  | some x => some x.part
  | none => s.clusterPart (clusterOf c.id)

/-- A partition. -/
def State.partition (s : State) (p : Nat) : Option Partition := aget s.dev.disp.parts p

/-- The broadcast horizon at a core (R70, R277); 0 with no partition. -/
def Core.horizon (c : Core) (s : State) : Nat :=
  match c.part s with
  | some p => match s.partition p with
    | some q => q.horizon
    | none => 0
  | none => 0

/-! ### Voltage domains (R300, R301) -/

/-- The voltage domain of a cluster on its shingle: the place of its partition among those there (R300). -/
def State.domainOf (s : State) (cl : Nat) : Option Nat :=
  let sh := clusterShingle cl
  let here := s.dev.disp.clusters.filter (fun c => clusterShingle c.1 = sh)
  match aget s.dev.disp.clusters cl with
  | none => none
  | some p => some ((here.map (fun c => c.2)).eraseDups.idxOf p)

/-- The transition of a cluster's domain: its phase, 1 draining and 2 switching. -/
def State.domainPhase (s : State) (cl : Nat) : Nat :=
  match s.domainOf cl with
  | none => 0
  | some d =>
    match s.dev.out.volt.find? (fun v => decide (v.shingle = clusterShingle cl ∧ v.index = d)) with
    | some v => v.phase
    | none => 0

/-- Whether the gate of a core's voltage domain is shut: a transition drains it, or switches it (R301). -/
def State.gateShut (s : State) (k : Nat) : Bool := decide (s.domainPhase (clusterOf k) ≠ 0)

/-- The instant at which the gate of a core's domain last closed (R301). -/
def State.gateSince (s : State) (k : Nat) : Nat :=
  match s.domainOf (clusterOf k) with
  | none => 0
  | some d =>
    match s.dev.out.volt.find? (fun v => decide (v.shingle = clusterShingle (clusterOf k) ∧ v.index = d)) with
    | some v => v.since
    | none => 0

/-- Whether two cores stand in one voltage domain. -/
def State.sameDomain (s : State) (j k : Nat) : Bool :=
  decide (clusterShingle (clusterOf j) = clusterShingle (clusterOf k) ∧ s.domainOf (clusterOf j) = s.domainOf (clusterOf k))

/-! ### Registers -/

/-- Read a g register; g0 is zero (R14). -/
def Regs.readG (x : Regs) (r : RegNo) : Word := if r = 0 then 0 else x.g[r.toNat]'(r.isLt)

/-- Write a g register; g0 discards (R14). -/
def Regs.writeG (x : Regs) (r : RegNo) (v : Word) : Regs :=
  if r = 0 then x else { x with g := x.g.set r.toNat v (r.isLt) }

/-- Read a v register. -/
def Regs.readV (x : Regs) (r : RegNo) : VReg := x.v[r.toNat]'(r.isLt)

/-- Write a v register. -/
def Regs.writeV (x : Regs) (r : RegNo) (v : VReg) : Regs := { x with v := x.v.set r.toNat v (r.isLt) }

/-- Read a predicate; p0 is all ones (R15). -/
def Regs.readP (x : Regs) (r : BitVec 3) : BitVec 16 := if r = 0 then BitVec.allOnes 16 else x.p[r.toNat]'(r.isLt)

/-- Write a predicate; p0 discards (R177). -/
def Regs.writeP (x : Regs) (r : BitVec 3) (v : BitVec 16) : Regs :=
  if r = 0 then x else { x with p := x.p.set r.toNat v (r.isLt) }

/-- Read a g register of the acting core. -/
def State.g (s : State) (r : RegNo) : Word := s.core.r.readG r

/-- The register after a g register, for the forms that read g+1. -/
def State.gNext (s : State) (r : RegNo) : Word := s.core.r.readG (r + 1)

/-- Read a predicate of the acting core. -/
def State.p (s : State) (r : BitVec 3) : BitVec 16 := s.core.r.readP r

/-- The bit of a register in the live mask (R33): g at its number, v at 32 and up, lc at 60 and up. -/
def markBit (x : Word) (n : Nat) : Word := x ||| BitVec.ofNat 64 (2 ^ n)

/-- Mark a lane of the live mask as written since the task started (R36). -/
def ExecState.mark (x : ExecState) (n : Nat) : ExecState := { x with written := markBit x.written n }

/-- Mark a v register as written (R36). -/
def ExecState.markV (x : ExecState) (r : RegNo) : ExecState :=
  if r.toNat < 28 then x.mark (32 + r.toNat) else { x with writtenHigh := true }

/-- Write a g register of a core. -/
def Core.writeG (c : Core) (r : RegNo) (v : Word) : Core :=
  if r = 0 then c else { c with r := c.r.writeG r v, x := c.x.mark r.toNat }

/-- Write a v register of a core as a register. -/
def Core.writeVReg (c : Core) (r : RegNo) (v : VReg) : Core :=
  { c with r := c.r.writeV r v, x := c.x.markV r }

/-- Write a g register of the acting core. -/
def State.setG (s : State) (r : RegNo) (v : Word) : State := { s with core := s.core.writeG r v }

/-- Write a v register of the acting core as a register. -/
def State.setVReg (s : State) (r : RegNo) (v : VReg) : State := { s with core := s.core.writeVReg r v }

/-- Write a predicate of the acting core. -/
def State.setP (s : State) (r : BitVec 3) (v : BitVec 16) : State :=
  { s with core := { s.core with r := s.core.r.writeP r v } }

/-- Raise flags at a core. -/
def Core.raise (c : Core) (f : FpFlags) : Core := { c with sw := { c.sw with fstat := c.sw.fstat ||| f } }

/-- An instruction's flags are ORed into `fstat` of the acting core as it retires (R98). -/
def State.raise (s : State) (f : FpFlags) : State := { s with core := s.core.raise f }

/-! ### Gangs (R42, R43) -/

/-- Take core `k` out of the gang whose members are listed: it is in none, the others without it, and a
gang of one member is dissolved. -/
def State.leaveGangOf (s : State) (k : Nat) (members : List Nat) : State :=
  let rest := members.filter (fun m => m ≠ k)
  let rest' := if rest.length ≤ 1 then [] else rest
  rest.foldl (fun s m => s.onCore m (fun c => { c with gang := rest' })) (s.onCore k (fun c => { c with gang := [] }))

/-- The acting core leaves its gang, if it is in one. -/
def State.leaveGang (s : State) : State :=
  if s.core.gang = [] then s else s.leaveGangOf s.core.id s.core.gang

/-- Dissolve the gang of the acting core (R137). -/
def State.dissolveGang (s : State) : State :=
  s.core.gang.foldl (fun s m => s.onCore m (fun c => { c with gang := [] })) s

/-! ### Waits (R34) -/

/-- The core cycles the current issue takes. -/
def State.elapsed (s : State) : Nat := 1 + Config.extraCycles s.dev.tick

/-- The acting core waits: the same wait goes on, or a new one begins. The spec does not say whether an access `at fe` whose
first empty word fills while a later one is empty is still one wait: the model begins a new one (log entry 74, DESIGN
CHOICE). -/
def State.waiting (s : State) (r : WaitReason) (obj : Word) : State :=
  s.onX (fun x => { x with
    wait := match x.wait with
      | some w => if w.reason = r ∧ w.obj = obj then some ⟨r, obj, w.cycles + s.elapsed⟩ else some ⟨r, obj, 0⟩
      | none => some ⟨r, obj, 0⟩ })

/-- Whether a core waits in a `yield` for the REL of its next group (R138). -/
def Core.yields (c : Core) (now : Nat) : Bool :=
  match c.x.wait with
  | some w => decide (w.reason = .yieldRel ∧ now < w.obj.toNat)
  | none => false

/-! ### Loops (R129 to R134) -/

/-- Some level is active. -/
def anyLoop (ls : Vector LoopLevel 3) : Bool := ls[0].active || ls[1].active || ls[2].active

/-- A level as a handler finds it: inactive, its counter kept. -/
def LoopLevel.suspended (l : LoopLevel) : LoopLevel := { l with active := false, cap := [] }

/-- Every level suspended. -/
def suspendLoops (ls : Vector LoopLevel 3) : Vector LoopLevel 3 := ls.map LoopLevel.suspended

/-- The registers that the end of the clause about to issue advances (R130). -/
def Core.loopRegs (c : Core) : List RegNo :=
  let e := (c.x.pc &&& 0xFFF8).toNat + 8
  (c.x.loops.toList.filter (fun l => l.active && decide (l.stop = e))).flatMap
    (fun l => [l.step.extractLsb' 0 5, l.step.extractLsb' 21 5])

/-- The g register that a remote access goes to. -/
def RDst.scalar : RDst → Option RegNo
  | .g x _ | .amo x _ => some x
  | _ => none

/-- Whether an access leaves a g register pending (R147). -/
def RDst.pendsG (d : RDst) (r : RegNo) : Bool :=
  match d with
  | .g x _ | .amo x _ => decide (x = r ∧ r ≠ 0)
  | _ => false

/-- Whether an access leaves a v register pending. -/
def RDst.pendsV (d : RDst) (r : RegNo) : Bool :=
  match d with
  | .v x _ | .port x _ => decide (x = r)
  | _ => false

/-- Whether a register has a bank of its own in a user-level interrupt handler: g12 to g19 (R173). -/
def banked (r : RegNo) : Bool := decide (12 ≤ r.toNat ∧ r.toNat ≤ 19)

/-- Whether a register of a bank is the one in use. -/
def Core.inUse (c : Core) (hand : Bool) (r : RegNo) : Bool := !banked r || hand == c.x.handBank

/-- A remote access leaves a register in use pending. -/
def Core.pends (c : Core) (m : Remote) (r : RegNo) : Bool := m.dst.pendsG r && c.inUse m.hand r

/-- A scratchpad load or atomic that is still to be performed gives a register in use its value. -/
def Core.owes (c : Core) (p : PendStore) (r : RegNo) : Bool :=
  match p.atomic, p.load with
  | some a, _ => decide (a.dst = r ∧ r ≠ 0) && c.inUse a.hand r
  | none, some l => l.dst.pendsG r && c.inUse l.hand r
  | none, none => false

/-- A scratchpad load that is still to be performed gives a v register its value. -/
def PendStore.owesV (p : PendStore) (r : RegNo) : Bool :=
  match p.load with
  | some l => l.dst.pendsV r
  | none => false

/-- A late load goes to a register in use. -/
def Core.mayChange (c : Core) (l : LateLoad) (r : RegNo) : Bool := l.dst.pendsG r && c.inUse l.hand r

/-- A stride is added to a register; to one that is pending, after its value has come (R130, R147). -/
def State.stride (s : State) (r : RegNo) (v : Word) : State :=
  if s.core.eng.remote.any (fun m => s.core.pends m r) then
    s.onEng (fun e => { e with remote := e.remote.map (fun m => if s.core.pends m r then { m with stride := m.stride + v } else m) })
  else if s.core.eng.pend.any (fun p => s.core.owes p r) then
    s.onEng (fun e => { e with pend := e.pend.map (fun p =>
      if s.core.owes p r then { p with atomic := p.atomic.map (fun a => { a with stride := a.stride + v }) } else p) })
  else if s.core.eng.loads.any (fun l => s.core.mayChange l r) then
    (s.onEng (fun e => { e with loads := e.loads.filter (fun l => !s.core.mayChange l r) })).setG r (s.g r + v)
  else s.setG r (s.g r + v)

/-- The signed strides of a step record added to its registers, X first (R130, R131). -/
def State.advance (s : State) (rec : Word) : State :=
  (s.stride (rec.extractLsb' 0 5) ((rec.extractLsb' 5 16).signExtend 64)).stride (rec.extractLsb' 21 5)
    ((rec.extractLsb' 26 16).signExtend 64)

/-- Set the clause that issues next. -/
def State.setPc (s : State) (a : Nat) : State := s.onX (fun x => { x with pc := BitVec.ofNat 16 a })

/-- Set a loop level. -/
def State.setLoop (s : State) (l : Fin 3) (v : LoopLevel) : State :=
  s.onX (fun x => { x with loops := x.loops.set l v })

/-- `EndOfBody(e)` over the levels listed, innermost first (R130). -/
def endOfBodyFrom : List (Fin 3) → Nat → State → State
  | [], e, s => s.setPc (e % 65536)
  | l :: ls, e, s =>
    let v := s.core.x.loops[l]
    if v.active && decide (v.stop = e) then
      let s1 := s.advance v.step
      if v.lc.toNat ≤ 1 then
        endOfBodyFrom ls e (s1.setLoop l { v with active := false, lc := 0, cap := [] })
      else
        (s1.setLoop l { v with lc := v.lc - 1, pass := v.pass + 1 }).setPc v.start
    else endOfBodyFrom ls e s

/-- `EndOfBody(e)` (R130). -/
def State.endOfBody (s : State) (e : Nat) : State := endOfBodyFrom [2, 1, 0] e s

/-- Cancel the outermost level whose body does not hold a jump's target, and every deeper one (R132). -/
def cancelLoops (ls : Vector LoopLevel 3) (target : Nat) : Vector LoopLevel 3 :=
  let out (l : LoopLevel) : Bool := l.active && (decide (target < l.start) || decide (l.stop ≤ target))
  let off (l : LoopLevel) : LoopLevel := { l with active := false, cap := [] }
  if out ls[0] then ls.map off
  else if out ls[1] then #v[ls[0], off ls[1], off ls[2]]
  else if out ls[2] then #v[ls[0], ls[1], off ls[2]]
  else ls

/-- A taken branch or jump (R106, R132). -/
def State.jumpTo (s : State) (target : BitVec 16) : State :=
  s.onX (fun x => { x with pc := target, loops := cancelLoops x.loops target.toNat })

/-! ### The handler's bank (R173) -/

/-- Exchange g12 to g19 with the hidden bank (R173). -/
def Regs.swapBank (r : Regs) : Regs :=
  { r with
    g := Vector.ofFn (fun i : Fin 32 => if h : 12 ≤ i.val ∧ i.val < 20 then r.bank[i.val - 12] else r.g[i])
    bank := Vector.ofFn (fun i : Fin 8 => r.g[i.val + 12]) }

/-- The handler's g12 to g19 come into use, or the task's (R173). -/
def Core.useBank (c : Core) (hand : Bool) : Core :=
  if c.x.handBank = hand then c else { c with r := c.r.swapBank, x := { c.x with handBank := hand } }

/-! ### Traps (R262, R264) -/

/-- Whether any stream port is bound. -/
def Core.anyPort (c : Core) : Bool := c.eng.streams.any Option.isSome

/-- A trap is taken: `Enter` of R262, with the address that `xepc` names. With a trap in progress the
core's clock stops instead (R264). A core holds the levels of one trapped program: a trap taken in a handler that has cleared
TIP overwrites those of the outer one, of which the spec says nothing (log entry 82, DESIGN CHOICE). -/
def State.enterTrap (s : State) (code : BitVec 8) (val val2 : Word) (epc : BitVec 16) : State :=
  if s.core.csr.tip then
    s.onX (fun x => { x with stopped := some .doubleTrap, double := some (code, val, val2), wait := none })
  else
    let s1 := s.leaveGang
    { s1 with core := { s1.core with
      csr := { s1.core.csr with
        xepc := epc, xcause := code, xval := val, xval2 := val2, pm := s1.core.x.mode,
        puh := s1.core.x.inHandler, la := anyLoop s1.core.x.loops, sb := s1.core.anyPort, tip := true },
      x := { s1.core.x with
        inHandler := false, xLoops := s1.core.x.loops, loops := suspendLoops s1.core.x.loops,
        mode := .supervisor, pc := s1.core.csr.xtvec &&& 0xFFF8, wait := none } } }

/-- The core takes its next work: no task, user mode, no trap in progress (R262, R275). -/
def State.goIdle (s : State) : State :=
  { s with core := { s.core with
    fuse := none,
    csr := { s.core.csr with tip := false },
    x := { s.core.x with
      mode := .user, inHandler := false, run := .idle, ended := false, ctx := none, wait := none, ras := [],
      loops := Vector.replicate 3 .idle } } }

/-- The return from a trap: `xret` of R262. A context that was ended, or that is not there to return to,
leaves the core taking its next work, with the handler's bank out of use (R173). -/
def State.leaveTrap (s : State) : State :=
  if s.core.x.ended || (s.core.x.ctx.isNone && decide (s.core.csr.pm = .user)) then
    ({ s with core := s.core.useBank false } : State).goIdle
  else
    { s with core := { s.core with
      csr := { s.core.csr with tip := false },
      x := { s.core.x with
        pc := s.core.csr.xepc, mode := s.core.csr.pm, inHandler := s.core.csr.puh,
        loops := s.core.x.xLoops, ras := [], wait := none } } }

/-- A user-level interrupt is taken: the lowest enabled pending cause (R173). -/
def State.enterHandler (s : State) (cause : Fin 6) : State :=
  let s1 := s.leaveGang
  let c := s1.core.useBank true
  { s1 with core := { c with
    sw := { c.sw with
      uepc := c.x.pc, ucause := BitVec.ofNat 8 cause.val, uval := c.sw.pendVal[cause],
      pend := c.sw.pend &&& ~~~(BitVec.ofNat 6 (2 ^ cause.val)) }
    x := { c.x with
      inHandler := true, uLoops := c.x.loops, loops := suspendLoops c.x.loops,
      pc := c.sw.uvec &&& 0xFFF8, wait := none } } }

/-! ### How an instruction ends -/

/-- The address of the clause that holds the word about to issue. -/
def State.clause (s : State) : BitVec 16 := s.core.x.pc &&& 0xFFF8

/-- The address of the next clause (R107). -/
def State.nextClause (s : State) : BitVec 16 := s.clause + 8

/-- A word of a fragment clause, or a paired clause as a whole, has retired with nothing taken: word1
follows word0 of a fragment clause, else the body may end. -/
def State.advancePc (s : State) : State :=
  if !s.core.x.inPair && !s.core.x.pc.getLsbD 2 then s.onX (fun x => { x with pc := x.pc + 4 })
  else s.endOfBody (s.clause.toNat + 8)

/-- The return from a user-level interrupt handler: `uepc`, the task's g12 to g19, its levels and counters
(R174, R134). -/
def State.leaveHandler (s : State) : State :=
  let c := s.core.useBank false
  { s with core := { c with x := { c.x with
      pc := s.core.sw.uepc, inHandler := false, loops := s.core.x.uLoops, wait := none } } }

/-- The effect of how an instruction ended on the program counter (R104, R105). A context that leaves its
core does so in `Leave.lean`. -/
def State.applyFlow (s : State) (f : Flow) : State :=
  match f with
  | .next => (s.onX (fun x => { x with wait := none })).advancePc
  | .jump t => (s.onX (fun x => { x with wait := none })).jumpTo t
  | .zeroTrip e => (s.onX (fun x => { x with wait := none })).endOfBody e
  | .trap code val val2 => s.enterTrap code val val2 s.core.x.pc
  | .trapAfter code val =>
    let s1 := (s.onX (fun x => { x with wait := none })).advancePc
    s1.enterTrap code val 0 s1.core.x.pc
  | .userReturn => s.leaveHandler
  | .trapReturn => s.leaveTrap
  | .leave _ => s
  | .stay => s

/-- An instruction ends. In a paired clause the clause ends with its second word, so the end is recorded. -/
def State.finish (s : State) (f : Flow) : State :=
  if s.core.x.inPair then s.onX (fun x => { x with flow := f }) else s.applyFlow f

/-- An instruction retires and the next word follows. -/
def State.done (s : State) : Result := .next (s.finish .next)

/-- An instruction takes a precise trap, with nothing of it performed. -/
def State.trap (s : State) (code : BitVec 8) (val val2 : Word) : Result := .next (s.finish (.trap code val val2))

/-- An instruction waits at issue. -/
def State.stay (s : State) (r : WaitReason) (obj : Word) : Result := .next ((s.waiting r obj).finish .stay)

/-- The word at issue of an instruction: word0 of a fragment clause has its clause bit set (R103). -/
def State.wordAtIssue (s : State) (i : Instr) : IWord :=
  if !s.core.x.inPair && !s.core.x.pc.getLsbD 2 then encode i ||| 0x80000000 else encode i

/-- The precise trap "illegal instruction", whose value is the offending word (R116). -/
def State.illegal (s : State) (i : Instr) : Result := s.trap 0x01 ((s.wordAtIssue i).setWidth 64) 0

end Sys2Proof.Machine
end

