-- ==== Sys2Proof/Machine/Path.lean ====
section
/-! DEFINITION. The paths of the address space, the checks of an access, and the untimed local memories
with their full/empty bits and views (R47 to R60, R80). -/

namespace Sys2Proof.Machine

/-- The paths of R47; a view carries its decode table. -/
inductive Path where
  | im | tcm | spad
  | tcmView (table : Fin 4) | spadView (table : Fin 4)
  | tcmBf16 | spadBf16
  | loft | global | globalRo | dev
  deriving DecidableEq, Repr

/-- Access kinds of the table of R47. -/
inductive AKind where
  | load | store | atomic
  deriving DecidableEq, Repr

/-- Path and offset of an address; none where R47 takes a path fault. -/
def pathOf (a : Word) : Option (Path × Nat) :=
  let off := a.toNat % 2 ^ 56
  let within (p : Path) (size : Nat) : Option (Path × Nat) := if off < size then some (p, off) else none
  match a.toNat / 2 ^ 56 with
  | 0x00 => within .im 0x10000
  | 0x01 => within .tcm 0x10000
  | 0x02 => within .spad 0xC00000
  | 0x08 => within (.tcmView 0) 0x40000
  | 0x09 => within (.tcmView 1) 0x40000
  | 0x0A => within (.tcmView 2) 0x40000
  | 0x0B => within (.tcmView 3) 0x40000
  | 0x0C => within (.spadView 0) 0x3000000
  | 0x0D => within (.spadView 1) 0x3000000
  | 0x0E => within (.spadView 2) 0x3000000
  | 0x0F => within (.spadView 3) 0x3000000
  | 0x10 => within .tcmBf16 0x20000
  | 0x11 => within .spadBf16 0x1800000
  | 0x20 => within .loft (2 ^ 32)
  | 0x40 => within .global (2 ^ 48)
  | 0x41 => within .globalRo (2 ^ 48)
  | 0x7F => within .dev 0x10000
  | _ => none

/-- Whether a path is a view. -/
def Path.isView : Path → Bool
  | .tcmView _ | .spadView _ | .tcmBf16 | .spadBf16 => true
  | _ => false

/-- Whether a path is timed (R47). -/
def Path.isTimed : Path → Bool
  | .loft | .global => true
  | _ => false

/-- Whether a path's words carry full/empty bits, or lie over words that do (R57, R145). -/
def Path.hasFull : Path → Bool
  | .tcm | .spad | .tcmView _ | .spadView _ | .tcmBf16 | .spadBf16 => true
  | _ => false

/-- The 32-bit lanes of a view that bytes of it touch (R53). -/
def lanesOver (off n : Nat) : Nat := (off + n + 3) / 4 - off / 4

/-- The memory under a path, and the bytes an access reads there: TCM or the scratchpad, the offset and
the length (R53). -/
def Path.under (p : Path) (off n : Nat) : Option (Bool × Nat × Nat) :=
  match p with
  | .tcm => some (true, off, n)
  | .spad => some (false, off, n)
  | .tcmView _ => some (true, off / 4, lanesOver off n)
  | .spadView _ => some (false, off / 4, lanesOver off n)
  | .tcmBf16 => some (true, 2 * (off / 4), 2 * lanesOver off n)
  | .spadBf16 => some (false, 2 * (off / 4), 2 * lanesOver off n)
  | _ => none

/-- Offsets of DEV items that take stores of 8 or 16 bytes only (R340). -/
def devRegisterLike (off : Nat) : Bool :=
  decide (off < 0x8000 ∨ (0xD000 ≤ off ∧ off < 0xD0A0) ∨ (0xD100 ≤ off ∧ off < 0xD308))

/-- The path check of R47, R145 and R340. -/
def pathFault (p : Path) (off : Nat) (k : AKind) (n : Nat) : Bool :=
  match k with
  | .load => p.isView && decide (n < 4)
  | .store =>
    match p with
    | .im | .globalRo => true
    | .dev => devRegisterLike off && decide (n < 8)
    | p => p.isView
  | .atomic =>
    match p with
    | .im | .globalRo | .dev => true
    | p => p.isView

/-- Whether a user-mode access touches reserved space (R257). -/
def reserved (c : Core) (p : Path) (off n : Nat) : Bool :=
  c.csr.supEn &&
    match p with
    | .im => decide (c.csr.ifr.toNat * 0x1000 < off + n)
    | p =>
      match p.under (off + n - 1) 0 with
      | some (true, o, _) => decide (n ≠ 0 ∧ c.csr.tfr.toNat * 0x1000 ≤ o)
      | _ => false

/-- The privilege check: DEV or reserved space in user mode (R48, R257). -/
def privFault (c : Core) (p : Path) (off n : Nat) : Bool :=
  decide (c.x.mode = .user) && (decide (p = .dev) || reserved c p off n)

/-- The stack check of an access through g2 (R60). -/
def stackFault (c : Core) (a : Word) (n : Nat) : Bool :=
  decide (c.sw.stkl ≠ 0) && !(decide (c.sw.stkb.toNat ≤ a.toNat) && decide (a.toNat + n ≤ c.sw.stkl.toNat))

/-- The checks of R48 on one access of `n` bytes aligned to `align`, in their order; `base2` for an access
whose base register is g2, `fe` for one `at fe`. -/
def accessTrapAt (c : Core) (k : AKind) (a : Word) (n align : Nat) (base2 fe : Bool) : Option Flow :=
  match pathOf a with
  | none => some (.trap 0x05 a 0)
  | some (p, off) =>
    if pathFault p off k n then some (.trap 0x05 a 0)
    else if privFault c p off n then some (.trap 0x03 a 0)
    else if base2 && stackFault c a n then some (.trap 0x06 a 0)
    else if a.toNat % align ≠ 0 then some (.trap 0x04 a 0)
    else if fe && !p.hasFull then some (.trap 0x05 a 1)
    else none

/-- The checks of R48 on one access aligned to its width. -/
def accessTrap (c : Core) (k : AKind) (a : Word) (n : Nat) (base2 fe : Bool) : Option Flow :=
  accessTrapAt c k a n n base2 fe

/-- The checks of R48 on a run of `n` bytes that an engine or the matrix unit moves in accesses of `w` bytes: none of it on
DEV, all of it on one path, aligned to `align`. -/
def spanTrapOf (c : Core) (k : AKind) (a : Word) (w n align : Nat) (base2 : Bool) : Option Flow :=
  match pathOf a with
  | none => some (.trap 0x05 a 0)
  | some (p, off) =>
    if p = .dev then some (.trap 0x05 a 0)
    else if n ≠ 0 ∧ (pathOf (a + BitVec.ofNat 64 (n - 1))).map (fun x => x.1) ≠ some p then some (.trap 0x05 a 0)
    else if pathFault p off k w then some (.trap 0x05 a 0)
    else if privFault c p off n then some (.trap 0x03 a 0)
    else if base2 && stackFault c a n then some (.trap 0x06 a 0)
    else if a.toNat % align ≠ 0 then some (.trap 0x04 a 0)
    else none

/-- The checks of R48 on a run of `n` bytes, moved in accesses of four bytes or more. -/
def spanTrap (c : Core) (k : AKind) (a : Word) (n align : Nat) (base2 : Bool) : Option Flow :=
  spanTrapOf c k a (max n 4) n align base2

/-! ### TCM and scratchpad -/

/-- The scratchpad of a cluster. -/
def State.spad (s : State) (cl : Nat) : Memory := agetMem s.dev.spads cl

/-- The empty scratchpad words of a cluster (R57). -/
def State.spadEmptyOf (s : State) (cl : Nat) : List Nat := (aget s.dev.spadEmpty cl).getD []

/-- Write scratchpad bytes, performed at their banks. -/
def State.spadWrite (s : State) (cl : Nat) (bs : List (Nat × Byte)) : State :=
  s.onDev (fun d => { d with spads := aset d.spads cl ((agetMem d.spads cl).writeAll bs) })

/-- Set scratchpad words full or empty. -/
def State.spadMark (s : State) (cl : Nat) (full : Bool) (ws : List Nat) : State :=
  let t := ws.foldl (fun t w => if full then eraseNat t w else insertNat t w) (s.spadEmptyOf cl)
  s.onDev (fun d => { d with spadEmpty := aset d.spadEmpty cl t })

/-- The TCM pages an access writes, as MGTOUCH marks them (R302). -/
def touchPages (off n : Nat) : BitVec 16 :=
  BitVec.ofNat 16 (2 ^ (off / 0x1000)) ||| BitVec.ofNat 16 (2 ^ ((off + n - 1) / 0x1000))

/-- Write TCM bytes of a core. -/
def Core.tcmWrite (c : Core) (bs : List (Nat × Byte)) : Core :=
  { c with
    mem := { c.mem with tcm := c.mem.tcm.writeAll bs }
    x := { c.x with touchTcm := bs.foldl (fun t b => t ||| touchPages b.1 1) c.x.touchTcm } }

/-- Set TCM words of a core full or empty. -/
def Core.tcmMark (c : Core) (full : Bool) (ws : List Nat) : Core :=
  let t := ws.foldl (fun t w => if full then eraseNat t w else insertNat t w) c.mem.tcmEmpty
  { c with mem := { c.mem with tcmEmpty := t } }

/-- Bytes at consecutive offsets. -/
def atOffsets (off : Nat) (bs : List Byte) : List (Nat × Byte) := bs.zipIdx.map (fun x => (off + x.2, x.1))

/-! ### Values of loads and atomics (R142, R150) -/

/-- The value of a loaded scalar (R142). -/
def scalarValue (width : Nat) (zeroExt : Bool) (bs : List Byte) : Word := extend width zeroExt (natOf bs)

/-- `Op(A, old)` and the flags of `afadd`, on `n`-bit values. -/
def atomicOp (n : Nat) (a : AtomOp) (old : Nat) : Nat × FpFlags :=
  let x : BitVec n := BitVec.ofNat n old
  let y : BitVec n := a.s.setWidth n
  match a.fn.toNat with
  | 0 => ((x + y).toNat, 0)
  | 1 => ((x &&& y).toNat, 0)
  | 2 => ((x ||| y).toNat, 0)
  | 3 => ((x ^^^ y).toNat, 0)
  | 4 => ((if y.slt x then y else x).toNat, 0)
  | 5 => ((if x.slt y then y else x).toNat, 0)
  | 6 => ((if y.ult x then y else x).toNat, 0)
  | 7 => ((if x.ult y then y else x).toNat, 0)
  | 8 => (y.toNat, 0)
  | 9 => ((if x = a.cmp.setWidth n then y else x).toNat, 0)
  | _ => roundF32 (fpAdd (f32 x.toNat) (f32 y.toNat))

/-- The width of an atomic in bytes. -/
def AtomOp.bytes (a : AtomOp) : Nat := if a.wide then 8 else 4

/-- The value that an atomic gives its register: the old value sign-extended. -/
def amoValue (wide : Bool) (bs : List Byte) : Word := scalarValue (if wide then 8 else 4) false bs

/-- A reply is written to a scalar register: of the bank that its access named (R149, R173). -/
def State.writeScalar (s : State) (hand : Bool) (r : RegNo) (v : Word) : State :=
  if !s.core.inUse hand r then
    { s with core := { s.core with r := { s.core.r with bank := s.core.r.bank.set ((r.toNat - 12) % 8) v (Nat.mod_lt _ (by decide)) } } }
  else s.setG r v

/-- A scalar register of a bank. -/
def Core.readScalar (c : Core) (hand : Bool) (r : RegNo) : Word :=
  if c.inUse hand r then c.r.readG r else c.r.bank[(r.toNat - 12) % 8]'(Nat.mod_lt _ (by decide))

/-! ### What the local memories hold (R53) -/

/-- Whether a table load holds an access (R53, R94). -/
def Core.tableBusy (c : Core) (t : Nat) : Bool := c.eng.dtLoads.any (fun l => l.table = t)

/-- The containers that code bytes decode to, as bytes (R53). -/
def decodeBytes (t : DecTab) (bs : List Byte) : List Byte := bs.flatMap (fun b => bytesOf 4 (tabDecode t b.toNat))

/-- bf16 values widened to f32, as bytes (R53). -/
def widenBytes : List Byte → List Byte
  | lo :: hi :: bs => 0 :: 0 :: lo :: hi :: widenBytes bs
  | _ => []

/-- The bytes of a view from an offset on, of the bytes of the lanes that they touch (R53). -/
def viewed (off n : Nat) (bs : List Byte) : List Byte := (bs.drop (off % 4)).take n

/-- The bytes of TCM or the scratchpad of the acting core as its banks hold them. -/
def State.bankBytes (s : State) (tcm : Bool) (off n : Nat) : List Byte :=
  (if tcm then s.core.mem.tcm else s.spad (clusterOf s.core.id)).readN off n

/-- The bytes an untimed local load returns; none on a path that is not local. -/
def State.localBytes (s : State) (p : Path) (off n : Nat) : List Byte :=
  match p with
  | .im => s.core.mem.im.readN off n
  | .tcmView t => viewed off n (decodeBytes s.core.eng.tabs[t] (s.bankBytes true (off / 4) (lanesOver off n)))
  | .spadView t => viewed off n (decodeBytes s.core.eng.tabs[t] (s.bankBytes false (off / 4) (lanesOver off n)))
  | .tcmBf16 => viewed off n (widenBytes (s.bankBytes true (2 * (off / 4)) (2 * lanesOver off n)))
  | .spadBf16 => viewed off n (widenBytes (s.bankBytes false (2 * (off / 4)) (2 * lanesOver off n)))
  | .tcm => s.bankBytes true off n
  | .spad => s.bankBytes false off n
  | _ => []

/-! ### Accesses not yet performed (R80) -/

/-- A scratchpad atomic of the acting core is performed at its bank: the word takes the result, the register the old value,
`fstat` the flags (R150). -/
def State.performAtomic (s : State) (cl off : Nat) (a : PendAtomic) : State :=
  let old := (s.spad cl).readN off a.op.bytes
  let r := atomicOp (8 * a.op.bytes) a.op (natOf old)
  ((s.spadWrite cl (atOffsets off (bytesOf a.op.bytes r.1))).writeScalar a.hand a.dst (amoValue a.op.wide old + a.stride)).raise r.2

/-- The late loads of the acting core that a test picks have been performed (R80). -/
def State.loadsDone (s : State) (pick : LateLoad → Bool) : State :=
  if s.core.eng.loads = [] then s else s.onEng (fun e => { e with loads := e.loads.filter (fun l => !pick l) })

/-- The words of late loads that a test picks have been performed; a load without further words is no longer late. -/
def State.wordsDone (s : State) (pick : LateLoad → Nat → Bool) : State :=
  if s.core.eng.loads = [] then s
  else s.onEng (fun e => { e with loads :=
    (e.loads.map (fun l => { l with todo := l.todo.filter (fun w => !pick l w) })).filter (fun l => !l.todo.isEmpty) })

/-- The part of a load's destination that its bytes from a place on give: all of it, or the bytes that a word of it holds
(R51, R142, R146). -/
def State.takePart (s : State) (l : LateLoad) (start : Nat) (bs : List Byte) : State :=
  match l.dst with
  | .g r z =>
    if bs.length = l.width then s.writeScalar l.hand r (scalarValue l.width z bs)
    else
      let old := vbytes ((s.core.readScalar l.hand r).setWidth 128)
      s.writeScalar l.hand r ((vecOf (old.take start ++ bs ++ old.drop (start + bs.length))).setWidth 64)
  | .v r p =>
    let part : BitVec 16 := BitVec.ofNat 16 ((2 ^ bs.length - 1) * 2 ^ start)
    s.setVReg r (mergeBytes (p &&& part) (vecOf (List.replicate start 0 ++ bs)) (s.core.r.readV r))
  | _ => s

/-- The bank of a scratchpad word performs its part of a load of the acting core: the load's destination takes what the
bank holds. -/
def State.takeWord (s : State) (l : LateLoad) (w : Nat) : State :=
  match pathOf l.addr with
  | none => s
  | some (p, off) =>
    match p.under off l.width with
    | some (false, o, m) =>
      let lo := max (4 * w) o
      let hi := min (4 * w + 4) (o + m)
      let k := l.width / m
      s.takePart l (k * (lo - o)) (s.localBytes p (off + k * (lo - o)) (k * (hi - lo)))
    | _ => s

/-- The words of an access that is still to be performed. -/
def PendStore.words (p : PendStore) : List Nat :=
  match p.atomic with
  | some a => wordsTouched p.off a.op.bytes
  | none => [p.off / 4]

/-- Perform a pending access of the acting core at its bank, after the core's earlier loads of its words; a synchronising
store after all its earlier loads (R51, R83). -/
def State.performStore (s0 : State) (cl : Nat) (p : PendStore) : State :=
  let s := s0.wordsDone (fun l w => if p.setsFull then decide (l.no < p.no) || (!p.tcm && p.words.contains w) else !p.tcm && p.words.contains w)
  match p.atomic, p.load with
  | some a, _ => s.performAtomic cl p.off a
  | none, some l => s.takeWord l (p.off / 4)
  | none, none =>
    if p.tcm then
      let c := s.core.tcmWrite p.bytes
      { s with core := if p.setsFull then c.tcmMark true [p.off / 4] else c }
    else
      let s1 := s.spadWrite cl p.bytes
      if p.setsFull then s1.spadMark cl true [p.off / 4] else s1

/-- Whether an access touches one of some words of TCM or of the scratchpad. -/
def PendStore.touches (p : PendStore) (tcm : Bool) (ws : List Nat) : Bool := p.tcm == tcm && p.words.any (fun w => ws.contains w)

/-- Whether an access is performed only after an earlier one of its core: to its word, or, a synchronising store, any of
an earlier instruction (R51, R83). -/
def PendStore.waitsFor (p q : PendStore) : Bool := (p.setsFull && decide (q.no < p.no)) || q.touches p.tcm p.words

/-- The accesses, each with whether a test picks it or one picked must wait for it. -/
def PendStore.before (pick : PendStore → Bool) : List PendStore → List (PendStore × Bool)
  | [] => []
  | p :: ps =>
    let r := PendStore.before pick ps
    (p, pick p || r.any (fun x => x.2 && x.1.waitsFor p)) :: r

/-- Perform, in order, the pending accesses of the acting core that a test picks, after those that they wait for (R51, R80,
R83). -/
def State.drain (s : State) (pick : PendStore → Bool) : State :=
  let ps := PendStore.before pick s.core.eng.pend
  if ps.any (fun p => p.2) then
    let cl := clusterOf s.core.id
    let s1 := (ps.filter (fun p => p.2)).foldl (fun s p => s.performStore cl p.1) s
    s1.onEng (fun e => { e with pend := (ps.filter (fun p => !p.2)).map (fun p => p.1) })
  else s

/-- The acting core's earlier atomics and loads have been performed: its registers are whole. -/
def State.drainAtomics (s : State) : State := s.drain (fun p => p.atomic.isSome || p.load.isSome)

/-- Every earlier untimed access of the acting core has been performed (R82, R83). -/
def State.drainAll (s : State) : State := (s.drain (fun _ => true)).loadsDone (fun _ => true)

/-- The acting core's accesses from before a moment have been performed (R161). -/
def State.drainBefore (s : State) (no : Nat) : State :=
  (s.drain (fun p => decide (p.no < no))).loadsDone (fun l => decide (l.no < no))

/-- Every earlier untimed access of the acting core to some words of TCM or of its scratchpad has been performed (R51). -/
def State.drainWords (s : State) (tcm : Bool) (ws : List Nat) : State :=
  (s.drain (fun p => p.touches tcm ws)).wordsDone (fun _ w => !tcm && ws.contains w)

/-- The pending accesses of a store of the acting core, one for each word it writes. -/
def State.pendStores (s : State) (tcm fe : Bool) (bs : List (Nat × Byte)) : List PendStore :=
  ((bs.map (fun b => b.1 / 4)).dedup).map (fun w => ⟨4 * w, tcm, bs.filter (fun b => b.1 / 4 = w), fe, none, none, s.dev.tick⟩)

/-- A store of the acting core is issued, to be performed at its banks (R80). -/
def State.spadStore (s : State) (tcm fe : Bool) (bs : List (Nat × Byte)) : State :=
  s.onEng (fun e => { e with pend := e.pend ++ s.pendStores tcm fe bs })

/-- The first empty word among those that bytes of TCM (`tcm`) or the scratchpad touch. -/
def State.firstEmpty (s : State) (tcm : Bool) (off n : Nat) : Option Nat :=
  let empty := if tcm then s.core.mem.tcmEmpty else s.spadEmptyOf (clusterOf s.core.id)
  (wordsTouched off n).find? (fun w => empty.contains w)

/-- The address of a word, as a wait names it (R34). -/
def wordAddress (tcm : Bool) (w : Nat) : Word :=
  BitVec.ofNat 64 ((if tcm then 1 else 2) * 2 ^ 56 + 4 * w)

/-- Whether a load through a view is held by a table load in progress (R53). -/
def Path.heldByTable (p : Path) (c : Core) : Bool :=
  match p with
  | .tcmView t | .spadView t => c.tableBusy t.val
  | _ => false

/-- Whether a load from GLOBAL-RO of the core, an untimed access, has still to be performed: its line to be read (R47, R56). -/
def Core.untimedOut (c : Core) : Bool :=
  c.eng.remote.any (fun r => r.inst.isNone && (match r.stat with | .walk | .home _ => true | _ => false)) ||
    c.mat.loads.any (fun l => l.rows.any (fun r => r.2.2.isNone && (match pathOf r.2.1 with | some (p, _) => !p.isTimed | none => false)))

/-- Whether a load at an address goes through a view whose table is being loaded (R53). -/
def State.viewHeld (s : State) (a : Word) : Bool :=
  match pathOf a with
  | some (p, _) => p.heldByTable s.core
  | none => false

/-- The acting core's own earlier accesses to the words an access touches are performed (R51). -/
def State.settle (s : State) (p : Path) (off n : Nat) : State :=
  match p.under off n with
  | some (tcm, o, m) => s.drainWords tcm (wordsTouched o m)
  | none => s

/-- Whether an earlier access of the acting core to a word that an access touches is still to be performed, or may be. -/
def State.owesWords (s : State) (p : Path) (off n : Nat) : Bool :=
  match p.under off n with
  | some (tcm, o, m) =>
    s.core.eng.pend.any (fun x => x.touches tcm (wordsTouched o m)) ||
      (!tcm && s.core.eng.loads.any (fun l => l.todo.any (fun w => (wordsTouched o m).contains w)))
  | none => false

/-- The acting core's own earlier accesses to the words under an address are performed. -/
def State.settleAt (s : State) (a : Word) (n : Nat) : State :=
  match pathOf a with
  | some (p, off) => s.settle p off n
  | none => s

/-- The acting core stores bytes on TCM or the scratchpad; `fe` for a synchronising store, which sets its words full (R57,
R83). One of TCM acts at once where nothing earlier of the core is still to be performed; an ordinary store of TCM acts at
issue, after the core's earlier stores to its words (R50). -/
def State.localStore (s : State) (tcm : Bool) (bs : List (Nat × Byte)) (fe : Bool) : State :=
  let words := (bs.map (fun b => b.1 / 4)).dedup
  if tcm then
    if fe then
      if s.core.eng.pend = [] ∧ s.core.eng.loads = [] then { s with core := (s.core.tcmWrite bs).tcmMark true words }
      else s.spadStore true true bs
    else
      let s1 := s.drainWords true words
      { s1 with core := s1.core.tcmWrite bs }
  else s.spadStore false fe bs

end Sys2Proof.Machine
end

