-- ==== Sys2Proof/Machine/Timed.lean ====
section
/-! DEFINITION. Timed memory as a core sees it: homes, translation, the instants of accesses, sending
stores and beginning remote accesses (R54 to R56, R62 to R76, R287 to R297). A byte of timed memory has a
key: its loft offset, 2^42 plus its physical address in DRAM, or (device + 1) × 2^44 plus its address on a
remote part. -/

namespace Sys2Proof.Machine

/-- The key of a byte of this part's DRAM. -/
def dramKey (phys : Nat) : Nat := 2 ^ 42 + phys

/-- The key of a byte at an address of a remote part. -/
def remoteKey (dev phys : Nat) : Nat := (dev + 1) * 2 ^ 44 + phys

/-- Whether a key lies on this part. -/
def ownKey (key : Nat) : Bool := decide (key < 2 ^ 44)

/-- The 64-byte line of a key (R62). -/
def lineOf (key : Nat) : Nat := key / 64

/-- The frames of the part's 3 TiB of DRAM (R290). -/
def frameCount : Nat := 50331648

/-- The home of a key of this part: shingle × 80 plus the slice, or 16 plus the channel on the shingle
(R54, R290, R329); none on a remote part. -/
def homeOf (key : Nat) : Option Nat :=
  if key < 2 ^ 32 then some (key / 2 ^ 27 * 80 + key / 256 % 16)
  else if 2 ^ 42 ≤ key ∧ key < dramKey (frameCount * 65536) then
    let ch := (key - 2 ^ 42) / 65536 % 2048
    some (ch / 64 * 80 + 16 + ch % 64)
  else none

/-- `Visible(t)` (R68): the newest version at or before `t`. -/
def Timed.visible (t : Timed) (inst : Nat) : Memory :=
  match t.versions.find? (fun v => decide (v.1 ≤ inst)) with
  | some v => v.2
  | none => []

/-- Whether a loft access lies in the loft ranges of a partition (R54, R297). -/
def State.loftAllowed (s : State) (part : Option Nat) (off n : Nat) : Bool :=
  match part with
  | none => true
  | some p =>
    match s.partition p with
    | none => false
    | some q =>
      let inR (b l : Nat) : Bool := decide (b * 4096 ≤ off) && decide (off + n ≤ l * 4096)
      inR q.cfg.lb0 q.cfg.ll0 || inR q.cfg.lb1 q.cfg.ll1

/-! ### Translation (R288 to R291) -/

/-- A page-table entry (R289). -/
structure Pte where
  v : Bool
  k : Nat
  w : Bool
  s : Bool
  dev : Nat
  frame : Nat
  next : Nat
  resv : Bool
  deriving DecidableEq, Repr

/-- The fields of an entry; `resv` when a reserved bit is set (R289). -/
def pteOf (x : Nat) : Pte where
  v := bitOf x 63
  k := bitsOf x 62 61
  w := bitOf x 60
  s := bitOf x 59
  dev := bitsOf x 45 26
  frame := bitsOf x 25 0
  next := bitsOf x 29 0
  resv := decide (bitsOf x 58 46 ≠ 0)
    || (decide (bitsOf x 62 61 = 0) && decide (bitsOf x 45 30 ≠ 0))
    || (decide (bitsOf x 62 61 = 1) && decide (bitsOf x 45 26 ≠ 0))

/-- The index of a virtual address at a level (R288). -/
def ptIndex (lvl va : Nat) : Nat :=
  match lvl with
  | 0 => bitsOf va 47 34
  | 1 => bitsOf va 33 25
  | _ => bitsOf va 24 16

/-- The page size of a leaf at a level (R288). -/
def pageSize (lvl : Nat) : Nat :=
  match lvl with
  | 0 => 2 ^ 34
  | 1 => 2 ^ 25
  | _ => 2 ^ 16

/-- The entry of a table, by the table's physical address. -/
def Trans.entry (t : Trans) (table lvl va : Nat) : Pte :=
  pteOf (natOf (t.ptab.readN (table + 8 * ptIndex lvl va) 8))

/-- The walk of R291 from a table on, with at most `fuel` levels below: the leaf's level and entry. -/
def Trans.walk (t : Trans) (va : Nat) : Nat → Nat → Nat → Nat × Pte
  | 0, table, lvl => (lvl, t.entry table lvl va)
  | fuel + 1, table, lvl =>
    let e := t.entry table lvl va
    if e.v && decide (e.k = 0) && !e.resv then t.walk va fuel (e.next * 4096) (lvl + 1) else (lvl, e)

/-- The move of a page that concerns an address of a partition (R295). -/
def State.moveOf (s : State) (part va : Nat) : Option Move :=
  s.dev.trans.moves.find? (fun m => decide (m.part = part ∧ m.va = va / 65536 * 65536))

/-- The page tables as an access sees them: while a mapping command is in progress it uses the old entry or
the new (R293). -/
def Trans.asSeen (t : Trans) (stale : Bool) : Trans :=
  if stale then { t with ptab := t.busy.foldl (fun m c => m.writeN c.entryAddr c.old) t.ptab } else t

/-- Whether the egress ranges let traffic leave for a device (R328). -/
def egressAllows (device : Nat) : Bool :=
  (List.range 16).any (fun f => decide ((Config.egressBase f).toNat ≤ device ∧ device < (Config.egressLimit f).toNat))

/-- The physical address of a device's byte in the route table, which stands in DRAM at RTBASE (R327, R328). -/
def State.routeAddr (s : State) (device : Nat) : Nat :=
  ((aget s.dev.regs 0x5800).getD 0).toNat % 2 ^ 42 / 4096 * 4096 + device % 2 ^ 20

/-- The port that the route table names for a device; none for 0xFF, or for another number that is no port (R327). -/
def State.routeOf (s : State) (device : Nat) : Option Nat :=
  let p := ((s.dev.timed.visible s.dev.now).read (dramKey (s.routeAddr device))).toNat
  if p < 64 then some p else none

/-- Whether the egress ranges and the route table let a request leave for a device (R327, R328). -/
def State.reachable (s : State) (device : Nat) : Bool := egressAllows device && (s.routeOf device).isSome

/-- The number of a class. -/
def Cls.index : Cls → Fin 3
  | .c0 => 0
  | .c1 => 1
  | .c2 => 2

/-- Whether a port takes a flit of a class: it is up, its replay buffer of 512 flits has a place, and it has credit (R326,
R327). -/
def Port.ready (p : Port) (c : Cls) : Bool := p.up && decide (p.replay.length < 512 ∧ 0 < p.credit[c.index])

/-- Whether the port of a device's route takes traffic of a class. -/
def State.portReady (s : State) (device : Nat) (c : Cls) : Bool :=
  match (s.routeOf device).bind (aget s.dev.fab.ports) with
  | some p => p.ready c
  | none => false

/-- Whether traffic to a device waits under credit: it has a route, whose port takes nothing of its class now (R327). -/
def State.awaitsPort (s : State) (device : Nat) (c : Cls) : Bool := s.reachable device && !s.portReady device c

/-- The device of a remote part's key. -/
def keyDevice (key : Nat) : Nat := key / 2 ^ 44 - 1

/-- Whether an access at a key waits for the port to its home's part (R327). -/
def State.keyWaits (s : State) (key : Nat) (c : Cls) : Bool := !ownKey key && s.awaitsPort (keyDevice key) c

/-- Whether an access at a key is refused at the sending NI, its device having no route any more (R327). -/
def State.keyBarred (s : State) (key : Nat) : Bool := !ownKey key && !s.reachable (keyDevice key)

/-- The shingle of a home. -/
def homeShingle (h : Nat) : Nat := h / 80

/-- Translation of an access (R291): its key, or the cause of its deferred fault. `task` for an access in
user mode, `inst` the instant it reads or names, which picks the home of a moving page (R296). A device that no route or egress range reaches answers with
protection (R327, R328). -/
def State.translate (s : State) (part : Option Nat) (task write : Bool) (va inst : Nat) : Except (BitVec 8) Nat :=
  match part.bind s.partition with
  | none => .error 0x10
  | some q =>
    let (lvl, e) := (s.dev.trans.asSeen (Config.staleEntry s.dev.tick)).walk va 2 (q.cfg.root * 2 ^ 17) 0
    if !e.v || decide (e.k = 0) || decide (e.k = 3) || e.resv then .error 0x10
    else if e.s && task then .error 0x11
    else if write && !e.w then .error 0x11
    else
      let f := e.frame + va % pageSize lvl / 65536
      if e.k = 2 ∧ e.dev ≠ Config.deviceId.toNat then
        if s.reachable e.dev then .ok (remoteKey e.dev (f * 65536 + va % 65536)) else .error 0x11
      else
        match part.bind (fun p => s.moveOf p va) with
        | some m => .ok (dramKey ((if inst < m.inst then m.oldFrame else m.newFrame) * 65536 + va % 65536))
        | none => .ok (dramKey (f * 65536 + va % 65536))

/-- What a walk answers: a key, or the cause of the deferred fault; a table read may meet an uncorrectable error
(R291). -/
def State.walked (s : State) (part : Option Nat) (task write : Bool) (va inst : Nat) : Except (BitVec 8) Nat :=
  if Config.tableEcc s.dev.tick then .error 0x12 else s.translate part task write va inst

/-- An eave station counts an access to a page whose home lies on another shingle (R284). -/
def State.countRemote (s : State) (sh part va key : Nat) : State :=
  match homeOf key with
  | none => s
  | some h =>
    if homeShingle h = sh ∨ key < 2 ^ 32 then s
    else
      let page := va / 65536 * 65536
      let mine (c : PageCount) : Bool := decide (c.part = part ∧ c.va = page ∧ c.shingle = sh)
      let old := s.dev.trans.counts
      let new := if old.any (fun c => mine c) then old.map (fun c => if mine c then { c with count := c.count + 1 } else c)
        else old ++ [⟨part, page, sh, 1⟩]
      s.onDev (fun d => { d with trans := { d.trans with counts := new } })

/-! ### The instants of an access (R69, R70) -/

/-- REL of the acting core's task; none while it holds none. -/
def Core.relPub (c : Core) : Option (Nat × Nat) := c.x.ctx.map (fun x => (x.rel, x.pub))

/-- The instant a timed load reads as of. With no task the default reads as `at now` (log entry 7). -/
def State.loadInstant (s : State) (im : BitVec 2) : Nat :=
  if im = 1 then s.dev.now
  else if im = 2 then s.core.sw.ix.toNat
  else
    match s.core.x.ctx with
    | some x => if x.nowOnly then s.dev.now else x.rel
    | none => s.dev.now

/-- The instant a timed store or atomic names. With no task the default names the next instant. -/
def State.storeInstant (s : State) (im : BitVec 2) : Nat :=
  if im = 1 then s.dev.now + 1
  else if im = 2 then s.core.sw.ix.toNat
  else
    match s.core.x.ctx with
    | some x => x.pub
    | none => s.dev.now + 1

/-- The checks of R70 on a timed access. -/
def State.instantTrap (s : State) (load : Bool) (im : BitVec 2) : Option Flow :=
  let ix := s.core.sw.ix.toNat
  let now := s.dev.now
  if im = 2 ∧ (now + 2 ^ 31 < ix ∨ ix + 2 ^ 31 < now) then
    some (.trap 0x0E (BitVec.ofNat 64 ix) (BitVec.ofNat 64 now))
  else if load && decide (im = 2) && decide (ix < s.core.horizon s) then
    some (.trap 0x0D (BitVec.ofNat 64 ix) (BitVec.ofNat 64 (s.core.horizon s)))
  else none

/-! ### Deferred faults (R149) -/

/-- A deferred task fault becomes pending at a core. -/
def Core.defer (c : Core) (d : Deferred) : Core := { c with x := { c.x with deferred := c.x.deferred ++ [d] } }

/-- A deferred task fault of the acting core's clause becomes pending. -/
def State.defer (s : State) (cause : BitVec 8) (a : Word) : State :=
  { s with core := s.core.defer ⟨cause, a, s.clause, none⟩ }

/-! ### Stores (R63, R72) -/

/-- The start of the task on a core; 0 for none. -/
def Core.run (c : Core) : Nat :=
  match c.x.ctx with
  | some x => x.run
  | none => 0

/-- The store or atomic that the acting core issues, with everything but its data: a task's, or one of a
supervisor with no task context (R72). -/
def State.storeFrame (s : State) (a : Word) (inst : Nat) : TStore where
  id := 0
  src := match s.core.x.ctx with | some _ => .task | none => .supervisor
  device := none
  sup := decide (s.core.x.mode = .supervisor)
  core := s.core.id
  token := match s.core.x.ctx with | some x => x.token | none => 0
  run := s.core.run
  part := (s.core.part s).getD 128
  node := match s.core.x.ctx with | some x => x.node | none => 0x8000000 + s.core.id
  wid := match s.core.x.ctx with | some x => x.wid | none => s.core.x.supIssue
  seq := match s.core.x.ctx with | some x => x.seq | none => 0
  inst := inst
  drop := false
  qst := false
  addr := a
  data := []
  atomic := none
  clause := s.clause
  copy := none
  append := none
  home := none
  fwd := none
  gate := false
  accepted := 0
  vis := 0
  late := false

/-- One `seq` number is taken, holding at its largest; with no task the core's issue counter advances
(R72). -/
def State.takeSeq (s : State) : State :=
  s.onX (fun x => match x.ctx with
    | some c => { x with ctx := some { c with seq := if c.seq < 0xFFFFFFFF then c.seq + 1 else c.seq } }
    | none => { x with supIssue := x.supIssue + 1 })

/-- Whether a store was issued by a core. -/
def TStore.ofCore (t : TStore) : Bool := decide (t.src = .task ∨ t.src = .supervisor)

/-- Put a store in flight; a core's waits at the gate of its voltage domain while that is shut (R301). -/
def State.send (s : State) (t : TStore) : State :=
  s.onTimed (fun m => { m with
    flight := m.flight ++ [{ t with id := m.nextId, gate := t.ofCore && decide (t.device = none) && s.gateShut t.core }]
    nextId := m.nextId + 1 })

/-- A timed store leaves the core for its home: on the loft within the partition's ranges, else a deferred
protection fault and nothing sent (R54); on GLOBAL its walk comes first (R291). -/
def State.sendTimed (s : State) (p : Path) (off n : Nat) (t : TStore) : State :=
  match p with
  | .loft =>
    if s.loftAllowed (s.core.x.ctx.map (fun x => x.part)) off n then s.send { t with home := some off }
    else s.defer 0x11 t.addr
  | _ => s.send t

/-- Whether a drop-policy store of a task is still to be acknowledged, or the report of its drop still to reach the
task (R66). -/
def State.dropUnacked (s : State) (run : Nat) : Bool :=
  s.dev.timed.flight.any (fun t => t.drop && decide (t.device = none ∧ t.run = run))
    || s.dev.timed.acks.any (fun a => a.drop && decide (a.run = run))
    || s.dev.timed.lateReports.any (fun r => r.dropped && decide (r.run = run))

/-- For whom an engine of the acting core reads. -/
def State.reader (s : State) : Reader where
  task := s.core.x.ctx.isSome
  token := match s.core.x.ctx with | some x => x.token | none => 0
  run := s.core.run
  part := s.core.part s
  sup := decide (s.core.x.mode = .supervisor)

/-! ### Remote accesses (R147) -/

/-- The number of remote accesses a core keeps outstanding. -/
def remoteLimit : Nat := 32

/-- Begin a remote access of the acting core; its tag is the core's count of them (log entry 8). -/
def State.beginRemote (s : State) (dst : RDst) (a : Word) (width : Nat) (inst : Option Nat) (stat : RStat) : State :=
  s.onEng (fun e => { e with
    nextTag := e.nextTag + 1
    remote := e.remote ++ [{ tag := e.nextTag, dst := dst, addr := a, width := width, inst := inst, stat := stat,
                             clause := s.clause, sup := decide (s.core.x.mode = .supervisor)
                             hand := s.core.x.handBank, ofCtx := s.core.x.ctx.isSome, stride := 0, gate := s.gateShut s.core.id }] })

/-- Where a timed load of the acting core starts: at its home, refused by the partition's ranges, or at a
walk. -/
def State.loadStart (s : State) (p : Path) (off n : Nat) : RStat :=
  match p with
  | .loft =>
    if s.loftAllowed (s.core.x.ctx.map (fun x => x.part)) off n then .home off else .faulted 0x11
  | _ => .walk

/-- The bytes a GLOBAL-RO load finds in its shingle's read-only cache (R56). -/
def State.roHit (s : State) (va n : Nat) : Option (List Byte) :=
  match s.walked (s.core.part s) (decide (s.core.x.mode = .user)) false va s.dev.now with
  | .error _ => none
  | .ok key =>
    match s.dev.timed.ro.find? (fun l => decide (l.1 = (shingleOf s.core.id, lineOf key))) with
    | none => none
    | some l => some ((l.2.drop (key % 64)).take n)

end Sys2Proof.Machine
end

