-- ==== Sys2Proof/Machine/Flags.lean ====
section
/-! DEFINITION. The sticky flags of `fstat` (R96 to R98): raising them, and the OR over lanes. -/

namespace Sys2Proof.Machine

/-- The OR of flags (R97). -/
def orFlags (fs : List FpFlags) : FpFlags := fs.foldl (fun a f => a ||| f) 0

/-- The flags of the lanes that have at least one byte written (R175). -/
def writtenFlags (w : Nat) (p : BitVec 16) (fs : List FpFlags) : FpFlags :=
  orFlags (fs.zipIdx.map (fun x => if laneWritten w p x.2 then x.1 else 0))

/-- The flags of the active lanes (R175). -/
def activeFlags (w : Nat) (p : BitVec 16) (fs : List FpFlags) : FpFlags :=
  orFlags (fs.zipIdx.map (fun x => if laneActive w p x.2 then x.1 else 0))

/-- Whether an `rds fstat` still waits for flags of earlier instructions: matrix instructions in progress
(R98), and an `afadd` that is still to be performed or whose reply is to come (R151). -/
def Core.flagsPending (c : Core) (timed : Timed) : Bool :=
  !c.mat.flags.isEmpty ||
    c.eng.pend.any (fun p => match p.atomic with | some a => decide (a.op.fn = 10) | none => false) ||
    c.eng.remote.any (fun r =>
      match r.stat with
      | .atomic => (timed.flight ++ timed.tense).any (fun t =>
          decide (t.core = c.id) && (match t.atomic with
            | some a => decide (a.fn = 10) && decide (a.tag = r.tag)
            | none => false))
      | .served _ f => decide (f ≠ 0)
      | _ => false)

end Sys2Proof.Machine
end

