-- ==== Sys2Proof/Machine/Operands.lean ====
section
/-! DEFINITION. Operand forms: the bases and offsets of accesses, the vector registers with the stream
ports among them, predicated destinations (R15, R16, R59, R165, R175). -/

namespace Sys2Proof.Machine

/-- `g[b] + SignExt(off10) × width` (R16, R142). -/
def State.baseOffset (s : State) (b : RegNo) (o : BitVec 10) (width : Nat) : Word :=
  s.g b + o.signExtend 64 * BitVec.ofNat 64 width

/-! ### Stream ports (R59, R165) -/

/-- The port number of a v register, for v28 to v31. -/
def portIndex (r : RegNo) : Option (Fin 4) :=
  if h : 28 ≤ r.toNat then some ⟨r.toNat - 28, by have := r.isLt; omega⟩ else none

/-- The stream bound to a v register of a core. -/
def Core.bound (c : Core) (r : RegNo) : Option Stream :=
  match portIndex r with
  | some i => c.eng.streams[i]
  | none => none

/-- v28 and v29 are read ports while bound. -/
def Core.boundRead (c : Core) (r : RegNo) : Bool := decide (r.toNat < 30) && (c.bound r).isSome

/-- v30 and v31 are write ports while bound. -/
def Core.boundWrite (c : Core) (r : RegNo) : Bool := decide (30 ≤ r.toNat) && (c.bound r).isSome

/-- Total units of a stream. -/
def Stream.count (t : Stream) : Nat := (t.desc.extractLsb' 0 24).toNat

/-- Prefetch depth of a read port. -/
def Stream.depth (t : Stream) : Nat :=
  if t.desc.extractLsb' 60 4 = 0 then 8 else (t.desc.extractLsb' 60 4).toNat

/-- The address of unit `i` (R165). -/
def Stream.unit (t : Stream) (i : Nat) : Word :=
  let rlen := (t.desc.extractLsb' 24 16).toNat
  let row := if rlen = 0 then 0 else i / rlen
  let col := if rlen = 0 then i else i % rlen
  t.base + (t.desc.extractLsb' 40 20).signExtend 64 * BitVec.ofNat 64 row + BitVec.ofNat 64 (col * 16)

/-- Replace the stream of a port. -/
def Core.setStream (c : Core) (i : Fin 4) (t : Option Stream) : Core :=
  { c with eng := { c.eng with streams := c.eng.streams.set i t } }

/-- Trap value of a port: its register number. -/
def portVal (r : RegNo) : Word := r.setWidth 64

/-- The stream fault of a port (R59, R167). -/
def streamFault (r : RegNo) : Flow := .trap 0x0A (portVal r) 0

/-- Why a read port cannot give its next unit by trap: it is exhausted, or the unit's address fails the
checks of R48. -/
def Core.readPortTrap (c : Core) (r : RegNo) : Option Flow :=
  match c.bound r with
  | none => none
  | some t =>
    if t.count ≤ t.taken then some (streamFault r)
    else accessTrap c .load (t.unit t.taken) 16 false false

/-- Why a write port cannot take a unit. -/
def Core.writePortTrap (c : Core) (r : RegNo) : Option Flow :=
  match c.bound r with
  | none => none
  | some t =>
    if t.count ≤ t.taken then some (streamFault r)
    else accessTrap c .store (t.unit t.taken) 16 false false

/-- The first trap of a list of checks. -/
def firstTrap : List (Option Flow) → Option Flow
  | [] => none
  | some f :: _ => some f
  | none :: fs => firstTrap fs

/-- The traps of an instruction that reads `srcs` and writes `dsts`, and reads its destination too when
`old` (R59, R167, R175, R190). Where several ports are misused the fault names a destination before a source, in the order of
the fields: the spec gives no order (log entry 83, DESIGN CHOICE). -/
def Core.portTrap (c : Core) (srcs dsts : List RegNo) (old : Bool) : Option Flow :=
  firstTrap (
    dsts.map (fun r => if c.boundRead r || (old && c.boundWrite r) then some (streamFault r) else none) ++
    srcs.map (fun r => if c.boundWrite r then some (streamFault r) else none) ++
    srcs.map (fun r => if c.boundRead r then c.readPortTrap r else none) ++
    dsts.map (fun r => if c.boundWrite r then c.writePortTrap r else none))

/-- A read port named that has no data ready (R59). -/
def Core.portEmpty (c : Core) (srcs : List RegNo) : Option RegNo :=
  srcs.find? (fun r => c.boundRead r && (match c.bound r with | some t => t.fifo.isEmpty | none => false))

/-- A vector register as a source: the next unit of a bound read port, or the register (R59). -/
def Core.readV (c : Core) (r : RegNo) : VReg :=
  if c.boundRead r then
    match c.bound r with
    | some t => match t.fifo with
      | u :: _ => u.1
      | [] => 0
    | none => 0
  else c.r.readV r

/-- A vector register of the acting core as a source. -/
def State.v (s : State) (r : RegNo) : VReg := s.core.readV r

/-- Take the unit of one port; a unit that carries a deferred fault raises it (R167). -/
def Core.takeUnit (c : Core) (i : Fin 4) : Core :=
  match c.eng.streams[i] with
  | none => c
  | some t =>
    let c1 := c.setStream i (some { t with taken := t.taken + 1, fifo := t.fifo.tail })
    match t.fifo with
    | (_, some d) :: _ => c1.defer d
    | _ => c1

/-- Every read port that an instruction names gives its unit once (R59). -/
def State.takeUnits (s : State) (srcs : List RegNo) : State :=
  let take (s : State) (n : RegNo) : State :=
    if srcs.contains n && s.core.boundRead n then
      match portIndex n with
      | some i => { s with core := s.core.takeUnit i }
      | none => s
    else s
  take (take s 28) 29

/-- Append a unit to a bound write port: a timed unit takes one `seq` number and names PUB; an untimed one
is performed later (R59, R165). -/
def State.append (s : State) (i : Fin 4) (u : VReg) : State :=
  match s.core.eng.streams[i] with
  | none => s
  | some t =>
    let a := t.unit t.taken
    let s1 := { s with core := s.core.setStream i (some { t with taken := t.taken + 1 }) }
    match pathOf a with
    | some (p, off) =>
      if p.isTimed then
        let st := s1.storeFrame a (s1.storeInstant 0)
        s1.takeSeq.sendTimed p off 16
          { st with data := atOffsets 0 (vbytes u), append := some i.val, clause := t.clause }
      else
        let t' : Stream := { t with taken := t.taken + 1, appends := t.appends ++ [(t.taken, u)] }
        { s1 with core := s1.core.setStream i (some t') }
    | none => s1

/-- Write a vector destination under a predicate: a bound write port takes the bytes with zeros where the
predicate is 0, a register keeps those bytes (R15, R175). -/
def State.setV (s : State) (r : RegNo) (p : BitVec 16) (x : VReg) : State :=
  if s.core.boundWrite r then
    match portIndex r with
    | some i => s.append i (mergeBytes p x 0)
    | none => s
  else s.setVReg r (mergeBytes p x (s.core.r.readV r))

/-- An instruction on vector registers: the port traps first, then the wait for a unit, then `f`, which
sees the units as sources. -/
def State.withPorts (s : State) (srcs dsts : List RegNo) (old : Bool) (f : State → Result) : Result :=
  match s.core.portTrap srcs dsts old with
  | some t => .next (s.finish t)
  | none =>
    match s.core.portEmpty srcs with
    | some r => s.stay .streamData (portVal r)
    | none => f s

/-- The end of a vector instruction that computed `x` with flags: units are taken, the destination is
written under `p`, the flags are raised. -/
def State.finishV (s : State) (srcs : List RegNo) (d : RegNo) (p : BitVec 16) (x : VReg) (fl : FpFlags) : Result :=
  (((s.takeUnits srcs).setV d p x).raise fl).done

end Sys2Proof.Machine
end

