-- ==== Sys2Proof/Machine/Alu.lean ====
section
/-! DEFINITION. The scalar integer instructions: majors 0x00 to 0x09 (R117 to R123). -/

namespace Sys2Proof.Machine

/-- The smaller under an order: `y` only when it is strictly below `x`. -/
def pickMin {n : Nat} (below : BitVec n → BitVec n → Bool) (x y : BitVec n) : BitVec n := if below y x then y else x

/-- The larger under an order. -/
def pickMax {n : Nat} (below : BitVec n → BitVec n → Bool) (x y : BitVec n) : BitVec n := if below x y then y else x

/-- Signed quotient with the results of R121 for zero and overflow. -/
def quotSigned {n : Nat} (x y : BitVec n) : BitVec n := if y = 0 then BitVec.allOnes n else x.sdiv y

/-- Unsigned quotient of R121. -/
def quotUnsigned {n : Nat} (x y : BitVec n) : BitVec n := if y = 0 then BitVec.allOnes n else x / y

/-- Signed remainder of R121. -/
def remSigned {n : Nat} (x y : BitVec n) : BitVec n := if y = 0 then x else x.srem y

/-- Unsigned remainder of R121. -/
def remUnsigned {n : Nat} (x y : BitVec n) : BitVec n := if y = 0 then x else x % y

/-- The high half of a signed product. -/
def mulHighSigned {n : Nat} (x y : BitVec n) : BitVec n := BitVec.ofInt n (x.toInt * y.toInt / 2 ^ n)

/-- The high half of an unsigned product. -/
def mulHighUnsigned {n : Nat} (x y : BitVec n) : BitVec n := BitVec.ofNat n (x.toNat * y.toNat / 2 ^ n)

/-- Field length of R123: 0 means the whole width. -/
def fieldLen (w : BitVec 1) (y : Word) : Nat :=
  let l := y.toNat / 2 ^ 8 % opWidth w
  if l = 0 then opWidth w else l

/-- Field position of R123. -/
def fieldPos (w : BitVec 1) (y : Word) : Nat := y.toNat % opWidth w

/-- The low `len` bits, sign-extended in `n` bits. -/
def fieldSext {n : Nat} (len : Nat) (x : BitVec n) : BitVec n := BitVec.ofInt n (signedOf len x.toNat)

/-- Bits `pos` to `pos + len − 1`, zero-extended. -/
def fieldGet {n : Nat} (len pos : Nat) (x : BitVec n) : BitVec n := BitVec.ofNat n (x.toNat / 2 ^ pos % 2 ^ len)

/-- `old` with the field replaced by the low bits of `x`; positions at or above `n` are dropped. -/
def fieldPut {n : Nat} (len pos : Nat) (old x : BitVec n) : BitVec n :=
  let m : BitVec n := BitVec.ofNat n (2 ^ len - 1) <<< pos
  (old &&& ~~~m) ||| ((x <<< pos) &&& m)

/-- The end of a scalar instruction: `g[d]` takes the result. -/
def State.setDone (s : State) (d : RegNo) (v : Word) : Result := (s.setG d v).done

/-- `add` (R118): the sum, modulo 2^n. -/
def execAdd (d a b : RegNo) (w : BitVec 1) (s : State) : Result :=
  s.setDone d (alu2 w (fun x y => x + y) (s.g a) (s.g b))

/-- `sub` (R118): the difference. -/
def execSub (d a b : RegNo) (w : BitVec 1) (s : State) : Result :=
  s.setDone d (alu2 w (fun x y => x - y) (s.g a) (s.g b))

/-- `and` (R118): bitwise AND. -/
def execAnd (d a b : RegNo) (w : BitVec 1) (s : State) : Result :=
  s.setDone d (alu2 w (fun x y => x &&& y) (s.g a) (s.g b))

/-- `or` (R118): bitwise OR. -/
def execOr (d a b : RegNo) (w : BitVec 1) (s : State) : Result :=
  s.setDone d (alu2 w (fun x y => x ||| y) (s.g a) (s.g b))

/-- `xor` (R118): bitwise XOR. -/
def execXor (d a b : RegNo) (w : BitVec 1) (s : State) : Result :=
  s.setDone d (alu2 w (fun x y => x ^^^ y) (s.g a) (s.g b))

/-- `andn` (R118): x AND NOT y. -/
def execAndn (d a b : RegNo) (w : BitVec 1) (s : State) : Result :=
  s.setDone d (alu2 w (fun x y => x &&& ~~~y) (s.g a) (s.g b))

/-- `shl` (R118): shift left. -/
def execShl (d a b : RegNo) (w : BitVec 1) (s : State) : Result :=
  s.setDone d (alu2 w (fun x y => x <<< shAmt y) (s.g a) (s.g b))

/-- `shr` (R118): logical shift right. -/
def execShr (d a b : RegNo) (w : BitVec 1) (s : State) : Result :=
  s.setDone d (alu2 w (fun x y => x >>> shAmt y) (s.g a) (s.g b))

/-- `sra` (R118): arithmetic shift right. -/
def execSra (d a b : RegNo) (w : BitVec 1) (s : State) : Result :=
  s.setDone d (alu2 w (fun x y => x.sshiftRight (shAmt y)) (s.g a) (s.g b))

/-- `rol` (R118): rotate left. -/
def execRol (d a b : RegNo) (w : BitVec 1) (s : State) : Result :=
  s.setDone d (alu2 w (fun x y => x.rotateLeft (shAmt y)) (s.g a) (s.g b))

/-- `slt` (R118): signed less-than. -/
def execSlt (d a b : RegNo) (w : BitVec 1) (s : State) : Result :=
  s.setDone d (alu2 w (fun x y => boolBits (x.slt y)) (s.g a) (s.g b))

/-- `sltn` (R118): unsigned less-than. -/
def execSltn (d a b : RegNo) (w : BitVec 1) (s : State) : Result :=
  s.setDone d (alu2 w (fun x y => boolBits (x.ult y)) (s.g a) (s.g b))

/-- `min` (R118): signed minimum. -/
def execMin (d a b : RegNo) (w : BitVec 1) (s : State) : Result :=
  s.setDone d (alu2 w (fun x y => pickMin BitVec.slt x y) (s.g a) (s.g b))

/-- `max` (R118): signed maximum. -/
def execMax (d a b : RegNo) (w : BitVec 1) (s : State) : Result :=
  s.setDone d (alu2 w (fun x y => pickMax BitVec.slt x y) (s.g a) (s.g b))

/-- `minn` (R118): unsigned minimum. -/
def execMinn (d a b : RegNo) (w : BitVec 1) (s : State) : Result :=
  s.setDone d (alu2 w (fun x y => pickMin BitVec.ult x y) (s.g a) (s.g b))

/-- `maxn` (R118): unsigned maximum. -/
def execMaxn (d a b : RegNo) (w : BitVec 1) (s : State) : Result :=
  s.setDone d (alu2 w (fun x y => pickMax BitVec.ult x y) (s.g a) (s.g b))

/-- `mul` (R121): low half of the product. -/
def execMul (d a b : RegNo) (w : BitVec 1) (s : State) : Result :=
  s.setDone d (alu2 w (fun x y => x * y) (s.g a) (s.g b))

/-- `mulh` (R121): high half of the signed product. -/
def execMulh (d a b : RegNo) (w : BitVec 1) (s : State) : Result :=
  s.setDone d (alu2 w (fun x y => mulHighSigned x y) (s.g a) (s.g b))

/-- `mulhn` (R121): high half of the unsigned product. -/
def execMulhn (d a b : RegNo) (w : BitVec 1) (s : State) : Result :=
  s.setDone d (alu2 w (fun x y => mulHighUnsigned x y) (s.g a) (s.g b))

/-- `div` (R121): signed quotient. -/
def execDiv (d a b : RegNo) (w : BitVec 1) (s : State) : Result :=
  s.setDone d (alu2 w (fun x y => quotSigned x y) (s.g a) (s.g b))

/-- `divn` (R121): unsigned quotient. -/
def execDivn (d a b : RegNo) (w : BitVec 1) (s : State) : Result :=
  s.setDone d (alu2 w (fun x y => quotUnsigned x y) (s.g a) (s.g b))

/-- `rem` (R121): signed remainder. -/
def execRem (d a b : RegNo) (w : BitVec 1) (s : State) : Result :=
  s.setDone d (alu2 w (fun x y => remSigned x y) (s.g a) (s.g b))

/-- `remn` (R121): unsigned remainder. -/
def execRemn (d a b : RegNo) (w : BitVec 1) (s : State) : Result :=
  s.setDone d (alu2 w (fun x y => remUnsigned x y) (s.g a) (s.g b))

/-- `sel` (R118): bit 0 of the predicate chooses; always 64 bits. -/
def execSel (d a b : RegNo) (p : BitVec 3) (s : State) : Result :=
  s.setDone d (if (s.p p).getLsbD 0 then s.g a else s.g b)

/-- `addi` (R119): with the immediate sign-extended. -/
def execAddi (d a : RegNo) (i : BitVec 15) (s : State) : Result :=
  s.setDone d (s.g a + i.signExtend 64)

/-- `andi` (R119): with the immediate sign-extended. -/
def execAndi (d a : RegNo) (i : BitVec 15) (s : State) : Result :=
  s.setDone d (s.g a &&& i.signExtend 64)

/-- `ori` (R119): with the immediate sign-extended. -/
def execOri (d a : RegNo) (i : BitVec 15) (s : State) : Result :=
  s.setDone d (s.g a ||| i.signExtend 64)

/-- `xori` (R119): with the immediate sign-extended. -/
def execXori (d a : RegNo) (i : BitVec 15) (s : State) : Result :=
  s.setDone d (s.g a ^^^ i.signExtend 64)

/-- `shli` (R119). -/
def execShli (d a : RegNo) (n : BitVec 6) (s : State) : Result :=
  s.setDone d (s.g a <<< n.toNat)

/-- `shri` (R119). -/
def execShri (d a : RegNo) (n : BitVec 6) (s : State) : Result :=
  s.setDone d (s.g a >>> n.toNat)

/-- `srai` (R119). -/
def execSrai (d a : RegNo) (n : BitVec 6) (s : State) : Result :=
  s.setDone d ((s.g a).sshiftRight n.toNat)

/-- `roli` (R119). -/
def execRoli (d a : RegNo) (n : BitVec 6) (s : State) : Result :=
  s.setDone d ((s.g a).rotateLeft n.toNat)

/-- `movi` (R120). -/
def execMovi (d : RegNo) (i : BitVec 20) (s : State) : Result := s.setDone d (i.signExtend 64)

/-- `movs` (R120): it reads its own destination. -/
def execMovs (d : RegNo) (i : BitVec 20) (s : State) : Result :=
  s.setDone d ((s.g d <<< 20) ||| i.setWidth 64)

/-- `clz` (R122): leading zero bits. -/
def execClz (d a : RegNo) (w : BitVec 1) (s : State) : Result :=
  s.setDone d (alu1 w (fun {n} x => BitVec.ofNat n (clzNat n x.toNat)) (s.g a))

/-- `ctz` (R122): trailing zero bits. -/
def execCtz (d a : RegNo) (w : BitVec 1) (s : State) : Result :=
  s.setDone d (alu1 w (fun {n} x => BitVec.ofNat n (ctzNat n x.toNat)) (s.g a))

/-- `pop` (R122): one bits. -/
def execPop (d a : RegNo) (w : BitVec 1) (s : State) : Result :=
  s.setDone d (alu1 w (fun {n} x => BitVec.ofNat n (popNat n x.toNat)) (s.g a))

/-- `brev` (R122): bits reversed. -/
def execBrev (d a : RegNo) (w : BitVec 1) (s : State) : Result :=
  s.setDone d (alu1 w (fun {n} x => BitVec.ofNat n (revNat n x.toNat)) (s.g a))

/-- `sext` (R122, R123): a field sign-extended. -/
def execSext (d a b : RegNo) (w : BitVec 1) (s : State) : Result :=
  s.setDone d (alu1 w (fun x => fieldSext (fieldLen w (s.g b)) x) (s.g a))

/-- `zext` (R122, R123): a field zero-extended. -/
def execZext (d a b : RegNo) (w : BitVec 1) (s : State) : Result :=
  s.setDone d (alu1 w (fun x => fieldGet (fieldLen w (s.g b)) 0 x) (s.g a))

/-- `bext` (R122, R123): a field extracted. -/
def execBext (d a b : RegNo) (w : BitVec 1) (s : State) : Result :=
  s.setDone d (alu1 w (fun x => fieldGet (fieldLen w (s.g b)) (fieldPos w (s.g b)) x) (s.g a))

/-- `bins` (R122, R123): a field inserted into `g[d]`. -/
def execBins (d a b : RegNo) (w : BitVec 1) (s : State) : Result :=
  s.setDone d (alu2 w (fun old x => fieldPut (fieldLen w (s.g b)) (fieldPos w (s.g b)) old x) (s.g d) (s.g a))

end Sys2Proof.Machine
end

