-- ==== Sys2Proof/Machine/Control.lean ====
section
/-! DEFINITION. Branches, jumps and hardware loops (R124 to R134), and the user-level interrupt
instructions and `trap` (R174). -/

namespace Sys2Proof.Machine

/-- The clause a signed count of clauses away (R106). -/
def State.branchTarget (s : State) (off : BitVec 16) : BitVec 16 := s.clause + (off <<< 3)

/-- A conditional branch ends (R124). -/
def State.branchIf (s : State) (taken : Bool) (off : BitVec 12) : Result :=
  if taken then .next (s.finish (.jump (s.branchTarget (off.signExtend 16)))) else s.done

/-- Whether an instruction is a conditional branch that the acting core takes (R124). -/
def State.takes (s : State) : Instr → Bool
  | .beq a b _ => s.g a == s.g b
  | .bne a b _ => s.g a != s.g b
  | .blt a b _ => (s.g a).slt (s.g b)
  | .bge a b _ => !(s.g a).slt (s.g b)
  | .bltn a b _ => (s.g a).ult (s.g b)
  | .bgen a b _ => !(s.g a).ult (s.g b)
  | .bpany a _ => decide (s.p (a.setWidth 3) ≠ 0)
  | .bpnone a _ => decide (s.p (a.setWidth 3) = 0)
  | _ => false

/-- `beq` (R124): taken when equal. -/
def execBeq (a b : RegNo) (o : BitVec 12) (s : State) : Result := s.branchIf (s.g a == s.g b) o

/-- `bne` (R124): taken when different. -/
def execBne (a b : RegNo) (o : BitVec 12) (s : State) : Result := s.branchIf (s.g a != s.g b) o

/-- `blt` (R124): taken when signed less. -/
def execBlt (a b : RegNo) (o : BitVec 12) (s : State) : Result := s.branchIf ((s.g a).slt (s.g b)) o

/-- `bge` (R124): taken when signed greater or equal. -/
def execBge (a b : RegNo) (o : BitVec 12) (s : State) : Result := s.branchIf (!(s.g a).slt (s.g b)) o

/-- `bltn` (R124): taken when unsigned less. -/
def execBltn (a b : RegNo) (o : BitVec 12) (s : State) : Result := s.branchIf ((s.g a).ult (s.g b)) o

/-- `bgen` (R124): taken when unsigned greater or equal. -/
def execBgen (a b : RegNo) (o : BitVec 12) (s : State) : Result := s.branchIf (!(s.g a).ult (s.g b)) o

/-- `bpany` (R124): taken when some bit of the predicate is 1. -/
def execBpany (a : RegNo) (o : BitVec 12) (s : State) : Result := s.branchIf (decide (s.p (a.setWidth 3) ≠ 0)) o

/-- `bpnone` (R124): taken when every bit of the predicate is 0. -/
def execBpnone (a : RegNo) (o : BitVec 12) (s : State) : Result := s.branchIf (decide (s.p (a.setWidth 3) = 0)) o

/-- The address that a call links: the next clause (R107, R125). -/
def State.link (s : State) : Word := s.nextClause.setWidth 64

/-- Push a return address; the oldest of eight is discarded (R127). -/
def State.pushRas (s : State) (d : RegNo) : State :=
  if d = 0 then s else s.onX (fun x => { x with ras := (s.nextClause :: x.ras).take 8 })

/-- `jal` (R125): with d = 0 it is `j`. -/
def execJal (d : RegNo) (o : BitVec 20) (s : State) : Result :=
  .next (((s.setG d s.link).pushRas d).finish (.jump (s.branchTarget (o.setWidth 16))))

/-- `j` (R125). -/
def execJ (o : BitVec 20) (s : State) : Result := .next (s.finish (.jump (s.branchTarget (o.setWidth 16))))

/-- A register target: misaligned ones trap with the register's value (R106, R126). -/
def State.jumpReg (s : State) (v : Word) (s' : State) : Result :=
  if v.extractLsb' 0 3 ≠ 0 then s.trap 0x04 v 0 else .next (s'.finish (.jump (v.setWidth 16)))

/-- `jr` (R126). -/
def execJr (a : RegNo) (s : State) : Result := s.jumpReg (s.g a) s

/-- `jalr` (R126): the target is read before the link is written. -/
def execJalr (d a : RegNo) (s : State) : Result := s.jumpReg (s.g a) ((s.setG d s.link).pushRas d)

/-- `ret` (R126, R127): the return-address stack only predicts. -/
def execRet (s : State) : Result := s.jumpReg (s.g 1) (s.onX (fun x => { x with ras := x.ras.tail }))

/-- Whether an IM frame is resident (R128). -/
def Frame.isResident : Frame → Bool
  | .resident _ => true
  | _ => false

/-- `fjmp` (R128): a target in an absent frame takes "code segment absent". -/
def execFjmp (a : RegNo) (s : State) : Result :=
  if (s.core.mem.frames[((s.g a).extractLsb' 12 4).toNat]'(((s.g a).extractLsb' 12 4).isLt)).isResident
  then s.jumpReg (s.g a) s
  else s.trap 0x07 ((s.g a).extractLsb' 0 16 |>.setWidth 64) 0

/-- Start a loop at a level (R129): `n` is the trip count, `rec` the step record. -/
def State.startLoop (s : State) (l : Fin 3) (len : Nat) (n rec : Word) : Result :=
  let c := s.clause.toNat
  let e := c + 8 + 8 * len
  let bad := ([0, 1, 2] : List (Fin 3)).any (fun k =>
    s.core.x.loops[k].active && (decide (l ≤ k) || decide (s.core.x.loops[k].stop < e)))
  if bad || decide (0x10000 < e) || decide (rec.toNat / 2 ^ 46 ≠ 0) then s.trap 0x0B (BitVec.ofNat 64 l.val) 0
  else
    let s1 := s.onX (fun x => x.mark (60 + l.val))
    if n = 0 then
      .next ((s1.setLoop l { s1.core.x.loops[l] with lc := 0 }).finish (.zeroTrip e))
    else
      .next ((s1.setLoop l ⟨true, c + 8, e, rec, 0, n, []⟩).finish .next)

/-- `loop` (R129). -/
def execLoop (l : BitVec 2) (c : RegNo) (n : BitVec 6) (s : State) : Result :=
  if h : l.toNat < 3 then s.startLoop ⟨l.toNat, h⟩ (n.toNat + 1) (s.g c) 0 else s.illegal (.loop l c n)

/-- `loopx` (R129, R131). -/
def execLoopx (l : BitVec 2) (c : RegNo) (n : BitVec 6) (x : RegNo) (s : State) : Result :=
  if h : l.toNat < 3 then s.startLoop ⟨l.toNat, h⟩ (n.toNat + 1) (s.g c) (s.g x) else s.illegal (.loopx l c n x)

/-- `uien` (R174). -/
def execUien (m : BitVec 6) (s : State) : Result := (s.onSw (fun w => { w with en := w.en ||| m })).done

/-- `uidis` (R174): it clears the pending bits too. -/
def execUidis (m : BitVec 6) (s : State) : Result :=
  (s.onSw (fun w => { w with en := w.en &&& ~~~m, pend := w.pend &&& ~~~m })).done

/-- `trap` (R174): trap 0x20 is taken as it retires. -/
def execTrap (n : BitVec 12) (s : State) : Result := .next (s.finish (.trapAfter 0x20 (n.setWidth 64)))

end Sys2Proof.Machine
end

