-- ==== Sys2Proof/Machine/Crc.lean ====
section
/-! DEFINITION. CRC-64/ECMA-182, by which TCB slots are chosen, digests taken and images checked (R270,
R285, R306). The spec names the code; its parameters are the ones that name stands for (log entry 10). -/

namespace Sys2Proof.Machine

/-- The generator polynomial of CRC-64/ECMA-182 without its leading term. -/
def crcPoly : BitVec 64 := 0x42F0E1EBA9EA3693

/-- Shift bits through the register. -/
def crcShift : Nat → BitVec 64 → BitVec 64
  | 0, c => c
  | n + 1, c => crcShift n (if c.getLsbD 63 then (c <<< 1) ^^^ crcPoly else c <<< 1)

/-- One byte, its highest bit first. -/
def crcByte (c : BitVec 64) (b : Byte) : BitVec 64 := crcShift 8 (c ^^^ (b.setWidth 64 <<< 56))

/-- CRC-64/ECMA-182 of some bytes. -/
def crc64 (bs : List Byte) : BitVec 64 := bs.foldl crcByte 0

end Sys2Proof.Machine
end

