-- ==== Sys2Proof/Machine/Msg.lean ====
section
/-! DEFINITION. Messages in flight and their orders (R212, R221, R222, R230, R309). -/

namespace Sys2Proof.Machine

/-- The endpoint of a queue of a logical core, as messages are addressed. -/
def coreEndpoint (k q : Nat) : Nat := 8 * k + q

/-- The endpoint of a shingle's dispatcher. -/
def dispatcherEndpoint (sh : Nat) : Nat := 2 ^ 32 + sh

/-- The source endpoint of a host port: logical core 0x3_FFF0 + port (R319). -/
def hostEndpoint (port : Nat) : Nat := coreEndpoint (0x3FFF0 + port) 0

/-- The device of a 41-bit endpoint (R212). -/
def epDevice (e : Nat) : Nat := bitsOf e 40 21

/-- The logical core of a 41-bit endpoint. -/
def epCore (e : Nat) : Nat := bitsOf e 20 3

/-- The queue of a 41-bit endpoint. -/
def epQueue (e : Nat) : Nat := bitsOf e 2 0

/-- The address on the mesh of an endpoint of a core. -/
def epMesh (e : Nat) : Nat := coreEndpoint (epCore e) (epQueue e)

/-- The 41-bit endpoint of a queue of a core of this part. -/
def ownEndpoint (k q : Nat) : Nat := Config.deviceId.toNat * 2 ^ 21 + 8 * k + q

/-- This part's own device number. -/
def ownDevice : Nat := Config.deviceId.toNat

/-- The core of this part whose NI sends a message: C0 messages come from an endpoint, stream messages from a route. -/
def Message.sender (m : Message) : Option Nat :=
  let k := match m.cls with | .c0 | .c1 => m.src / 8 | .c2 => m.src / 4
  if m.src < 2 ^ 32 ∧ k < coreCount then some k else none

/-- Whether a message must wait at the gate of a voltage domain that it leaves or enters (R301). -/
def State.atGate (s : State) (m : Message) : Bool :=
  let from? : Option Nat := m.sender
  let to? : Option Nat := if m.device = ownDevice ∧ m.dst < 2 ^ 32 ∧ m.dst / 8 < coreCount then some (m.dst / 8) else none
  match from?, to? with
  | some a, some b => !s.sameDomain a b && (s.gateShut a || s.gateShut b)
  | some a, none => s.gateShut a
  | none, some b => s.gateShut b
  | none, none => false

/-- Whether two messages keep their order: one class, C1 apart, source and destination, device included (R230). -/
def Message.sameLane (a b : Message) : Bool := decide (a.cls ≠ .c1 ∧ a.cls = b.cls ∧ a.src = b.src ∧ a.dst = b.dst ∧ a.device = b.device)

/-- Whether a message to another part must wait under credit: the port of its device takes nothing now, or an earlier
message of its lane waits (R230, R327). -/
def State.atPort (s : State) (m : Message) : Bool :=
  decide (m.device ≠ ownDevice) && (s.awaitsPort m.device m.cls || s.dev.fab.gate.any (fun x => x.sameLane m))

/-- A flit goes out on a port: it takes the port's next sequence number and a unit of its class's credit, and stays in the
replay buffer until it is acknowledged (R326). -/
def Port.send (p : Port) (m : Message) : Port :=
  { p with
    sendSeq := p.sendSeq + 1
    replay := p.replay ++ [(p.sendSeq, m)]
    credit := p.credit.set m.cls.index (p.credit[m.cls.index] - 1) }

/-- A message goes out on a port. -/
def State.sendOn (s : State) (p : Nat) (m : Message) : State :=
  s.onDev (fun d => { d with fab := { d.fab with
    sent := d.fab.sent ++ [(m.device, m)]
    ports := match aget d.fab.ports p with | some q => aset d.fab.ports p (q.send m) | none => d.fab.ports } })

/-- Put a message in flight: on this part's mesh, or out through the port of its device; to a device without a route or
outside the egress ranges it is dropped (R327, R328). -/
def State.launch (s : State) (m : Message) : State :=
  if m.device = ownDevice then s.onDev (fun d => { d with fab := { d.fab with msgs := d.fab.msgs ++ [m] } })
  else if !egressAllows m.device then s
  else
    match s.routeOf m.device with
    | none => s
    | some p => s.sendOn p m

/-- An access of this part sets out for the home of a key on another part; it is a flit of its class (R291, R326). -/
def State.sendAccess (s : State) (c : Cls) (k key : Nat) : State :=
  if ownKey key then s else s.launch ⟨c, coreEndpoint k 0, 2 ^ 33, keyDevice key, .direct, .access key⟩

/-- A message sets out, or waits in its turn at a gate or for a port (R301, R327). -/
def State.route (s : State) (m : Message) : State :=
  if s.atGate m || s.atPort m then s.onDev (fun d => { d with fab := { d.fab with gate := d.fab.gate ++ [m] } }) else s.launch m

/-- The messages at the gates and for the ports that need wait no longer pass, in the order in which they came (R230, R301,
R327). -/
def State.passGates (s : State) : State :=
  s.dev.fab.gate.foldl State.route (s.onDev (fun d => { d with fab := { d.fab with gate := [] } }))

/-- A message of an NI goes after those of its lane that wait in the NI's staging buffer (R225, R230). -/
def State.post (s : State) (m : Message) : State :=
  match m.sender with
  | some k =>
    if (s.coreAt k).ni.staging.any (fun x => x.2.sameLane m) then
      s.onCore k (fun c => { c with ni := { c.ni with staging := c.ni.staging ++ [(c.run, m)] } })
    else s.route m
  | none => s.route m

/-- A C0 message on this part. -/
def State.postC0 (s : State) (src dst : Nat) (b : Body) : State :=
  s.post ⟨.c0, src, dst, ownDevice, .direct, b⟩

/-- Whether a direct arrival for a core is held for a drain marker of its class (R309). -/
def State.drainHeld (s : State) (m : Message) : Bool :=
  s.dev.img.swaps.any (fun w => decide (m.dst / 8 = w.a ∨ m.dst / 8 = w.b) &&
    (match m.cls with | .c0 => w.c0Held | .c1 => false | .c2 => w.c2Held))

/-- Whether a crossing between a core and the outside of its cluster waits at a gate (R301). -/
def State.gated (s : State) (k : Nat) : Bool := decide (s.domainPhase (clusterOf k) = 2)

/-- Whether the thermal trip has stopped the clocks of a core's shingle (R331). -/
def State.tripped (s : State) (k : Nat) : Bool := decide ((aget s.dev.regs (shingleOf k * 0x10000 + 0x808)).getD 0 ≠ 0)

/-- Whether a core's clock is stopped with its domain's, for a switch, or by its shingle's thermal trip
(R301, R331). -/
def State.clockGated (s : State) (k : Nat) : Bool := s.gated k || s.tripped k

/-- Whether something in flight waits at an arbiter, so that it arrives nowhere (R286). -/
def State.queued (s : State) (w : Waiting) : Bool := s.dev.fab.starve.any (fun a => a.2.waiting.contains w)

/-- The `n`-th message in flight, if it may arrive now: no earlier message of its lane is in flight, nor
one that a log gave back to its queue, it is not on its way to a former NI, and no drain marker, gate or arbiter holds
it. -/
def State.arriving (s : State) (n : Nat) : Option Message :=
  match s.dev.fab.msgs[n]? with
  | none => none
  | some m =>
    if (s.dev.fab.msgs.take n).any (fun x => x.sameLane m || (decide (x.via = .logged) && decide (x.dst = m.dst))) then none
    else if decide (m.via = .former) || s.queued (.message m) then none
    else if decide (m.via = .direct) && s.drainHeld m then none
    else if decide (m.dst < 2 ^ 32) && s.gated (m.dst / 8) then none
    else some m

/-- Take the `n`-th message out of flight. -/
def State.takeMsg (s : State) (n : Nat) : State :=
  s.onDev (fun d => { d with fab := { d.fab with msgs := dropAt d.fab.msgs n } })

/-- The bytes of a side header (R222). -/
def sideHeader (r : Record) : Word :=
  BitVec.ofNat 64 (r.serial.toNat * 2 ^ 16 + r.len % 128 * 32 + (if r.as then 8 else 0) + r.kind.toNat)

/-- A report record (R222): kind, token or serial or endpoint, and reason. -/
def reportRecord (src kind v reason : Nat) (serial : BitVec 32) : Record where
  payload := bytesOf 8 kind ++ bytesOf 8 v ++ bytesOf 8 reason ++ List.replicate 40 0
  len := 64
  serial := serial
  kind := 5
  as := false
  src := src

/-- A report goes on C0 from a core's NI to a reply endpoint. -/
def State.postReport (s : State) (k : Nat) (ep kind v reason : Nat) : State :=
  let n := (aget (s.coreAt k).ni.reportSerial ep).getD 0
  (s.onCore k (fun c => { c with ni := { c.ni with reportSerial := aset c.ni.reportSerial ep (n + 1) } })).post
    ⟨.c0, coreEndpoint k 0, epMesh ep, epDevice ep, .direct, .record ep (reportRecord (coreEndpoint k 0) kind v reason n)⟩

end Sys2Proof.Machine
end

