-- ==== Sys2Proof/Machine/Tcb.lean ====
section
/-! DEFINITION. Task control blocks: templates, the search for a slot, publications and signals, release,
placement, retirement and the fault policies (R22 to R29, R208 to R213, R270 to R273, R278 to R281). -/

namespace Sys2Proof.Machine

/-! ### Templates -/

/-- The loaded template of a node in a partition. -/
def State.loadedFor (s : State) (part node : Nat) : Option Loaded :=
  s.dev.disp.loaded.find? (fun l => decide (l.part = part ∧ l.tmpl.id = node / 4096))

/-- A node of a loaded template, by its number (R22). -/
def Loaded.nodeAt (l : Loaded) (node : Nat) : Option NodeDesc :=
  l.tmpl.nodes.find? (fun d => decide (d.index = node % 4096))

/-- A node loaded in a partition, with its template. -/
def State.nodeFor (s : State) (part node : Nat) : Option (Loaded × NodeDesc) :=
  match s.loadedFor part node with
  | none => none
  | some l => (l.nodeAt node).map (fun d => (l, d))

/-- The lowest bit of a work-identifier field (R25). -/
def fieldLow (widths : List Nat) (k : Nat) : Nat := (widths.take k).sum

/-- Field `k` of a work identifier; 0 where the template defines none (R25). -/
def fieldOf (widths : List Nat) (wid : Word) (k : Nat) : Nat :=
  match widths[k]? with
  | some w => wid.toNat / 2 ^ fieldLow widths k % 2 ^ w
  | none => 0

/-- The address of an argument (R26). -/
def argAddress (widths : List Nat) (wid : Word) (a : NodeArg) : Word :=
  a.strides.zipIdx.foldl (fun x st => x + BitVec.ofNat 64 (fieldOf widths wid st.2) * st.1) a.base

/-- The work identifier that a successor rule names; none outside the field's range (R27). -/
def succWid (widths : List Nat) (wid : Word) (r : SuccRule) : Option Word :=
  match widths[r.field]? with
  | none => none
  | some w =>
    let v : Int := (fieldOf widths wid r.field : Int) + r.delta
    if 0 ≤ v ∧ v < ((2 ^ w : Nat) : Int) then
      some (wid + BitVec.ofInt 64 (r.delta * ((2 ^ fieldLow widths r.field : Nat) : Int)))
    else none

/-! ### Partitions and their counts (R281) -/

/-- Change a partition. -/
def State.onPart (s : State) (p : Nat) (f : Partition → Partition) : State :=
  s.onDisp (fun d => match aget d.parts p with
    | some q => { d with parts := aset d.parts p (f q) }
    | none => d)

/-- A count that holds at its largest value. -/
def countUp (x : Word) : Word := if x = BitVec.allOnes 64 then x else x + 1

/-- A register of a partition by its offset; DHINT and DSPWD have reset values (R281). -/
def Partition.reg (q : Partition) (off : Nat) : Word :=
  (aget q.regs off).getD (if off = 0x2020 then 4 else if off = 0x2030 then 2048 else 0)

/-- Set a register of a partition. -/
def Partition.setReg (q : Partition) (off : Nat) (v : Word) : Partition := { q with regs := aset q.regs off v }

/-- A partition counts an event at a register. -/
def State.count (s : State) (p off : Nat) : State := s.onPart p (fun q => q.setReg off (countUp (q.reg off)))

/-! ### TCBs -/

/-- The id of a shingle's dispatcher (R269). -/
def shingleDispatcher (sh : Nat) : Nat := 0x100 + sh

/-- The id of the dispatcher of a cluster (R269). -/
def clusterDispatcher (cl : Nat) : Nat := 0x1000 + clusterShingle cl * 108 + clusterIndex cl

/-- The token of a TCB (R210): dispatcher id, slot, generation. -/
def tokenOf (owner slot : Nat) (gen : BitVec 16) : Word :=
  BitVec.ofNat 64 (shingleDispatcher owner * 2 ^ 40 + slot % 2 ^ 24 * 2 ^ 16 + gen.toNat)

/-- The token of a TCB. -/
def Tcb.token (t : Tcb) : Word := tokenOf t.owner t.slot t.gen

/-- A TCB whose fields are all zero but its identity and generation (R213, `Reset`). -/
def Tcb.fresh (part owner slot node : Nat) (wid : Word) (gen : BitVec 16) : Tcb where
  part := part
  owner := owner
  slot := slot
  node := node
  wid := wid
  gen := gen
  st := .empty
  count := 0
  published := false
  poison := false
  tries := 0
  rel := 0
  groupRel := 0
  pub := 0
  sigmax := 0
  notBefore := 0
  inline := none
  reply := 0
  abort := false
  relPending := false
  abortPending := false
  heldRead := false
  heldOrder := 0

/-- Whether two TCBs stand in one slot of one table. -/
def Tcb.sameSlot (a b : Tcb) : Bool :=
  decide (a.part = b.part ∧ a.owner = b.owner ∧ a.node / 4096 = b.node / 4096 ∧ a.slot = b.slot)

/-- Whether a task is live (R209). -/
def TcbState.live : TcbState → Bool
  | .ready | .running | .parked | .held => true
  | _ => false

/-- Put a TCB into its slot. -/
def State.putTcb (s : State) (t : Tcb) : State :=
  s.onDisp (fun d =>
    if d.tcbs.any t.sameSlot then { d with tcbs := d.tcbs.map (fun x => if t.sameSlot x then t else x) }
    else { d with tcbs := d.tcbs ++ [t] })

/-- The TCB of an identity. -/
def State.tcbOf (s : State) (part node : Nat) (wid : Word) : Option Tcb :=
  s.dev.disp.tcbs.find? (fun t => decide (t.part = part ∧ t.node = node ∧ t.wid = wid ∧ t.st ≠ .empty))

/-- Whether a firmware update has the owners quiesced (R334). -/
def State.quiesced (s : State) : Bool :=
  let ph := ((aget s.dev.regs 0x7018).getD 0).toNat % 16
  decide (1 ≤ ph ∧ ph ≤ 5)

/-- What the search for an identity finds (R270). -/
inductive SlotFind where
  | found (t : Tcb)
  | take (slot : Nat)
  | full
  deriving DecidableEq, Repr

/-- The search from a slot upward, wrapping: `emp` and `ret` are the first EMPTY and RETIRED slots passed. -/
def searchSlots (ts : List Tcb) (size node : Nat) (wid : Word) : Nat → Nat → Option Nat → Option Nat → SlotFind
  | 0, _, emp, ret =>
    match emp with
    | some e => .take e
    | none => match ret with
      | some r => .take r
      | none => .full
  | n + 1, i, emp, ret =>
    match ts.find? (fun t => decide (t.slot = i)) with
    | none => .take (emp.getD i)
    | some t =>
      if t.st = .empty then searchSlots ts size node wid n ((i + 1) % size) (if emp.isSome then emp else some i) ret
      else if t.node = node ∧ t.wid = wid then .found t
      else
        searchSlots ts size node wid n ((i + 1) % size) emp
          (if ret.isSome || decide (t.st ≠ .retired) then ret else some i)

/-- The slot of an identity in its template's table (R270). -/
def State.findSlot (s : State) (l : Loaded) (node : Nat) (wid : Word) : SlotFind :=
  let size := 2 ^ l.slotBits
  let ts := s.dev.disp.tcbs.filter (fun t => decide (t.part = l.part ∧ t.owner = l.owner ∧ t.node / 4096 = l.tmpl.id))
  let start := (crc64 (bytesOf 4 node ++ bytesOf 8 wid.toNat)).toNat % size
  searchSlots ts size node wid (min size (ts.length + 1)) start none none

/-! ### Signals (R216, R217, R279, R280) -/

/-- The owner's endpoint for a node; that of `dflt`'s dispatcher where it is not loaded. -/
def State.ownerEndpoint (s : State) (part node dflt : Nat) : Nat :=
  match s.loadedFor part node with
  | some l => dispatcherEndpoint l.owner
  | none => dispatcherEndpoint dflt

/-- Every successor rule of a task signals its successor. -/
def State.signalSuccessors (s : State) (src : Nat) (t : Tcb) (pub : Nat) (poison abort : Bool) : State :=
  match s.nodeFor t.part t.node with
  | none => s
  | some (l, d) =>
    d.succs.foldl (fun s r =>
      match succWid l.tmpl.widths t.wid r with
      | none => s
      | some w => s.postC0 src (s.ownerEndpoint t.part r.node t.owner) (.signal t.part r.node w t.gen pub poison abort)) s

/-! ### Placement (R272) -/

/-- The clusters of a partition, lowest number first. -/
def State.partClusters (s : State) (p : Nat) : List Nat :=
  (s.dev.disp.clusters.filter (fun c => decide (c.2 = p))).map (fun c => c.1)

/-- Whether a cluster takes no placements (R283). -/
def State.isWithheld (s : State) (cl : Nat) : Bool :=
  (s.dev.disp.hot.contains cl || s.dev.disp.drawing.contains cl) && !s.dev.disp.exempt.contains cl

/-- Distance of two logical clusters. -/
def clusterDistance (a b : Nat) : Nat :=
  let d (x y : Nat) : Nat := if x ≤ y then y - x else x - y
  d (a % 96) (b % 96) + d (a / 96) (b / 96)

/-- The first of a list with the least key. -/
def leastBy (key : Nat → Nat) : List Nat → Option Nat
  | [] => none
  | x :: xs =>
    match leastBy key xs with
    | none => some x
    | some y => if key x ≤ key y then some x else some y

/-- A cluster that a rule names, or the nearest of the partition that is not withheld. -/
def State.orNearest (s : State) (p cl : Nat) : Nat :=
  if !s.isWithheld cl then cl
  else (leastBy (clusterDistance cl) ((s.partClusters p).filter (fun c => !s.isWithheld c))).getD cl

/-- Records of a cluster's queues at a priority and above. -/
def State.queuedFrom (s : State) (cl prio : Nat) : Nat :=
  (s.dev.disp.recs.filter (fun r => decide (r.place = 1 ∧ r.cluster = cl ∧ prio ≤ r.prio))).length

/-- The hint `any`: the cluster of the spread with the fewest records, one that is not withheld while there is any;
else the nearest to it that is not. -/
def State.placeAny (s : State) (l : Loaded) (prio : Nat) : Nat :=
  let spread := (s.partClusters l.part).filter (fun c => l.spread.contains (clusterShingle c))
  match leastBy (fun c => s.queuedFrom c prio) (spread.filter (fun c => !s.isWithheld c)) with
  | some c => c
  | none => s.orNearest l.part ((leastBy (fun c => s.queuedFrom c prio) spread).getD 0)

/-- The home of an argument's address, as the placement step finds it. -/
def State.placementHome (s : State) (part : Nat) (a : Word) : Option Nat :=
  match pathOf a with
  | some (.loft, off) => homeOf off
  | some (.global, va) | some (.globalRo, va) =>
    if Config.placementHit s.dev.tick then
      match s.translate (some part) false false va s.dev.now with
      | .ok key => homeOf key
      | .error _ => none
    else none
  | _ => none

/-- The cluster for a task of a node (R272). -/
def State.placeCluster (s : State) (l : Loaded) (d : NodeDesc) (wid : Word) : Nat :=
  match d.place with
  | .any => s.placeAny l d.prio
  | .near x y => s.orNearest l.part (clusterOf (y * 768 + x))
  | .home j =>
    match (d.args[j]?).bind (fun a => s.placementHome l.part (argAddress l.tmpl.widths wid a)) with
    | none => s.placeAny l d.prio
    | some h =>
      match ((aget s.dev.disp.placement l.part).getD [])[h]? with
      | some c => s.orNearest l.part c
      | none => s.placeAny l d.prio

/-- The core a `near` hint names (R273). -/
def nearCore (d : NodeDesc) : Option Nat :=
  match d.place with
  | .near x y => some (y * 768 + x)
  | _ => none

/-- A released task's record goes to its cluster's dispatcher. -/
def State.placeTask (s : State) (l : Loaded) (d : NodeDesc) (t : Tcb) : State :=
  let r : QRec := {
    place := 0, cluster := s.placeCluster l d t.wid, part := t.part, node := t.node, wid := t.wid, prio := d.prio,
    rel := t.rel, since := s.dev.now, aged := d.prio, near := nearCore d, headSince := none, expired := false,
    waited := false, cont := none }
  s.onDisp (fun x => { x with recs := x.recs ++ [r] })

/-! ### Release (R28, R29, R213, R218) -/

/-- The loft offset of a task's argument record. -/
def argRecordOffset (t : Tcb) : Nat :=
  t.owner * 2 ^ 27 + (Config.argRecord t.part t.owner t.slot).toNat * 64

/-- The state code of a TCB (R209). -/
def TcbState.code : TcbState → Nat
  | .empty => 0
  | .armed => 1
  | .waiting => 2
  | .ready => 3
  | .running => 4
  | .parked => 5
  | .held => 6
  | .retired => 7

/-- The code of a fault policy (R208). -/
def policyCode : Policy → Nat
  | .hold => 0
  | .retry => 1
  | .poison => 2
  | .abort => 3

/-- The affinity field of a placement hint (R208). -/
def affinityOf : Place → Nat
  | .any => 0
  | .home j => 1 + j * 4
  | .near x y => 2 + y * 4 + x * 1024

/-- A word of fields: each value at its lowest bit. -/
def packFields (fs : List (Nat × Nat)) : Nat := (fs.map (fun f => f.2 * 2 ^ f.1)).sum

/-- The 64 bytes of a TCB (R208). Its node's descriptor gives the fields that the template fixes; its dispatcher alone
reads and writes it (log entry 65). -/
def State.tcbImage (s : State) (t : Tcb) : BitVec 512 :=
  let fixed : List (Nat × Nat) := match s.nodeFor t.part t.node with
    | some (l, d) =>
      [(130, if d.preempt then 1 else 0), (131, if d.nowOnly then 1 else 0), (132, d.prio), (134, policyCode d.policy),
       (216, d.budget), (400, (Config.succRules l.part l.owner t.node).toNat), (432, affinityOf d.place)]
    | none => []
  BitVec.ofNat 512 (packFields ([(0, t.wid.toNat), (64, t.node), (92, t.st.code), (96, t.count.toNat),
    (128, if t.published then 1 else 0), (129, if t.poison then 1 else 0), (136, t.tries), (144, t.gen.toNat), (160, t.rel),
    (232, t.pub), (288, t.sigmax), (344, t.notBefore),
    (452, if t.inline.isSome || decide (t.reply ≠ 0) then argRecordOffset t else 0)] ++ fixed))

/-- The dispatcher writes an inline argument as a firmware store that names the next instant; its home
accepts it during the instant (R218). -/
def State.writeInline (s : State) (t : Tcb) (bs : List Byte) : State :=
  let wid := (aget s.dev.out.fwIssue t.owner).getD 0
  let st : TStore := {
    id := s.dev.timed.nextId, src := .firmware, device := none, sup := true, core := 0, token := 0, run := 0, part := t.part,
    node := 0x100 + t.owner, wid := wid, seq := 0, inst := s.dev.now + 1, drop := false, qst := false,
    addr := BitVec.ofNat 64 (0x20 * 2 ^ 56 + argRecordOffset t), data := atOffsets 0 bs, atomic := none, clause := 0,
    copy := none, append := none, home := some (argRecordOffset t), fwd := none, gate := false, accepted := s.dev.now, vis := s.dev.now + 1,
    late := false }
  s.onDev (fun d => { d with
    timed := { d.timed with tense := d.timed.tense ++ [st], nextId := d.timed.nextId + 1 }
    out := { d.out with fwIssue := aset d.out.fwIssue t.owner (wid + 1) } })

/-- `Release` (R213): REL and PUB by R28, a late release counted (R29). A TCB in the abort table retires at
once, poisoned, and sends abort signals (R280). -/
def State.release (s : State) (l : Loaded) (d : NodeDesc) (t : Tcb) : State :=
  let now := s.dev.now
  let rel := max t.sigmax (max t.notBefore (now + 1))
  let t1 := { t with rel := rel, groupRel := rel, pub := rel + d.budget }
  let s1 := if t.sigmax < now + 1 ∧ t.notBefore < now + 1 then s.count t.part 0x2040 else s
  if t.abort then
    (s1.putTcb { t1 with st := .retired, poison := true, abort := false, inline := none, reply := 0 }).signalSuccessors
      (dispatcherEndpoint t.owner) t1 t1.pub true true
  else
    let s2 := s1.putTcb { t1 with st := .ready }
    let s3 := match t.inline with | some bs => s2.writeInline t1 bs | none => s2
    s3.placeTask l d t1

/-! ### Publish and Signal (R211, R213) -/

/-- Whether an arriving generation is older than a TCB's; the two exactly half way apart count so. -/
def arrivesOlder (gen tgen : BitVec 16) : Bool :=
  let d := (tgen - gen).toNat
  decide (1 ≤ d ∧ d ≤ 32768)

/-- A record is held at its owner. -/
def State.hold (s : State) (b : Body) (full : Bool) : State :=
  s.onDisp (fun d => { d with heldMsgs := d.heldMsgs ++ [⟨b, full⟩] })

/-- The TCB that an arriving generation meets: a new one, or one that is EMPTY or RETIRED under another
generation, is reset. -/
def Tcb.meet (t : Tcb) (gen : BitVec 16) : Tcb :=
  if (t.st = .empty ∨ t.st = .retired) ∧ t.gen ≠ gen then Tcb.fresh t.part t.owner t.slot t.node t.wid gen else t

/-- `Publish` on a TCB (R213). -/
def State.publishOn (s : State) (l : Loaded) (d : NodeDesc) (t0 : Tcb) (gen : BitVec 16) (nb : Nat)
    (inline : Option (List Byte)) (reply : Word) : State :=
  let t := t0.meet gen
  if arrivesOlder gen t.gen then s.count t.part 0x2048
  else if t.gen ≠ gen then s.hold (.publish t.part t.node t.wid gen nb inline reply) false
  else if t.published then s.count t.part 0x2050
  else
    let c := t.count + BitVec.ofNat 32 d.deps
    let s1 := if c.msb then s.count t.part 0x2058 else s
    let t1 := { t with
      count := if c.msb then 0 else c, published := true, notBefore := nb, inline := inline, reply := reply }
    if t1.count = 0 then s1.release l d t1 else s1.putTcb { t1 with st := .waiting }

/-- The number of entries of a partition's abort table (R280). -/
def State.abortEntries (s : State) (part : Nat) : Nat :=
  (s.dev.disp.tcbs.filter (fun t => decide (t.part = part) && t.abort)).length

/-- `Signal` on a TCB (R213); an abort signal enters the abort table while it has room (R280). -/
def State.signalOn (s : State) (l : Loaded) (d : NodeDesc) (t0 : Tcb) (fresh : Bool) (gen : BitVec 16) (pub : Nat)
    (poison abort : Bool) : State :=
  let t := t0.meet gen
  let t := if fresh || decide (t ≠ t0) then { t with st := .armed } else t
  if arrivesOlder gen t.gen then s.count t.part 0x2048
  else if t.gen ≠ gen then s.hold (.signal t.part t.node t.wid gen pub poison abort) false
  else if t.published && decide (t.count = 0) then s.count t.part 0x2058
  else
    let room := decide (s.abortEntries t.part < 1024)
    let s1 := if abort && !room then s.count t.part 0x2070 else s
    let t1 := { t with
      count := t.count - 1, sigmax := max t.sigmax pub, poison := t.poison || poison, abort := t.abort || (abort && room) }
    if t1.published && decide (t1.count = 0) then s1.release l d t1 else s1.putTcb t1

/-- A publication reaches its owner: a node that is not loaded is counted as dropped (R212, R219); where no
slot may be taken the record waits there (R270). -/
def State.publishTo (s : State) (part node : Nat) (wid : Word) (gen : BitVec 16) (nb : Nat)
    (inline : Option (List Byte)) (reply : Word) : State :=
  match s.nodeFor part node with
  | none => s.count part 0x2060
  | some (l, d) =>
    match s.findSlot l node wid with
    | .found t => s.publishOn l d t gen nb inline reply
    | .take i => s.publishOn l d (Tcb.fresh part l.owner i node wid gen) gen nb inline reply
    | .full => (s.count part 0x2068).hold (.publish part node wid gen nb inline reply) true

/-- A signal reaches its owner. -/
def State.signalTo (s : State) (part node : Nat) (wid : Word) (gen : BitVec 16) (pub : Nat) (poison abort : Bool) : State :=
  match s.nodeFor part node with
  | none => s.count part 0x2060
  | some (l, d) =>
    match s.findSlot l node wid with
    | .found t => s.signalOn l d t false gen pub poison abort
    | .take i => s.signalOn l d (Tcb.fresh part l.owner i node wid gen) true gen pub poison abort
    | .full => (s.count part 0x2068).hold (.signal part node wid gen pub poison abort) true

/-! ### Task records (R212, R220) -/

/-- Whether the reserved bits of a task record are zero. -/
def taskRecordOk (bs : List Byte) : Bool :=
  let x := natOf bs
  decide (bitsOf x 254 233 = 0 ∧ bitsOf x 191 184 = 0 ∧ bitsOf x 127 112 = 0 ∧ bitsOf x 95 92 = 0)

/-- The publication that a task record stands for in a partition. -/
def taskRecordBody (part : Nat) (bs : List Byte) : Body :=
  let x := natOf bs
  .publish part (bitsOf x 91 64) (BitVec.ofNat 64 x) (BitVec.ofNat 16 (bitsOf x 111 96)) (bitsOf x 183 128)
    (some (bs.drop 32)) (BitVec.ofNat 64 (bitsOf x 232 192 + if bitOf x 255 then 2 ^ 63 else 0))

/-- The partition that receives a record at an enqueue window: that of the template (R220). -/
def State.templatePart (s : State) (tmpl : Nat) : Option Nat :=
  (s.dev.disp.loaded.find? (fun l => decide (l.tmpl.id = tmpl))).map (fun l => l.part)

/-- A task record as the publication that it stands for; other records as they are. -/
def State.asRecord (s : State) (b : Body) : Body :=
  match b with
  | .taskRecord part bs window =>
    match (match window with | some w => s.templatePart w | none => part) with
    | some p => taskRecordBody p bs
    | none => b
  | b => b

/-- The identity that a held record names. -/
def Body.identity : Body → Option (Nat × Nat × Word)
  | .publish p n w _ _ _ _ => some (p, n, w)
  | .signal p n w _ _ _ _ => some (p, n, w)
  | _ => none

/-- Whether a held record may be applied now: for a full table a slot may be taken, for a newer generation
the task has retired. -/
def State.heldDue (s : State) (h : HeldMsg) : Bool :=
  match h.body.identity with
  | none => false
  | some (p, n, w) =>
    if h.full then
      match s.nodeFor p n with
      | none => true
      | some (l, _) => decide (s.findSlot l n w ≠ .full)
    else
      match s.tcbOf p n w with
      | none => true
      | some t => decide (t.st = .retired)

/-- Whether an arriving record of an identity, a task record's among them, must let a held one of it go first. -/
def State.heldFirst (s : State) (b : Body) : Bool :=
  s.dev.disp.heldMsgs.any (fun h => decide (h.body.identity = (s.asRecord b).identity) && (h.full || s.heldDue h))

/-- Apply a publication or a signal. -/
def State.applyRecord (s : State) (b : Body) : State :=
  match b with
  | .publish p n w g nb i r => s.publishTo p n w g nb i r
  | .signal p n w g pub po ab => s.signalTo p n w g pub po ab
  | _ => s

/-! ### Task records at their owner (R212, R220) -/

/-- A task record reaches a dispatcher: malformed ones, those of a node that is not loaded, and those of
another template than the window's are dropped and counted. -/
def State.applyTaskRecord (s : State) (part : Option Nat) (bs : List Byte) (window : Option Nat) : State :=
  let node := bitsOf (natOf bs) 91 64
  match (match window with | some w => s.templatePart w | none => part) with
  | none => s
  | some p =>
    if !taskRecordOk bs || (match window with | some w => decide (w ≠ node / 4096) | none => false) then s.count p 0x2060
    else s.applyRecord (taskRecordBody p bs)

/-! ### Retirement and fault policies (R76, R217, R278 to R282) -/

/-- A task retires; its argument record is freed. -/
def State.retireTcb (s : State) (t : Tcb) (pub : Nat) (poison : Bool) : State :=
  s.putTcb { t with st := .retired, pub := pub, poison := poison, inline := none, reply := 0, abort := false,
                    relPending := false, abortPending := false }

/-- A re-release: the same REL, a new PUB, and a placement (R278). -/
def State.rerelease (s : State) (t : Tcb) : State :=
  match s.nodeFor t.part t.node with
  | none => s
  | some (l, d) =>
    let t1 := { t with st := .ready, pub := s.dev.now + d.budget, groupRel := t.rel, heldRead := false, relPending := false,
                       abortPending := false }
    (s.putTcb t1).placeTask l d t1

/-- The task retires poisoned and its rules send abort signals (R280). -/
def State.abortTask (s : State) (t : Tcb) : State :=
  (s.retireTcb t t.pub true).signalSuccessors (dispatcherEndpoint t.owner) t t.pub true true

/-- An MSI-X vector is raised (R317). -/
def State.raiseVector (s : State) (v : Nat) : State :=
  s.onDev (fun d => { d with out := { d.out with msix := insertNat d.out.msix v } })

/-- A task becomes HELD (R209, R317). -/
def State.markHeld (s : State) (t : Tcb) : State :=
  let n := match s.partition t.part with | some q => q.nextHeld | none => 0
  ((s.putTcb { t with st := .held, heldRead := false, heldOrder := n }).onPart t.part
    (fun q => { q with nextHeld := q.nextHeld + 1 })).raiseVector 7

/-- The owner applies the fault policy of a task that has become HELD (R278 to R282). A DABORT or DREL that named the
task before its purge was confirmed acts as soon as it is HELD, whatever its policy (R281). -/
def State.applyPolicy (s : State) (t : Tcb) (cause : BitVec 8) (passed : Bool) : State :=
  match s.nodeFor t.part t.node with
  | none => s.markHeld t
  | some (_, d) =>
    let s1 := if cause = 0x19 ∧ passed then s.count t.part 0x2078 else s
    if t.abortPending then s1.abortTask t
    else if t.relPending ∨ (cause = 0x19 ∧ !passed) then s1.rerelease t
    else
      match d.policy with
      | .retry => if t.tries < 3 then s1.rerelease { t with tries := t.tries + 1 } else s1.markHeld t
      | .poison => (s1.retireTcb t t.pub true).signalSuccessors (dispatcherEndpoint t.owner) t t.pub true false
      | .abort => s1.abortTask t
      | .hold => s1.markHeld t

/-- The HELD task that a token names in a partition. -/
def State.heldByToken (s : State) (part : Nat) (tok : Word) : Option Tcb :=
  s.dev.disp.tcbs.find? (fun t => decide (t.part = part ∧ t.token = tok ∧ t.st = .held))

/-- The faulted task of a token in a partition whose purge is still to be confirmed. -/
def State.purgedByToken (s : State) (part : Nat) (tok : Word) : Option Tcb :=
  s.dev.disp.tcbs.find? (fun t => decide (t.part = part ∧ t.token = tok ∧ t.st ≠ .empty) &&
    s.dev.timed.purges.any (fun p => decide (p.part = part ∧ p.node = t.node ∧ p.wid = t.wid ∧ p.token = tok ∧ p.cause ≠ 0)))

/-- DCMDST bit 0 says whether the last DREL or DABORT was ignored (R281). -/
def State.commandIgnored (s : State) (part : Nat) (b : Bool) : State :=
  s.onPart part (fun q => q.setReg 0x2028 ((q.reg 0x2028 &&& 2) ||| (if b then 1 else 0)))

/-- A command that names a task by its token (R281): of a HELD task it acts at once, or waits while an update has the
owners quiesced (R334) and further ones are ignored meanwhile; of a task whose purge is unconfirmed it waits. -/
def State.ownerCommand (s : State) (part : Nat) (tok : Word) (act : State → Tcb → State) (mark : Tcb → Tcb) : State :=
  match s.heldByToken part tok with
  | some t =>
    if t.relPending ∨ t.abortPending then s.commandIgnored part true
    else if s.quiesced then (s.commandIgnored part false).putTcb (mark t)
    else act (s.commandIgnored part false) t
  | none =>
    match s.purgedByToken part tok with
    | some t => (s.commandIgnored part false).putTcb (mark t)
    | none => s.commandIgnored part true

/-- A DREL write in a partition (R281). -/
def State.drel (s : State) (part : Nat) (tok : Word) : State :=
  s.ownerCommand part tok State.rerelease (fun t => { t with relPending := true })

/-- A DABORT write in a partition (R281). -/
def State.dabort (s : State) (part : Nat) (tok : Word) : State :=
  s.ownerCommand part tok State.abortTask (fun t => { t with abortPending := true })

/-- The commands that waited for the end of an update act on their HELD tasks (R281, R334). -/
def State.resumeOwners (s : State) : State :=
  (s.dev.disp.tcbs.filter (fun t => decide (t.st = .held))).foldl (fun s t =>
    if t.abortPending then s.abortTask t else if t.relPending then s.rerelease t else s) s

/-- The oldest HELD task of a list not yet read. -/
def oldestHeld : List Tcb → Option Tcb
  | [] => none
  | t :: ts =>
    match oldestHeld ts with
    | none => if t.st = .held ∧ !t.heldRead then some t else none
    | some u => if t.st = .held ∧ !t.heldRead ∧ t.heldOrder ≤ u.heldOrder then some t else some u

/-- A DHELD read in a partition: the token, and the task marked as read (R281). -/
def State.dheld (s : State) (part : Nat) : Word × State :=
  match oldestHeld (s.dev.disp.tcbs.filter (fun t => decide (t.part = part))) with
  | none => (0, s)
  | some t => (t.token, s.putTcb { t with heldRead := true })

end Sys2Proof.Machine
end

