-- ==== Sys2Proof/Machine/Ready.lean ====
section
/-! DEFINITION. Ready queues: which records are eligible, their order, which core may take which, and how a
task starts or a context resumes on a core (R30, R36 to R39, R246, R258, R273 to R276, R283, R342). -/

namespace Sys2Proof.Machine

/-! ### Eligibility and order -/

/-- Whether a word of TCM or the scratchpad, by its address, is full for a core. -/
def State.wordFull (s : State) (k : Nat) (a : Word) : Bool :=
  let w := a.toNat % 2 ^ 56 / 4
  if a.toNat / 2 ^ 56 = 1 then !(s.coreAt k).mem.tcmEmpty.contains w else !(s.spadEmptyOf (clusterOf k)).contains w

/-- Whether a copy of a task, or every copy for tag 0, is complete, one whose fault the context has still to take
apart (R243). -/
def Core.copiesDone (c : Core) (run : Nat) (tag : Word) : Bool :=
  !c.eng.copies.any (fun x => !x.failed && decide (x.reader.run = run) && (decide (tag = 0) || decide (BitVec.ofNat 64 x.tag = tag)))

/-- Whether a parked context is resumable (R34): after an explicit `park` or a parking `yield` at once; after a wait
when its event has occurred and every reply has arrived (R148). -/
def State.resumable (s : State) (c : Cont) : Bool :=
  match c.code.toNat with
  | 0 | 1 => true
  | 2 => c.remote.isEmpty && s.wordFull c.core c.obj
  | 3 => c.remote.isEmpty && decide (c.obj.toNat ≤ s.dev.now)
  | 4 =>
    let q := (s.coreAt c.core).ni.queues[(c.obj.extractLsb' 0 3).toNat]'((c.obj.extractLsb' 0 3).isLt)
    c.remote.isEmpty && !(q.recs.isEmpty && q.ringSrcs.isEmpty)
  | 5 => c.remote.isEmpty && (s.coreAt c.core).copiesDone c.ctx.run c.obj
  | _ => c.remote.isEmpty

/-- Whether a record is eligible (R275). -/
def State.eligible (s : State) (r : QRec) : Bool :=
  decide (r.place ≠ 0) && decide (r.rel ≤ s.dev.now) &&
    match r.cont with
    | some c => s.resumable c
    | none => true

/-- The aged priority that a record has reached (R276). -/
def QRec.agedAt (r : QRec) (now : Nat) : Nat := max r.aged (min 3 (r.prio + (now - max r.since r.rel) / 256))

/-- Every record's aging is brought up to the current instant. -/
def State.ageAll (s : State) : State :=
  s.onDisp (fun d => { d with recs := d.recs.map (fun r => if s.eligible r then { r with aged := r.agedAt s.dev.now } else r) })

/-- Whether one eligible record is taken before another (R275). -/
def QRec.before (a b : QRec) : Bool :=
  if a.aged ≠ b.aged then decide (b.aged < a.aged)
  else if a.rel ≠ b.rel then decide (a.rel < b.rel)
  else if a.node ≠ b.node then decide (a.node < b.node)
  else if a.wid ≠ b.wid then decide (a.wid.toNat < b.wid.toNat)
  else a.cont.isSome && b.cont.isNone

/-- The first of the records that a test admits, with its place in the list. -/
def firstRec (ok : QRec → Bool) : List (QRec × Nat) → Option (QRec × Nat)
  | [] => none
  | x :: xs =>
    match firstRec ok xs with
    | none => if ok x.1 then some x else none
    | some y => if ok x.1 && !y.1.before x.1 then some x else some y

/-- The head of a cluster's ready queues: the first of its eligible records. -/
def State.headOf (s : State) (cl : Nat) : Option QRec :=
  (firstRec (fun r => decide (r.place = 1 ∧ r.cluster = cl) && s.eligible r) s.dev.disp.recs.zipIdx).map (fun x => x.1)

/-- The head of a cluster's ready queue of one priority. -/
def State.prioHead (s : State) (cl prio : Nat) : Option QRec :=
  (firstRec (fun r => decide (r.place = 1 ∧ r.cluster = cl ∧ r.prio = prio) && s.eligible r) s.dev.disp.recs.zipIdx).map
    (fun x => x.1)

/-! ### Which core may take a record (R38, R273, R274, R283) -/

/-- Whether a core is the target of a move in progress (R314). -/
def State.moveTargeted (s : State) (k : Nat) : Bool := s.dev.img.cmds.any (fun c => decide (c.op = 3 ∧ c.target = k))

/-- Whether a core holds no context and waits for work, its clock running or not. -/
def State.coreVacant (s : State) (k : Nat) : Bool :=
  let c := s.coreAt k
  decide (c.x.run = .idle) && c.x.ctx.isNone && !c.x.arrived && c.x.stopped.isNone && !s.moveTargeted k

/-- Whether a core waits for work that it can take. -/
def State.coreIdle (s : State) (k : Nat) : Bool := s.coreVacant k && !s.clockGated k

/-- Whether the core that a record's `near` hint names is idle; one of another partition can never take it (R273; log
entry 20). -/
def State.nearIdle (s : State) (r : QRec) : Bool :=
  match r.near with
  | some k => s.coreIdle k && decide (s.clusterPart (clusterOf k) = some r.part)
  | none => false

/-- Whether a record may run on a core: under a `near` hint the core it names, else another of the record's cluster
once its wait has expired (R273); a continuation on the core that parked it, else within its scope while that core is
not idle, or where its cluster is withheld and offers it to others (R38, R283). -/
def State.mayRun (s : State) (k : Nat) (r : QRec) : Bool :=
  (match r.near with
    | some c => decide (c = k) || (decide (r.cluster = clusterOf k) && r.expired)
    | none => true) &&
  (match r.cont with
    | none => true
    | some c =>
      decide (c.core = k) ||
        (decide (c.scope = 0) && (!s.coreIdle c.core || s.isWithheld (clusterOf c.core))) ||
        (decide (c.scope = 1 ∧ clusterOf c.core = clusterOf k) && !s.coreIdle c.core))

/-- Whether the overflow or a withheld cluster offers a record to other clusters (R274, R283). -/
def QRec.mayMove (r : QRec) : Bool :=
  r.near.isNone && (match r.cont with | some c => decide (c.scope ≠ 2) | none => true)

/-- Whether a withheld cluster still offers a record to one of its cores: a continuation that can run nowhere
else, or a `near` hint that names the core (R283). -/
def QRec.onlyHere (r : QRec) (k : Nat) : Bool :=
  decide (r.near = some k) || (match r.cont with | some c => decide (c.scope ≠ 0) | none => false)

/-- Whether a record stands at the head of its queue under a `near` hint that names a core, whatever cluster the core is of
(R273). -/
def State.offersNear (s : State) (k : Nat) (r : QRec) : Bool :=
  decide (r.near = some k ∧ r.place = 1 ∧ s.prioHead r.cluster r.prio = some r)

/-- The record that an idle core takes: the first of its cluster's queues and of those whose hint names it elsewhere; where
these hold no eligible record, the first that the shingle's overflow and its withheld clusters offer (R273, R274, R283). -/
def State.recordFor (s : State) (k : Nat) : Option (QRec × Nat) :=
  let cl := clusterOf k
  let recs := s.dev.disp.recs.zipIdx
  let can (r : QRec) : Bool := decide (some r.part = s.clusterPart cl) && s.eligible r && s.mayRun k r
  let held := s.isWithheld cl
  match firstRec (fun r => (decide (r.place = 1 ∧ r.cluster = cl) || s.offersNear k r) && can r && (!held || r.onlyHere k)) recs with
  | some x => some x
  | none =>
    if held || (s.headOf cl).isSome then none
    else
      firstRec (fun r => can r && r.mayMove && decide (clusterShingle r.cluster = clusterShingle cl) &&
        (decide (r.place = 2) || (decide (r.place = 1 ∧ r.cluster ≠ cl) && s.isWithheld r.cluster))) recs

/-! ### Live masks and slots (R33, R36) -/

/-- The bits of a live mask that name a register, lowest first; bits 0 and 63 name none (R33, R141). -/
def maskBits (m : Word) : List Nat := (List.range 62).map (· + 1) |>.filter (fun i => m.getLsbD i)

/-- `Slots(m)` (R138): v registers take two. -/
def maskSlots (m : Word) : Nat := ((maskBits m).map (fun i => if 32 ≤ i ∧ i < 60 then 2 else 1)).sum

/-- The slots of the registers that a mask names. -/
def Core.liveSlots (c : Core) (m : Word) : List Word :=
  (maskBits m).flatMap (fun i =>
    if i < 32 then [c.r.readG (BitVec.ofNat 5 i)]
    else if i < 60 then
      let v := c.r.readV (BitVec.ofNat 5 (i - 32))
      [v.extractLsb' 0 64, v.extractLsb' 64 64]
    else [(c.x.loops.toList.getD (i - 60) .idle).lc])

/-- Set the count of an inactive loop level. -/
def setCount (ls : Vector LoopLevel 3) (i : Nat) (n : Word) : Vector LoopLevel 3 :=
  if h : i < 3 then ls.set i { ls[i] with lc := n } else ls

/-- Give the registers that a mask names their slots. -/
def restoreSlots : List Nat → List Word → Regs → Vector LoopLevel 3 → Regs × Vector LoopLevel 3
  | [], _, r, ls => (r, ls)
  | i :: is, sl, r, ls =>
    if i < 32 then restoreSlots is (sl.drop 1) (r.writeG (BitVec.ofNat 5 i) (sl.getD 0 0)) ls
    else if i < 60 then
      restoreSlots is (sl.drop 2) (r.writeV (BitVec.ofNat 5 (i - 32)) (sl.getD 1 0 ++ sl.getD 0 0)) ls
    else restoreSlots is (sl.drop 1) r (setCount ls (i - 60) (sl.getD 0 0))

/-! ### A context begins on a core -/

/-- The start values of R258. -/
def Core.startValues (c : Core) : Core :=
  { c with sw := { c.sw with
      stkb := c.csr.sstkb, stkl := c.csr.sstkl, rscope := c.csr.sRscope, parkCycles := c.csr.sParkCycles,
      scope := c.csr.sscope, uvec := c.csr.suvec, en := c.csr.suien, pend := 0 } }

/-- The registers of a task that has written none: zeros, the handler's bank kept (R36, R173). -/
def Regs.clear (r : Regs) : Regs := { Regs.reset with bank := r.bank }

/-- Whether a remote access goes to a register of the handler's bank, which stays with the core (R149, R173). -/
def Remote.toBank (r : Remote) : Bool :=
  r.hand && match r.dst with
    | .g x _ | .amo x _ => banked x
    | _ => false

/-- Whether a remote access goes to a register that its context's record keeps (R148). -/
def Remote.inRecord (r : Remote) : Bool := r.ofCtx && !r.toBank

/-- Whether a remote access stays with its core when the core takes its next work: a supervisor's own, to the handler's
bank. Its fault finds no context any more (log entry 85). -/
def Remote.stays (r : Remote) : Bool := r.toBank && !r.ofCtx

/-- A core about to run a context: user mode, no loop, no wait, slots FREE and accumulators Z (R37, R127,
R191). -/
def Core.forContext (c : Core) (x : Ctx) : Core :=
  let c1 := c.startValues
  { c1 with
    r := c.r.clear
    sw := { c1.sw with ix := 0, fstat := 0 }
    csr := { c1.csr with tip := false }
    x := { c1.x with
      mode := .user, inHandler := false, loops := Vector.replicate 3 .idle, uLoops := Vector.replicate 3 .idle,
      xLoops := Vector.replicate 3 .idle, ras := [], run := .running, wait := none, ctx := some x, ended := false,
      deferred := [], touchTcm := 0, touchIm := 0, written := 0, writtenHigh := false, fresh := false }
    mat := Matrix.reset
    eng := { c1.eng with
      remote := c1.eng.remote.filter Remote.stays, loads := [], streams := Vector.replicate 4 none, copyGrant := false } }

/-- The frame of a segment of a template, its bytes, and the number that tells a resident segment. -/
def Loaded.segment (l : Loaded) (seg : Nat) : Option (Nat × List Byte × Nat) :=
  (l.frames.find? (fun f => decide (f.1 = seg))).map (fun f => (f.2.1, f.2.2, l.image * 4096 + seg))

/-- A frame by number. -/
def CoreMem.frame (m : CoreMem) (f : Nat) : Frame := m.frames.toList.getD f .empty

/-- Set a frame. -/
def CoreMem.setFrame (m : CoreMem) (f : Nat) (v : Frame) : CoreMem :=
  if h : f < 16 then { m with frames := m.frames.set f v } else m

/-- The dispatcher requests a segment into its frame, unless it stands there; the core's first clause waits
for it (R246). -/
def Core.requestCode (c : Core) (frame uid : Nat) : Core :=
  let c1 := { c with x := { c.x with
    touchIm := if frame < c.csr.ifr.toNat then c.x.touchIm ||| BitVec.ofNat 16 (2 ^ frame) else c.x.touchIm } }
  if c.mem.frame frame = .resident (some uid) then c1
  else
    { c1 with
      mem := c1.mem.setFrame frame (.landing ⟨0, 0, ⟨false, 0, 0, none, true⟩, some uid, []⟩)
      x := { c1.x with run := .codeWait frame } }

/-- The TCM and scratchpad segments of an image that a core and its cluster have not had yet are written
(R342). -/
def State.stageImage (s : State) (k part image : Nat) : State :=
  let mine (g : Staged) : Bool := decide (g.part = part ∧ g.image = image) &&
    !g.done.contains (if g.kind = .tcm then k else clusterOf k)
  let s1 := s.dev.disp.staged.foldl (fun s g =>
    if !mine g then s
    else if g.kind = .tcm then s.onCore k (fun c => c.tcmWrite (atOffsets g.off g.bytes))
    else s.spadWrite (clusterOf k) (atOffsets g.off g.bytes)) s
  s1.onDisp (fun d => { d with staged := d.staged.map (fun g =>
    if mine g then { g with done := (if g.kind = .tcm then k else clusterOf k) :: g.done } else g) })

/-- The TCM pages that an image's segments take (R302). -/
def State.imagePages (s : State) (part image : Nat) : BitVec 16 :=
  (s.dev.disp.staged.filter (fun g => decide (g.part = part ∧ g.image = image ∧ g.kind = .tcm))).foldl
    (fun t g => (List.range g.bytes.length).foldl (fun t i => t ||| touchPages (g.off + i) 1) t) 0

/-- The context that a released task has on a core, in a start of its own number. -/
def ctxOf (t : Tcb) (d : NodeDesc) (run : Nat) : Ctx where
  token := t.token
  run := run
  part := t.part
  node := t.node
  tcbNode := t.node
  wid := t.wid
  gen := t.gen
  rel := t.rel
  pub := t.pub
  budget := d.budget
  prio := d.prio
  nowOnly := d.nowOnly
  preempt := d.preempt
  seq := 0
  groups := 0
  inline := if t.inline.isSome then some (argRecordOffset t) else none
  reply := t.reply
  poison := t.poison
  copies := 0

/-- A task starts on a core (R30, R246, R258, R342). -/
def State.startTask (s : State) (k : Nat) (l : Loaded) (d : NodeDesc) (t : Tcb) : State :=
  let s1 := (s.putTcb { t with st := .running }).stageImage k t.part l.image
  match l.segment d.seg with
  | none => s1
  | some (f, _, uid) =>
    s1.onCore k (fun c =>
      let c1 := c.forContext (ctxOf t d (s.dev.tick + 1))
      let c2 := { c1 with x := { c1.x with
        pc := BitVec.ofNat 16 (f * 0x1000 + d.entry.toNat), touchTcm := s.imagePages t.part l.image } }
      c2.requestCode f uid)

/-- A core takes a parked context up where it left (R37, R39, R258). -/
def Core.resumed (core : Core) (c : Cont) : Core :=
  let c1 := core.forContext c.ctx
  let rl := restoreSlots (maskBits c.mask) c.slots c1.r c1.x.loops
  { c1 with
    r := { rl.1 with p := c.pred }
    sw := { c1.sw with ix := c.ix, fstat := c.fstat }
    x := { c1.x with
      pc := c.pc, loops := rl.2, deferred := c.deferred, written := c.written, writtenHigh := c.writtenHigh, fresh := true
      touchTcm := if core.id = c.core then c.touchTcm else 0
      touchIm := if core.id = c.core then c.touchIm else 0 } }

/-- A remote access as a resumed context keeps it: the reply to a register outside the live mask is written nowhere; one
to the handler's bank goes to the bank of the core that runs the context (log entry 85). -/
def Remote.within (mask : Word) (r : Remote) : Remote :=
  let named := r.toBank || match r.dst with
    | .g x _ | .amo x _ => mask.getLsbD x.toNat
    | .v x _ => decide (x.toNat < 28) && mask.getLsbD (32 + x.toNat)
    | .port _ _ => false
  if named then r else { r with dst := .g 0 false }

/-- An atomic whose reply follows its context from core `c` to core `k`, where its access has the tag `f` gives. -/
def TStore.follow (c k : Nat) (f : Nat → Option Nat) (t : TStore) : TStore :=
  match t.atomic with
  | some a =>
    if t.device = none ∧ a.core = c then
      match f a.tag with
      | some n => { t with atomic := some { a with core := k, tag := n } }
      | none => t
    else t
  | none => t

/-- The remote accesses still outstanding of a context that resumes at once go with it (R34, R148): their replies reach
the core that runs it. -/
def State.adopt (s : State) (k : Nat) (c : Cont) : State :=
  let rs := c.remote.map (Remote.within c.mask)
  if rs.isEmpty then s
  else if k = c.core then s.onCore k (fun x => { x with eng := { x.eng with remote := x.eng.remote ++ rs } })
  else
    let n := (s.coreAt k).eng.nextTag
    let tags := rs.map (fun r => r.tag)
    let f (t : Nat) : Option Nat := if tags.contains t then some (n + tags.idxOf t) else none
    let s1 := s.onCore k (fun x => { x with eng := { x.eng with
      nextTag := n + rs.length
      remote := x.eng.remote ++ rs.map (fun r => { r with tag := (f r.tag).getD r.tag }) } })
    s1.onTimed (fun m => { m with
      flight := m.flight.map (TStore.follow c.core k f), tense := m.tense.map (TStore.follow c.core k f) })

/-- A parked context resumes on a core; its node's code is requested there as for a task (R246). -/
def State.resumeCont (s : State) (k : Nat) (c : Cont) : State :=
  let s1 := match s.tcbOf c.ctx.part c.ctx.tcbNode c.ctx.wid with
    | some t => s.putTcb { t with st := .running }
    | none => s
  match s.nodeFor c.ctx.part c.ctx.node with
  | none => (s1.onCore k (fun core => core.resumed c)).adopt k c
  | some (l, d) =>
    let s2 := s1.stageImage k c.ctx.part l.image
    let loaded (core : Core) : Core :=
      { core with x := { core.x with touchTcm := core.x.touchTcm ||| s.imagePages c.ctx.part l.image } }
    match l.segment d.seg with
    | none => (s2.onCore k (fun core => loaded (core.resumed c))).adopt k c
    | some (f, _, uid) => (s2.onCore k (fun core => (loaded (core.resumed c)).requestCode f uid)).adopt k c

/-- A record is taken by a core. -/
def State.runRecord (s : State) (k : Nat) (r : QRec) : State :=
  match r.cont with
  | some c => s.resumeCont k c
  | none =>
    match s.tcbOf r.part r.node r.wid, s.nodeFor r.part r.node with
    | some t, some (l, d) => s.startTask k l d t
    | _, _ => s

end Sys2Proof.Machine
end

