-- ==== Sys2Proof/Machine/Leave.lean ====
section
/-! DEFINITION. Fences, and how a context leaves its core: parking, retiring, and being ended with a cause
(R37, R38, R76, R81, R82, R138, R140, R154, R217, R267). -/

namespace Sys2Proof.Machine

/-! ### Scopes (R81, R82, R154) -/

/-- A scope: the own cluster, or a rectangle of logical core coordinates. -/
inductive Scope where
  | own
  | rect (x0 x1 y0 y1 : Nat)
  deriving DecidableEq, Repr

/-- A rectangle from its register layout (R81). -/
def rectOf (w : Word) : Scope :=
  .rect (w.extractLsb' 0 10).toNat (w.extractLsb' 18 10).toNat (w.extractLsb' 10 8).toNat (w.extractLsb' 28 8).toNat

/-- Whether a scope is an empty rectangle. -/
def Scope.empty : Scope → Bool
  | .own => false
  | .rect x0 x1 y0 y1 => decide (x1 < x0 ∨ y1 < y0)

/-- Whether a logical core lies in a scope of core `k`; coordinates beyond the grid clip to it. -/
def Scope.holds (r : Scope) (k c : Nat) : Bool :=
  match r with
  | .own => decide (clusterOf c = clusterOf k)
  | .rect x0 x1 y0 y1 =>
    decide (x0 ≤ x1 ∧ y0 ≤ y1 ∧ min x0 767 ≤ c % 768 ∧ c % 768 ≤ x1 ∧ min y0 215 ≤ c / 768 ∧ c / 768 ≤ y1)

/-- Whether a scope holds some core of a cluster. -/
def Scope.holdsCluster (r : Scope) (k cl : Nat) : Bool := (List.range 48).any (fun i => r.holds k (coreInCluster cl i))

/-- Whether a scope reaches beyond the own cluster. -/
def Scope.beyond (r : Scope) (k : Nat) : Bool :=
  match r with
  | .own => false
  | .rect x0 x1 y0 y1 =>
    decide (x0 ≤ x1 ∧ y0 ≤ y1) &&
      !(decide (k % 768 / 8 * 8 ≤ min x0 767 ∧ min x1 767 ≤ k % 768 / 8 * 8 + 7 ∧
        k / 768 / 6 * 6 ≤ min y0 215 ∧ min y1 215 ≤ k / 768 / 6 * 6 + 5))

/-- The scope of the status word `scope` (R154). -/
def StatusWords.fenceScope (w : StatusWords) : Scope :=
  if w.scope.getLsbD 36 then .own else rectOf (w.scope.setWidth 64)

/-- The core whose memories a copy writes: `dcore` or its own (R160). -/
def Copy.target (x : Copy) (own : Nat) : Nat := if x.desc.getLsbD 62 then (x.desc.extractLsb' 44 18).toNat else own

/-- Whether a copy has writes not yet performed that a fence waits for (R82). -/
def Copy.blocks (x : Copy) (own : Nat) (r : Scope) : Bool :=
  !x.failed && !x.todo.isEmpty &&
    match pathOf x.frame.addr with
    | some (.tcm, _) => r.holds own (x.target own)
    | some (.spad, _) => r.holdsCluster own (clusterOf (x.target own))
    | _ => false

/-- Whether a fence of the acting core over a scope still waits: for copies, or, where it is not empty, for loads from
GLOBAL-RO. -/
def State.fenceWaits (s : State) (r : Scope) : Bool :=
  (r.beyond s.core.id && s.core.eng.copies.any (fun x => x.blocks s.core.id r)) || (!r.empty && s.core.untimedOut)

/-- The acting core's earlier untimed accesses are performed, unless the rectangle is empty. -/
def State.fenced (s : State) (r : Scope) : State := if r.empty then s else s.drainAll

/-! ### Leaving a core -/

/-- The core takes its next work with nothing of the context left in it; a user-level interrupt handler's bank stays with
the core (R173). -/
def State.freeCore (s0 : State) : State :=
  let s : State := { s0 with core := s0.core.useBank false }
  let s1 := s.goIdle
  { s1 with core := { s1.core with
      mat := Matrix.reset
      sw := { s1.core.sw with pend := 0 }
      csr := { s1.core.csr with req := false }
      x := { s1.core.x with reqSince := none, deferred := [] }
      eng := { s1.core.eng with
        remote := s1.core.eng.remote.filter Remote.stays, loads := [], streams := Vector.replicate 4 none, copyGrant := false } } }

/-- The TCB of a context. -/
def State.tcbOfCtx (s : State) (x : Ctx) : Option Tcb := s.tcbOf x.part x.tcbNode x.wid

/-- The resume scope of a context that parks: the narrower of `rscope` and what its wait or its incomplete
copies pin (R38). -/
def Core.resumeScope (c : Core) (code : BitVec 8) (obj : Word) (x : Ctx) : Nat :=
  let chosen := min 2 c.sw.rscope.toNat
  let pinned :=
    if code = 2 then (if obj.toNat / 2 ^ 56 = 1 then 2 else 1)
    else if code = 4 ∨ code = 5 then 2
    else 0
  let copies := if c.eng.copies.any (fun y => decide (y.reader.run = x.run)) then 2 else 0
  max chosen (max pinned copies)

/-- The flags of a context: those of `fstat`, and those that matrix instructions still in progress will give (R98,
R193). -/
def Core.allFlags (c : Core) : BitVec 7 := c.mat.flags.foldl (fun f g => f ||| g) c.sw.fstat

/-- The continuation of the acting core's context. -/
def Core.contOf (c : Core) (x : Ctx) (code : BitVec 8) (obj mask : Word) : Cont where
  ctx := x
  mask := mask
  slots := c.liveSlots mask
  pred := c.r.p
  ix := c.sw.ix
  fstat := c.allFlags
  code := code
  obj := obj
  pc := c.x.pc
  core := c.id
  scope := c.resumeScope code obj x
  remote := c.eng.remote.filter Remote.ofCtx
  deferred := c.x.deferred
  written := c.x.written
  writtenHigh := c.x.writtenHigh
  touchTcm := c.x.touchTcm
  touchIm := c.x.touchIm

/-- Bits 0 and 63 of a live mask are ignored (R141). -/
def cleanMask (m : Word) : Word := m &&& 0x7FFFFFFFFFFFFFFE

/-- The acting core's context parks where it stands (R33, R37, R38); with no context the core takes its next
work. -/
def State.parkContext (s0 : State) (code : BitVec 8) (obj mask : Word) : State :=
  let s := s0.leaveGang.drainAtomics
  match s.core.x.ctx with
  | none => s.freeCore
  | some x =>
    let r : QRec := {
      place := 0, cluster := clusterOf s.core.id, part := x.part, node := x.node, wid := x.wid, prio := x.prio,
      rel := x.rel, since := s.dev.now, aged := x.prio, near := none, headSince := none, expired := false,
      waited := false, cont := some (s.core.contOf x code obj (cleanMask mask)) }
    let s1 := match s.tcbOfCtx x with | some t => s.putTcb { t with st := .parked } | none => s
    (s1.onDisp (fun d => { d with recs := d.recs ++ [r] })).freeCore

/-- The acting core's task retires: its rules signal, its reply endpoint gets a report of kind 1 (R217). -/
def State.retireContext (s0 : State) : State :=
  let s := s0.leaveGang
  match s.core.x.ctx with
  | none => s.freeCore
  | some x =>
    match s.tcbOfCtx x with
    | none => s.freeCore
    | some t =>
      let s1 := s.signalSuccessors (coreEndpoint s.core.id 0) { t with node := x.node } x.pub x.poison false
      let s2 := if x.reply.getLsbD 63 then s1.postReport s.core.id (x.reply.toNat % 2 ^ 41) 1 x.token.toNat 0 else s1
      (s2.retireTcb t x.pub x.poison).freeCore

/-- A context leaves its core as the clause retires. -/
def State.performLeave (s : State) (l : Leave) : State :=
  let s1 := (s.onX (fun x => { x with wait := none })).advancePc
  match l with
  | .park m => s1.parkContext 0 0 m
  | .boundary m => s1.parkContext 1 0 m
  | .retire => s1.retireContext

/-- An instruction ends with its context leaving the core; in a paired clause, when the clause retires. -/
def State.finishLeave (s : State) (l : Leave) : State :=
  if s.core.x.inPair then s.onX (fun x => { x with flow := .leave l }) else s.performLeave l

/-! ### Ending a context (R76, R267) -/

/-- Every queue of an NI is emptied, with what its ring holds and the holds of its records. -/
def Ni.emptied (n : Ni) : Ni :=
  { n with queues := n.queues.map (fun q => { q with
      recs := [], held := [], ringSrcs := [], ringHead := q.ringTail, heldSince := none, raised := false, spilledHeld := 0 }) }

/-- The acting core's context is ended with a cause: nothing further is issued for it, its pending interrupts are
discarded (R239), and its purge follows. The replies to the supervisor handler's own accesses still come (R149). -/
def State.endContext (s0 : State) (cause : BitVec 8) : State :=
  let s := s0.drainAtomics
  match s.core.x.ctx with
  | none => s
  | some x =>
    let s1 : State := { s with core := { s.core with
      fuse := none
      mat := Matrix.reset
      csr := { s.core.csr with req := false }
      x := { s.core.x with ctx := none, ended := true, deferred := [], reqSince := none }
      sw := { s.core.sw with pend := 0 }
      eng := { s.core.eng with
        remote := (s.core.eng.remote.filter Remote.sup).map (fun r => { r with ofCtx := false }), loads := [], streams := Vector.replicate 4 none, copyGrant := false,
        copies := s.core.eng.copies.filter (fun y => decide (y.reader.run ≠ x.run)) }
      ni := s.core.ni.emptied } }
    let s2 := match cause.toNat, s1.tcbOfCtx x with
      | 0, some t => s1.retireTcb t x.pub x.poison
      | _, _ => s1
    s2.onTimed (fun m => { m with
      purges := m.purges ++ [⟨x.token, s.core.id, x.part, x.tcbNode, x.wid, cause, decide (0 < x.groups), false⟩] })

end Sys2Proof.Machine
end

