-- ==== Sys2Proof/Machine/Home.lean ====
section
/-! DEFINITION. The homes of timed memory: acceptance, what an instant makes visible, ties, atomics, loads,
replies, reports and purges (R62 to R79, R147 to R151, R296). -/

namespace Sys2Proof.Machine

/-! ### Keys (R72) -/

/-- The class of a store (R72). -/
def TStore.cls (t : TStore) : Nat :=
  match t.src, t.late with
  | .task, false => 3
  | .task, true => 1
  | _, false => 2
  | _, true => 0

/-- `Key(S)` as a number. -/
def TStore.key (t : TStore) : Nat := ((t.cls * 2 ^ 30 + t.node) * 2 ^ 64 + t.wid.toNat) * 2 ^ 32 + t.seq

/-- The rank of an atomic in AtomicOrder (R73): class descending, then node, wid and seq ascending. -/
def TStore.rank (t : TStore) : Nat := (((3 - t.cls) * 2 ^ 30 + t.node) * 2 ^ 64 + t.wid.toNat) * 2 ^ 32 + t.seq

/-- Insert into a list that rises by a number, after those that are equal. -/
def insertBy (f : TStore → Nat) (t : TStore) : List TStore → List TStore
  | [] => [t]
  | x :: xs => if f t < f x then t :: x :: xs else x :: insertBy f t xs

/-- Sort by a number; equal ones keep their order. -/
def sortBy (f : TStore → Nat) (ts : List TStore) : List TStore := ts.foldl (fun acc t => insertBy f t acc) []

/-- The key of a store's first byte. -/
def TStore.base (t : TStore) : Nat := t.home.getD 0

/-- The bytes of a store by key. -/
def TStore.bytesAt (t : TStore) : List (Nat × Byte) := t.data.map (fun b => (t.base + b.1, b.2))

/-! ### Atomics (R73, R150) -/

/-- Apply an atomic to memory: the new memory, the old value and the flags. -/
def applyAtomic (m : Memory) (t : TStore) (a : AtomOp) : Memory × List Byte × FpFlags :=
  let old := m.readN t.base a.bytes
  let r := atomicOp (8 * a.bytes) a (natOf old)
  (m.writeN t.base (bytesOf a.bytes r.1), old, r.2)

/-- Apply atomics in order; each leaves its reply. -/
def applyAtomics : Memory → List TStore → Memory × List (TStore × AtomOp × List Byte × FpFlags)
  | m, [] => (m, [])
  | m, t :: ts =>
    match t.atomic with
    | none => applyAtomics m ts
    | some a =>
      let r := applyAtomic m t a
      let r2 := applyAtomics r.1 ts
      (r2.1, (t, a, r.2.1, r.2.2) :: r2.2)

/-! ### Ties (R74) -/

/-- Whether two stores have one source, of one part. -/
def TStore.sameSource (a b : TStore) : Bool :=
  decide (a.device = b.device) &&
    match a.src, b.src with
    | .task, .task => decide (a.token = b.token)
    | .host, .host => decide (a.node = b.node)
    | .firmware, .firmware => decide (a.node = b.node)
    | .supervisor, .supervisor => decide (a.core = b.core)
    | _, _ => false

/-- The store that wins a byte: the last in key order that writes it. -/
def winnerOf (sorted : List TStore) (addr : Nat) : Option (TStore × Byte) :=
  sorted.foldl (fun w t => match t.bytesAt.find? (fun b => decide (b.1 = addr)) with
    | some b => some (t, b.2)
    | none => w) none

/-- The tied bytes of a store among the stores of its instant, with the winner of each. -/
def tiedBytes (sorted : List TStore) (t : TStore) : List (Nat × TStore) :=
  t.bytesAt.filterMap (fun b =>
    match winnerOf sorted b.1 with
    | some (w, v) =>
      if w.id ≠ t.id ∧ !w.qst ∧ !t.qst ∧ (!w.sameSource t ∨ (w.key = t.key ∧ v ≠ b.2)) then some (b.1, w) else none
    | none => none)

/-- The lowest-addressed tied byte. -/
def lowestTied : List (Nat × TStore) → Option (Nat × TStore)
  | [] => none
  | x :: xs =>
    match lowestTied xs with
    | none => some x
    | some y => if x.1 ≤ y.1 then some x else some y

/-- Add one to a home's counter, which holds at its largest value. -/
def bumpHome (t : Assoc Word) (key : Nat) : Assoc Word :=
  match homeOf key with
  | some h => aset t h (countUp ((aget t h).getD 0))
  | none => t

/-- A message of a home to the NI of a core on another part (R63, R67, R74). -/
def State.tellPart (s : State) (home device core : Nat) (b : Body) : State :=
  s.route ⟨.c0, 2 ^ 33 + home, coreEndpoint core 0, device, .direct, b⟩

/-- The tie of a losing store is counted at its home and reported to its winner's core (R74). -/
def State.countTie (s : State) (sorted : List TStore) (t : TStore) : State :=
  match lowestTied (tiedBytes sorted t) with
  | none => s
  | some (a, w) =>
    let s1 := s.onTimed (fun m => { m with tieCount := bumpHome m.tieCount a })
    let r : Report := ⟨w.core, w.run, w.addr + BitVec.ofNat 64 (a - w.base), false, w.clause⟩
    if !w.ofCore then s1
    else
      match w.device with
      | none => s1.onTimed (fun m => { m with tieReports := m.tieReports ++ [r] })
      | some d => s1.tellPart ((homeOf a).getD 0) d w.core (.tie r)

/-! ### Applying an instant (R73, R56, R75) -/

/-- A reply for a core's atomic is at its home. -/
def State.answerAtomic (s : State) (a : AtomOp) (old : List Byte) (f : FpFlags) : State :=
  s.onCore a.core (fun c => { c with eng := { c.eng with remote := c.eng.remote.map (fun r =>
    if r.tag = a.tag ∧ r.stat = .atomic then { r with stat := .served old f } else r) } })

/-- The reply of an atomic whose context is parked. -/
def State.answerParked (s : State) (a : AtomOp) (old : List Byte) (f : FpFlags) : State :=
  s.onDisp (fun d => { d with recs := d.recs.map (fun q =>
    match q.cont with
    | some c =>
      if c.core = a.core then
        { q with cont := some { c with remote := c.remote.map (fun r =>
          if r.tag = a.tag ∧ r.stat = .atomic then { r with stat := .served old f } else r) } }
      else q
    | none => q) })

/-- An answer to a request of another part: a C1 message, which waits for the port to the part, and is dropped where no
route leads there (R230, R327). -/
def State.answer (s : State) (device core tag : Nat) (bs : List Byte) (cause : BitVec 8) : State :=
  s.route ⟨.c1, 2 ^ 33, coreEndpoint core 0, device, .direct, .answer core tag bs cause⟩

/-- The reply of an atomic leaves its home: to the core or the parked context, or to the part that asked (R75). -/
def State.replyAtomic (s : State) (t : TStore) (a : AtomOp) (old : List Byte) (f : FpFlags) : State :=
  match t.device with
  | none => (s.answerAtomic a old f).answerParked a old f
  | some d => s.answer d t.core a.tag old 0

/-- The value that a remote part's home held before an atomic: a free value, whatever the homes' order (R73). -/
def remoteOld (t : TStore) (a : AtomOp) : List Byte := (List.range a.bytes).map (fun i => Config.remoteOld t.id i)

/-- The lines that a store or atomic writes. -/
def TStore.linesOf (t : TStore) : List Nat :=
  match t.atomic with
  | none => (t.bytesAt.map (fun b => lineOf b.1)).eraseDups
  | some _ => [lineOf t.base]

/-- The line versions that stores make at an instant. -/
def newLines (ts : List TStore) (inst : Nat) : List LineVersion :=
  (ts.flatMap (fun t => t.linesOf.map (fun l => ⟨t.part, l, inst⟩))).eraseDups

/-- Whether a home still keeps a version for the live tasks of its partition: the horizon has not come to it (R78). -/
def State.versionKept (s : State) (v : LineVersion) : Bool :=
  match s.partition v.part with
  | some q => decide (q.horizon < v.vis)
  | none => false

/-- Every home applies the stores and atomics of instant `t` to what was visible before it, pages that moved at `t`
at their new home (R73, R296); the ties are
counted, the atomics answered, and read-only copies of the changed lines invalidated, as are those of lines of other
parts, whose homes may have changed them (R56). -/
def State.applyInstant (s : State) (inst : Nat) : State :=
  let m := s.dev.timed
  let due := m.tense.filter (fun t => decide (t.vis = inst))
  let all := sortBy TStore.key (due.filter (fun t => t.atomic.isNone))
  let plain := all.filter (fun t => ownKey t.base)
  let atoms := sortBy TStore.rank (due.filter (fun t => t.atomic.isSome && ownKey t.base))
  let v0 := m.visible inst
  let v1 := plain.foldl (fun v t => v.writeAll t.bytesAt) v0
  let r := applyAtomics v1 atoms
  let far := (m.ro.map (fun l => l.1.2)).filter (fun l => !ownKey (64 * l))
  let lines := ((plain ++ atoms).flatMap TStore.linesOf ++ far).eraseDups
  let late := lines.filter (fun l => Config.lateInvalidation s.dev.tick l)
  let now := lines.filter (fun l => !late.contains l)
  let s1 := s.onTimed (fun m => { m with
    versions := if due.isEmpty then m.versions else (inst, r.1) :: m.versions
    lines := (m.lines ++ newLines (plain ++ atoms) inst).filter s.versionKept
    tense := m.tense.filter (fun t => decide (t.vis ≠ inst))
    ro := m.ro.filter (fun l => !m.roStale.contains l.1.2 && !now.contains l.1.2)
    roStale := late })
  let s2 := all.foldl (fun s t => s.countTie all t) s1
  let s3 := r.2.foldl (fun s x => s.replyAtomic x.1 x.2.1 x.2.2.1 x.2.2.2) s2
  (due.filter (fun t => !ownKey t.base)).foldl (fun s t =>
    match t.atomic with
    | some a => s.replyAtomic t a (remoteOld t a) (atomicOp (8 * a.bytes) a (natOf (remoteOld t a))).2
    | none => s) s3

/-! ### Capacities (R62, R64, R299) -/

/-- The entries that plain stores never use: the reserve of a home's atomics (R64). -/
def atomicReserve : Nat := 64

/-- The plain tense entries and line versions that a home has room for: a loft slice or a channel home, less the reserve
(R62, R64). -/
def homeCapacity (h : Nat) : Nat × Nat := if h % 80 < 16 then (512 - atomicReserve, 1024) else (2048 - atomicReserve, 4096)

/-- A partition's tense and thatch quotas at a home (R299); none for a store of no partition. -/
def State.homeQuota (s : State) (part h : Nat) : Nat × Nat :=
  match s.partition part with
  | some q => if h % 80 < 16 then (q.cfg.tql, q.cfg.hql) else (q.cfg.tqc, q.cfg.hqc)
  | none => homeCapacity h

/-- Insert into a list that rises by a number, after those that are equal. -/
def insertLine (f : LineVersion → Nat) (t : LineVersion) : List LineVersion → List LineVersion
  | [] => [t]
  | x :: xs => if f t < f x then t :: x :: xs else x :: insertLine f t xs

/-- The entries that do not fit, of entries in the order in which a home keeps them: those past the quota of their
partition or the size of the home. -/
def overflowing (quota : Nat → Nat) (size : Nat) : List LineVersion → List LineVersion → List LineVersion
  | [], _ => []
  | x :: xs, kept =>
    if kept.length < size ∧ (kept.filter (fun k => k.part = x.part)).length < quota x.part then overflowing quota size xs (x :: kept)
    else x :: overflowing quota size xs kept

/-- The plain entries of a tense buffer, one for each line and instant (R64). -/
def tenseLines (tense : List TStore) : List LineVersion :=
  ((tense.filter (fun t => t.atomic.isNone && ownKey t.base)).flatMap (fun t => t.linesOf.map (fun l => ⟨t.part, l, t.vis⟩))).eraseDups

/-- The entries and versions of a home that are spilled: the entries that name the latest instants, and the oldest
versions (R64). -/
def State.spilledAt (s : State) (tense : List TStore) (h : Nat) : List LineVersion :=
  let here (l : List LineVersion) : List LineVersion := l.filter (fun v => decide (homeOf (64 * v.line) = some h))
  let entries := (here (tenseLines tense)).foldl (fun acc v => insertLine (fun x => x.vis) v acc) []
  let versions := ((here s.dev.timed.lines).foldl (fun acc v => insertLine (fun x => x.vis) v acc) []).reverse
  overflowing (fun p => (s.homeQuota p h).1) (homeCapacity h).1 entries [] ++
    overflowing (fun p => (s.homeQuota p h).2) (homeCapacity h).2 versions []

/-- How many entries and versions of a partition lie in its spill region, 128 bytes each. -/
def State.spillUse (s : State) (tense : List TStore) (part : Nat) : Nat :=
  let homes := ((tenseLines tense ++ s.dev.timed.lines).filterMap (fun v => homeOf (64 * v.line))).eraseDups
  (homes.map (fun h => ((s.spilledAt tense h).filter (fun v => v.part = part)).length)).sum

/-- Whether a home may accept a plain store: it needs no more of its partition's spill region than is left; one of no
partition, which has no region, makes nothing spill (R64, R299). -/
def State.hasRoom (s : State) (t : TStore) : Bool :=
  match s.partition t.part with
  | none =>
    match homeOf t.base with
    | some h => decide ((s.spilledAt (s.dev.timed.tense ++ [t]) h).length ≤ (s.spilledAt s.dev.timed.tense h).length)
    | none => true
  | some q =>
    let after := s.spillUse (s.dev.timed.tense ++ [t]) t.part
    decide (after ≤ s.spillUse s.dev.timed.tense t.part ∨ after ≤ q.cfg.sps * 2 ^ 18)

/-! ### Acceptance (R63, R65 to R67, R79) -/

/-- A key of a page that has been handed over, at its new home (R79, R296). -/
def State.forwardKey (s : State) (key : Nat) : Nat :=
  match s.dev.trans.moves.find? (fun w => decide (w.inst ≤ s.dev.now ∧ key / 65536 = dramKey (w.oldFrame * 65536) / 65536)) with
  | some w => dramKey (w.newFrame * 65536) + key % 65536
  | none => key

/-- A store as its home accepts it: at the new home where its page has been handed over, V by R65. -/
def State.acceptedAs (s : State) (t : TStore) (key : Nat) : TStore :=
  let late := decide (t.inst ≤ s.dev.now)
  { t with home := some (s.forwardKey (t.fwd.getD key)), accepted := s.dev.now
           vis := if late then s.dev.now + 1 else t.inst, late := late }

/-- What a home tells the NI of a store's core: the acknowledgement, and the report of a late store (R63, R67). -/
def State.tellCore (s : State) (t : TStore) (key : Nat) (late dropped : Bool) : State :=
  let r : Report := ⟨t.core, t.run, t.addr, dropped, t.clause⟩
  if !t.ofCore then s
  else
    match t.device with
    | none => s.onTimed (fun m => { m with
        acks := m.acks ++ [⟨t.core, t.run, t.drop⟩]
        lateReports := if late then m.lateReports ++ [r] else m.lateReports })
    | some d =>
      let s1 := s.tellPart ((homeOf key).getD 0) d t.core (.ack t.core t.run t.drop)
      if late then s1.tellPart ((homeOf key).getD 0) d t.core (.late r) else s1

/-- A home accepts a store: V by R65, the acknowledgement, the late count and report; a late store of
policy drop is discarded (R66). -/
def State.acceptStore (s : State) (t : TStore) (key : Nat) : State :=
  let t1 := s.acceptedAs t key
  let counted := t1.late && !t.qst
  let dropped := t1.late && t.drop
  (s.onTimed (fun m => { m with
    tense := if dropped then m.tense else m.tense ++ [t1]
    lateCount := if counted then bumpHome m.lateCount key else m.lateCount })).tellCore t key counted dropped

/-- The atomics that a home holds (R64). A remote part's home keeps its own reserve, which is not seen here. -/
def State.atomicEntries (s : State) (h : Option Nat) : Nat :=
  match h with
  | none => 0
  | some _ => (s.dev.timed.tense.filter (fun t => t.atomic.isSome && decide (homeOf t.base = h))).length

/-! ### Loads (R68, R70, R296) -/

/-- Whether a load at a key must wait for a hand-over. -/
def State.handoverWaits (s : State) (key : Nat) : Bool :=
  s.dev.trans.moves.any (fun w => !w.applied && decide (w.inst ≤ s.dev.now) &&
    decide (key / 65536 = dramKey (w.newFrame * 65536) / 65536))

/-- Whether a read at a key must wait: for a hand-over, or for the port to its home's part (R296, R327). -/
def State.homeWaits (s : State) (key : Nat) : Bool := s.handoverWaits key || s.keyWaits key .c1

/-- The bytes a home returns as of an instant. -/
def State.homeBytes (s : State) (key inst n : Nat) : List Byte :=
  if ownKey key then (s.dev.timed.visible inst).readN key n
  else (List.range n).map (fun i => Config.remoteByte (key + i) inst)

/-- What a home answers: the bytes, protection from a remote part or where no route leads there, or home ECC. -/
def State.homeAnswer (s : State) (key inst n : Nat) : RStat :=
  if s.keyBarred key || (!ownKey key && Config.remoteRefuses s.dev.tick) then .faulted 0x11
  else if Config.homeEcc s.dev.tick then .faulted 0x12
  else .served (s.homeBytes key inst n) 0

/-- A remote access of a core by tag. -/
def State.remoteOf (s : State) (k tag : Nat) : Option Remote := (s.coreAt k).eng.remote.find? (fun r => decide (r.tag = tag))

/-- A remote access of a context that parked on a core, by tag. -/
def State.parkedRemote (s : State) (k tag : Nat) : Option Remote :=
  s.dev.disp.recs.findSome? (fun q => match q.cont with
    | some c => if c.core = k then c.remote.find? (fun r => decide (r.tag = tag)) else none
    | none => none)

/-- A remote access, on its core or in a parked context. -/
def State.anyRemote (s : State) (k tag : Nat) : Option Remote :=
  match s.remoteOf k tag with
  | some r => some r
  | none => s.parkedRemote k tag

/-- Change how far a remote access has come. -/
def State.setRemote (s : State) (k tag : Nat) (st : RStat) : State :=
  let f (r : Remote) : Remote := if r.tag = tag then { r with stat := st } else r
  match s.remoteOf k tag with
  | some _ => s.onCore k (fun c => { c with eng := { c.eng with remote := c.eng.remote.map f } })
  | none => s.onDisp (fun d => { d with recs := d.recs.map (fun q =>
      match q.cont with
      | some c => if c.core = k then { q with cont := some { c with remote := c.remote.map f } } else q
      | none => q) })

/-! ### Replies (R147 to R151) -/

/-- A reply is written to its destination on the acting core. -/
def State.writeReply (s : State) (d : RDst) (hand : Bool) (width : Nat) (bs : List Byte) : State :=
  match d with
  | .g r z => s.writeScalar hand r (scalarValue width z bs)
  | .amo r w => s.writeScalar hand r (amoValue w bs)
  | .v r p => s.setVReg r (mergeBytes p (vecOf bs) (s.core.r.readV r))
  | .port r p =>
    match portIndex r with
    | some i => s.append i (mergeBytes p (vecOf bs) 0)
    | none => s

/-- The strides that wait for a reply are added to its register (R130, R147). -/
def State.addStride (s : State) (r : Remote) : State :=
  match r.dst.scalar with
  | some x => if r.stride = 0 then s else s.writeScalar r.hand x (s.core.readScalar r.hand x + r.stride)
  | none => s

/-- The reply of a remote access reaches the acting core (R147, R149, R151). -/
def State.replyHere (s : State) (r : Remote) : State :=
  let s1 := s.onEng (fun e => { e with remote := e.remote.filter (fun x => decide (x.tag ≠ r.tag)) })
  match r.stat with
  | .served bs f => ((s1.writeReply r.dst r.hand r.width bs).addStride r).raise f
  | .faulted cause =>
    (if !r.ofCtx && s.core.x.ctx.isSome then s1
      else ({ s1 with core := s1.core.defer ⟨cause, r.addr, r.clause, none⟩ } : State)).addStride r
  | _ => s

/-- Where a register's slot stands in a continuation (R33). -/
def slotPlace (mask : Word) (i : Nat) : Option Nat :=
  if mask.getLsbD i then some (((maskBits mask).filter (fun j => decide (j < i))).map (fun j => if 32 ≤ j ∧ j < 60 then 2 else 1)).sum
  else none

/-- A scalar of a parked context's record is written, and counts as written (R36, R148); a register that the live
mask leaves out stays 0. -/
def Cont.putScalar (c : Cont) (x : RegNo) (v : Word) : Cont :=
  match slotPlace c.mask x.toNat with
  | some i => { c with slots := setAt c.slots i v, written := markBit c.written x.toNat }
  | none => c

/-- The strides that wait for a reply are added to its slot. -/
def Cont.addStride (c : Cont) (r : Remote) : Cont :=
  match r.dst.scalar with
  | some x =>
    match slotPlace c.mask x.toNat with
    | some i => if r.stride = 0 then c else { c with slots := setAt c.slots i (c.slots.getD i 0 + r.stride) }
    | none => c
  | none => c

/-- A vector of a parked context's record is written under a predicate; v28 to v31 have no slot (R33). -/
def Cont.putVector (c : Cont) (x : RegNo) (p : BitVec 16) (bs : List Byte) : Cont :=
  if 28 ≤ x.toNat then c
  else
    match slotPlace c.mask (32 + x.toNat) with
    | some i =>
      let v := mergeBytes p (vecOf bs) (c.slots.getD (i + 1) 0 ++ c.slots.getD i 0)
      { c with slots := setAt (setAt c.slots i (v.extractLsb' 0 64)) (i + 1) (v.extractLsb' 64 64)
               written := markBit c.written (32 + x.toNat) }
    | none => c

/-- The reply of a remote access reaches a parked context's record: a value its slot, a fault its deferred
faults (R148). -/
def Cont.reply (c : Cont) (r : Remote) : Cont :=
  let c1 := { c with remote := c.remote.filter (fun x => decide (x.tag ≠ r.tag)) }
  match r.stat with
  | .served bs f =>
    let c2 := { c1 with fstat := c1.fstat ||| f }
    match r.dst with
    | .g x z => (c2.putScalar x (scalarValue r.width z bs)).addStride r
    | .amo x w => (c2.putScalar x (amoValue w bs)).addStride r
    | .v x p => c2.putVector x p bs
    | .port _ _ => c2
  | .faulted cause => ({ c1 with deferred := c1.deferred ++ [⟨cause, r.addr, r.clause, none⟩] } : Cont).addStride r
  | _ => c

/-! ### User-level causes (R171) -/

/-- A user-level cause becomes pending if it is enabled, with the value that `uval` will take. -/
def Core.pendCause (c : Core) (i : Fin 6) (v : Word) : Core :=
  if c.sw.en.getLsbD i.val then
    { c with sw := { c.sw with pend := c.sw.pend ||| BitVec.ofNat 6 (2 ^ i.val), pendVal := c.sw.pendVal.set i v } }
  else c

/-- Whether the task of a start still runs on a core. -/
def Core.runs (c : Core) (run : Nat) : Bool :=
  match c.x.ctx with
  | some x => decide (x.run = run)
  | none => false

/-- A late report reaches its core (R67, R239): counted; a late notice for the task that still runs there. -/
def Core.lateReport (c : Core) (r : Report) : Core :=
  let c1 := { c with sw := { c.sw with late := countUp c.sw.late } }
  if c1.runs r.run then c1.pendCause 1 r.addr else c1

/-- The core on which the context of a task stands, by its start, if it has not parked. -/
def State.coreOf (s : State) (run : Nat) : Option Nat :=
  if s.core.runs run then some s.core.id else (s.cores.find? (fun e => e.2.runs run)).map (fun e => e.1)

/-- Change the parked context of a task, by its start. -/
def State.onParked (s : State) (run : Nat) (f : Cont → Cont) : State :=
  s.onDisp (fun v => { v with recs := v.recs.map (fun q => match q.cont with
    | some c => if c.ctx.run = run then { q with cont := some (f c) } else q
    | none => q) })

/-- A deferred fault reaches the task of a start, on whatever core it runs or in its parked context; a task that has ended
takes none. -/
def State.deferTask (s : State) (run : Nat) (d : Deferred) : State :=
  match s.coreOf run with
  | some k => s.onCore k (fun c => c.defer d)
  | none => s.onParked run (fun c => { c with deferred := c.deferred ++ [d] })

/-- The fault of a dropped store reaches its task (R66). -/
def State.lateDrop (s : State) (r : Report) : State :=
  if r.dropped then s.deferTask r.run ⟨0x13, r.addr, r.clause, none⟩ else s

/-- A tie report reaches its core (R74). -/
def Core.tieReport (c : Core) (r : Report) : Core :=
  let c1 := { c with sw := { c.sw with tie := countUp c.sw.tie } }
  if c1.runs r.run then c1.pendCause 5 r.addr else c1

/-! ### Horizon (R77, R277) -/

/-- The lowest REL of the live tasks of a partition, now-only nodes apart. -/
def State.lowestRel (s : State) (p : Nat) : Option Nat :=
  let live := s.dev.disp.tcbs.filter (fun t => decide (t.part = p) && t.st.live &&
    (match s.nodeFor p t.node with | some (_, d) => !d.nowOnly | none => true))
  (leastBy id (live.map (fun t => t.groupRel)))

/-- The horizon tree at the end of instant `t`: what is broadcast at `t + 1`, and what will be at `t + 2`. -/
def State.broadcast (s : State) (t : Nat) : State :=
  if s.quiesced then s else
  s.onDisp (fun d => { d with parts := d.parts.map (fun e =>
    let h := match s.lowestRel e.1 with | some r => min t r | none => t
    (e.1, { e.2 with horizon := e.2.horizon1, horizon1 := max e.2.horizon1 h })) })

end Sys2Proof.Machine
end

