-- ==== Sys2Proof/Machine/Queue.lean ====
section
/-! DEFINITION. Receive queues with their rings and holds, output routes, splice records, and what a
splice does to the stages it touches (R221 to R236, R246 to R251). -/

namespace Sys2Proof.Machine

/-! ### Access of an engine or the NI to a core's memories -/

/-- Bytes of the TCM of a core or of the scratchpad of its cluster. -/
def State.localRead (s : State) (k : Nat) (tcm : Bool) (off n : Nat) : List Byte :=
  (if tcm then (s.coreAt k).mem.tcm else s.spad (clusterOf k)).readN off n

/-- Write bytes of the TCM of a core or of the scratchpad of its cluster. -/
def State.localWrite (s : State) (k : Nat) (tcm : Bool) (bs : List (Nat × Byte)) : State :=
  if tcm then s.onCore k (fun c => c.tcmWrite bs) else s.spadWrite (clusterOf k) bs

/-- Set words of the TCM of a core or of the scratchpad of its cluster full or empty. -/
def State.localMark (s : State) (k : Nat) (tcm full : Bool) (ws : List Nat) : State :=
  if tcm then s.onCore k (fun c => c.tcmMark full ws) else s.spadMark (clusterOf k) full ws

/-- A timed store of a core's NI of up to 64 bytes in one line, naming the next instant; it ranks as a
context-free supervisor's (log entry 11). -/
def State.niStore (s : State) (k : Nat) (a : Word) (bs : List Byte) : State :=
  let c := s.coreAt k
  let home := match pathOf a with | some (.loft, off) => some off | _ => none
  let st : TStore := {
    id := 0, src := .supervisor, device := none, sup := true, core := k, token := 0, run := 0, part := (c.part s).getD 128,
    node := 0x8000000 + k, wid := c.x.supIssue, seq := 0, inst := s.dev.now + 1, drop := false, qst := false, addr := a,
    data := atOffsets 0 bs, atomic := none, clause := 0, copy := none, append := none, home := home, fwd := none, gate := false, accepted := 0,
    vis := 0, late := false }
  (s.onCore k (fun c => { c with x := { c.x with supIssue := c.x.supIssue + 1 } })).send st

/-- The NI of a core writes bytes in 64-byte pieces: to its TCM or scratchpad, or as timed stores. -/
def State.niWrite (s : State) (k : Nat) (a : Word) (bs : List Byte) : State :=
  match pathOf a with
  | some (.tcm, off) => s.localWrite k true (atOffsets off bs)
  | some (.spad, off) => s.localWrite k false (atOffsets off bs)
  | _ => (List.range ((bs.length + 63) / 64)).foldl (fun s i => s.niStore k (a + BitVec.ofNat 64 (64 * i)) ((bs.drop (64 * i)).take 64)) s

/-- Whether what an NI wrote at an address is visible: no store of its own there is pending. -/
def State.niVisible (s : State) (k : Nat) (a : Word) (n : Nat) : Bool :=
  !(s.dev.timed.flight ++ s.dev.timed.tense).any (fun t =>
    decide (t.core = k ∧ t.src = .supervisor ∧ a.toNat ≤ t.addr.toNat ∧ t.addr.toNat < a.toNat + n))

/-- The bytes that the NI of a core reads, on a timed path `at now`. -/
def State.niRead (s : State) (k : Nat) (a : Word) (n : Nat) : List Byte :=
  match pathOf a with
  | some (.tcm, off) => s.localRead k true off n
  | some (.spad, off) => s.localRead k false off n
  | some (.loft, off) => (s.dev.timed.visible s.dev.now).readN off n
  | some (_, va) =>
    match s.translate ((s.coreAt k).part s) false false va s.dev.now with
    | .ok key => s.homeBytes key s.dev.now n
    | .error _ => List.replicate n 0
  | none => List.replicate n 0

/-! ### Queues -/

/-- A queue of an NI. -/
def Ni.queue (n : Ni) (q : Fin 8) : Queue := n.queues[q]

/-- Change a queue of an NI. -/
def Ni.onQueue (n : Ni) (q : Fin 8) (f : Queue → Queue) : Ni := { n with queues := n.queues.set q (f n.queues[q]) }

/-- Change a queue of a core. -/
def State.onQueue (s : State) (k : Nat) (q : Fin 8) (f : Queue → Queue) : State :=
  s.onCore k (fun c => { c with ni := c.ni.onQueue q f })

/-- Records waiting in a queue and its ring. -/
def Queue.waiting (q : Queue) : Nat := q.recs.length + q.ringSrcs.length

/-- An entry of a spill ring or a spilled buffer (R221, R265). -/
def entryBytes (r : Record) (queue : Nat) : List Byte :=
  (r.payload ++ List.replicate 64 0).take 64 ++ bytesOf 8 (sideHeader r).toNat ++ bytesOf 8 queue ++ List.replicate 48 0

/-- The record of an entry. -/
def entryRecord (bs : List Byte) (src : Nat) : Record :=
  let h := natOf ((bs.drop 64).take 8)
  ⟨bs.take 64, bitsOf h 11 5, BitVec.ofNat 32 (bitsOf h 47 16), BitVec.ofNat 3 h, bitOf h 3, src⟩

/-- The address of an entry of a ring. -/
def Queue.ringAddr (q : Queue) (i : Nat) : Word :=
  q.ring + BitVec.ofNat 64 (128 * (if q.cap = 0 then 0 else i % q.cap))

/-- Records return from the ring while the queue has room and they can be read; one always does past records that are held for
a seam, since a record without AS is never held (R221, R236). -/
def State.refill (k : Nat) (q : Fin 8) : Nat → State → State
  | 0, s => s
  | n + 1, s =>
    let qu := (s.coreAt k).ni.queue q
    let a := qu.ringAddr qu.ringHead
    match qu.ringSrcs with
    | [] => s
    | src :: rest =>
      if (decide (qu.recs.length + qu.held.length < 32) || qu.recs.isEmpty) && s.niVisible k a 128 then
        let r := entryRecord (s.niRead k a 128) src
        State.refill k q n (s.onQueue k q (fun u => { u with recs := u.recs ++ [r], ringHead := u.ringHead + 1, ringSrcs := rest }))
      else s

/-- Records return from the ring of a queue. -/
def State.drainRing (s : State) (k : Nat) (q : Fin 8) : State :=
  if (s.coreAt k).x.stopped.isSome then s else State.refill k q 32 s

/-- The binding of a queue; what is queued stays (R223, R224). -/
def Queue.bindAs (q : Queue) (mode : BitVec 2) (pipe : Bool) (ring : Word) (cap node : Nat) (gen : BitVec 16) : Queue :=
  { q with
    bound := true, mode := mode, pipe := pipe, ring := ring, cap := cap, node := node, gen := gen, arrivals := 0
    ringHead := 0, ringTail := 0 }

/-- The records of a queue's ring come back to its NI, whatever its places; none while one cannot be read. -/
def State.emptyRing (k : Nat) (q : Fin 8) : Nat → State → Option State
  | 0, s => some s
  | n + 1, s =>
    let qu := (s.coreAt k).ni.queue q
    let a := qu.ringAddr qu.ringHead
    match qu.ringSrcs with
    | [] => some s
    | src :: rest =>
      if s.niVisible k a 128 then
        let r := entryRecord (s.niRead k a 128) src
        State.emptyRing k q n (s.onQueue k q (fun u => { u with recs := u.recs ++ [r], ringHead := u.ringHead + 1, ringSrcs := rest }))
      else none

/-- Whether a queue takes a record now: on the NI, for a report in one of its four further places, or in the
ring, whose places the records held for a seam count towards as well (R221, R236). -/
def Queue.takes (q : Queue) (report : Bool) : Bool :=
  if q.ringSrcs.isEmpty && decide (q.recs.length + q.held.length < 32) then true
  else if report && decide (q.recs.length + q.held.length < 36) then true
  else decide (q.ringSrcs.length < q.cap ∧ q.recs.length + q.held.length + q.ringSrcs.length < 32 + q.cap)

/-- Whether the records held for a seam have a place behind what the queue holds; a seam waits until they have
(R221, R236). -/
def Queue.releases (q : Queue) : Bool := q.ringSrcs.isEmpty || decide (q.ringSrcs.length + q.held.length ≤ q.cap)

/-- A record is put at the end of a queue: on the NI, a report also in one of its four further places there, or in the ring
(R221). -/
def State.enqueue (s : State) (k : Nat) (q : Fin 8) (r : Record) : State :=
  let qu := (s.coreAt k).ni.queue q
  let wasEmpty := qu.recs.isEmpty && qu.ringSrcs.isEmpty
  let s1 :=
    if (qu.ringSrcs.isEmpty && decide (qu.recs.length + qu.held.length < 32)) ||
        decide (r.kind = 5 ∧ qu.recs.length + qu.held.length < 36) then
      s.onQueue k q (fun u => { u with recs := u.recs ++ [r] })
    else
      (s.niWrite k (qu.ringAddr qu.ringTail) (entryBytes r 0)).onQueue k q
        (fun u => { u with ringTail := u.ringTail + 1, ringSrcs := u.ringSrcs ++ [r.src] })
  if wasEmpty then s1.onCore k (fun c => c.pendCause 4 (BitVec.ofNat 64 q.val)) else s1

/-- The partition a core's spawn queue publishes in. -/
def State.partOfCore (s : State) (k : Nat) : Nat := ((s.coreAt k).part s).getD 128

/-- A data record at a queue in spawn mode publishes a task and is consumed (R224); any other is queued. -/
def State.deliver (s : State) (k : Nat) (q : Fin 8) (r : Record) : State :=
  let qu := (s.coreAt k).ni.queue q
  if qu.mode = 1 ∧ r.kind = 0 then
    let p := s.partOfCore k
    (s.onQueue k q (fun u => { u with arrivals := u.arrivals + 1 })).postC0 (coreEndpoint k q.val)
      (s.ownerEndpoint p qu.node (shingleOf k))
      (.publish p qu.node (BitVec.ofNat 64 qu.arrivals) qu.gen 0 (some (r.payload.take 32)) 0)
  else s.enqueue k q r

/-- The device of a sending route. -/
def sourceDevice (src : Nat) : Nat := if src < 2 ^ 20 then ownDevice else src / 2 ^ 20 - 1

/-- The core of a sending route, on its device. -/
def sourceCore (src : Nat) : Nat := src % 2 ^ 20 / 4

/-- The route of a source number. -/
def sourceRoute (src : Nat) : Fin 4 := ⟨src % 4, Nat.mod_lt _ (by decide)⟩

/-- A message goes on C0 from a core's NI to the NI of a sending route, on its device. -/
def State.postSource (s : State) (k src : Nat) (b : Body) : State :=
  s.post ⟨.c0, coreEndpoint k 0, coreEndpoint (sourceCore src) 0, sourceDevice src, .direct, b⟩

/-- The NI reports a seam seen to a source: a record of type 5 and kind 4 with the endpoint of the queue that consumed
the seam (R249). -/
def State.reportSeam (s : State) (k : Nat) (q : Fin 8) (src : Nat) : State :=
  let ep := sourceDevice src * 2 ^ 21 + coreEndpoint (sourceCore src) 0
  let n := (aget (s.coreAt k).ni.reportSerial ep).getD 0
  (s.onCore k (fun c => { c with ni := { c.ni with reportSerial := aset c.ni.reportSerial ep (n + 1) } })).postSource k src
    (.seamSeen (src % 2 ^ 20) (reportRecord (coreEndpoint k 0) 4 (ownEndpoint k q.val) 0 n))

/-- A record arrives at a bound queue: held while it carries AS and its seam is still to come (R236, R249). A report comes on no
route, and concerns no seam. -/
def State.arrive (s : State) (k : Nat) (q : Fin 8) (r : Record) : State :=
  let qu := (s.coreAt k).ni.queue q
  if r.kind = 5 then s.deliver k q r
  else if r.as then
    if qu.seamSrcs.contains r.src then s.deliver k q r
    else if qu.keptSeam.isSome then
      ((s.onQueue k q (fun u => { u with keptSeam := none, seamSrcs := r.src :: u.seamSrcs })).deliver k q r).reportSeam k q r.src
    else s.onQueue k q (fun u => { u with held := u.held ++ [r] })
  else (s.onQueue k q (fun u => { u with seamSrcs := eraseNat u.seamSrcs r.src })).deliver k q r

/-- A seam of a source arrives at a queue: what is held follows it in order, or the seam is kept (R236, R249). -/
def State.seamAt (s : State) (k : Nat) (q : Fin 8) (src : Nat) : State :=
  let held := ((s.coreAt k).ni.queue q).held
  let srcs := (held.map (fun r => r.src)).eraseDups
  if held.isEmpty then s.onQueue k q (fun u => { u with keptSeam := some src })
  else
    let s1 := s.onQueue k q (fun u => { u with held := [], seamSrcs := srcs ++ u.seamSrcs })
    let s2 := held.foldl (fun s r => s.deliver k q r) s1
    srcs.foldl (fun s src => s.reportSeam k q src) s2

/-! ### Routes and staging (R222, R225) -/

/-- The number of a sending route: 4 × the core + the route. -/
def routeSource (k : Nat) (r : Fin 4) : Nat := 4 * k + r.val

/-- Messages that an NI stages. -/
def stagingLimit : Nat := 4

/-- Stage a message at a core's NI. -/
def State.stage (s : State) (k : Nat) (m : Message) : State :=
  s.onCore k (fun c => { c with ni := { c.ni with staging := c.ni.staging ++ [(c.run, m)] } })

/-- A record goes out on a route of a core, if it is bound; it takes the route's next serial. -/
def State.emitRecord (s : State) (k : Nat) (r : Fin 4) (payload : List Byte) (len : Nat) (kind : BitVec 3) : State :=
  let rt := (s.coreAt k).ni.routes[r]
  match rt.ep with
  | none => s
  | some e =>
    let rec_ : Record := ⟨payload, len, rt.serial, kind, rt.as, routeSource k r⟩
    let s1 := s.onCore k (fun c => { c with ni := { c.ni with routes := c.ni.routes.set r { rt with serial := rt.serial + 1 } } })
    s1.stage k ⟨.c2, routeSource k r, epMesh e, epDevice e, .direct, .record e rec_⟩

/-- A seam goes out on a route. -/
def State.emitSeam (s : State) (k : Nat) (r : Fin 4) : State :=
  match (s.coreAt k).ni.routes[r].ep with
  | none => s
  | some e => s.stage k ⟨.c2, routeSource k r, epMesh e, epDevice e, .direct, .seam e (routeSource k r)⟩

/-- The bound output routes of a core. -/
def Ni.boundRoutes (n : Ni) : List (Fin 4) := ([0, 1, 2, 3] : List (Fin 4)).filter (fun r => n.routes[r].ep.isSome)

/-- The pipeline inputs of a core. -/
def Ni.inputs (n : Ni) : List (Fin 8) :=
  ([0, 1, 2, 3, 4, 5, 6, 7] : List (Fin 8)).filter (fun q => (n.queue q).bound && (n.queue q).pipe)

/-- A record goes out once on every bound output route. -/
def State.emitAll (s : State) (k : Nat) (payload : List Byte) (kind : BitVec 3) : State :=
  (s.coreAt k).ni.boundRoutes.foldl (fun s r => s.emitRecord k r payload 64 kind) s

/-! ### Splice records (R231) -/

/-- Bytes `hi : lo` of a splice record. -/
def spliceField (r : Record) (hi lo : Nat) : Nat := natOf ((r.payload.drop lo).take (hi + 1 - lo))

/-- The op: 0 insert, 1 elide, 2 rebind. -/
def spliceOp (r : Record) : Nat := spliceField r 4 4

/-- The target stage. -/
def spliceTarget (r : Record) : BitVec 32 := BitVec.ofNat 32 (spliceField r 3 0)

/-- The splice serial. -/
def spliceSerial (r : Record) : BitVec 32 := BitVec.ofNat 32 (spliceField r 11 8)

/-- The new node. -/
def spliceNode (r : Record) : Nat := spliceField r 15 12 % 2 ^ 28

/-- The size of the state block in bytes. -/
def spliceSize (r : Record) : Nat := 64 * spliceField r 7 6

/-- The reply endpoint. -/
def spliceReply (r : Record) : Nat := spliceField r 31 24 % 2 ^ 41

/-- The record with a failure reason in its flags. -/
def withReason (r : Record) (reason : Nat) : List Byte :=
  setAt r.payload 5 (BitVec.ofNat 8 ((spliceField r 5 5) % 16 + reason % 16 * 16))

/-- Whether a record is one that a pipeline input handles by itself. -/
def Record.isSplice (r : Record) : Bool := decide (r.kind = 1 ∨ r.kind = 3)

/-- Whether the splice at the head of an input stands at the head of every input (R232). -/
def Ni.aligned (n : Ni) (r : Record) : Bool :=
  n.inputs.all (fun q => match (n.queue q).recs with
    | h :: _ => h.isSplice && decide (spliceSerial h = spliceSerial r)
    | [] => false)

/-- A queue whose head is popped, with its hold at an end. -/
def Queue.pop (q : Queue) : Queue := { q with recs := q.recs.tail, heldSince := none, raised := false }

/-- The marker is popped from every input at whose head it stands. -/
def State.popSplice (s : State) (k : Nat) (serial : BitVec 32) : State :=
  (s.coreAt k).ni.inputs.foldl (fun s q =>
    match ((s.coreAt k).ni.queue q).recs with
    | h :: _ => if h.isSplice && decide (spliceSerial h = serial) then (s.onQueue k q Queue.pop).drainRing k q else s
    | [] => s) s

/-- The context of a task is aborted without signals: on the core that runs it, or in its parked record, with its
copies (R234). -/
def State.abortTaskNow (s : State) (run : Nat) : State :=
  let here := s.core.id
  match s.coreOf run with
  | some k => (((s.actAs k).endContext 0).freeCore).actAs here
  | none =>
    match s.dev.disp.recs.findSome? (fun q => q.cont.filter (fun c => decide (c.ctx.run = run))) with
    | none => s
    | some c =>
      let s1 := s.onDisp (fun d => { d with recs := d.recs.filter (fun q => match q.cont with
        | some x => decide (x.ctx.run ≠ run)
        | none => true) })
      let s2 := s1.onCore c.core (fun x => { x with eng := { x.eng with
        copies := x.eng.copies.filter (fun y => decide (y.reader.run ≠ run)) } })
      let s3 := match s2.tcbOfCtx c.ctx with
        | some t => s2.retireTcb t c.ctx.pub c.ctx.poison
        | none => s2
      s3.onTimed (fun m => { m with
        purges := m.purges ++ [⟨c.ctx.token, c.core, c.ctx.part, c.ctx.tcbNode, c.ctx.wid, 0, decide (0 < c.ctx.groups), false⟩] })

/-- A placed task is aborted without signals, wherever its context stands, and its queue binding and stage id go with
it (R234, R247). -/
def State.abortPlaced (s : State) (k run queue : Nat) : State :=
  let q : Fin 8 := ⟨queue % 8, Nat.mod_lt _ (by decide)⟩
  (s.abortTaskNow run).onCore k (fun c => { c with ni := { c.ni with
      queues := c.ni.queues.set q .unbound, stage := 0, routes := c.ni.routes.set (0 : Fin 4) ⟨none, 0, false⟩ } })

/-- The splice fails with a reason: its record is popped from every input, a nack takes its place downstream,
a report of kind 3 goes to the owner, and what was placed is aborted (R234, R247). -/
def State.failSplice (s : State) (k : Nat) (r : Record) (reason : Nat) : State :=
  let s1 := match (s.coreAt k).ni.prep with
    | some p => match p.placed with
      | some c => s.abortPlaced c p.run (spliceField r 23 16)
      | none => s
    | none => s
  let s2 := s1.popSplice k (spliceSerial r)
  (s2.emitAll k (withReason r reason) 3).postReport k (spliceReply r) 3 (spliceSerial r).toNat reason

/-- The watchdog's span of a partition (R281). -/
def State.watchdog (s : State) (p : Nat) : Nat :=
  match s.partition p with
  | some q => max 1 ((q.reg 0x2030).toNat % 65536)
  | none => 2048

/-! ### Edits (R235, R248) -/

/-- Point a route at an endpoint: its serial restarts. -/
def Ni.pointRoute (n : Ni) (r : Fin 4) (ep : Option Nat) (as : Bool) : Ni := { n with routes := n.routes.set r ⟨ep, 0, as⟩ }

/-- The insert is applied: a seam on route 0, which then points at the new stage's input, while the new
stage sets AS towards the old successor. -/
def State.commitInsert (s : State) (k : Nat) (r : Record) (placed : Nat) : State :=
  let s1 := s.emitSeam k 0
  let s2 := s1.onCore k (fun c => { c with ni := c.ni.pointRoute 0 (some (ownEndpoint placed (spliceField r 23 16 % 8))) false })
  let s3 := s2.onCore placed (fun c => { c with ni := { c.ni with routes := c.ni.routes.set (0 : Fin 4) { c.ni.routes[0] with as := true } } })
  s3.postReport k (spliceReply r) 2 (spliceSerial r).toNat 0

/-- The elide is applied: a link goes to the source of the record, and the stage retires when its seam
reaches the head. -/
def State.commitElide (s : State) (k : Nat) (p : Prep) : State :=
  let r := p.record
  let own := ownEndpoint k p.queue
  let new := ((s.coreAt k).ni.routes[0].ep).getD 0
  let s1 := s.postSource k r.src (.link (r.src % 2 ^ 20) own new (ownEndpoint k 0) (spliceSerial r).toNat (spliceReply r))
  s1.onCore k (fun c => { c with ni := { c.ni with eliding := some p } })

/-- The rebind is applied: the context continues at the new node when its handler returns. -/
def State.commitRebind (s : State) (k : Nat) (r : Record) : State :=
  (s.onCore k (fun c => { c with ni := { c.ni with rebind := some (spliceNode r) } })).postReport k (spliceReply r) 2
    (spliceSerial r).toNat 0

/-- A prepared splice is applied whole (R234, R235). -/
def State.commitSplice (s : State) (k : Nat) (p : Prep) : State :=
  let s1 := s.popSplice k (spliceSerial p.record)
  match spliceOp p.record with
  | 0 => s1.commitInsert k p.record (p.placed.getD k)
  | 1 => s1.commitElide k p
  | _ => s1.commitRebind k p.record

/-- A state block is copied into the TCM of a core: its words become empty, then full with the data (R57, R235). -/
def State.takeBlock (s : State) (k off : Nat) (bs : List Byte) : State :=
  let ws := wordsTouched off bs.length
  ((s.localMark k true false ws).localWrite k true (atOffsets off bs)).localMark k true true ws

/-- The end of an elide as the seam reaches the head: the seam goes on, and the state block is copied to the
successor, its words empty first, or discarded (R235). -/
def State.finishElide (s : State) (k : Nat) (p : Prep) : State :=
  let r := p.record
  let off := p.block.toNat % 2 ^ 56
  let s1 := match (s.coreAt k).ni.routes[0].ep with
    | some e =>
      let bs := s.localRead k true off (spliceSize r)
      if !bitOf (spliceField r 5 5) 0 then s
      else if epDevice e = ownDevice then s.takeBlock (epCore e) off bs
      else s.post ⟨.c0, coreEndpoint k 0, coreEndpoint (epCore e) 0, epDevice e, .direct, .block (epCore e) off bs⟩
    | none => s
  (s1.emitSeam k 0).onCore k (fun c => { c with ni := { c.ni with eliding := none } })

end Sys2Proof.Machine
end

