-- ==== Sys2Proof/Machine/Engine.lean ====
section
/-! DEFINITION. The engines of a core: how they read timed and local memory, copies, stream feeders, table
loads, slots that land, and code fetches (R57 to R59, R160 to R170, R195, R246, R265). -/

namespace Sys2Proof.Machine

/-- Let another logical core act. -/
def State.asCore (s : State) (k : Nat) (f : State → State) : State :=
  if k < coreCount then (f (s.actAs k)).actAs s.core.id else s

/-! ### What an engine reads -/

/-- What an engine's read comes to: it cannot be answered yet, it faults, or it has its bytes. -/
inductive Got where
  | wait
  | fault (cause : BitVec 8)
  | bytes (bs : List Byte)
  deriving DecidableEq, Repr

/-- What a home answers to an engine. -/
def State.fromHome (s : State) (key inst n : Nat) : Got :=
  if s.homeWaits key then .wait
  else
    match s.homeAnswer key inst n with
    | .faulted c => .fault c
    | .served bs _ => .bytes bs
    | _ => .wait

/-- The bytes of a line that a shingle's read-only cache holds (R56). -/
def State.roLine (s : State) (sh key n : Nat) : Option (List Byte) :=
  match s.dev.timed.ro.find? (fun l => decide (l.1 = (sh, lineOf key))) with
  | some l => some ((l.2.drop (key % 64)).take n)
  | none => none

/-- Whether a read of the scratchpad, through a view or not, meets an uncorrectable error (R282). -/
def State.spadFault (s : State) (p : Path) (off n : Nat) : Bool :=
  match p.under off n with
  | some (false, o, _) => Config.spadEcc s.dev.tick o
  | _ => false

/-- An engine of the acting core reads as of an instant: a load of its context (R54 to R56, R58, R70). A read that leaves
the core waits at the gate of its voltage domain (R301). -/
def State.engineRead (s : State) (r : Reader) (a : Word) (inst n : Nat) : Got :=
  match pathOf a with
  | none => .wait
  | some (.loft, off) =>
    if s.dev.now < inst ∨ s.gateShut s.core.id then .wait
    else if r.task && !s.loftAllowed r.part off n then .fault 0x11
    else s.fromHome off inst n
  | some (.global, va) =>
    if s.dev.now < inst ∨ s.gateShut s.core.id then .wait
    else
      match s.walked r.part (!r.sup) false va inst with
      | .error c => .fault c
      | .ok key => s.fromHome key inst n
  | some (.globalRo, va) =>
    if s.gateShut s.core.id then .wait
    else
      match s.walked r.part (!r.sup) false va s.dev.now with
      | .error c => .fault c
      | .ok key =>
        match s.roLine (shingleOf s.core.id) key n with
        | some bs => .bytes bs
        | none => s.fromHome key s.dev.now n
  | some (p, off) =>
    if p.heldByTable s.core then .wait
    else if s.spadFault p off n then .fault 0x12
    else .bytes (s.localBytes p off n)

/-- A line enters a shingle's read-only cache in place of an older copy (R56). -/
def State.roPut (s : State) (sh key : Nat) (line : List Byte) : State :=
  s.onTimed (fun m => { m with ro := ((sh, lineOf key), line) :: m.ro.filter (fun l => decide (l.1 ≠ (sh, lineOf key))) })

/-- What an engine's read of up to 64 bytes leaves behind: its eave station counts it (R284), a miss fills the
read-only cache (R56), and a read of another part's home goes out as a flit (R326). -/
def State.noteRead (s : State) (r : Reader) (a : Word) (inst : Nat) : State :=
  let sh := shingleOf s.core.id
  match pathOf a, r.part with
  | some (.global, va), some p =>
    match s.walked r.part (!r.sup) false va inst with
    | .ok key => (s.countRemote sh p va key).sendAccess .c1 s.core.id key
    | .error _ => s
  | some (.globalRo, va), some p =>
    match s.walked r.part (!r.sup) false va s.dev.now with
    | .ok key =>
      if (s.roLine sh key 1).isSome then s
      else
        match s.fromHome (64 * lineOf key) s.dev.now 64 with
        | .bytes line => ((s.countRemote sh p va key).roPut sh key line).sendAccess .c1 s.core.id key
        | _ => s
    | .error _ => s
  | _, _ => s

/-- The pieces of bytes from an address on that lie in one block of `w` bytes each: their places and lengths. -/
def piecesOf (a : Word) (w n : Nat) : List (Nat × Nat) :=
  let r := a.toNat % w
  (List.range ((r + n + (w - 1)) / w)).map (fun i => (w * i - r, min n (w * (i + 1) - r) - (w * i - r)))

/-- What an engine's read of `n` bytes leaves behind, line by line. -/
def State.noteReadN (s : State) (r : Reader) (a : Word) (inst n : Nat) : State :=
  (piecesOf a 64 n).foldl (fun s x => s.noteRead r (a + BitVec.ofNat 64 x.1) inst) s

/-- Pieces read one after another: the first fault, or else all the bytes if none must wait. -/
def gather : List Got → Got
  | [] => .bytes []
  | x :: xs =>
    match x, gather xs with
    | .fault c, _ => .fault c
    | _, .fault c => .fault c
    | .bytes a, .bytes b => .bytes (a ++ b)
    | _, _ => .wait

/-- An engine of the acting core reads `n` bytes, word by word. -/
def State.engineReadN (s : State) (r : Reader) (a : Word) (inst n : Nat) : Got :=
  gather ((piecesOf a 4 n).map (fun x => s.engineRead r (a + BitVec.ofNat 64 x.1) inst x.2))

/-- What concerns the context that an engine of the acting core serves reaches it: on the core that runs the task, in its
parked record, or in the supervisor of the acting core. -/
def State.forReader (s : State) (r : Reader) (run : State → State) (park : Cont → Cont) : State :=
  if r.task then
    match s.coreOf r.run with
    | some k => s.asCore k run
    | none => s.onParked r.run park
  else if s.core.x.ctx.isNone then run s
  else s

/-- A deferred task fault for the context that an engine serves. -/
def State.deferFor (s : State) (r : Reader) (d : Deferred) : State :=
  s.forReader r (fun s => { s with core := s.core.defer d }) (fun c => { c with deferred := c.deferred ++ [d] })

/-! ### Copies (R160 to R164) -/

/-- The length of a copy in bytes. -/
def Copy.len (x : Copy) : Nat := (x.desc.extractLsb' 0 24).toNat

/-- The operation of a copy. -/
def Copy.op (x : Copy) : Nat := (x.desc.extractLsb' 24 3).toNat

/-- The slots of the copy engine that no copy holds, lowest first. -/
def Core.freeCopySlots (c : Core) : List Nat :=
  (List.range 8).filter (fun i => !c.eng.copies.any (fun x => decide (x.tag % 8 = i)))

/-- A copy's context gets its flags (R161). -/
def State.raiseFor (s : State) (r : Reader) (f : FpFlags) : State :=
  s.forReader r (fun s => s.raise f) (fun c => { c with fstat := c.fstat ||| f })

/-- A copy leaves the engine. -/
def State.dropCopy (s : State) (tag : Nat) : State :=
  s.onEng (fun e => { e with copies := e.copies.filter (fun x => decide (x.tag ≠ tag)) })

/-- A copy of the acting core is complete: its flags, and "copy done" where the descriptor asks (R162, R171). -/
def State.finishCopy (s : State) (x : Copy) : State :=
  let s1 := (s.dropCopy x.tag).raiseFor x.reader x.flags
  if x.desc.getLsbD 28 && (if x.reader.task then s1.core.runs x.reader.run else s1.core.x.ctx.isNone) then
    { s1 with core := s1.core.pendCause 0 (BitVec.ofNat 64 x.tag) }
  else s1

/-- The target of a copy's local writes: TCM or the scratchpad, and the offset of its first byte. -/
def Copy.localDst (x : Copy) : Option (Bool × Nat) :=
  match pathOf x.frame.addr with
  | some (.tcm, off) => some (true, off)
  | some (.spad, off) => some (false, off)
  | _ => none

/-- A copy's destination is cleared to empty at its acceptance where the descriptor says so (R57, R161). -/
def State.clearFor (s : State) (x : Copy) : State :=
  if x.desc.getLsbD 27 then
    match x.localDst with
    | some (tcm, off) => s.localMark (x.target s.core.id) tcm false (wordsTouched off x.len)
    | none => s
  else s

/-- A copy is accepted. An empty copy completes at once. -/
def State.acceptCopy (s : State) (x : Copy) : State :=
  let s1 := s.clearFor x
  if x.len = 0 then s1.finishCopy x else s1.onEng (fun e => { e with copies := e.copies ++ [x] })

/-- `OpReduce(op, old, new)` on 32-bit words, with its flags (R161). -/
def reduceOp (op old new : Nat) : Nat × FpFlags :=
  match op with
  | 1 => roundF32 (fpAdd (f32 old) (f32 new))
  | 2 => fpFinish fmtF32 .rne (fpMinMax false (f32 old) (f32 new))
  | 3 =>
    let z := signedOf 32 old + signedOf 32 new
    (wrapInt 32 z, if z < -(2 ^ 31 : Int) ∨ (2 ^ 31 : Int) ≤ z then flagIO else 0)
  | 4 => (if signedOf 32 old < signedOf 32 new then new else old, 0)
  | _ => (new, 0)

/-- A word of a copy is written. -/
def Copy.wrote (x : Copy) (w : Nat) (f : FpFlags) : Copy :=
  { x with todo := eraseNat x.todo w, got := x.got.filter (fun g => decide (g.1 ≠ w)), flags := x.flags ||| f }

/-- Replace a copy of the acting core. -/
def State.setCopy (s : State) (x : Copy) : State :=
  s.onEng (fun e => { e with copies := e.copies.map (fun y => if y.tag = x.tag then x else y) })

/-- A copy is abandoned with a deferred fault; it stays incomplete until the fault is taken (R162, R243). -/
def State.abandonCopy (s : State) (x : Copy) (cause : BitVec 8) (a : Word) : State :=
  (s.setCopy { x with failed := true }).deferFor x.reader ⟨cause, a, x.frame.clause, some x.tag⟩

/-- The copy that a fault ended leaves the engine as that fault is taken (R243). -/
def State.dropFailed (s : State) (d : Deferred) : State :=
  match d.copy with
  | some tag => s.onEng (fun e => { e with copies := e.copies.filter (fun x => !(x.failed && decide (x.tag = tag))) })
  | none => s

/-- The accesses of the core that come before a copy's untimed source reads have been performed (R161). -/
def State.beforeCopy (s : State) (x : Copy) : State :=
  match pathOf x.src with
  | some (p, _) => if p.isTimed then s else s.drainBefore x.no
  | none => s

/-- The source of a word of a copy of the acting core is read, its write to come (R161). -/
def State.copyRead (s0 : State) (x : Copy) (w : Nat) : State :=
  let s := s0.beforeCopy x
  let sa := x.src + BitVec.ofNat 64 (4 * w)
  if x.failed || x.got.any (fun g => decide (g.1 = w)) then s0
  else
    match s.engineRead x.reader sa x.readInst 4 with
    | .wait => s0
    | .fault c => (s.noteRead x.reader sa x.readInst).abandonCopy x c sa
    | .bytes bs => (s.noteRead x.reader sa x.readInst).setCopy { x with got := x.got ++ [(w, bs)] }

/-- A copy of the acting core writes bytes of a TCM or scratchpad; in another core's TCM it marks no page as written by that
core's own context (R302). -/
def State.copyLocal (s : State) (k : Nat) (tcm : Bool) (bs : List (Nat × Byte)) : State :=
  if tcm && decide (k ≠ s.core.id) then s.onCore k (fun c => { c.tcmWrite bs with x := c.x }) else s.localWrite k tcm bs

/-- A word of a copy of the acting core that its source gave is written; a word of the scratchpad comes after the core's own
earlier accesses to it (R51), and its uncorrectable error fails the copy (R162, R282). -/
def State.copyWrite (s : State) (x : Copy) (w : Nat) (bs : List Byte) : State :=
  let da := x.frame.addr + BitVec.ofNat 64 (4 * w)
  match x.localDst with
  | some (tcm, off) =>
    let k := x.target s.core.id
    let o := off + 4 * w
    let mine := if tcm then decide (k = s.core.id) else decide (clusterOf k = clusterOf s.core.id)
    let s1 := s.drain (fun p => mine && decide (p.no < x.no) && p.touches tcm [o / 4])
    let r := reduceOp x.op (natOf (s1.localRead k tcm o 4)) (natOf bs)
    if !tcm && Config.spadEcc s.dev.tick o then s.abandonCopy x 0x12 da
    else ((s1.copyLocal k tcm (atOffsets o (bytesOf 4 r.1))).localMark k tcm true [o / 4]).setCopy (x.wrote w r.2)
  | none =>
    let st : TStore := { x.frame with addr := da, data := atOffsets 0 bs, copy := some x.tag }
    match pathOf da with
    | some (.loft, off) =>
      if x.reader.task && !s.loftAllowed x.reader.part off 4 then s.abandonCopy x 0x11 da
      else (s.send { st with home := some off }).setCopy (x.wrote w 0)
    | _ => (s.send st).setCopy (x.wrote w 0)

/-- One word of a copy of the acting core: its source is read, if it has not been, and its destination written (R161). -/
def State.copyWord (s : State) (x : Copy) (w : Nat) : State :=
  let sa := x.src + BitVec.ofNat 64 (4 * w)
  let far (k : Nat) : Bool := !s.sameDomain s.core.id k && (s.gateShut s.core.id || s.gateShut k)
  if x.failed || (x.localDst.isSome && far (x.target s.core.id)) then s
  else
    match x.got.find? (fun g => decide (g.1 = w)) with
    | some g => s.copyWrite x w g.2
    | none =>
      let s1 := s.beforeCopy x
      match s1.engineRead x.reader sa x.readInst 4 with
      | .wait => s
      | .fault c => (s1.noteRead x.reader sa x.readInst).abandonCopy x c sa
      | .bytes bs => (s1.noteRead x.reader sa x.readInst).copyWrite x w bs

/-- Whether a timed write of a copy is still on its way to its home. -/
def State.copyInFlight (s : State) (x : Copy) : Bool :=
  s.dev.timed.flight.any (fun t => decide (t.core = s.core.id ∧ t.copy = some x.tag))

/-- The record of a squashed copy (R265). -/
def Copy.record (x : Copy) : CopyRec :=
  ⟨x.frame.addr, x.src, x.desc, true, x.tag, x.frame.seq, BitVec.ofNat 64 x.readInst, BitVec.ofNat 64 x.frame.inst,
    some (x.reader, x.frame)⟩

/-- Whether a reduce copy of a core is incomplete (R164). -/
def Core.reducing (c : Core) : Bool := c.eng.copies.any (fun x => !x.failed && decide (x.op ≠ 0))

/-- Every incomplete plain copy is squashed into its record; one that failed stays until its fault is taken (R164, R243,
R265). -/
def Core.squash (c : Core) : Core :=
  let recs := c.eng.copies.foldl (fun (v : Vector CopyRec 8) x =>
    if x.op = 0 ∧ !x.failed then v.set (x.tag % 8) x.record (Nat.mod_lt _ (by decide)) else v) c.eng.copyRecs
  { c with eng := { c.eng with copies := c.eng.copies.filter (fun x => x.failed || decide (x.op ≠ 0)), copyRecs := recs } }

/-- The plain copies of the acting core whose writes are all performed, and their timed ones accepted, are complete (R161). -/
def State.finishWritten (s : State) : State :=
  (s.core.eng.copies.filter (fun x => !x.failed && decide (x.op = 0) && x.todo.isEmpty && !s.copyInFlight x)).foldl State.finishCopy s

/-- The acting core's incomplete plain copies are squashed. -/
def State.squashCopies (s : State) : State :=
  let s1 := s.finishWritten
  { s1 with core := s1.core.squash }

/-- A plain copy that a thermal trip has stopped, as its reissue finds it: whole (R304, R331). -/
def Copy.rewound (x : Copy) : Copy :=
  if x.failed ∨ x.op ≠ 0 then x else { x with todo := List.range (x.len / 4), got := [], flags := 0 }

/-- A record is reissued as a copy of the acting core's context, with its tag, `seq` and instants (R164). -/
def State.copyOf (s : State) (r : CopyRec) : Copy where
  tag := r.tag
  reader := match r.owner with | some o => o.1 | none => s.reader
  frame := match r.owner with | some o => o.2 | none => { s.storeFrame r.dst r.writeInst.toNat with seq := r.seq }
  src := r.src
  desc := r.desc
  todo := List.range ((r.desc.extractLsb' 0 24).toNat / 4)
  readInst := r.readInst.toNat
  flags := 0
  failed := false
  got := []
  no := 0

/-- Every valid copy record is reissued (R265); a copy whose descriptor says so clears its destination again (R315). -/
def State.reissue (s0 : State) : State :=
  let news := (s0.core.eng.copyRecs.toList.filter (fun r => r.valid)).map (fun r => s0.copyOf r)
  let s := news.foldl State.clearFor s0
  s.onEng (fun e => { e with copies := e.copies ++ news, copyRecs := e.copyRecs.map (fun r => { r with valid := false }) })

/-! ### Streams (R59, R165 to R167) -/

/-- The next unit of a bound read port of the acting core arrives, as of REL of the moment. -/
def State.fetchUnit (s : State) (i : Fin 4) : State :=
  match s.core.eng.streams[i] with
  | none => s
  | some t =>
    if 2 ≤ i.val ∨ t.count ≤ t.fetched ∨ t.depth ≤ t.fifo.length then s
    else
      let a := t.unit t.fetched
      let add (u : VReg × Option Deferred) : State :=
        { s with core := s.core.setStream i (some { t with fetched := t.fetched + 1, fifo := t.fifo ++ [u] }) }
      if (accessTrap s.core .load a 16 false false).isSome then s
      else
        match s.engineRead t.reader a (s.loadInstant 0) 16 with
        | .wait => s
        | .fault c => (add (Config.faultedUnit s.dev.tick, some ⟨c, a, t.clause, none⟩)).noteRead t.reader a (s.loadInstant 0)
        | .bytes bs => (add (vecOf bs, none)).noteRead t.reader a (s.loadInstant 0)

/-- The oldest untimed append of a write port is performed; the feeder sets the words it writes full. An uncorrectable error
of the scratchpad is a deferred fault of the task (R282). -/
def State.performAppend (s : State) (i : Fin 4) : State :=
  match s.core.eng.streams[i] with
  | none => s
  | some t =>
    match t.appends with
    | [] => s
    | (n, u) :: rest =>
      let s1 := { s with core := s.core.setStream i (some { t with appends := rest }) }
      if (match pathOf (t.unit n) with | some (p, off) => s.spadFault p off 16 | none => false) then
        s1.deferFor t.reader ⟨0x12, t.unit n, t.clause, none⟩
      else
      match pathOf (t.unit n) with
      | some (.tcm, off) =>
        (s1.localWrite s.core.id true (atOffsets off (vbytes u))).localMark s.core.id true true (wordsTouched off 16)
      | some (.spad, off) =>
        (s1.localWrite s.core.id false (atOffsets off (vbytes u))).localMark s.core.id false true (wordsTouched off 16)
      | _ => s1

/-- Whether an append of a port of the acting core is not yet performed or accepted (R166). -/
def State.appending (s : State) (i : Fin 4) : Bool :=
  (match s.core.eng.streams[i] with
    | some t => !t.appends.isEmpty
    | none => false) ||
  s.dev.timed.flight.any (fun t => decide (t.core = s.core.id ∧ t.append = some i.val))

/-- A port is unbound and its register again holds what it held before `sbind` (R166). -/
def State.unbind (s : State) (i : Fin 4) : State :=
  match s.core.eng.streams[i] with
  | none => s
  | some t =>
    let c := s.core.setStream i none
    { s with core := { c with r := c.r.writeV (BitVec.ofNat 5 (28 + i.val)) t.saved } }

/-! ### Tables (R169, R170) -/

/-- The bytes of a table load: captured at issue, or read now. -/
def State.tableBytes (s : State) (l : TabLoad) (n : Nat) : Got :=
  match l.data with
  | some bs => .bytes bs
  | none => s.engineReadN l.reader l.addr l.inst n

/-- What reading a table leaves behind. -/
def State.noteTable (s : State) (l : TabLoad) (n : Nat) : State :=
  if l.data.isSome then s else s.noteReadN l.reader l.addr l.inst n

/-- A decode table from its bytes; zero entries are not listed. -/
def DecTab.ofBytes (nan : Option Byte) (bs : List Byte) : DecTab :=
  ⟨((List.range 256).map (fun i => (i, (BitVec.ofNat 32 (natOf ((bs.drop (4 * i)).take 4)) : BitVec 32)))).filter
    (fun e => decide (e.2 ≠ 0)), nan⟩

/-- The oldest decode-table load of the acting core is complete: the table changes as a whole, or keeps its
contents after a fault (R169). -/
def State.completeDtld (s : State) : State :=
  match s.core.eng.dtLoads with
  | [] => s
  | l :: rest =>
    match s.tableBytes l 1024 with
    | .wait => s
    | .fault c => (s.onEng (fun e => { e with dtLoads := rest })).deferFor l.reader ⟨c, l.addr, l.clause, none⟩
    | .bytes bs =>
      (s.noteTable l 1024).onEng (fun e => { e with dtLoads := rest, tabs := e.tabs.set (l.table % 4) (DecTab.ofBytes l.nan bs) (Nat.mod_lt _ (by decide)) })

/-- The oldest segment-table load of the acting core is complete (R170). -/
def State.completeSegld (s : State) : State :=
  match s.core.eng.segLoads with
  | [] => s
  | l :: rest =>
    match s.tableBytes l 144 with
    | .wait => s
    | .fault c => (s.onEng (fun e => { e with segLoads := rest })).deferFor l.reader ⟨c, l.addr, l.clause, none⟩
    | .bytes bs =>
      (s.noteTable l 144).onEng (fun e => { e with segLoads := rest, segs := e.segs.set (l.table % 4) (Memory.writeN [] 0 bs) (Nat.mod_lt _ (by decide)) })

/-- Bytes that an instruction captures at issue from an untimed path, once what comes before them is performed; none on
LOFT, GLOBAL and GLOBAL-RO. -/
def State.captured (s : State) (a : Word) (n : Nat) : Option (List Byte) :=
  match pathOf a with
  | some (p, off) => if p.isTimed || decide (p = .globalRo) then none else some (s.localBytes p off n)
  | none => none

/-! ### Slots that land (R195, R196) -/

/-- The rows of an `mload` that has not landed, each with its index. -/
def State.rowBytes (s : State) (l : MLoad) (n : Nat) (r : Nat × Word × Option (List Byte)) : Got :=
  match r.2.2 with
  | some bs => .bytes bs
  | none => s.engineReadN l.reader r.2.1 l.inst n

/-! ### Code (R128, R168, R246) -/

/-- The bytes of a loaded segment, by the number that tells a resident segment. -/
def State.segmentBytes (s : State) (uid : Nat) : List Byte :=
  match s.dev.disp.loaded.find? (fun l => decide (l.image = uid / 4096)) with
  | some l => match l.segment (uid % 4096) with
    | some (_, bs, _) => bs
    | none => []
  | none => []

/-- A frame of the acting core's IM is filled. -/
def Core.fillFrame (c : Core) (f : Nat) (seg : Option Nat) (bs : List Byte) : Core :=
  let page := bs ++ List.replicate (4096 - bs.length) 0
  let c1 := { c with mem := { c.mem with im := c.mem.im.writeN (f * 4096) page } }
  { c1 with
    mem := c1.mem.setFrame f (.resident seg)
    x := { c1.x with run := if c1.x.run = .codeWait f then .running else c1.x.run } }

/-- One clause of the latest request into a frame of the acting core changes, before the request completes (R49,
R168). -/
def State.landClause (s : State) (f c : Nat) : State :=
  match s.core.mem.frame f with
  | .landing r =>
    if 512 ≤ c ∨ 16 ≤ f ∨ s.gateShut s.core.id then s
    else
      let write (bs : List Byte) : State := s.onMem (fun m =>
        { m with im := m.im.writeN (f * 4096 + 8 * c) bs }.setFrame f (.landing { r with landed := r.landed ++ [c] }))
      if r.landed.contains c then s
      else
        match r.seg with
        | some uid =>
          let bs := ((s.segmentBytes uid).drop (8 * c)).take 8
          write (bs ++ List.replicate (8 - bs.length) 0)
        | none =>
          match s.engineReadN r.reader (r.addr + BitVec.ofNat 64 (8 * c)) r.inst 8 with
          | .bytes bs => (write bs).noteReadN r.reader (r.addr + BitVec.ofNat 64 (8 * c)) r.inst 8
          | _ => s
  | _ => s

/-- The clauses that a request brings: those that have landed are in IM, the others are read now (R49). -/
def State.clausesOf (s : State) (f : Nat) (r : CodeReq) : Got :=
  gather ((List.range 512).map (fun c =>
    if r.landed.contains c then .bytes (s.core.mem.im.readN (f * 4096 + 8 * c) 8)
    else s.engineReadN r.reader (r.addr + BitVec.ofNat 64 (8 * c)) r.inst 8))

/-- The latest request into a frame of the acting core completes; a failed one leaves the frame absent
(R168). -/
def State.completeFetch (s : State) (f : Nat) : State :=
  match s.core.mem.frame f with
  | .landing r =>
    match r.seg with
    | some uid => if s.gateShut s.core.id then s else { s with core := s.core.fillFrame f (some uid) (s.segmentBytes uid) }
    | none =>
      match s.clausesOf f r with
      | .wait => s
      | .fault _ => s.onMem (fun m => m.setFrame f .failed)
      | .bytes bs => ({ s with core := s.core.fillFrame f none bs } : State).noteReadN r.reader r.addr r.inst 4096
  | _ => s

end Sys2Proof.Machine
end

