-- ==== Sys2Proof/Machine/Tables.lean ====
section
/-! DEFINITION. The commands on page tables, the page home moves, and the voltage domains (R292 to R296,
R300, R301). -/

namespace Sys2Proof.Machine

/-! ### Shingle registers -/

/-- The key of a shingle register. -/
def regKey (sh off : Nat) : Nat := sh * 0x10000 + off

/-- A shingle register that holds what was written; unwritten ones hold `dflt`. -/
def State.shReg (s : State) (sh off : Nat) (dflt : Word) : Word := (aget s.dev.regs (regKey sh off)).getD dflt

/-- Set a shingle register. -/
def State.setShReg (s : State) (sh off : Nat) (v : Word) : State :=
  s.onDev (fun d => { d with regs := aset d.regs (regKey sh off) v })

/-- A status register of a command block: refused with a reason, or accepted with the last reason kept. -/
def State.commandStatus (s : State) (sh off : Nat) (reason : Option Nat) : State :=
  match reason with
  | some r => s.setShReg sh off (BitVec.ofNat 64 (2 ^ 62 + r))
  | none => s.setShReg sh off (BitVec.ofNat 64 ((s.shReg sh off 0).toNat % 16))

/-! ### Mapping commands (R292 to R294) -/

/-- The physical address of the table of a level that holds an address's entry. -/
def Trans.tableAt (t : Trans) (root va : Nat) : Nat → Option Nat
  | 0 => some root
  | lvl + 1 =>
    match t.tableAt root va lvl with
    | none => none
    | some a =>
      let e := t.entry a lvl va
      if e.v && decide (e.k = 0) && !e.resv then some (e.next * 4096) else none

/-- Whether frames lie in the part's DRAM and a partition's range of it, and outside its spill region (R290, R294,
R297). -/
def PartCfg.holdsFrames (c : PartCfg) (first n : Nat) : Bool :=
  decide (c.dfb ≤ first ∧ first + n ≤ c.dfl ∧ first + n ≤ frameCount) && !(decide (first < c.spf + 512 * c.sps ∧ c.spf < first + n))

/-- Frames that a leaf of a level maps. -/
def pageFrames (lvl : Nat) : Nat := pageSize lvl / 65536

/-- The reason to refuse a mapping command in a partition (R294); reason 8 is judged after reason 1. -/
def State.mapReason (s : State) (part : Option Nat) (sh : Nat) (v : Word) : Option Nat :=
  let op := v.toNat % 4
  let lvl := v.toNat / 4 % 4
  let va := (s.shReg sh 0x3000 0).toNat
  let x := (s.shReg sh 0x3008 0).toNat
  let e := pteOf x
  let own := decide (e.k = 1) || (decide (e.k = 2) && decide (e.dev = ownDevice))
  let map := decide (op = 1)
  if s.dev.trans.busy.any (fun b => decide (b.shingle = sh)) then some 1
  else if op = 0 ∨ op = 3 ∨ lvl = 3 ∨ v.toNat / 32 ≠ 0 then some 8
  else if va / 2 ^ 48 ≠ 0 ∨ va % pageSize lvl ≠ 0 then some 2
  else
    match part.bind s.partition with
    | none => some 3
    | some q =>
      if map && decide (e.k = 0) && !q.cfg.holdsFrames (e.next / 16) 1 then some 3
      else if map && own && !q.cfg.holdsFrames e.frame (pageFrames lvl) then some 3
      else if (s.dev.trans.tableAt (q.cfg.root * 2 ^ 17) va lvl).isNone then some 4
      else if s.dev.trans.moves.any (fun m => decide (some m.part = part) && decide (m.va / pageSize lvl = va / pageSize lvl)) then some 5
      else if map && (e.resv || decide (e.k = 3) || (decide (e.k = 0) && decide (lvl = 2)) ||
          (decide (e.k = 1 ∨ e.k = 2) && decide (e.frame % pageFrames lvl ≠ 0))) then some 6
      else if map && decide (e.k = 2) && !own && !egressAllows e.dev then some 7
      else none

/-- Every frame of a page is cleared: as of any instant its bytes read zero, nothing is pending there, and no
read-only copy of its lines stays (R56, R293). -/
def State.clearFrames (s : State) (first n : Nat) : State :=
  let inside (key : Nat) : Bool := decide (dramKey (first * 65536) ≤ key ∧ key < dramKey ((first + n) * 65536))
  s.onTimed (fun m => { m with
    versions := m.versions.map (fun v => (v.1, v.2.filter (fun b => !inside b.1)))
    lines := m.lines.filter (fun l => !inside (64 * l.line))
    tense := m.tense.filter (fun t => !inside t.base)
    ro := m.ro.filter (fun l => !inside (64 * l.1.2)) })

/-- A mapping command is accepted: the entry changes, and the command is busy until every station has dropped
its copies (R293). -/
def State.startMap (s : State) (part : Nat) (sh : Nat) (v : Word) : State :=
  let op := v.toNat % 4
  let lvl := v.toNat / 4 % 4
  let va := (s.shReg sh 0x3000 0).toNat
  let x := (s.shReg sh 0x3008 0).toNat
  let e := pteOf x
  match s.partition part with
  | none => s
  | some q =>
    match s.dev.trans.tableAt (q.cfg.root * 2 ^ 17) va lvl with
    | none => s
    | some tab =>
      let a := tab + 8 * ptIndex lvl va
      let old := s.dev.trans.ptab.readN a 8
      let m0 := if op = 1 ∧ e.k = 0 then s.dev.trans.ptab.writeN (e.next * 4096) (List.replicate 4096 0) else s.dev.trans.ptab
      let m1 := m0.writeN a (bytesOf 8 (if op = 1 then x else natOf old % 2 ^ 63))
      let s1 := s.onDev (fun d => { d with trans := { d.trans with ptab := m1, busy := d.trans.busy ++ [⟨sh, a, old⟩] } })
      let own := decide (e.k = 1) || (decide (e.k = 2) && decide (e.dev = ownDevice))
      if op = 1 ∧ v.getLsbD 4 ∧ own then s1.clearFrames e.frame (pageFrames lvl) else s1

/-- A write of TMCMD (R292, R293). -/
def State.tmCommand (s : State) (part : Option Nat) (sh : Nat) (v : Word) : State :=
  match s.mapReason part sh v with
  | some r => s.commandStatus sh 0x3018 (some r)
  | none => (s.commandStatus sh 0x3018 none).startMap (part.getD 128) sh v

/-- TMST (R292). -/
def State.tmStatus (s : State) (sh : Nat) : Word :=
  s.shReg sh 0x3018 0 ||| (if s.dev.trans.busy.any (fun b => decide (b.shingle = sh)) then 0x8000000000000000 else 0)

/-- The mapping command of a shingle completes (R293). -/
def State.tmComplete (s : State) (sh : Nat) : State :=
  s.onDev (fun d => { d with trans := { d.trans with busy := d.trans.busy.filter (fun b => decide (b.shingle ≠ sh)) } })

/-! ### Home moves (R295, R296) -/

/-- Moves active in a partition. -/
def State.movesOf (s : State) (part : Nat) : List Move := s.dev.trans.moves.filter (fun m => decide (m.part = part))

/-- Whether a move that a shingle's registers started is still being put in place. -/
def State.moveBusy (s : State) (sh : Nat) : Bool :=
  s.dev.trans.moves.any (fun m => decide (m.shingle = sh) && decide (s.dev.now < m.since + 2))

/-- The leaf that maps a page of a partition: its level, entry, and the entry's address if it is of level 2. -/
def State.leafOf (s : State) (q : Partition) (va : Nat) : Nat × Pte × Option Nat :=
  let r := s.dev.trans.walk va 2 (q.cfg.root * 2 ^ 17) 0
  (r.1, r.2, (s.dev.trans.tableAt (q.cfg.root * 2 ^ 17) va 2).map (fun t => t + 8 * ptIndex 2 va))

/-- The reason to refuse a home move, busy apart (R295). -/
def State.moveReason (s : State) (part : Option Nat) (va frame inst : Nat) : Option Nat :=
  match part.bind s.partition with
  | none => some 2
  | some q =>
    let (lvl, e, a) := s.leafOf q va
    if va % 65536 ≠ 0 ∨ 2 ^ 48 ≤ va ∨ lvl ≠ 2 ∨ !e.v ∨ e.resv ∨ e.k ≠ 1 ∨ a.isNone then some 2
    else if !(decide (q.cfg.dfb ≤ frame ∧ frame < q.cfg.dfl ∧ frame < frameCount)) then some 3
    else if inst < s.dev.now + 2 then some 4
    else if 16 ≤ (s.movesOf (part.getD 128)).length then some 5
    else if (s.movesOf (part.getD 128)).any (fun m => decide (m.va = va)) then some 6
    else none

/-- A home move begins. -/
def State.startMove (s : State) (sh part va frame inst : Nat) : State :=
  match s.partition part with
  | none => s
  | some q =>
    let (_, e, a) := s.leafOf q va
    let m : Move := ⟨sh, s.dev.now, part, va, e.frame, frame, inst, a.getD 0, false, false⟩
    s.onDev (fun d => { d with trans := { d.trans with moves := d.trans.moves ++ [m] } })

/-- A write of PMCMD: 1 starts the move that the registers name, any other value is ignored (R295). -/
def State.pmCommand (s : State) (part : Option Nat) (sh : Nat) (v : Word) : State :=
  if v ≠ 1 then s
  else
    let va := (s.shReg sh 0x3040 0).toNat
    let frame := (s.shReg sh 0x3048 0).toNat
    let inst := (s.shReg sh 0x3050 0).toNat
    match (if s.moveBusy sh then some 1 else s.moveReason part va frame inst) with
    | some r => s.commandStatus sh 0x3060 (some r)
    | none => (s.commandStatus sh 0x3060 none).startMove sh (part.getD 128) va frame inst

/-- PMST for a partition (R295). -/
def State.pmStatus (s : State) (part : Option Nat) (sh : Nat) : Word :=
  s.shReg sh 0x3060 0 ||| (if s.moveBusy sh then 0x8000000000000000 else 0) |||
    BitVec.ofNat 64 ((match part with | some p => (s.movesOf p).length | none => 0) * 2 ^ 32)

/-- Whether a key lies in the frame that a move leaves. -/
def Move.inOld (m : Move) (key : Nat) : Bool :=
  decide (dramKey (m.oldFrame * 65536) ≤ key ∧ key < dramKey (m.oldFrame * 65536) + 65536)

/-- Whether a key lies in the frame that a move fills. -/
def Move.inNew (m : Move) (key : Nat) : Bool :=
  decide (dramKey (m.newFrame * 65536) ≤ key ∧ key < dramKey (m.newFrame * 65536) + 65536)

/-- The key at the new home of a key at the old one. -/
def Move.carried (m : Move) (key : Nat) : Nat := key - dramKey (m.oldFrame * 65536) + dramKey (m.newFrame * 65536)

/-- A load of the move's page as of its instant or later, or of a read-only line, goes to the new home (R79). -/
def Move.carryLoad (m : Move) (r : Remote) : Remote :=
  match r.stat with
  | .home key =>
    if m.inOld key && (match r.inst with | some t => decide (m.inst ≤ t) | none => true) then { r with stat := .home (m.carried key) }
    else r
  | _ => r

/-- The lines of a host's read as of the move's instant or later go to the new home (R79). -/
def Move.carryCopy (m : Move) (c : HostCopy) : HostCopy :=
  if c.toHost && decide (m.inst ≤ c.inst) then { c with keys := c.keys.map (fun k => if m.inOld k then m.carried k else k) } else c

/-- Whether a remote access is a load of the move's page as of an instant before it, which the old home serves (R79). -/
def Move.serves (m : Move) (r : Remote) : Bool :=
  (match r.inst with | some t => decide (t < m.inst) | none => false) &&
    match r.stat with
    | .home key => m.inOld key
    | .walk => decide (r.addr.toNat % 2 ^ 48 / 65536 = m.va / 65536)
    | _ => false

/-- Whether a copy still reads the move's page as of an instant before it. -/
def Move.servesCopy (m : Move) (x : Copy) : Bool :=
  !x.failed && !x.todo.isEmpty && decide (x.readInst < m.inst) &&
    decide (x.src.toNat % 2 ^ 48 < m.va + 65536 ∧ m.va < x.src.toNat % 2 ^ 48 + (x.desc.extractLsb' 0 24).toNat)

/-- Whether a load of the move's page as of an instant before it is still to be served by the old home (R79). -/
def State.oldServes (s : State) (m : Move) : Bool :=
  ((s.core.id, s.core) :: s.cores).any (fun c => c.2.eng.remote.any m.serves || c.2.eng.copies.any m.servesCopy) ||
    s.dev.disp.recs.any (fun q => match q.cont with | some c => c.remote.any m.serves | none => false) ||
    s.dev.out.hostCopies.any (fun c => c.toHost && decide (c.inst < m.inst) && c.keys.any m.inOld)

/-- Change every remote access outstanding, on the cores and in the parked contexts. -/
def State.onRemotes (s : State) (f : Remote → Remote) : State :=
  let c (c : Core) : Core := { c with eng := { c.eng with remote := c.eng.remote.map f } }
  let s1 : State := { s with core := c s.core, cores := s.cores.map (fun e => (e.1, c e.2)) }
  s1.onDisp (fun d => { d with
    recs := d.recs.map (fun q => { q with cont := q.cont.map (fun x => { x with remote := x.remote.map f }) }) })

/-- What a move of a page does to the versions as its instant begins: the new frame takes the old one's bytes
of the instant before, and the entries that become visible from then on go with it (R296); so do the loads that the
old home holds for instants from then on, the host's among them, and no read-only copy of either frame stays (R56, R79). -/
def State.carryPage (s : State) (m : Move) : State :=
  ((s.onTimed (fun t =>
    let kept := (t.visible m.inst).filter (fun b => !m.inNew b.1)
    let moved := ((t.visible (m.inst - 1)).filter (fun b => m.inOld b.1)).map (fun b => (m.carried b.1, b.2))
    { t with
      versions := (m.inst, Memory.writeAll kept moved) :: t.versions
      lines := t.lines ++ ((t.lines.filter (fun l => m.inOld (64 * l.line))).map (fun l => { l with line := m.carried (64 * l.line) / 64 }))
      ro := t.ro.filter (fun l => !m.inOld (64 * l.1.2) && !m.inNew (64 * l.1.2))
      tense := t.tense.map (fun e => if m.inst ≤ e.vis ∧ m.inOld e.base then { e with home := some (m.carried e.base) } else e) })).onRemotes
    m.carryLoad).onDev (fun d => { d with out := { d.out with hostCopies := d.out.hostCopies.map m.carryCopy } })

/-- Every move whose instant begins. -/
def State.carryPages (s : State) (inst : Nat) : State :=
  (s.dev.trans.moves.filter (fun m => decide (m.inst = inst))).foldl (fun s m => s.carryPage m) s

/-- Change the `n`-th move. -/
def State.onMove (s : State) (n : Nat) (f : Move → Move) : State :=
  match s.dev.trans.moves[n]? with
  | none => s
  | some m => s.onDev (fun d => { d with trans := { d.trans with moves := setAt d.trans.moves n (f m) } })

/-- A store on its way to a page's old home as the page's move ends: it is forwarded on arrival (R79). -/
def Move.forward (m : Move) (t : TStore) : TStore :=
  match t.home with
  | some key => if m.inOld key then { t with fwd := some (m.carried key) } else if t.fwd.any m.inOld then { t with fwd := t.fwd.map m.carried } else t
  | none => t

/-- A move ends: the leaf names the new frame and the old home discards the page, and forwards what still arrives
there (R79, R296). The stations' counts of the page begin anew. -/
def State.endMove (s : State) (n : Nat) (m : Move) : State :=
  let e := natOf (s.dev.trans.ptab.readN m.entryAddr 8)
  let e' := e / 2 ^ 26 * 2 ^ 26 + m.newFrame
  let s1 := s.onDev (fun d => { d with trans := { d.trans with
    moves := dropAt d.trans.moves n, ptab := d.trans.ptab.writeN m.entryAddr (bytesOf 8 e')
    counts := d.trans.counts.filter (fun c => !decide (c.part = m.part ∧ c.va = m.va)) } })
  (s1.clearFrames m.oldFrame 1).onTimed (fun t => { t with flight := t.flight.map m.forward })

/-! ### Voltage domains (R300, R301) -/

/-- The domain of a partition on a shingle: its place among the partitions there, by their lowest cluster. -/
def State.domainOn (s : State) (sh part : Nat) : Option Nat :=
  let here := (s.dev.disp.clusters.filter (fun c => clusterShingle c.1 = sh)).map (fun c => c.2)
  if here.contains part then some (here.eraseDups.idxOf part) else none

/-- A domain; one that has had no request runs at code 70. -/
def State.domain (s : State) (sh d : Nat) : VoltDomain :=
  (s.dev.out.volt.find? (fun v => decide (v.shingle = sh ∧ v.index = d))).getD ⟨sh, d, 0, 0, 70, 70, none, 70, false⟩

/-- Replace a domain. -/
def State.setDomain (s : State) (v : VoltDomain) : State :=
  s.onDev (fun d => { d with out := { d.out with
    volt := d.out.volt.filter (fun x => !decide (x.shingle = v.shingle ∧ x.index = v.index)) ++ [v] } })

/-- A write of VDREQ by a partition (R300, R301). -/
def State.vdRequest (s : State) (part : Option Nat) (sh : Nat) (w : Word) : State :=
  match part.bind (s.domainOn sh) with
  | none => s
  | some d =>
    let f := w.toNat % 128
    let v := s.domain sh d
    if f < 24 ∨ 70 < f then s.setDomain { v with refused := true }
    else if v.phase = 0 then s.setDomain { v with phase := 1, since := s.dev.now, goal := f, req := f, refused := false }
    else s.setDomain { v with waiting := some f, req := f, refused := false }

/-- VDREQ and VDST for a partition. -/
def State.vdRead (s : State) (part : Option Nat) (sh : Nat) (status : Bool) : Word :=
  let v := match part.bind (s.domainOn sh) with
    | some d => s.domain sh d
    | none => s.domain sh 4
  if status then BitVec.ofNat 64 (v.code + (if v.phase ≠ 0 then 2 ^ 63 else 0) + (if v.refused then 2 ^ 62 else 0))
  else BitVec.ofNat 64 v.req

/-- Whether a core stands in a domain. -/
def State.inDomain (s : State) (sh d k : Nat) : Bool :=
  decide (clusterShingle (clusterOf k) = sh) && decide (s.domainOf (clusterOf k) = some d)

/-- Whether a remote access is a crossing in flight: it was admitted before the gate closed, and it was not held then for
an instant to come (R301). -/
def Remote.crosses (r : Remote) (since : Nat) : Bool :=
  !r.gate && (match r.inst with | some i => decide (i ≤ since) | none => true)

/-- Whether a crossing of a domain is in flight: a message that leaves or enters it, a timed store, its acknowledgement
or a report, or a remote access and its reply (R301). -/
def State.crossing (s : State) (sh d : Nat) : Bool :=
  let here (k : Nat) : Bool := s.inDomain sh d k
  let since := (s.domain sh d).since
  s.dev.fab.msgs.any (fun m => (decide (m.dst < 2 ^ 32) && here (m.dst / 8)) != (m.sender.any here)) ||
  s.dev.timed.flight.any (fun t => t.ofCore && decide (t.device = none) && !t.gate && here t.core) ||
  s.dev.timed.acks.any (fun a => here a.core) || s.dev.timed.lateReports.any (fun r => here r.core) ||
  s.dev.timed.tieReports.any (fun r => here r.core) ||
  ((s.core.id, s.core) :: s.cores).any (fun c => here c.1 && c.2.eng.remote.any (fun r => r.crosses since)) ||
  s.dev.disp.recs.any (fun q => match q.cont with
    | some c => here c.core && c.remote.any (fun r => r.crosses since)
    | none => false)

/-- A domain has drained: its clocks stop. -/
def State.vdDrained (s : State) (sh d : Nat) : State :=
  let v := s.domain sh d
  if v.phase = 1 ∧ !s.crossing sh d then s.setDomain { v with phase := 2 } else s

/-- The gate of a domain opens: what waited at it passes (R301). -/
def State.openGate (s : State) (sh d : Nat) : State :=
  let here (k : Nat) : Bool := s.inDomain sh d k
  let open1 (k : Nat) (r : Remote) : Remote := if here k then { r with gate := false } else r
  let c (c : Core) : Core := { c with eng := { c.eng with remote := c.eng.remote.map (open1 c.id) } }
  let s1 : State := { s with core := c s.core, cores := s.cores.map (fun e => (e.1, c e.2)) }
  ((s1.onDisp (fun v => { v with
    recs := v.recs.map (fun q => { q with cont := q.cont.map (fun x => { x with remote := x.remote.map (open1 x.core) }) }) })).onTimed
      (fun m => { m with flight := m.flight.map (fun t => if here t.core then { t with gate := false } else t) })).passGates

/-- A domain's clocks restart at the new frequency, and its gate opens; a write that waited then starts the next
transition. -/
def State.vdSwitched (s : State) (sh d : Nat) : State :=
  let v := s.domain sh d
  if v.phase ≠ 2 then s
  else
    let s1 := (s.setDomain { v with phase := 0, code := v.goal, waiting := none }).openGate sh d
    match v.waiting with
    | some f => s1.setDomain { v with phase := 1, since := s.dev.now, code := v.goal, goal := f, waiting := none }
    | none => s1

end Sys2Proof.Machine
end

