-- ==== Sys2Proof/Machine/Image.lean ====
section
/-! DEFINITION. Spilled NI buffers, stop-anywhere images, restores, swaps of the remap and moves of a context
(R264, R265, R282, R302 to R315). -/

namespace Sys2Proof.Machine

/-! ### DRAM by physical address (R302) -/

/-- Bytes of DRAM as they stand. -/
def State.dramRead (s : State) (phys n : Nat) : List Byte := (s.dev.timed.visible s.dev.now).readN (dramKey phys) n

/-- The bytes of a range of DRAM that are not zero, by their offset in it. -/
def State.dramCells (s : State) (phys n : Nat) : Memory :=
  ((s.dev.timed.visible s.dev.now).filter (fun b => decide (dramKey phys ≤ b.1 ∧ b.1 < dramKey phys + n))).map
    (fun b => (b.1 - dramKey phys, b.2))

/-- Change what is visible at the current instant. -/
def Timed.rewrite (t : Timed) (now : Nat) (f : Memory → Memory) : Timed :=
  match t.versions with
  | (v, m) :: rest => if v = now then { t with versions := (v, f m) :: rest } else { t with versions := (now, f (t.visible now)) :: t.versions }
  | [] => { t with versions := [(now, f [])] }

/-- The read-only copies of the lines of a range of keys go (R56). -/
def Timed.dropLines (t : Timed) (key n : Nat) : Timed :=
  { t with ro := t.ro.filter (fun l => !decide (lineOf key ≤ l.1.2 ∧ l.1.2 < lineOf (key + n + 63))) }

/-- Write bytes of DRAM by physical address; they are visible from the current instant. -/
def State.dramWrite (s : State) (phys : Nat) (bs : List Byte) : State :=
  s.onTimed (fun t => (t.rewrite s.dev.now (fun m => m.writeN (dramKey phys) bs)).dropLines (dramKey phys) bs.length)

/-! ### Spilled buffers (R265, R306) -/

/-- The selection word of a queue binding, as `qbind` takes it (R223); mode 3 for an unbound queue. -/
def Queue.selection (q : Queue) (n : Nat) : Nat :=
  q.cap * 256 + (if q.pipe then 64 else 0) + (if q.bound then q.mode.toNat else 3) * 16 + n

/-- The word of a route: endpoint and valid bit. -/
def Route.word (r : Route) : Nat :=
  match r.ep with
  | some e => 2 ^ 63 + e
  | none => 0

/-- The records that an NI holds, each with its queue, in queue order. -/
def Ni.spilled (n : Ni) : List (Record × Nat) :=
  n.queues.toList.zipIdx.flatMap (fun q => (q.1.recs ++ q.1.held).map (fun r => (r, q.2)))

/-- The header of a spilled buffer. -/
def Ni.spillHeader (n : Ni) : List Byte :=
  (n.queues.toList.zipIdx.flatMap (fun q => bytesOf 8 (q.1.selection q.2) ++ bytesOf 8 q.1.ring.toNat)) ++
  (n.routes.toList.flatMap (fun r => bytesOf 8 r.word)) ++
  bytesOf 8 n.stage.toNat ++ bytesOf 8 n.spilled.length ++ List.replicate 80 0

/-- A spilled buffer: the header and one entry a record. -/
def Ni.spillBytes (n : Ni) : List Byte := n.spillHeader ++ n.spilled.flatMap (fun r => entryBytes r.1 r.2)

/-- The NI after a spill: the records are in the buffer and the queues unbound, so that further arrivals wait (R250);
its routes and its stage id stay. -/
def Ni.unboundAll (n : Ni) : Ni :=
  { n with queues := n.queues.map (fun q => { q with bound := false, recs := [], held := [], spilledHeld := q.held.length }) }

/-- Whether a buffer of `n` bytes of the NI lies on TCM, SPAD, LOFT or GLOBAL whole, aligned. -/
def nisPath (a : Word) (n : Nat) : Bool :=
  decide (a.toNat % 128 = 0) &&
    match pathOf a, pathOf (a + BitVec.ofNat 64 (n - 1)) with
    | some (p, _), some (q, _) => decide (p = q ∧ (p = .tcm ∨ p = .spad ∨ p = .loft ∨ p = .global))
    | _, _ => false

/-- The buffer of `n` bytes of a command of `xnis` is in error (R265). -/
def State.nisError (s : State) : State := s.onCsr (fun c => { c with nisErr := true, nisBusy := false, nisCount := 0 })

/-- The acting core's `xnis` spill into a buffer (R265). -/
def State.nisSpill (s : State) (v : Word) : State :=
  let a := v &&& 0xFFFFFFFFFFFFFF80
  if s.core.csr.nisBusy then s
  else if !nisPath (v &&& 0xFFFFFFFFFFFFFFFC) (256 + 128 * s.core.ni.spilled.length) then s.nisError
  else
    let n := s.core.ni.spilled.length
    let s1 := s.niWrite s.core.id a s.core.ni.spillBytes
    { s1 with core := { s1.core with
        ni := s1.core.ni.unboundAll
        csr := { s1.core.csr with nisBusy := true, nisCmd := v, nisErr := false, nisCount := BitVec.ofNat 16 n } } }

/-- The acting core's `xnis` reinjection begins, and with it the restore after a software context switch: the start
values of R258, no pending cause, and q0 to q7 zero (R258, R266; log entry 66). -/
def State.nisReinject (s : State) (v : Word) : State :=
  if s.core.csr.nisBusy then s
  else if !nisPath (v &&& 0xFFFFFFFFFFFFFFFC) 256 then s.nisError
  else
    let c := s.core.startValues
    { s with core := { c with
        r := { c.r with q := Vector.replicate 8 0 }
        csr := { c.csr with nisBusy := true, nisCmd := v, nisErr := false } } }

/-- A queue bound again as a buffer's header says, with its records ahead of new arrivals. -/
def Queue.rebound (q : Queue) (sel : Nat) (ring : Word) (rs : List Record) : Queue :=
  let mode := sel / 16 % 4
  let n := rs.length - q.spilledHeld
  { q with
    bound := decide (mode ≠ 3)
    mode := BitVec.ofNat 2 mode
    pipe := bitOf sel 6
    cap := bitsOf sel 23 8
    ring := ring
    recs := rs.take n ++ q.recs
    held := rs.drop n ++ q.held
    spilledHeld := 0 }

/-- The NI with a buffer reinjected. -/
def Ni.reinjected (n : Ni) (bs : List Byte) (src : Nat → Nat) : Ni :=
  let word (i : Nat) : Nat := natOf ((bs.drop (8 * i)).take 8)
  let count := word 21
  let recs : List (Record × Nat) := (List.range count).map (fun i =>
    let e := (bs.drop (256 + 128 * i)).take 128
    (entryRecord e (src i), natOf ((e.drop 72).take 1) % 8))
  { n with
    queues := Vector.ofFn (fun i : Fin 8 =>
      n.queues[i].rebound (word (2 * i.val)) (BitVec.ofNat 64 (word (2 * i.val + 1)))
        ((recs.filter (fun r => decide (r.2 = i.val))).map (fun r => r.1)))
    routes := Vector.ofFn (fun i : Fin 4 =>
      { n.routes[i] with ep := if bitOf (word (16 + i.val)) 63 then some (word (16 + i.val) % 2 ^ 41) else none })
    stage := BitVec.ofNat 32 (word 20) }

/-- The acting core's `xnis` command finishes: a spill is written, a reinjection has read its buffer. While the core stands
nothing of it ends. -/
def State.nisDone (s : State) : State :=
  if !s.core.csr.nisBusy || s.core.x.stopped.isSome then s
  else
    let v := s.core.csr.nisCmd
    let a := v &&& 0xFFFFFFFFFFFFFF80
    if v.toNat % 4 = 1 then s.onCsr (fun c => { c with nisBusy := false })
    else if !s.niVisible s.core.id a 256 then s
    else
      let n := natOf ((s.niRead s.core.id a 256).drop 168 |>.take 8) % 65536
      if !nisPath a (256 + 128 * n) then s.nisError
      else if !s.niVisible s.core.id a (256 + 128 * n) then s
      else
        let bs := s.niRead s.core.id a (256 + 128 * n)
        let src (i : Nat) : Nat := (Config.recordSource (s.dev.tick + i)).toNat
        { s with core := { s.core with
            ni := s.core.ni.reinjected bs src
            csr := { s.core.csr with nisBusy := false, nisCount := BitVec.ofNat 16 n } } }

/-! ### Images (R304 to R306) -/

/-- The entry of a route in the NI section: its next serial, its AS flag, its messages still staged. -/
def Ni.routeEntry (n : Ni) (k : Nat) (r : Fin 4) : List Byte :=
  bytesOf 4 n.routes[r].serial.toNat ++ bytesOf 4 (if n.routes[r].as then 1 else 0) ++
    bytesOf 8 (n.staging.filter (fun m => decide (m.2.cls = .c2 ∧ m.2.src = routeSource k r))).length

/-- The entry of a queue in the NI section: the serial of the splice it holds, how far that has come (0 none, 1 held, 2
handed to its handler), the count of the AS records it holds, the source of the seam it keeps. -/
def Queue.sectionEntry (q : Queue) : List Byte :=
  let splice : Nat × Nat := match q.recs, q.heldSince with
    | r :: _, some _ => ((spliceSerial r).toNat, if q.raised then 2 else 1)
    | _, _ => (0, 0)
  bytesOf 4 splice.1 ++ bytesOf 2 splice.2 ++ bytesOf 2 q.held.length ++
    bytesOf 8 (match q.keptSeam with | some src => 2 ^ 63 + src | none => 0)

/-- The number of a reply's destination register in the reply table. -/
def RDst.number : RDst → Nat
  | .g r _ | .amo r _ => r.toNat
  | .v r _ | .port r _ => 32 + r.toNat

/-- The entry of a remote access in the reply table: tag, state (0 outstanding, 1 arrived, 2 arrived with a deferred
fault), destination register, fault cause, address and value. -/
def Remote.entry (r : Remote) : List Byte :=
  let st : Nat × Nat × List Byte := match r.stat with
    | .served bs _ => (1, 0, bs)
    | .faulted c => (2, c.toNat, [])
    | _ => (0, 0, [])
  bytesOf 4 r.tag ++ bytesOf 1 st.1 ++ bytesOf 1 r.dst.number ++ bytesOf 2 st.2.1 ++ bytesOf 8 r.addr.toNat ++
    (st.2.2 ++ List.replicate 16 0).take 16

/-- The NI section of an image (R306); the places of the fields in an entry are the model's choice (log entry 67). -/
def Core.niSection (c : Core) : List Byte :=
  c.ni.spillHeader ++
  (([0, 1, 2, 3] : List (Fin 4)).flatMap (c.ni.routeEntry c.id)) ++
  (c.ni.queues.toList.flatMap Queue.sectionEntry) ++
  List.replicate 64 0 ++
  ((c.eng.remote.flatMap Remote.entry) ++ List.replicate 1024 0).take 1024 ++
  (bytesOf 4 c.sw.late.toNat ++ bytesOf 4 c.sw.tie.toNat ++ bytesOf 8 c.sw.pend.toNat ++
    c.sw.pendVal.toList.flatMap (fun v => bytesOf 8 v.toNat)) ++
  List.replicate 1472 0

/-- The flop section of an image: its bits are those of the core's flops, in an order that the spec leaves to the scan
map, so that the bytes are free values (R305, R306). -/
def flopSection (seed : Nat) : List Byte := (List.range 0xD000).map (fun i => Config.flopByte seed (0x1000 + i))

/-- The bytes of an image after its header. -/
def State.imageBody (s : State) (r : ImageRec) : List Byte :=
  let c := r.core
  List.replicate 960 0 ++ c.niSection ++ flopSection r.seed ++
  c.mem.im.readN 0 0x10000 ++ c.mem.tcm.readN 0 0x10000 ++
  (s.spad (clusterOf c.id)).readN (localIndex c.id * 0x40000) 0x40000 ++
  (c.mat.slots.toList.flatMap (fun t => t.data.readN 0 1024)) ++
  (c.mat.accs.toList.flatMap (fun a => (List.range 256).flatMap (fun i => bytesOf 4 ((aget a.elems i).getD 0).toNat)))

/-- The header of an image without its check (R306). -/
def ImageRec.header (r : ImageRec) : Nat :=
  r.token.toNat + r.maphash.toNat * 2 ^ 64 + r.inst % 2 ^ 56 * 2 ^ 128 + r.reason.toNat * 2 ^ 184 + r.lcore % 2 ^ 18 * 2 ^ 192
    + r.srev % 2 ^ 32 * 2 ^ 224 + 2 ^ 256 + 460 * 2 ^ 288 + r.ctxbuf % 2 ^ 64 * 2 ^ 320
    + r.core.ni.spilled.length % 2 ^ 32 * 2 ^ 384 + (if r.sup then 2 ^ 416 else 0) + (if r.dbl then 2 ^ 417 else 0)

/-- The bytes of an image (R305). -/
def State.imageBytes (s : State) (r : ImageRec) : List Byte :=
  let body := s.imageBody r
  bytesOf 56 r.header ++ bytesOf 8 (crc64 body).toNat ++ body

/-- An image is written to DRAM at its address, and the records queued for the core to the context buffer. -/
def State.writeImage (s : State) (r : ImageRec) : State :=
  (s.dramWrite r.base (s.imageBytes r)).dramWrite r.ctxbuf r.core.ni.spillBytes

/-- The image of a core as it stands. -/
def State.imageOf (s : State) (c : Core) (reason : BitVec 8) (base ctxbuf : Nat) : ImageRec where
  base := base
  ctxbuf := ctxbuf
  lcore := c.id
  reason := reason
  inst := s.dev.now
  srev := (Config.coreRev c.phys).toNat
  maphash := Config.mapHash c.phys
  token := match c.x.ctx with | some x => x.token | none => 0
  sup := decide (c.x.mode = .supervisor)
  dbl := c.x.double.isSome
  core := c
  streamed := false
  valid := true
  seed := s.dev.tick
  log := []

/-- The task of the acting core is PARKED or RUNNING under an image. -/
def State.setTcb (s : State) (st : TcbState) : State :=
  match s.core.x.ctx.bind s.tcbOfCtx with
  | some t => s.putTcb { t with st := st }
  | none => s

/-- The acting core stops for an image (R304): it leaves its gang, its scratchpad accesses are performed, plain copies are
squashed, its clock stands, and the image is kept. -/
def State.stopHere (s : State) (reason : BitVec 8) (base ctxbuf : Nat) : State :=
  let s1 := s.leaveGang.drainAll.squashCopies
  let s2 : State := { s1 with core := { s1.core with fuse := none } }
  let r := s2.imageOf s2.core reason base ctxbuf
  let s3 := (s2.onX (fun x => { x with stopped := some (.image reason) })).setTcb .parked
  s3.onDev (fun d => { d with img := { d.img with images := d.img.images ++ [r] } })

/-- The image under which a core stands. -/
def State.imageOn (s : State) (k : Nat) : Option ImageRec :=
  match (s.coreAt k).x.stopped with
  | some (.image _) => s.dev.img.images.find? (fun i => decide (i.lcore = k) && i.valid)
  | _ => none

/-- Change the image under which a core stands. -/
def State.onImage (s : State) (k : Nat) (f : ImageRec → ImageRec) : State :=
  s.onDev (fun d => { d with img := { d.img with images := d.img.images.map (fun i => if i.lcore = k ∧ i.valid then f i else i) } })

/-- The image whose flops a place of DRAM holds: the model keeps what the scan chains of every image carried, since the
bytes of a flop section tell it apart and nothing else says what they mean (log entry 67). -/
def State.imageAt (s : State) (base : Nat) : Option ImageRec :=
  s.dev.img.images.reverse.find? (fun i => i.streamed && decide (s.dramRead (base + 0x1000) 0xD000 = flopSection i.seed))

/-- The NI logs an arrival for a core that stands under an image; a record goes to the context buffer as well (R306). -/
def State.logArrival (s : State) (k : Nat) (m : Message) : State :=
  match s.imageOn k with
  | none => s
  | some i =>
    let n := i.core.ni.spilled.length + (i.log.filter (fun x => match x.body with | .record _ _ => true | _ => false)).length
    let s1 := s.onImage k (fun i => { i with log := i.log ++ [m] })
    match m.body with
    | .record ep r => s1.dramWrite (i.ctxbuf + 256 + 128 * n) (entryBytes r (epQueue ep))
    | _ => s1

/-- A slot with the bytes of an image's operand memory. -/
def State.loadSlot (s : State) (base n : Nat) (t : Slot) : Slot := { t with data := s.dramCells (base + 0x6E000 + 1024 * n) 1024 }

/-- An accumulator with the elements of an image. -/
def State.loadAcc (s : State) (base n : Nat) (a : Acc) : Acc :=
  { a with elems := (List.range 256).filterMap (fun i =>
      let v : BitVec 32 := BitVec.ofNat 32 (natOf (s.dramRead (base + 0x72000 + 1024 * n + 4 * i) 4))
      if v = 0 then none else some (i, v)) }

/-- A core's scratchpad share is that of an image (R51, R307). -/
def State.loadShare (s : State) (base k : Nat) : State :=
  let lo := localIndex k * 0x40000
  let old := s.spad (clusterOf k)
  let new : Memory := old.filter (fun b => decide (b.1 < lo)) ++
    (s.dramCells (base + 0x2E000) 0x40000).map (fun b => (lo + b.1, b.2)) ++ old.filter (fun b => decide (lo + 0x40000 ≤ b.1))
  s.onDev (fun d => { d with spads := aset d.spads (clusterOf k) new })

/-- A route with the serial and the flag that an entry of an NI section gives it. -/
def Route.sealed (r : Route) (e : List Byte) : Route :=
  { r with serial := BitVec.ofNat 32 (natOf (e.take 4)), as := decide (natOf ((e.drop 4).take 4) ≠ 0) }

/-- A queue with the source of the seam it keeps that an entry of an NI section gives it. -/
def Queue.sealed (q : Queue) (e : List Byte) : Queue :=
  let w := natOf ((e.drop 8).take 8)
  { q with keptSeam := if bitOf w 63 then some (w % 2 ^ 63) else none }

/-- An NI with the bindings, serials and seams of the NI section of an image, and the records of a context buffer (R306,
R307). -/
def Ni.fromSection (n : Ni) (sec recs : List Byte) (src : Nat → Nat) : Ni :=
  let held : Ni := { n with queues := n.queues.map (fun (q : Queue) => { q with recs := [], held := [], spilledHeld := q.held.length }) }
  let m := held.reinjected (sec.take 256 ++ recs) src
  { m with
    routes := Vector.ofFn (fun i : Fin 4 => m.routes[i].sealed ((sec.drop (256 + 16 * i.val)).take 16))
    queues := Vector.ofFn (fun i : Fin 8 => m.queues[i].sealed ((sec.drop (320 + 16 * i.val)).take 16)) }

/-- The NI that a restore gives a core (R306, R307): what the image's NI section and context buffer hold, but for what the NI
has changed since the seal; a core that does not stand under the image gets the NI that was sealed. -/
def State.restoredNi (s : State) (r : ImageRec) (base ctxbuf k : Nat) : Ni :=
  let now := if s.imageOn k = some r then (s.coreAt k).ni else r.core.ni
  let sec := s.dramRead (base + 0x400) 0xC00
  let n := natOf ((sec.drop 168).take 8) % 65536
  let src (i : Nat) : Nat := match r.core.ni.spilled[i]? with | some x => x.1.src | none => (Config.recordSource (s.dev.tick + i)).toNat
  let got := now.fromSection sec (s.dramRead (ctxbuf + 256) (128 * n)) src
  { got with
    stage := if now.stage = r.core.ni.stage then got.stage else now.stage
    queues := Vector.ofFn (fun i : Fin 8 => if now.queues[i] = r.core.ni.queues[i] then got.queues[i] else now.queues[i])
    routes := Vector.ofFn (fun i : Fin 4 => if now.routes[i] = r.core.ni.routes[i] then got.routes[i] else now.routes[i]) }

/-- A core's clock starts again with the arrays and the flops of an image and its NI restored; what the NI
logged since the seal goes ahead of every new arrival, and replies that came are replayed (R127, R306, R307). Copy records
are reissued, and with a stop at the migration deadline the request is at an end. -/
def State.resumeImage (s : State) (r : ImageRec) (base ctxbuf k : Nat) : State :=
  let live := s.coreAt k
  let c := r.core
  let back : Core := { c with
    id := k, phys := live.phys, ni := s.restoredNi r base ctxbuf k, gang := [], fuse := none
    mem := { c.mem with im := s.dramCells (base + 0xE000) 0x10000, tcm := s.dramCells (base + 0x1E000) 0x10000 }
    mat := { c.mat with
      slots := Vector.ofFn (fun i : Fin 16 => s.loadSlot base i.val c.mat.slots[i])
      accs := Vector.ofFn (fun i : Fin 4 => s.loadAcc base i.val c.mat.accs[i]) }
    sw := { c.sw with mbox := live.sw.mbox, mboxf := live.sw.mboxf, late := live.sw.late, tie := live.sw.tie,
                      pend := live.sw.pend, pendVal := live.sw.pendVal }
    csr := { c.csr with req := if r.reason = 2 then false else c.csr.req }
    x := { c.x with stopped := none, ras := [], deferred := live.x.deferred, reqSince := if r.reason = 2 then none else c.x.reqSince }
    eng := { c.eng with remote := live.eng.remote, loads := [], nextTag := live.eng.nextTag } }
  let s1 := (s.loadShare base k).putCore back
  let s2 := s1.asCore k (fun s => (s.reissue).setTcb .running)
  s2.onDev (fun d => { d with
    fab := { d.fab with msgs := r.log.map (fun m => { m with via := .logged }) ++ d.fab.msgs }
    img := { d.img with images := d.img.images.map (fun i => if i.lcore = k then { i with valid := false, log := [] } else i) } })

/-! ### The remap (R309) -/

/-- What a logical core keeps when another physical core serves it: its number, its NI with the replies it
awaits, and its mailboxes. -/
def Core.servedBy (l p : Core) : Core :=
  { p with
    id := l.id, ni := l.ni, gang := [], fuse := none
    sw := { p.sw with mbox := l.sw.mbox, mboxf := l.sw.mboxf }
    eng := { p.eng with remote := l.eng.remote, loads := [], nextTag := l.eng.nextTag } }

/-- `Swap(K, L)` (R309): the physical cores are exchanged, and what is in flight towards either is on its way
to the former NI. -/
def State.swap (s : State) (k l : Nat) : State :=
  let a := s.coreAt k
  let b := s.coreAt l
  let s1 := ((s.putCore (a.servedBy b)).putCore (b.servedBy a))
  s1.onDev (fun d => { d with
    fab := { d.fab with msgs := d.fab.msgs.map (fun m =>
      if decide (m.dst / 8 = k ∨ m.dst / 8 = l) && decide (m.dst < 2 ^ 32) then { m with via := .former } else m) }
    img := { d.img with swaps := d.img.swaps ++ [⟨k, l, false, false, true, true⟩] } })

/-- A physical core left without a context takes its next work as the logical core it now serves. -/
def Core.vacant (c : Core) : Core :=
  { c with
    mat := Matrix.reset
    csr := { c.csr with tip := false, req := false }
    x := { c.x with
      mode := .user, inHandler := false, run := .idle, stopped := none, ended := false, ctx := none, wait := none,
      ras := [], loops := Vector.replicate 3 .idle, deferred := [], double := none, ev18 := false, arrived := false, ev19 := none,
      reqSince := none, inPair := false, flow := .next }
    eng := { c.eng with streams := Vector.replicate 4 none, copyGrant := false, copies := [], pend := [], loads := [] } }

/-- The remap is swapped for a restore onto another core: the image's core stands as before, with the reports, causes and
deferred faults that its NI has had, and is served by the other's physical core; and the other logical core by
the physical core that stopped. -/
def State.swapForRestore (s : State) (k l : Nat) : State :=
  let live := s.coreAt k
  let phys := (s.coreAt l).phys
  ((s.swap k l).putCore { live with phys := phys }).onCore l Core.vacant

/-- A swap drains: the former NI's forwarding has ended and its drain markers go out. -/
def State.sendMarkers (s : State) (n : Nat) : State :=
  match s.dev.img.swaps[n]? with
  | none => s
  | some w =>
    if s.dev.fab.msgs.any (fun m => decide (m.via = .former) && decide (m.dst < 2 ^ 32) && decide (m.dst / 8 = w.a ∨ m.dst / 8 = w.b)) then s
    else s.onDev (fun d => { d with img := { d.img with swaps := setAt d.img.swaps n { w with acked := true, sentMarkers := true } } })

/-- The drain marker of a class follows every forwarded message of the class; what was held passes on. -/
def State.takeMarker (s : State) (n : Nat) (cls : Cls) : State :=
  match s.dev.img.swaps[n]? with
  | none => s
  | some w =>
    if !w.sentMarkers || s.dev.fab.msgs.any (fun m => decide (m.via = .forwarded ∧ m.cls = cls) && decide (m.dst < 2 ^ 32) &&
        decide (m.dst / 8 = w.a ∨ m.dst / 8 = w.b)) then s
    else
      let w' := match cls with | .c0 => { w with c0Held := false } | .c1 => w | .c2 => { w with c2Held := false }
      s.onDev (fun d => { d with img := { d.img with
        swaps := if w'.c0Held || w'.c2Held then setAt d.img.swaps n w' else dropAt d.img.swaps n } })

/-- A message that reached a former NI is forwarded; its place among the messages keeps its order. -/
def State.forward (s : State) (n : Nat) : State :=
  match s.dev.fab.msgs[n]? with
  | none => s
  | some m =>
    if m.via = .former ∧ !(s.dev.fab.msgs.take n).any (fun x => decide (x.via = .former ∧ x.cls = m.cls ∧ x.dst / 8 = m.dst / 8)) then
      s.onDev (fun d => { d with fab := { d.fab with msgs := setAt d.fab.msgs n { m with via := .forwarded } } })
    else s

/-! ### Image commands (R302, R303, R307, R308, R311) -/

/-- Who writes a command, for the rights of R302: a core's supervisor, the host with its partition, or the
firmware. -/
inductive Writer where
  | supervisor (core : Nat) (part : Option Nat)
  | host (part : Nat)
  | firmware
  deriving DecidableEq, Repr

/-- The partition of a writer. -/
def Writer.part : Writer → Option Nat
  | .supervisor _ p => p
  | .host p => some p
  | .firmware => none

/-- Whether a command is busy on a shingle. -/
def State.imageBusy (s : State) (sh : Nat) : Bool := s.dev.img.cmds.any (fun c => decide (c.shingle = sh))

/-- Whether an address lies in the DRAM range of a partition and outside its spill region (R302). -/
def State.dramOf (s : State) (part : Option Nat) (a : Nat) : Bool :=
  match part.bind s.partition with
  | some q => q.cfg.holdsFrames (a / 65536) 1
  | none => false

/-- Whether an address lies where the firmware's image area may: outside every partition's DRAM range and
spill region (R312). -/
def State.dramOfNone (s : State) (a : Nat) : Bool :=
  s.dev.disp.parts.all (fun p =>
    !(decide (p.2.cfg.dfb * 65536 ≤ a ∧ a < p.2.cfg.dfl * 65536)) &&
    !(decide (p.2.cfg.spf * 65536 ≤ a ∧ a < (p.2.cfg.spf + 512 * p.2.cfg.sps) * 65536)))

/-- Reason 8 of R308 for SCBASE and SCCTX. -/
def State.badBounds (s : State) (w : Writer) (core base ctx : Nat) : Bool :=
  decide (base % 4096 ≠ 0 ∨ ctx % 128 ≠ 0) ||
    match w with
    | .firmware => !(s.dramOfNone base && s.dramOfNone ctx)
    | _ =>
      let p := s.clusterPart (clusterOf core)
      !(s.dramOf p base && s.dramOf p ctx)

/-- Whether a core lies outside a writer's partition. -/
def State.outOfPart (s : State) (w : Writer) (core : Nat) : Bool :=
  match w with
  | .firmware => false
  | _ => decide (s.clusterPart (clusterOf core) ≠ w.part)

/-- The reason to refuse a stop (R311): 1, 9, 8, 7. -/
def State.stopReason (s : State) (w : Writer) (sh : Nat) (v : Word) : Option Nat :=
  let core := (s.shReg sh 0x4108 0).toNat % 2 ^ 18
  let base := (s.shReg sh 0x4100 0).toNat
  let ctx := (s.shReg sh 0x4120 0).toNat
  let why := v.toNat / 256 % 256
  if s.imageBusy sh then some 1
  else if !(decide (why = 1 ∨ why = 2 ∨ why = 3) || (decide (why = 0x19 ∨ why = 0x1A) && decide (w = .firmware))) then some 9
  else if s.badBounds w core base ctx then some 8
  else if coreCount ≤ core ∨ shingleOf core ≠ sh ∨ (s.coreAt core).x.stopped.isSome ∨ s.outOfPart w core then some 7
  else none

/-- A field of an image's header in DRAM. -/
def State.headerField (s : State) (base hi lo : Nat) : Nat := bitsOf (natOf (s.dramRead base 64)) hi lo

/-- Whether a logical core is stopped under the image at an address. -/
def State.stoppedUnder (s : State) (base k : Nat) : Bool := (s.imageAt base).isSome && decide (s.imageAt base = s.imageOn k)

/-- The reason to refuse a restore from an image onto a core (R311): 1, 9, 8, 7, 6, 4, 2, 3, 5. -/
def State.restoreReasonOf (s : State) (w : Writer) (sh l base ctx : Nat) : Option Nat :=
  let k := s.headerField base 209 192
  let reason := s.headerField base 191 184
  let body := (s.dramRead base 0x73000).drop 64
  let token : Word := BitVec.ofNat 64 (s.headerField base 63 0)
  let phys := (s.coreAt l).phys
  if s.imageBusy sh then some 1
  else if s.badBounds w l base ctx then some 8
  else if coreCount ≤ l ∨ coreCount ≤ k ∨ shingleOf l ≠ sh ∨ shingleOf k ≠ sh ∨ s.outOfPart w l ∨
      !(s.coreVacant l || (decide (l = k) && s.stoppedUnder base k)) then some 7
  else if reason = 0x19 ∨ reason = 0x1A then some 6
  else if s.headerField base 511 448 ≠ (crc64 body).toNat ∨ s.headerField base 287 256 ≠ 1 ∨ s.headerField base 319 288 ≠ 460 then some 4
  else if s.headerField base 255 224 ≠ (Config.coreRev phys).toNat % 2 ^ 32 then some 2
  else if s.headerField base 127 64 ≠ (Config.mapHash phys).toNat then some 3
  else
    match s.imageAt base with
    | some i => if token = 0 ∨ (i.token = token ∧ s.stoppedUnder base k) then none else some 5
    | none => if token = 0 then none else some 5

/-- The reason to refuse the restore that the registers of a shingle name. -/
def State.restoreReason (s : State) (w : Writer) (sh : Nat) : Option Nat :=
  s.restoreReasonOf w sh ((s.shReg sh 0x4108 0).toNat % 2 ^ 18) (s.shReg sh 0x4100 0).toNat (s.shReg sh 0x4120 0).toNat

/-- A core as a flop section that no stop made leaves it: its registers, predicates and PC are free values, the rest is as
after reset (log entry 67). -/
def State.strayCore (s : State) (k : Nat) (sup : Bool) : Core :=
  let f (i : Nat) : Word := Config.strayFlop s.dev.tick i
  { Core.reset k with
    phys := (s.coreAt k).phys
    r := { Regs.reset with
      g := Vector.ofFn (fun i : Fin 32 => if i.val = 0 then 0 else f i.val)
      v := Vector.ofFn (fun i : Fin 32 => f (64 + 2 * i.val + 1) ++ f (64 + 2 * i.val))
      p := Vector.ofFn (fun i : Fin 8 => if i.val = 0 then 0xFFFF else (f (32 + i.val)).setWidth 16)
      q := Vector.ofFn (fun i : Fin 8 => f (40 + i.val))
      bank := Vector.ofFn (fun i : Fin 8 => f (48 + i.val)) }
    x := { ExecState.reset with
      pc := (f 56).setWidth 16 &&& 0xFFF8, mode := if sup then .supervisor else .user } }

/-- The image that a place of DRAM gives a restore of a core. -/
def State.imageFor (s : State) (base k : Nat) : Option ImageRec :=
  match s.imageAt base with
  | some i => some i
  | none =>
    if s.headerField base 63 0 = 0 then
      some (s.imageOf (s.strayCore k (decide (s.headerField base 416 416 = 1))) (BitVec.ofNat 8 (s.headerField base 191 184)) base
        (s.headerField base 383 320))
    else none

/-- A command becomes busy on a shingle. -/
def State.pushCmd (s : State) (c : ImgCmd) : State :=
  s.onDev (fun d => { d with img := { d.img with cmds := d.img.cmds ++ [c] } })

/-- The command of a shingle ends. -/
def State.dropCmd (s : State) (sh : Nat) : State :=
  s.onDev (fun d => { d with img := { d.img with cmds := d.img.cmds.filter (fun c => decide (c.shingle ≠ sh)) } })

/-- The command of a shingle that is of a kind. -/
def State.cmdOf (s : State) (sh op : Nat) : Option ImgCmd :=
  s.dev.img.cmds.find? (fun c => decide (c.shingle = sh ∧ c.op = op))

/-- A write of SCCMD (R303): 1 stop, 2 restore, anything else refused with reason 9 unless a command is
busy. -/
def State.scCommand (s : State) (w : Writer) (sh : Nat) (v : Word) : State :=
  let core := (s.shReg sh 0x4108 0).toNat % 2 ^ 18
  let base := (s.shReg sh 0x4100 0).toNat
  let ctx := (s.shReg sh 0x4120 0).toNat
  match v.toNat % 4 with
  | 1 =>
    match s.stopReason w sh v with
    | some r => s.commandStatus sh 0x4118 (some r)
    | none => (s.commandStatus sh 0x4118 none).pushCmd ⟨sh, 1, core, 0, v.extractLsb' 8 8, base, ctx⟩
  | 2 =>
    match s.restoreReason w sh with
    | some r => s.commandStatus sh 0x4118 (some r)
    | none =>
      let k := s.headerField base 209 192
      let s1 := (s.commandStatus sh 0x4118 none).pushCmd ⟨sh, 2, k, core, 0, base, ctx⟩
      if k = core then s1 else s1.swapForRestore k core
  | _ => s.commandStatus sh 0x4118 (some (if s.imageBusy sh then 1 else 9))

/-- The command of a shingle that is of one of two kinds: the writer's, or the deadline's (R312). -/
def State.cmdOf2 (s : State) (sh a b : Nat) : Option ImgCmd := (s.cmdOf sh a).orElse (fun _ => s.cmdOf sh b)

/-- The stop of a shingle takes effect; it waits for the core's reduce copies (R164, R304). -/
def State.stopNow (s : State) (sh : Nat) : State :=
  match s.cmdOf2 sh 1 4 with
  | none => s
  | some c =>
    if (s.coreAt c.core).x.stopped.isSome || (s.coreAt c.core).reducing then s
    else s.asCore c.core (fun s => s.stopHere c.why c.base c.ctxbuf)

/-- The firmware goes on from the stop of a deadline image to its restore onto the target of `xmig`; where that is refused
the core is left stopped (R308, R312, R316). -/
def State.deadlineRestore (s : State) (c : ImgCmd) : State :=
  let s1 := s.dropCmd c.shingle
  match s1.restoreReasonOf .firmware c.shingle c.target c.base c.ctxbuf with
  | some r => s1.commandStatus c.shingle 0x4118 (some r)
  | none =>
    let s2 := (s1.commandStatus c.shingle 0x4118 none).pushCmd { c with op := 5 }
    if c.target = c.core then s2 else s2.swapForRestore c.core c.target

/-- The image of a shingle's stop has been streamed to memory (R305). -/
def State.streamImage (s : State) (sh : Nat) : State :=
  match s.cmdOf2 sh 1 4 with
  | none => s
  | some c =>
    match s.imageOn c.core with
    | none => s
    | some i =>
      if i.streamed then s
      else
        let s1 := (s.writeImage i).onImage c.core (fun x => { x with streamed := true })
        if c.op = 4 then s1.deadlineRestore c else s1.dropCmd sh

/-- The last write of a restore is done (R307). -/
def State.restoreNow (s : State) (sh : Nat) : State :=
  match s.cmdOf2 sh 2 5 with
  | none => s
  | some c =>
    match s.imageFor c.base c.core with
    | none => s.dropCmd sh
    | some i => (s.dropCmd sh).resumeImage i c.base c.ctxbuf c.core

/-! ### Moves by MGCMD (R308, R314, R315) -/

/-- Whether a core may be the target of a move: no context, no parked context pinned to it, no bound queue or
route, no stopped image. -/
def State.moveTarget (s : State) (l : Nat) : Bool :=
  let c := s.coreAt l
  c.x.ctx.isNone && c.x.stopped.isNone &&
    !c.ni.queues.any (fun q => q.bound) && !c.ni.routes.any (fun r => r.ep.isSome) &&
    !s.dev.disp.recs.any (fun r => match r.cont with | some x => decide (x.core = l ∧ x.scope = 2) | none => false)

/-- The reason to refuse a move (R311): 8, 1, 2, 3, 4, 5. -/
def State.moveCoreReason (s : State) (w : Writer) (sh : Nat) (l : Nat) : Option Nat :=
  match w with
  | .supervisor k p =>
    let c := s.coreAt k
    if s.imageBusy sh then some 1
    else if coreCount ≤ l ∨ shingleOf l ≠ shingleOf k ∨ s.clusterPart (clusterOf l) ≠ p then some 2
    else if !s.moveTarget l then some 3
    else if !c.x.mglive.getLsbD 63 && (c.csr.la || c.csr.sb || c.csr.puh) then some 4
    else if c.eng.copies.any (fun x => match c.x.ctx with | some y => decide (x.reader.run = y.run) | none => false) then some 5
    else none
  | _ => some 8

/-- A write of MGCMD (R302, R314); an accepted one cancels the deadline of R312. -/
def State.mgCommand (s : State) (w : Writer) (sh : Nat) (v : Word) : State :=
  let l := v.toNat % 2 ^ 18
  match s.moveCoreReason w sh l with
  | some r => s.commandStatus sh 0x4018 (some r)
  | none =>
    match w with
    | .supervisor k _ =>
      ((s.commandStatus sh 0x4018 none).pushCmd ⟨sh, 3, k, l, 0, 0, 0⟩).onCore k (fun c => { c with x := { c.x with reqSince := none } })
    | _ => s

/-- The marked frames and pages of one core, and page TFR, at the same offsets of another (R314, R315). -/
def Core.takePages (b a : Core) : Core :=
  let tfr := a.csr.tfr.toNat
  let pages := (List.range 16).filter (fun p => (a.x.touchTcm.getLsbD p && decide (p < tfr)) || decide (p = tfr))
  let frames := (List.range 16).filter (fun f => a.x.touchIm.getLsbD f && decide (f < a.csr.ifr.toNat))
  let tcm := pages.foldl (fun m p => m.writeN (p * 4096) (a.mem.tcm.readN (p * 4096) 4096)) b.mem.tcm
  let empty := pages.foldl (fun t p => (List.range 1024).foldl (fun t i =>
    let w := p * 1024 + i
    if a.mem.tcmEmpty.contains w then insertNat t w else eraseNat t w) t) b.mem.tcmEmpty
  let im := frames.foldl (fun m f => m.writeN (f * 4096) (a.mem.im.readN (f * 4096) 4096)) b.mem.im
  let fr := frames.foldl (fun (m : CoreMem) f => m.setFrame f (a.mem.frame f)) b.mem
  { b with mem := { fr with im := im, tcm := tcm, tcmEmpty := empty } }

/-- What the target of a move holds: the context's pages and matrix unit, its read-only words, q0 to q7 cleared as on a
restore (R266), `xmig` with REQ clear and a pending event 0x18. -/
def Core.takeContext (b a : Core) : Core :=
  let c := (b.takePages a).startValues
  { c with
    r := { c.r with q := Vector.replicate 8 0 }
    mat := if a.mat.slots.all (fun t => decide (t.st = .free)) && a.mat.accs.all (fun x => decide (x.kind = .z)) then c.mat else { a.mat with loads := [], flags := [] }
    csr := { c.csr with req := false, why := a.csr.why, target := a.csr.target }
    x := { c.x with ctx := a.x.ctx, deferred := a.x.deferred, touchTcm := a.x.touchTcm, touchIm := a.x.touchIm, mglive := c.x.mglive, ev18 := true, arrived := true, reqSince := none } }

/-- A move completes (R314): the pages and the matrix unit are copied, the remap is swapped, the context is on
the target, and the source's next `xret` takes new work. It waits until no slot is LOADING. -/
def State.moveNow (s : State) (sh : Nat) : State :=
  match s.cmdOf sh 3 with
  | none => s
  | some c =>
    let a := s.coreAt c.core
    if a.mat.slots.any (fun t => decide (t.st = .loading)) then s
    else
      let s0 := s.asCore c.core State.drainAll
      let b := (s0.coreAt c.target).takeContext (s0.coreAt c.core)
      let s1 := (s0.putCore b).swap c.core c.target
      let s2 := s1.onCore c.target (fun x => { x with
        mat := Matrix.reset
        csr := { x.csr with req := false }
        x := { x.x with ctx := none, ended := true, deferred := [], reqSince := none }
        eng := { x.eng with streams := Vector.replicate 4 none, copyGrant := false } })
      s2.dropCmd sh

/-! ### The migration deadline (R312) -/

/-- The ranges of DRAM that the firmware's image area keeps out of: every partition's range and spill region, and the route
table. -/
def State.takenRanges (s : State) : List (Nat × Nat) :=
  (s.routeAddr 0, s.routeAddr 0 + 2 ^ 20) :: s.dev.disp.parts.flatMap (fun p =>
    [(p.2.cfg.dfb * 65536, p.2.cfg.dfl * 65536), (p.2.cfg.spf * 65536, (p.2.cfg.spf + 512 * p.2.cfg.sps) * 65536)])

/-- The place of a core's deadline image, 1 MiB of the image area, which is the lowest free range of DRAM that holds one for
every core; none where no range does (R312; log entry 43). -/
def State.firmwareArea (s : State) (k : Nat) : Option Nat :=
  let taken := s.takenRanges
  let size := coreCount * 2 ^ 20
  ((0 :: taken.map (fun r => r.2)).find? (fun a => decide (a + size ≤ frameCount * 65536) &&
    taken.all (fun r => decide (r.2 ≤ a ∨ a + size ≤ r.1 ∨ r.2 ≤ r.1)))).map (fun a => a + k * 2 ^ 20)

/-- MGDL of a shingle; 0 is taken as 1. -/
def State.moveDeadline (s : State) (sh : Nat) : Nat := max 1 ((s.shReg sh 0x4020 1024).toNat % 65536)

/-- The ridge firmware begins a deadline image: its stop is the command of the shingle, and others are refused as busy until
its restore is done. The registers of the block read as before (R312; log entry 41). -/
def State.deadlineStop (s : State) (k : Nat) : State :=
  match s.firmwareArea k with
  | some a => s.pushCmd ⟨shingleOf k, 4, k, (s.coreAt k).csr.target.toNat, 2, a, a + 0x80000⟩
  | none => s

end Sys2Proof.Machine
end

