-- ==== Sys2Proof/Machine/Outer.lean ====
section
/-! DEFINITION. The outside of the part: partition configurations, the loader, host copies, the purlin ports,
the time beacons, the firmware update and bring-up (R297, R298, R317 to R322, R326 to R331, R333 to R337, R342). -/

namespace Sys2Proof.Machine

/-! ### Partition configurations (R297, R298) -/

/-- An entry of a configuration, and its reserved bits. -/
def partCfgOf (x : Nat) : PartCfg × Nat :=
  ({ space := bitsOf x 511 496, dfb := bitsOf x 495 470, dfl := bitsOf x 469 444, spf := bitsOf x 443 418,
     sps := bitsOf x 417 408, root := bitsOf x 407 383, tqc := bitsOf x 382 371, hqc := bitsOf x 370 358,
     tql := bitsOf x 357 348, hql := bitsOf x 347 337, lb0 := bitsOf x 336 305, ll0 := bitsOf x 304 273,
     lb1 := bitsOf x 272 241, ll1 := bitsOf x 240 209 }, bitsOf x 208 0)

/-- The number of enabled clusters (R2). -/
def clusterCount : Nat := 3456

/-- The bytes of a configuration: one for each enabled cluster and an entry of 64 for each partition. -/
def configSize : Nat := clusterCount + 64 * 128

/-- The clusters that a configuration assigns, with their partitions. -/
def configClusters (bs : List Byte) : Assoc Nat :=
  (bs.take clusterCount).zipIdx.filterMap (fun b => if b.1.getLsbD 7 then some (b.2, b.1.toNat % 128) else none)

/-- The entry of a partition in a configuration. -/
def configEntry (bs : List Byte) (p : Nat) : PartCfg × Nat :=
  partCfgOf (natOf ((bs.drop (clusterCount + 64 * p)).take 64))

/-- Two ranges overlap. -/
def overlaps (a b c d : Nat) : Bool := decide (a < d ∧ c < b ∧ a < b ∧ c < d)

/-- Whether two partitions of a configuration share something that only one may have. -/
def cfgClash (a b : PartCfg) : Bool :=
  let loft (x y z w : Nat) : Bool := overlaps x y z w
  decide (a.space = b.space) || overlaps a.dfb a.dfl b.dfb b.dfl ||
    overlaps a.spf (a.spf + 512 * a.sps) b.spf (b.spf + 512 * b.sps) ||
    overlaps a.spf (a.spf + 512 * a.sps) b.dfb b.dfl || overlaps b.spf (b.spf + 512 * b.sps) a.dfb a.dfl ||
    loft a.lb0 a.ll0 b.lb0 b.ll0 || loft a.lb0 a.ll0 b.lb1 b.ll1 || loft a.lb1 a.ll1 b.lb0 b.ll0 || loft a.lb1 a.ll1 b.lb1 b.ll1

/-- Whether a configuration is refused whole (R298). -/
def configRefused (bs : List Byte) : Bool :=
  let cl := configClusters bs
  let ps := ((cl.map (fun c => c.2)).eraseDups)
  let es := ps.map (fun p => (p, configEntry bs p))
  let all := (List.range 128).map (fun p => configEntry bs p)
  let sum (f : PartCfg → Nat) : Nat := (es.map (fun e => f e.2.1)).sum
  es.any (fun a => es.any (fun b => decide (a.1 ≠ b.1) && cfgClash a.2.1 b.2.1)) ||
    es.any (fun a => overlaps a.2.1.spf (a.2.1.spf + 512 * a.2.1.sps) a.2.1.dfb a.2.1.dfl) ||
    (List.range 32).any (fun sh => decide (4 < ((cl.filter (fun c => clusterShingle c.1 = sh)).map (fun c => c.2)).eraseDups.length)) ||
    decide (1984 < sum (·.tqc) ∨ 4096 < sum (·.hqc) ∨ 448 < sum (·.tql) ∨ 1024 < sum (·.hql)) ||
    all.any (fun e => decide (e.2 ≠ 0))

/-- Whether a partition has a live task (R77). -/
def State.partLive (s : State) (p : Nat) : Bool := s.dev.disp.tcbs.any (fun t => decide (t.part = p) && t.st.live)

/-- The partition table that a configuration gives, with what the partitions already have. -/
def State.configure (s : State) (bs : List Byte) : State :=
  let cl := configClusters bs
  let ps := (cl.map (fun c => c.2)).eraseDups
  s.onDisp (fun d =>
    let parts : Assoc Partition := ps.foldl (fun t p =>
      let old := (aget d.parts p).getD ⟨(configEntry bs p).1, [], s.dev.now, s.dev.now, false, 0⟩
      aset t p { old with cfg := (configEntry bs p).1 }) []
    { d with parts := parts, clusters := cl })

/-- Partitions whose clusters or entry a configuration changes. -/
def State.changedParts (s : State) (bs : List Byte) : List Nat :=
  let cl := configClusters bs
  (List.range 128).filter (fun p =>
    decide ((cl.filter (fun c => c.2 = p)) ≠ (s.dev.disp.clusters.filter (fun c => c.2 = p))) ||
    (match s.partition p with
      | some q => decide (q.cfg ≠ (configEntry bs p).1)
      | none => false))

/-! ### The loader (R20, R23, R342) -/

/-- Whether a node keeps the limits of R23. -/
def nodeOk (d : NodeDesc) (segs : Nat) : Bool :=
  decide (d.index < 4096 ∧ d.seg < segs ∧ d.args.length ≤ 8 ∧ d.succs.length ≤ 8 ∧ d.deps < 65536 ∧ 1 ≤ d.budget ∧ d.budget < 65536 ∧ d.prio < 4) &&
    match d.place with
    | .any => true
    | .home j => decide (j < d.args.length)
    | .near x y => decide (x < 768 ∧ y < 216)

/-- Whether a template keeps its limits. -/
def templateOk (t : Template) (segs : Nat) : Bool :=
  decide (t.id < 65536 ∧ 1 ≤ t.widths.length ∧ t.widths.length ≤ 6 ∧ t.widths.sum ≤ 64) &&
    t.widths.all (fun w => decide (1 ≤ w ∧ w ≤ 64)) && t.nodes.all (fun d => nodeOk d segs)

/-- The segments of a kind. -/
def segsOf (i : Image) (k : SegKind) : List Segment := i.segs.filter (fun g => g.kind = k)

/-- The IM frames that the images loaded in a partition hold. -/
def State.framesUsed (s : State) (part : Nat) : Nat := (aget s.dev.disp.codeFrames part).getD 0

/-- The 64 KiB pages of the GLOBAL space that a segment touches. -/
def segPages (g : Segment) : List Nat :=
  let off := g.addr % 2 ^ 56
  if g.bytes.isEmpty then []
  else (List.range ((off + g.bytes.length - 1) / 65536 - off / 65536 + 1)).map (fun i => off / 65536 + i)

/-- Pages that an image's GLOBAL segments touch. -/
def pagesOf (i : Image) : List Nat := ((segsOf i .global).flatMap segPages).eraseDups

/-- A `.queue` binding is applied as `qbind` applies it: the old ring's records are taken back first, which may wait for
the ring's own stores (R18, R223). -/
def State.bindLoaded (s : State) (b : QueueBinding) : Option State :=
  let q : Fin 8 := ⟨b.queue % 8, Nat.mod_lt _ (by decide)⟩
  (State.emptyRing b.core q ((s.coreAt b.core).ni.queue q).ringSrcs.length s).map (fun t =>
    t.onQueue b.core q (fun u => u.bindAs b.mode false b.ring b.cap b.node b.gen))

/-- The first IM frame and the first TCM page that the supervisors of a partition's cores reserve: 16 where no
reservation is on (R257). -/
def State.reservedFrom (s : State) (part : Nat) : Nat × Nat :=
  let touched := (s.core :: s.cores.map (fun e => e.2)).filter (fun c => decide (s.clusterPart (clusterOf c.id) = some part))
  let start : Nat × Nat :=
    if touched.length < 48 * (s.partClusters part).length then (Csrs.reset.ifr.toNat, Csrs.reset.tfr.toNat) else (16, 16)
  touched.foldl (fun m c => if c.csr.supEn then (min m.1 c.csr.ifr.toNat, min m.2 c.csr.tfr.toNat) else m) start

/-- The shingles on which a partition holds clusters. -/
def State.partShingles (s : State) (part : Nat) : List Nat := ((s.partClusters part).map clusterShingle).eraseDups

/-- Whether what the loader and the dispenser chose for a template keeps R270 and R272: an owner on the partition, a
table of 2^10 to 2^24 slots, a spread of shingles that hold clusters of the partition. -/
def State.templateChoiceOk (s : State) (part : Nat) (c : TemplateChoice) : Bool :=
  (s.partShingles part).contains c.owner && decide (10 ≤ c.slotBits ∧ c.slotBits ≤ 24 ∧ c.spread ≠ []) &&
    c.spread.all (fun sh => (s.partShingles part).contains sh)

/-- Whether the placement tables keep R272: an entry for each of the 80 homes of every shingle, which names a cluster of the
partition, on that shingle where it holds one there. -/
def State.placementOk (s : State) (part : Nat) (table : List Nat) : Bool :=
  let mine := s.partClusters part
  let on := s.partShingles part
  decide (table.length = 80 * 32) && table.zipIdx.all (fun e =>
    mine.contains e.1 && (!on.contains (e.2 / 80) || decide (clusterShingle e.1 = e.2 / 80)))

/-- What a partition's page tables hold below a table: the 4 KiB pages of the tables that its entries name, and the
frames that its leaves map, as first frame and number. -/
def Trans.inUse (t : Trans) : Nat → Nat → List Nat × List (Nat × Nat)
  | _, 0 => ([], [])
  | table, fuel + 1 =>
    let size := if fuel = 2 then 2 ^ 17 else 4096
    let es := ((t.ptab.filter (fun c => decide (table ≤ c.1 ∧ c.1 < table + size))).map (fun c => c.1 / 8 * 8)).eraseDups
    es.foldl (fun acc a =>
      let e := pteOf (natOf (t.ptab.readN a 8))
      if !e.v || e.resv then acc
      else if e.k = 0 then
        let r := t.inUse (e.next * 4096) fuel
        (e.next :: r.1 ++ acc.1, r.2 ++ acc.2)
      else if e.k = 1 ∨ (e.k = 2 ∧ e.dev = ownDevice) then (acc.1, (e.frame, pageFrames (2 - fuel)) :: acc.2)
      else acc) ([], [])

/-- The frames in use by a partition's mappings and tables, those that its home moves fill among them (R295). -/
def State.inUse (s : State) (q : Partition) : List Nat × List (Nat × Nat) :=
  let used := s.dev.trans.inUse (q.cfg.root * 2 ^ 17) 3
  (used.1, s.dev.trans.moves.map (fun m => (m.newFrame, 1)) ++ used.2)

/-- How many page tables the pages of an image need beside those that are there. -/
def Trans.tablesNeeded (t : Trans) (root : Nat) (pages : List Nat) : Nat :=
  let absent (lvl shift : Nat) : Nat :=
    ((pages.filter (fun p => (t.tableAt root (p * 65536) lvl).isNone)).map (fun p => p / 2 ^ shift)).eraseDups.length
  absent 1 18 + absent 2 9

/-- Whether a page that an image touches is moving, or the entry that maps it is being changed: the loader waits until that
is over, as a mapping command would be refused (R294; log entry 46, DESIGN CHOICE). -/
def State.pageBusy (s : State) (part : Nat) (q : Partition) (p : Nat) : Bool :=
  let root := q.cfg.root * 2 ^ 17
  s.dev.trans.moves.any (fun m => decide (m.part = part ∧ m.va = p * 65536)) ||
    ([0, 1, 2] : List Nat).any (fun lvl => match s.dev.trans.tableAt root (p * 65536) lvl with
      | some a => s.dev.trans.busy.any (fun b => decide (b.entryAddr = a + 8 * ptIndex lvl (p * 65536)))
      | none => false)

/-- Whether the frames and page tables that the loader chose for an image's pages are in the partition's range, each
chosen once and none in use (R244, R297, R342). -/
def State.framesOk (s : State) (q : Partition) (pages : List Nat) (c : LoadChoice) : Bool :=
  let used := s.inUse q
  let fs := c.frames.take pages.length
  let ts := c.tables.take (s.dev.trans.tablesNeeded (q.cfg.root * 2 ^ 17) pages)
  let tableFree (t : Nat) : Bool :=
    !used.1.contains t && decide (t / 32 ≠ q.cfg.root) && !fs.contains (t / 16) &&
      !used.2.any (fun r => decide (r.1 ≤ t / 16 ∧ t / 16 < r.1 + r.2))
  let frameFree (f : Nat) : Bool :=
    decide (f / 2 ≠ q.cfg.root) && !used.1.any (fun t => decide (t / 16 = f)) &&
      !used.2.any (fun r => decide (r.1 ≤ f ∧ f < r.1 + r.2))
  decide (fs.length = pages.length ∧ fs.eraseDups.length = pages.length ∧
    ts.length = s.dev.trans.tablesNeeded (q.cfg.root * 2 ^ 17) pages ∧ ts.eraseDups.length = ts.length) &&
    fs.all (fun f => q.cfg.holdsFrames f 1 && frameFree f) && ts.all (fun t => q.cfg.holdsFrames (t / 16) 1 && tableFree t)

/-- Whether the loader rejects an image (R23, R257, R297, R342), with what it chose. -/
def State.loadRejected (s : State) (part : Nat) (i : Image) (c : LoadChoice) : Bool :=
  let code := segsOf i .code
  let base := s.framesUsed part
  let staged := s.dev.disp.staged.filter (fun g => g.part = part)
  let clash (k : SegKind) : Bool := (segsOf i k).any (fun g => staged.any (fun o =>
    decide (o.kind = k) && overlaps g.addr (g.addr + g.bytes.length) o.off (o.off + o.bytes.length)))
  !i.templates.all (fun t => templateOk t code.length) ||
    i.templates.any (fun t => s.dev.disp.loaded.any (fun l => l.tmpl.id = t.id)) ||
    decide ((i.templates.map (fun t => t.id)).eraseDups.length ≠ i.templates.length) ||
    (!code.isEmpty && decide (16 < base + code.length ∨ (s.reservedFrom part).1 < base + code.length)) || code.any (fun g => decide (4096 < g.bytes.length)) ||
    clash .tcm || clash .spad ||
    (segsOf i .tcm).any (fun g => decide ((s.reservedFrom part).2 * 4096 < g.addr + g.bytes.length)) ||
    (segsOf i .spad).any (fun g => decide (0xC00000 < g.addr + g.bytes.length)) ||
    (segsOf i .loft).any (fun g => decide (g.addr / 2 ^ 56 ≠ 0x20) || !s.loftAllowed (some part) (g.addr % 2 ^ 56) g.bytes.length) ||
    (segsOf i .global).any (fun g => decide (g.addr / 2 ^ 56 ≠ 0x40)) ||
    (match s.partition part with
      | none => true
      | some q => !s.framesOk q (pagesOf i) c || (pagesOf i).any (s.pageBusy part q)) ||
    decide (c.templates.length ≠ i.templates.length) || !c.templates.all (s.templateChoiceOk part) ||
    !s.placementOk part c.placement || i.queues.any (fun b => decide (coreCount ≤ b.core ∨ 8 ≤ b.queue))

/-- The table of a level on the way to an address, made where it is absent from the next of the tables
chosen. A leaf of level 0 or 1 that maps the address gives way to that empty table, so that its other pages lose their mapping:
the spec does not say what the loader does there (log entry 46, DESIGN CHOICE). -/
def Trans.ensure (t : Trans) (root va : Nat) : Nat → List Nat → Trans × List Nat
  | 0, free => (t, free)
  | lvl + 1, free =>
    let r := t.ensure root va lvl free
    match r.1.tableAt root va (lvl + 1) with
    | some _ => r
    | none =>
      match r.1.tableAt root va lvl, r.2 with
      | some a, f :: rest =>
        ({ r.1 with ptab := (r.1.ptab.writeN (f * 4096) (List.replicate 4096 0)).writeN (a + 8 * ptIndex lvl va) (bytesOf 8 (2 ^ 63 + f)) }, rest)
      | _, _ => r

/-- Map the pages of an image by writable leaves onto the frames chosen (R244). -/
def mapPages (root : Nat) : List Nat → List Nat → List Nat → Trans → Trans
  | p :: ps, f :: fs, free, t =>
    let r := t.ensure root (p * 65536) 2 free
    let t1 := match r.1.tableAt root (p * 65536) 2 with
      | some a => { r.1 with ptab := r.1.ptab.writeN (a + 8 * ptIndex 2 (p * 65536)) (bytesOf 8 (2 ^ 63 + 2 ^ 61 + 2 ^ 60 + f)) }
      | none => r.1
    mapPages root ps fs r.2 t1
  | _, _, _, t => t

/-- The loader places an image in a partition (R342). A page that a segment touches is mapped anew, on a frame of its own,
also where it was mapped before: the spec does not say whether the frame is shared (log entry 46, DESIGN CHOICE). The bytes
of its loft and global segments are visible from the instant of the load on, and a load as of an earlier instant reads what
was there before: R68 gives no instant from which they are (log entry 46, DESIGN CHOICE). A queue's binding may have to wait for its old ring, and the load with it. -/
def State.loadImage (s : State) (part : Nat) (i : Image) (c : LoadChoice) : State :=
  match s.partition part with
  | none => s
  | some q =>
    if s.loadRejected part i c || !i.queues.all (fun b => (s.bindLoaded b).isSome) then s
    else
      let no := match i.templates with | t :: _ => t.id | [] => 65536
      let base := s.framesUsed part
      let frames := (segsOf i .code).zipIdx.map (fun g => (g.2, base + g.2, g.1.bytes))
      let pages := (pagesOf i)
      let frameOf (page : Nat) : Nat := c.frames.getD (pages.idxOf page) 0
      let tmpls : List Loaded := (i.templates.zip c.templates).map
        (fun t => ⟨part, no, t.2.owner, t.2.slotBits, t.1, frames, t.2.spread⟩)
      let staged : List Staged := (i.segs.filter (fun g => g.kind = .tcm ∨ g.kind = .spad)).map
        (fun g => ⟨part, no, g.kind, g.addr, g.bytes, g.profiling, []⟩)
      let s1 := s.onDev (fun d => { d with
        trans := mapPages (q.cfg.root * 2 ^ 17) pages c.frames c.tables d.trans
        disp := { d.disp with
          loaded := d.disp.loaded ++ tmpls
          staged := d.disp.staged ++ staged
          codeFrames := aset d.disp.codeFrames part (base + (segsOf i .code).length)
          placement := aset d.disp.placement part c.placement } })
      let s2 := pages.foldl (fun s p => s.clearFrames (frameOf p) 1) s1
      let put (m : Memory) (g : Segment) : Memory :=
        match g.kind with
        | .loft => m.writeN (g.addr % 2 ^ 56) g.bytes
        | .global =>
          m.writeAll (g.bytes.zipIdx.map (fun b =>
            let va := g.addr % 2 ^ 56 + b.2
            (dramKey (frameOf (va / 65536) * 65536 + va % 65536), b.1)))
        | _ => m
      let s3 := s2.onTimed (fun t => t.rewrite s.dev.now (fun m => i.segs.foldl put m))
      i.queues.foldl (fun s b => (s.bindLoaded b).getD s) s3

/-! ### The host (R318 to R322) -/

/-- Add one to HDROP. -/
def State.hostDrop (s : State) : State := s.setShReg 0 0x1080 (countUp (s.shReg 0 0x1080 0))

/-- Whether the BARs answer (R336). -/
def State.barsUp (s : State) : Bool := s.dev.out.powered && decide (s.dev.out.bust = 7)

/-- A host write to BAR 0 (R318). -/
def State.hostEnqueue (s : State) (port off : Nat) (bs : List Byte) : State :=
  let t := off / 64
  match s.dev.disp.loaded.find? (fun l => l.tmpl.id = t) with
  | some l =>
    if bs.length = 64 ∧ off % 64 = 0 ∧ off < 2 ^ 22 then
      s.postC0 (hostEndpoint port) (dispatcherEndpoint l.owner) (.taskRecord none bs (some t))
    else s.hostDrop
  | none => s.hostDrop

/-- A host write to BAR 2 (R319). -/
def State.hostMailbox (s : State) (port off : Nat) (bs : List Byte) : State :=
  let n := off / 32
  if bs.length = 8 ∧ off % 8 = 0 ∧ n < coreCount then
    s.postC0 (hostEndpoint port) (coreEndpoint n 0) (.mailbox n (off / 8 % 4) (BitVec.ofNat 64 (natOf bs)))
  else s.hostDrop

/-- The offset of a copy register of a port. -/
def hostReg (port off : Nat) : Nat := off + 0x40 * port

/-- HPART of a port. -/
def State.hostPart (s : State) (port : Nat) : Nat := (s.shReg 0 (hostReg port 0x1030) 0).toNat % 128

/-- HISS of a port. -/
def State.hostIssue (s : State) (port : Nat) : Word := s.shReg 0 (hostReg port 0x1038) 0

/-- The home of a host copy's line, by HPART's ranges and mappings with supervisor rights, or the cause (R291,
R322). -/
def State.hostKey (s : State) (port : Nat) (write : Bool) (a : Word) (inst : Nat) : Except Nat Nat :=
  let part := s.hostPart port
  match pathOf a with
  | some (.loft, off) => if s.loftAllowed (some part) off 64 then .ok off else .error 0x11
  | some (.global, va) =>
    match s.walked (some part) false write va inst with
    | .ok k => .ok k
    | .error c => .error c.toNat
  | _ => .error 1

/-- The keys of the lines of a host copy from line `i` on, up to the first that faults, and that line's offset and
cause. -/
def State.hostKeys (s : State) (port : Nat) (write : Bool) (a : Word) (inst : Nat) : Nat → Nat → List Nat × Option (Nat × Nat)
  | 0, _ => ([], none)
  | n + 1, i =>
    match s.hostKey port write (a + BitVec.ofNat 64 (64 * i)) inst with
    | .error c => ([], some (64 * i, c))
    | .ok k =>
      let r := s.hostKeys port write a inst n (i + 1)
      (k :: r.1, r.2)

/-- What the homes answer to a host copy's reads, from line `i` on: the bytes up to the first line that faults, and
that line's offset and cause (R282, R322). -/
def State.hostRead (s : State) (inst : Nat) : List Nat → Nat → List Byte × Option (Nat × Nat)
  | [], _ => ([], none)
  | k :: ks, i =>
    match s.homeAnswer k inst 64 with
    | .served bs _ =>
      let r := s.hostRead inst ks (i + 1)
      (bs ++ r.1, r.2)
    | .faulted c => ([], some (64 * i, c.toNat))
    | _ => ([], none)

/-- One timed store of a host copy: class 2, the port's node, the port's issue counter (R72, R322). -/
def State.hostStore (s : State) (port : Nat) (a : Word) (inst key : Nat) (bs : List Byte) : State :=
  let wid := s.hostIssue port
  let st : TStore := {
    id := 0, src := .host, device := none, sup := true, core := 0, token := 0, run := 0, part := s.hostPart port, node := port, wid := wid, seq := 0,
    inst := inst, drop := false, qst := false, addr := a, data := atOffsets 0 bs, atomic := none, clause := 0, copy := none,
    append := none, home := some key, fwd := none, gate := false, accepted := 0, vis := 0, late := false }
  (s.setShReg 0 (hostReg port 0x1038) (wid + 1)).send st

/-- A host copy starts (R322); a command while one is busy is ignored. -/
def State.hostStart (s : State) (port : Nat) (toHost : Bool) : State :=
  let h := s.shReg 0 (hostReg port 0x1000) 0
  let m := s.shReg 0 (hostReg port 0x1008) 0
  let len := (s.shReg 0 (hostReg port 0x1010) 0).toNat
  let hdi := (s.shReg 0 (hostReg port 0x1018) 0).toNat % 2 ^ 56
  let inst := if hdi ≠ 0 then hdi else if toHost then s.dev.now else s.dev.now + 1
  if s.dev.out.hostCopies.any (fun c => c.port = port) ∨ 2 ≤ port then s
  else
    let onPath := match pathOf m with | some (.loft, _) | some (.global, _) => true | _ => false
    let bad := decide (h.toNat % 64 ≠ 0 ∨ m.toNat % 64 ≠ 0 ∨ len % 64 ≠ 0 ∨ 2 ^ 24 < len) || !onPath
    let r := if bad then ([], some (0, 1)) else s.hostKeys port (!toHost) m inst (len / 64) 0
    let s1 := s.onDev (fun d => { d with out := { d.out with
      hostCopies := d.out.hostCopies ++ [⟨port, toHost, inst, h.toNat, m, r.1, r.2⟩] } })
    let s2 := s1.setShReg 0 (hostReg port 0x1028) 0
    if toHost then s2
    else r.1.zipIdx.foldl (fun s k =>
      s.hostStore port (m + BitVec.ofNat 64 (64 * k.2)) inst k.1
        ((List.range 64).map (fun j => Config.hostByte s.dev.tick (h.toNat + 64 * k.2 + j)))) s2

/-- A line of a host copy is refused at its home: the copy stops there, and the lines after it are not written (R291,
R322). -/
def State.hostRefused (s : State) (port : Nat) (a : Word) (cause : BitVec 8) : State :=
  (s.onDev (fun d => { d with out := { d.out with hostCopies := d.out.hostCopies.map (fun c =>
    if c.port ≠ port then c else { c with fail := some ((a - c.base).toNat, cause.toNat) }) } })).onTimed (fun m => { m with
      flight := m.flight.filter (fun t => !decide (t.src = .host ∧ t.device = none ∧ t.node = port)) })

/-- A host copy completes or has faulted: its status, what it read, and vector 5 or 6 (R322). -/
def State.hostDone (s : State) (port : Nat) : State :=
  match s.dev.out.hostCopies.find? (fun c => c.port = port) with
  | none => s
  | some c =>
    if s.dev.timed.flight.any (fun t => decide (t.src = .host ∧ t.device = none ∧ t.node = port)) ||
        (c.toHost && (decide (s.dev.now < c.inst) || c.keys.any s.homeWaits)) then s
    else
      let r := if c.toHost then s.hostRead c.inst c.keys 0 else ([], none)
      let st := match r.2.orElse (fun _ => c.fail) with
        | some f => 2 ^ 62 + f.1 * 256 + f.2
        | none => 0
      let s0 := if c.toHost then c.keys.foldl (fun s k => s.sendAccess .c1 (0x3FFF0 + port) k) s else s
      let s1 := s0.setShReg 0 (hostReg port 0x1028) (BitVec.ofNat 64 st)
      let s2 := s1.onDev (fun d => { d with out := { d.out with
        hostCopies := d.out.hostCopies.filter (fun x => x.port ≠ port)
        hostOut := if c.toHost then d.out.hostOut ++ [(port, c.host, r.1)] else d.out.hostOut } })
      s2.raiseVector (5 + port)

/-! ### Purlin ports (R326 to R328) -/

/-- The shingle and local number of a port. -/
def portPlace (p : Nat) : Nat × Nat := (if p < 32 then p / 4 else 24 + (p - 32) / 4, p % 4)

/-- A port. -/
def State.port (s : State) (p : Nat) : Port := (aget s.dev.fab.ports p).getD .reset

/-- Change a port. -/
def State.onPort (s : State) (p : Nat) (f : Port → Port) : State :=
  s.onDev (fun d => { d with fab := { d.fab with ports := aset d.fab.ports p (f (s.port p)) } })

/-- A count of a port's block rises. -/
def State.portCount (s : State) (p off n : Nat) : State :=
  let a := (portPlace p).1
  let o := off + 0x100 * (portPlace p).2
  s.setShReg a o (s.shReg a o 0 + BitVec.ofNat 64 n)

/-- A message of another part enters: it goes to its destination on this part's mesh; what a remote home tells of an
acceptance is known already, as the acceptance is a step of this machine (log entry 23); a purge removes what the
homes hold of the other part's task (R76). -/
def State.enterPart (s : State) (m : Message) : State :=
  match m.body with
  | .ack _ _ _ | .late _ | .beacon _ _ _ | .access _ | .answer _ _ _ _ => s
  | .tie r => s.onTimed (fun t => { t with tieReports := t.tieReports ++ [r] })
  | .purge tok => s.onTimed (fun t => { t with tense := t.tense.filter (fun e => !decide (e.device = some m.device ∧ e.src = .task ∧ e.token = tok)) })
  | .block k off bs => if k < coreCount then s.takeBlock k off bs else s
  | b =>
    let far (src : Nat) : Nat := (m.device + 1) * 2 ^ 20 + src % 2 ^ 20
    let b1 : Body := match b with
      | .record ep r => .record ep { r with src := far r.src }
      | .seam ep src => .seam ep (far src)
      | b => b
    s.route { m with src := 2 ^ 42 + m.device * 2 ^ 21 + m.src % 2 ^ 21, device := ownDevice, via := .direct, body := b1 }

/-- A port goes down when eight replays one after another have not delivered a flit (R327). -/
def State.portFails (s : State) (p : Nat) : State :=
  if p < 64 ∧ (s.port p).up then
    (((s.portCount p 0x5008 (8 - (s.port p).replays)).portCount p 0x5010 1).onPort p
      (fun q => { q with up := false, replays := 8 })).raiseVector 3
  else s

/-- The place in a replay buffer of the flit of a sequence number. -/
def Port.place (q : Port) (seq : BitVec 12) : Option Nat := q.replay.findIdx? (fun e => decide (e.1 = seq))

/-- What a receiver tells of this part's flits (R326): those up to the acknowledged one leave the replay buffer; a nacked
one is replayed with those after it, those before it having arrived, and the port goes down after eight replays of it
(R327; log entry 79, DEDUCED). -/
def State.linkReply (s : State) (p : Nat) (r : LinkReply) : State :=
  match r with
  | .ack seq =>
    match (s.port p).place seq with
    | none => s
    | some i => (s.onPort p (fun q => { q with replay := q.replay.drop (i + 1), replays := 0 })).passGates
  | .nack seq =>
    match (s.port p).place seq with
    | none => s
    | some i =>
      if i = 0 ∧ 8 ≤ (s.port p).replays then s.portFails p
      else
        ((s.portCount p 0x5008 1).onPort p
          (fun q => { q with replay := q.replay.drop i, replays := if i = 0 then q.replays + 1 else 1 })).passGates

/-- A unit of a class more. -/
def addUnit (v : Vector Nat 3) (c : Cls) : Vector Nat 3 := v.set c.index (v[c.index] + 1)

/-- A port takes the flit it expects: it acknowledges it, and returns the credit of what the flit carried (R326). -/
def Port.take (q : Port) (seq : BitVec 12) (c : Option Cls) : Port :=
  { q with
    expect := q.expect + 1, told := some (.ack seq)
    returned := match c with | some c => addUnit q.returned c | none => q.returned }

/-- A flit arrives: the expected one is taken and acknowledged, with the message that it completes; one that fails its CRC is
nacked and replayed in order; any other is a replay's repeat, and is acknowledged again (R326). What it tells of this part's
flits, and the credit it returns, are heeded first. -/
def State.flit (s : State) (p : Nat) (seq : BitVec 12) (b : FlitBody) : State :=
  if p < 64 ∧ (s.port p).up then
    if !b.ok then (s.portCount p 0x5008 1).onPort p (fun q => { q with told := some (.nack q.expect) })
    else
      let s0 := s.onPort p (fun q => { q with credit := b.credit.foldl addUnit q.credit })
      let s1 := match b.reply with
        | some r => s0.linkReply p r
        | none => s0
      let s2 := s1.passGates
      if seq = (s.port p).expect then
        let s3 := s2.onPort p (fun q => q.take seq (b.carries.map Message.cls))
        match b.carries with
        | some m => s3.enterPart m
        | none => s3
      else s2.onPort p (fun q => { q with told := some (.ack (q.expect - 1)) })
  else s

/-- A port comes up with its credit, and takes what waited for it (R326 to R328). -/
def State.portUp (s : State) (p : Nat) (lanes : BitVec 4) : State :=
  if p < 64 ∧ !(s.port p).up then
    ((s.onPort p (fun q => { q with
      up := true, lanes := lanes, expect := 0, replays := 0, told := none
      credit := Vector.ofFn (fun c => Config.linkCredit p c.val) })).raiseVector 3).passGates
  else s

/-- What a port had unacknowledged for a device goes on another port, in order, behind what that port has sent (R327). -/
def State.takeOver (s : State) (device o p : Nat) : State :=
  let mine := (s.port o).replay.filter (fun e => e.2.device = device)
  let s1 := s.onPort o (fun q => { q with replay := q.replay.filter (fun e => e.2.device ≠ device) })
  s1.onPort p (fun q => mine.foldl (fun q e => q.send e.2) q)

/-- The firmware rewrites a device's byte of the route table; 0xFF stands for none. What a down port had unacknowledged for
the device goes first on the new port, and what waited after it (R327). -/
def State.reroute (s : State) (device p : Nat) : State :=
  let s1 := s.dramWrite (s.routeAddr device) [if p < 64 then BitVec.ofNat 8 p else 0xFF]
  match s.routeOf device with
  | none => s1.passGates
  | some o => if o ≠ p ∧ p < 64 ∧ !(s.port o).up then (s1.takeOver device o p).passGates else s1.passGates

/-- The inbound windows: shingle and number. -/
def inboundWindows : List (Nat × Nat) :=
  ([0, 1, 2, 3, 4, 5, 6, 7, 24, 25, 26, 27, 28, 29, 30, 31] : List Nat).flatMap (fun sh => (List.range 32).map (fun w => (sh, w)))

/-- Whether a request writes. -/
def FabricReq.write (r : FabricReq) : Bool :=
  match r.op with
  | .store _ _ | .atomic _ _ _ _ => true
  | _ => false

/-- The partition and write right of the window that admits a request (R328). -/
def State.windowFor (s : State) (r : FabricReq) : Option (Nat × Bool) :=
  inboundWindows.findSome? (fun w =>
    let reg (o : Nat) : Nat := (s.shReg w.1 (o + 32 * w.2) 0).toNat
    let page := r.va / 65536
    let first := bitsOf (reg 0x5410) 47 16
    let n := bitsOf (reg 0x5410) 63 48
    let ctl := reg 0x5418
    if bitOf ctl 8 ∧ reg 0x5400 ≤ r.src ∧ r.src < reg 0x5408 ∧ first ≤ page ∧ page < first + n ∧ (!r.write ∨ bitOf ctl 7) then
      some (ctl % 128, bitOf ctl 7)
    else none)

/-- The store or atomic of a request, admitted for a partition at a key. -/
def FabricReq.store (r : FabricReq) (part key : Nat) (data : List Byte) (drop : Bool) (atomic : Option AtomOp) : TStore where
  id := 0
  src := r.kind
  device := some r.src
  sup := decide (r.kind ≠ .task)
  core := r.core
  token := r.token
  run := 0
  part := part
  node := r.node
  wid := r.wid
  seq := r.seq
  inst := r.inst
  drop := drop
  qst := false
  addr := BitVec.ofNat 64 (0x40 * 2 ^ 56 + r.va)
  data := atOffsets 0 data
  atomic := atomic
  clause := 0
  copy := none
  append := none
  home := some key
  fwd := none
  gate := false
  accepted := 0
  vis := 0
  late := false

/-- A load of another part is answered by its home, once its instant has begun. -/
def State.inboundLoad (s : State) (r : FabricReq) (key width : Nat) (inst : Option Nat) : State :=
  let t := inst.getD s.dev.now
  if s.dev.now < t ∨ s.handoverWaits key then s
  else
    match s.homeAnswer key t width with
    | .served bs _ => s.answer r.src r.core r.tag bs 0
    | .faulted c => s.answer r.src r.core r.tag [] c
    | _ => s

/-- A request of a remote part is admitted by a window, translated in the window's partition and sent to its home, or
answered with a fault (R291, R328). A load of an instant to come waits. A purge removes what the homes hold of the
part's task, and is confirmed (R76). -/
def State.inbound (s : State) (r : FabricReq) : State :=
  let refuse (c : BitVec 8) : State := s.answer r.src r.core r.tag [] c
  match r.op with
  | .purge =>
    (s.onTimed (fun t => { t with tense := t.tense.filter (fun e => !decide (e.device = some r.src ∧ e.src = .task ∧ e.token = r.token)) })).answer
      r.src r.core r.tag [] 0
  | op =>
    match s.windowFor r with
    | none => refuse 0x11
    | some (p, _) =>
      let inst := match op with | .load _ t => t.getD s.dev.now | _ => r.inst
      match s.walked (some p) (decide (r.kind = .task)) r.write r.va inst with
      | .error c => refuse c
      | .ok key =>
        if !ownKey key then refuse 0x11
        else
          match op with
          | .load w t => s.inboundLoad r key w t
          | .store bs drop => s.send (r.store p key bs drop none)
          | .atomic fn wide x y => s.send (r.store p key [] false (some ⟨fn, wide, x, y, r.core, r.tag⟩))
          | .purge => s

/-! ### The instant across a system (R329, R330) -/

/-- INSTANT_PERIOD. -/
def State.period (s : State) : Nat := (s.shReg 0 0x6000 128).toNat % 8192

/-- Whether the part is the master of its system. -/
def State.isMaster (s : State) : Bool := (s.shReg 0 0x6010 0).getLsbD 0

/-- ISTAT. -/
def State.istat (s : State) : Word := s.shReg 0 0x6028 0

/-- Set or clear the lock; a change raises vector 4. -/
def State.setLock (s : State) (locked : Bool) : State :=
  if s.istat.getLsbD 63 = locked then s
  else (s.setShReg 0 0x6028 (if locked then s.istat ||| 0x8000000000000000 else s.istat &&& 0x7FFFFFFFFFFFFFFF)).raiseVector 4

/-- A write of IPERIOD (R329): refused out of range or while any partition has a live task. The value judged is the
whole word written: the spec does not say whether the bits above 12, which its table does not list, are ignored (log
entry 64, DESIGN CHOICE). -/
def State.writePeriod (s : State) (v : Word) : State :=
  let live := s.dev.disp.tcbs.any (fun t => t.st.live)
  if v.toNat < 32 ∨ 4096 < v.toNat ∨ live then s.setShReg 0 0x6028 (s.istat ||| 0x4000000000000000)
  else
    (s.setShReg 0 0x6028 (s.istat &&& 0xBFFFFFFFFFFFFFFF)).onDev (fun d => { d with iperiodNext := some (v.setWidth 13) })

/-- Beacons go out on every port of IBEAM0 that takes them, with the part's reference phase; a port that is down or without
credit sends none (R330; log entry 47). -/
def State.sendBeacons (s : State) (inst period : Nat) : State :=
  ((List.range 64).filter (fun p => (s.shReg 0 0x6018 0).getLsbD p && (s.port p).ready .c0)).foldl
    (fun s p => s.sendOn p ⟨.c0, p, p, 2 ^ 20 + p, .direct, .beacon inst period s.dev.out.phase⟩) s

/-- Whether a part agrees with a beacon: the beacon's instant, less the link's delay, is the one its counter shows, and its
phase is within 8 ns (R330). -/
def State.agrees (s : State) (port inst : Nat) (offset : BitVec 32) : Bool :=
  decide (inst + Config.linkDelay port = s.dev.now ∧ -8000 ≤ offset.toInt ∧ offset.toInt ≤ 8000)

/-- A beacon of the upstream port is applied and forwarded (R330): the reference phase slews, the offset is noted, and the part
is locked while it agrees; another period loses the lock. -/
def State.beacon (s : State) (port inst period : Nat) (offset : BitVec 32) : State :=
  if s.isMaster ∨ port ≠ (s.shReg 0 0x6010 0).toNat / 256 % 64 then s
  else
    let s0 := s.onDev (fun d => { d with missed := 0 })
    if period ≠ s.period then (s0.setLock false).sendBeacons inst period
    else
      let s1 := (s0.setLock (s.agrees port inst offset)).onDev (fun d => { d with out := { d.out with
        phase := d.out.phase + Config.slew offset } })
      (s1.setShReg 0 0x6028 ((s1.istat &&& 0xFFFFFFFF00000000) ||| offset.setWidth 64)).sendBeacons inst period

/-! ### Firmware (R331, R333, R334) -/

/-- FWST: phase and reason. -/
def State.fwPhase (s : State) : Nat := (s.shReg 0 0x7018 0).toNat % 16

/-- Set FWST. -/
def State.setFw (s : State) (phase reason : Nat) : State := s.setShReg 0 0x7018 (BitVec.ofNat 64 (phase + 256 * reason))

/-- An update ends in phase 6, 7 or 8: quiesce lifts, and vector 1 is raised. -/
def State.endUpdate (s : State) (phase reason : Nat) : State := ((s.setFw phase reason).raiseVector 1).resumeOwners

/-- Whether an update is under way. -/
def State.updating (s : State) : Bool := decide (1 ≤ s.fwPhase ∧ s.fwPhase ≤ 5)

/-- An update starts, or goes to its next phase with what its checks find (R334). -/
def State.advanceUpdate (s : State) (sig ver fmt : Bool) (version : BitVec 32) : State :=
  match s.fwPhase with
  | 1 => s.setFw 2 0
  | 2 =>
    if !sig then s.endUpdate 7 2
    else if !ver then s.endUpdate 7 3
    else if !fmt then s.endUpdate 7 4
    else (s.setFw 3 0).onDev (fun d => { d with out := { d.out with fwNewVersion := version } })
  | 3 => (s.setFw 4 0).onDev (fun d => { d with out := { d.out with measured := d.out.measured ++ [d.out.fwNewVersion] } })
  | 4 => s.setFw 5 0
  | 5 => s
  | _ => s.setFw 1 0

/-- The new image's heartbeat commits the update (R334). -/
def State.heartbeat (s : State) : State :=
  if s.fwPhase = 5 then
    (s.onDev (fun d => { d with out := { d.out with fwSlot := !d.out.fwSlot, fwVersion := d.out.fwNewVersion } })).endUpdate 6 0
  else s

/-- No heartbeat: the old slot runs again, and its digest is measured again (R334). -/
def State.rollBack (s : State) : State :=
  if s.fwPhase = 5 then
    (s.onDev (fun d => { d with out := { d.out with measured := d.out.measured ++ [d.out.fwVersion] } })).endUpdate 8 5
  else s

/-- A reconfiguration from FWSRC of a shingle (R331): refused whole by R298, or where it changes a partition
with a live task. -/
def State.reconfigure (s : State) (sh : Nat) : State :=
  let bs := s.dramRead (s.shReg sh 0x7008 0).toNat configSize
  if configRefused bs || (s.changedParts bs).any s.partLive then s.endUpdate 7 4
  else (s.configure bs).endUpdate 6 0

/-- A write of FWCMD (R333): a command before the end of an update is refused with reason 1. -/
def State.fwCommand (s : State) (sh : Nat) (v : Word) : State :=
  if s.updating then s.setFw s.fwPhase 1
  else if v ≠ 1 ∧ v ≠ 2 then s
  else if v = 1 then s.setFw 1 0
  else s.reconfigure sh

/-! ### Thermal trip (R331, R332) -/

/-- The acting core stops with its shingle's clocks as for an image (R304): it leaves its gang, and its plain copies start
over when the clocks do. -/
def State.tripHere (s : State) : State :=
  let s1 := s.leaveGang.finishWritten
  (s1.onEng (fun e => { e with copies := e.copies.map Copy.rewound })).setTcb .parked

/-- The acting core goes on after a trip: its plain copies are reissued whole. One that stands for an image or a double trap
stays as it is. -/
def State.untripHere (s : State) : State :=
  if s.core.x.stopped.isSome then s
  else ((s.core.eng.copies.filter (fun x => !x.failed && decide (x.op = 0))).foldl State.clearFor s).setTcb .running

/-- A step on every core of a shingle whose clock a trip stops or starts. -/
def State.onShingle (s : State) (sh : Nat) (f : State → State) : State :=
  (((s.core :: s.cores.map (fun e => e.2)).map (fun c => c.id)).filter (fun k => decide (shingleOf k = sh))).foldl
    (fun s k => s.asCore k f) s

/-- A junction of a shingle reaches 105 °C: its clocks stop, and TJMAX reads the temperature (R331, R332). -/
def State.trip (s : State) (sh : Nat) (tj : Int) : State :=
  if 1680 ≤ tj ∧ sh < 32 then
    (((s.onShingle sh State.tripHere).setShReg sh 0x808 1).setShReg sh 0x800 (BitVec.ofInt 64 tj)).raiseVector 2
  else s

/-- A write of TRIPRST: the clocks restart when every sensor reads below 95 °C. -/
def State.tripReset (s : State) (sh : Nat) (hottest : Int) : State :=
  if hottest < 1520 ∧ sh < 32 then
    let s1 := (s.setShReg sh 0x808 0).setShReg sh 0x800 (BitVec.ofInt 64 hottest)
    if s.shReg sh 0x808 0 = 0 then s1 else s1.onShingle sh State.untripHere
  else s

/-! ### Power and bring-up (R335, R336) -/

/-- The machine without power: every state is lost, and the model's own agenda and tick go on. -/
def State.unpowered (s : State) : State :=
  { State.reset with
    agenda := s.agenda
    dev := { Device.reset with tick := s.dev.tick, out := { Device.reset.out with powered := false, bust := 0 } } }

/-- The code of a failed step of bring-up; step 5 has none. -/
def bringUpError (step : Nat) : Nat := if step = 5 then 0 else step

/-- The first of the steps 1 to 6 that fails; step 2 only where slot 1 is refused as well, step 5 never, and step 6 also
where the configuration is refused. -/
def failedStep (ok : List Bool) (c : BootConfig) : Option Nat :=
  ([1, 2, 3, 4, 6] : List Nat).find? (fun i => (!(ok.getD (i - 1) true) && !(decide (i = 2) && c.slot1)) ||
    (decide (i = 6) && configRefused c.partitions))

/-- Bring-up after a power-on (R336): slot 0 runs, or slot 1 where slot 0 is refused, its image measured (R334); the counter
starts at 0, or at the master's instant. A failed step halts the part there. One ridge core is elected module ridge
controller (R4). -/
def State.bringUp (s : State) (ok : List Bool) (locked : Bool) (c : BootConfig) : State :=
  if s.dev.out.powered then s
  else
    let s0 : State := { State.reset with
      agenda := s.agenda
      dev := { Device.reset with tick := s.dev.tick, now := if locked then c.instant % 2 ^ 56 else 0, out := { Device.reset.out with
        controller := c.controller % 32, fwSlot := !(ok.getD 1 true), fwVersion := c.version, measured := [c.version] } } }
    match failedStep ok c with
    | some i => s0.onDev (fun d => { d with out := { d.out with bust := BitVec.ofNat 64 (i + 256 * bringUpError i) } })
    | none =>
      let s1 := if locked then s0.setShReg 0 0x6028 0x8000000000000000 else s0.raiseVector 4
      (s1.configure c.partitions).raiseVector 0

end Sys2Proof.Machine
end

