-- ==== Sys2Proof/Machine/Park.lean ====
section
/-! DEFINITION. The continuation record, automatic parking, and the checks of a buffer in TCM that the task and message instructions
name (R33 to R36, R219, R229, R257). -/

namespace Sys2Proof.Machine

/-! ### The continuation record (R33) -/

/-- The 192 bytes of a parked context's record: the 64-byte header, and 16 slots. Its dispatcher alone reads and writes it
(log entry 65). -/
def Cont.record (c : Cont) : BitVec 1536 :=
  BitVec.ofNat 1536 (packFields ([(0, c.ctx.token.toNat), (64, c.pc.toNat), (128, c.ctx.rel % 2 ^ 56), (184, c.code.toNat),
    (192, c.obj.toNat), (256, c.mask.toNat), (448, c.fstat.toNat), (456, c.ix.toNat)] ++
    (List.range 7).map (fun i => (336 + 16 * i, (c.pred.toList.getD (i + 1) 0).toNat)) ++
    (c.slots.take 16).zipIdx.map (fun x => (512 + 64 * x.2, x.1.toNat))))

/-! ### Automatic parking (R36) -/

/-- The reason code of a wait that may park; none for a wait that has no code (R34). -/
def WaitReason.code : WaitReason → Option (BitVec 8)
  | .fullEmpty => some 2
  | .future => some 3
  | .queue => some 4
  | .copy => some 5
  | .remote => some 6
  | _ => none

/-- The registers written since the task started, with the destinations of outstanding loads (R36). -/
def Core.automaticMask (c : Core) : Word :=
  (c.eng.remote.filter Remote.inRecord).foldl (fun m r => match r.dst with
    | .g x _ | .amo x _ => markBit m x.toNat
    | .v x _ | .port x _ => if x.toNat < 28 then markBit m (32 + x.toNat) else m) c.x.written

/-- Whether some outstanding load goes to v28 to v31. -/
def Core.highPending (c : Core) : Bool :=
  c.eng.remote.any (fun r => r.ofCtx && match r.dst with
    | .v x _ | .port x _ => decide (28 ≤ x.toNat)
    | _ => false)

/-- The conditions of R36 but for the threshold: the core runs its task in user mode. -/
def State.mayPark (s : State) : Bool :=
  let c := s.core
  c.x.ctx.isSome && decide (c.x.mode = .user) && !c.x.inHandler && decide (c.gang = []) &&
    decide (c.sw.parkCycles ≠ 0) && decide (maskSlots (cleanMask c.automaticMask) ≤ 16) &&
    !c.x.writtenHigh && !c.highPending && !anyLoop c.x.loops &&
    c.mat.slots.all (fun t => decide (t.st = SlotState.free)) && !c.anyPort &&
    s.dev.disp.recs.any (fun r => decide (r.place = 1 ∧ r.cluster = clusterOf c.id) && s.eligible r)

/-- Whether a wait has lasted long enough to park: for a pending register at once, on an empty queue in wake
mode at once, else the threshold (R36, R224). -/
def Core.longEnough (c : Core) (w : Wait) : Bool :=
  match w.reason with
  | .remote => true
  | .queue => decide ((c.ni.queues[(w.obj.extractLsb' 0 3).toNat]'((w.obj.extractLsb' 0 3).isLt)).mode = 2) ||
      decide (c.sw.parkCycles.toNat ≤ w.cycles)
  | _ => decide (c.sw.parkCycles.toNat ≤ w.cycles)

/-- The acting core parks its waiting context when R36 lets it. -/
def State.parkWaiting (s : State) : State :=
  match s.core.x.wait with
  | none => s
  | some w =>
    match w.reason.code with
    | none => s
    | some code =>
      if s.mayPark && s.core.longEnough w then s.parkContext code w.obj (cleanMask s.core.automaticMask) else s

/-- A wait on an empty queue in wake mode parks at once, where R36 lets it (R224). -/
def State.parkAtOnce (s : State) : State :=
  match s.core.x.wait with
  | some w => if w.reason = .queue ∧ (s.core.ni.queues[(w.obj.extractLsb' 0 3).toNat]'((w.obj.extractLsb' 0 3).isLt)).mode = 2 then s.parkWaiting else s
  | none => s

/-! ### Buffers in TCM -/

/-- What stops an access of `n` bytes at a TCM buffer aligned to `align`: another path or bytes past TCM, then
reserved space, then alignment. -/
def State.tcmTrap (s : State) (k : AKind) (a : Word) (n align : Nat) : Option Flow :=
  match pathOf a with
  | some (.tcm, off) =>
    if 0x10000 < off + n then some (.trap 0x05 a 0) else accessTrapAt s.core k a (max n 1) align false false
  | _ => some (.trap 0x05 a 0)

/-- The offset in TCM of an address. -/
def tcmOffset (a : Word) : Nat := a.toNat % 2 ^ 56

/-- The TCM bytes of the acting core at an address. -/
def State.tcmBytes (s : State) (a : Word) (n : Nat) : List Byte := s.core.mem.tcm.readN (tcmOffset a) n

end Sys2Proof.Machine
end

