-- ==== Sys2Proof/Machine/Vector.lean ====
section
/-! DEFINITION. The vector and special-function instructions: majors 0x10 to 0x17 (R175 to R190). -/

namespace Sys2Proof.Machine

/-- A lane-wise operation of one source. -/
def lanes1 (l : BitVec 2) (f : {n : Nat} → BitVec n → BitVec n) (x : VReg) : VReg :=
  ofLanes (laneBits l) 0 ((lanesOf (laneBits l) x).map f)

/-- A lane-wise operation of two sources. -/
def lanes2 (l : BitVec 2) (f : {n : Nat} → BitVec n → BitVec n → BitVec n) (x y : VReg) : VReg :=
  ofLanes (laneBits l) 0 (List.zipWith f (lanesOf (laneBits l) x) (lanesOf (laneBits l) y))

/-- A lane-wise operation of three sources. -/
def lanes3 (l : BitVec 2) (f : {n : Nat} → BitVec n → BitVec n → BitVec n → BitVec n) (x y z : VReg) : VReg :=
  ofLanes (laneBits l) 0
    (List.zipWith (fun g c => g c) (List.zipWith f (lanesOf (laneBits l) x) (lanesOf (laneBits l) y)) (lanesOf (laneBits l) z))

/-- A one-source vector instruction under a predicate. -/
def State.vec1 (s : State) (d a : RegNo) (p : BitVec 3) (f : VReg → VReg) : Result :=
  s.withPorts [a] [d] false (fun s => s.finishV [a] d (s.p p) (f (s.v a)) 0)

/-- A two-source vector instruction under a predicate. -/
def State.vec2 (s : State) (d a b : RegNo) (p : BitVec 3) (f : VReg → VReg → VReg) : Result :=
  s.withPorts [a, b] [d] false (fun s => s.finishV [a, b] d (s.p p) (f (s.v a) (s.v b)) 0)

/-- Signed saturation at the lane width (R176). -/
def satSigned {n : Nat} (z : Int) : BitVec n :=
  BitVec.ofInt n (satInt z (-((2 ^ (n - 1) : Nat) : Int)) (((2 ^ (n - 1) : Nat) : Int) - 1))

/-- Unsigned saturation at the lane width (R176). -/
def satUnsigned {n : Nat} (z : Int) : BitVec n := BitVec.ofInt n (satInt z 0 (((2 ^ n : Nat) : Int) - 1))

/-- `vadd` (R176): lanes added. -/
def execVadd (d a b : RegNo) (p : BitVec 3) (l : BitVec 2) (s : State) : Result :=
  s.vec2 d a b p (lanes2 l (fun x y => x + y))

/-- `vsub` (R176): lanes subtracted. -/
def execVsub (d a b : RegNo) (p : BitVec 3) (l : BitVec 2) (s : State) : Result :=
  s.vec2 d a b p (lanes2 l (fun x y => x - y))

/-- `vmul` (R176): low product. -/
def execVmul (d a b : RegNo) (p : BitVec 3) (l : BitVec 2) (s : State) : Result :=
  s.vec2 d a b p (lanes2 l (fun x y => x * y))

/-- `vmulh` (R176): high signed product. -/
def execVmulh (d a b : RegNo) (p : BitVec 3) (l : BitVec 2) (s : State) : Result :=
  s.vec2 d a b p (lanes2 l (fun x y => mulHighSigned x y))

/-- `vmulhn` (R176): high unsigned product. -/
def execVmulhn (d a b : RegNo) (p : BitVec 3) (l : BitVec 2) (s : State) : Result :=
  s.vec2 d a b p (lanes2 l (fun x y => mulHighUnsigned x y))

/-- `vmin` (R176): signed minimum. -/
def execVmin (d a b : RegNo) (p : BitVec 3) (l : BitVec 2) (s : State) : Result :=
  s.vec2 d a b p (lanes2 l (fun x y => pickMin BitVec.slt x y))

/-- `vmax` (R176): signed maximum. -/
def execVmax (d a b : RegNo) (p : BitVec 3) (l : BitVec 2) (s : State) : Result :=
  s.vec2 d a b p (lanes2 l (fun x y => pickMax BitVec.slt x y))

/-- `vminn` (R176): unsigned minimum. -/
def execVminn (d a b : RegNo) (p : BitVec 3) (l : BitVec 2) (s : State) : Result :=
  s.vec2 d a b p (lanes2 l (fun x y => pickMin BitVec.ult x y))

/-- `vmaxn` (R176): unsigned maximum. -/
def execVmaxn (d a b : RegNo) (p : BitVec 3) (l : BitVec 2) (s : State) : Result :=
  s.vec2 d a b p (lanes2 l (fun x y => pickMax BitVec.ult x y))

/-- `vabs` (R176): absolute value, modulo the width. -/
def execVabs (d a : RegNo) (p : BitVec 3) (l : BitVec 2) (s : State) : Result :=
  s.vec1 d a p (lanes1 l (fun x => if x.slt 0 then -x else x))

/-- `vneg` (R176): negated. -/
def execVneg (d a : RegNo) (p : BitVec 3) (l : BitVec 2) (s : State) : Result :=
  s.vec1 d a p (lanes1 l (fun x => -x))

/-- `vand` (R176): AND. -/
def execVand (d a b : RegNo) (p : BitVec 3) (l : BitVec 2) (s : State) : Result :=
  s.vec2 d a b p (lanes2 l (fun x y => x &&& y))

/-- `vor` (R176): OR. -/
def execVor (d a b : RegNo) (p : BitVec 3) (l : BitVec 2) (s : State) : Result :=
  s.vec2 d a b p (lanes2 l (fun x y => x ||| y))

/-- `vxor` (R176): XOR. -/
def execVxor (d a b : RegNo) (p : BitVec 3) (l : BitVec 2) (s : State) : Result :=
  s.vec2 d a b p (lanes2 l (fun x y => x ^^^ y))

/-- `vandn` (R176): AND NOT. -/
def execVandn (d a b : RegNo) (p : BitVec 3) (l : BitVec 2) (s : State) : Result :=
  s.vec2 d a b p (lanes2 l (fun x y => x &&& ~~~y))

/-- `vshl` (R176): shifted left. -/
def execVshl (d a b : RegNo) (p : BitVec 3) (l : BitVec 2) (s : State) : Result :=
  s.vec2 d a b p (lanes2 l (fun x y => x <<< shAmt y))

/-- `vshr` (R176): shifted right logically. -/
def execVshr (d a b : RegNo) (p : BitVec 3) (l : BitVec 2) (s : State) : Result :=
  s.vec2 d a b p (lanes2 l (fun x y => x >>> shAmt y))

/-- `vsra` (R176): shifted right arithmetically. -/
def execVsra (d a b : RegNo) (p : BitVec 3) (l : BitVec 2) (s : State) : Result :=
  s.vec2 d a b p (lanes2 l (fun x y => x.sshiftRight (shAmt y)))

/-- `vadds` (R176): signed saturating sum. -/
def execVadds (d a b : RegNo) (p : BitVec 3) (l : BitVec 2) (s : State) : Result :=
  s.vec2 d a b p (lanes2 l (fun x y => satSigned (x.toInt + y.toInt)))

/-- `vaddsn` (R176): unsigned saturating sum. -/
def execVaddsn (d a b : RegNo) (p : BitVec 3) (l : BitVec 2) (s : State) : Result :=
  s.vec2 d a b p (lanes2 l (fun x y => satUnsigned ((x.toNat : Int) + y.toNat)))

/-- `vsubs` (R176): signed saturating difference. -/
def execVsubs (d a b : RegNo) (p : BitVec 3) (l : BitVec 2) (s : State) : Result :=
  s.vec2 d a b p (lanes2 l (fun x y => satSigned (x.toInt - y.toInt)))

/-- `vsubsn` (R176): unsigned saturating difference. -/
def execVsubsn (d a b : RegNo) (p : BitVec 3) (l : BitVec 2) (s : State) : Result :=
  s.vec2 d a b p (lanes2 l (fun x y => satUnsigned ((x.toNat : Int) - y.toNat)))

/-- `vavg` (R176): signed rounded average. -/
def execVavg (d a b : RegNo) (p : BitVec 3) (l : BitVec 2) (s : State) : Result :=
  s.vec2 d a b p (lanes2 l (fun x y => BitVec.ofInt _ ((x.toInt + y.toInt + 1) / 2)))

/-- `vavgn` (R176): unsigned rounded average. -/
def execVavgn (d a b : RegNo) (p : BitVec 3) (l : BitVec 2) (s : State) : Result :=
  s.vec2 d a b p (lanes2 l (fun x y => BitVec.ofNat _ ((x.toNat + y.toNat + 1) / 2)))

/-- A compare's destination: every byte of an active lane takes the lane's result (R177). -/
def comparePred (w : Nat) (p old : BitVec 16) (res : List Bool) : BitVec 16 :=
  (List.range 16).foldl (fun acc b =>
    if (if laneActive w p (b / (w / 8)) then res.getD (b / (w / 8)) false else old.getLsbD b)
    then acc ||| BitVec.ofNat 16 (2 ^ b) else acc) 0

/-- An integer compare (R177). -/
def State.compareInt (s : State) (d : BitVec 3) (a b : RegNo) (p : BitVec 3) (l : BitVec 2)
    (f : {n : Nat} → BitVec n → BitVec n → Bool) : Result :=
  s.withPorts [a, b] [] false (fun s =>
    let w := laneBits l
    let res := List.zipWith f (lanesOf w (s.v a)) (lanesOf w (s.v b))
    ((s.takeUnits [a, b]).setP d (comparePred w (s.p p) (s.core.r.readP d) res)).done)

/-- `vcmpeq` (R177): equal. -/
def execVcmpeq (d : BitVec 3) (a b : RegNo) (p : BitVec 3) (l : BitVec 2) (s : State) : Result :=
  s.compareInt d a b p l (fun x y => x == y)

/-- `vcmpne` (R177): different. -/
def execVcmpne (d : BitVec 3) (a b : RegNo) (p : BitVec 3) (l : BitVec 2) (s : State) : Result :=
  s.compareInt d a b p l (fun x y => x != y)

/-- `vcmplt` (R177): signed less. -/
def execVcmplt (d : BitVec 3) (a b : RegNo) (p : BitVec 3) (l : BitVec 2) (s : State) : Result :=
  s.compareInt d a b p l (fun x y => x.slt y)

/-- `vcmple` (R177): signed less or equal. -/
def execVcmple (d : BitVec 3) (a b : RegNo) (p : BitVec 3) (l : BitVec 2) (s : State) : Result :=
  s.compareInt d a b p l (fun x y => x.sle y)

/-- `vcmpltn` (R177): unsigned less. -/
def execVcmpltn (d : BitVec 3) (a b : RegNo) (p : BitVec 3) (l : BitVec 2) (s : State) : Result :=
  s.compareInt d a b p l (fun x y => x.ult y)

/-- `vcmplen` (R177): unsigned less or equal. -/
def execVcmplen (d : BitVec 3) (a b : RegNo) (p : BitVec 3) (l : BitVec 2) (s : State) : Result :=
  s.compareInt d a b p l (fun x y => x.ule y)

/-- The format of a floating-point lane: bf16 under `.h8`, f32 under `.w4` (R178). -/
def laneFmt (l : BitVec 2) : FpFmt := if l = 1 then fmtBf16 else fmtF32

/-- The exact values of the lanes of a vector. -/
def fpLanes (l : BitVec 2) (x : VReg) : List Fp := (lanesOf (laneBits l) x).map (fun b => fpDecode (laneFmt l) b.toNat)

/-- A vector of rounded lanes. -/
def fpVec (l : BitVec 2) (rs : List (Nat × FpFlags)) : VReg :=
  ofLanes (laneBits l) 0 (rs.map (fun r => BitVec.ofNat (laneBits l) r.1))

/-- A floating-point compare (R177): `f` gives the result and the flags. -/
def State.compareFp (s : State) (d : BitVec 3) (a b : RegNo) (p : BitVec 3) (l : BitVec 2)
    (f : Fp → Fp → Bool × FpFlags) : Result :=
  s.withPorts [a, b] [] false (fun s =>
    let w := laneBits l
    let res := List.zipWith f (fpLanes l (s.v a)) (fpLanes l (s.v b))
    let s1 := (s.takeUnits [a, b]).setP d (comparePred w (s.p p) (s.core.r.readP d) (res.map (fun r => r.1)))
    (s1.raise (activeFlags w (s.p p) (res.map (fun r => r.2)))).done)

/-- Whether either value is NaN. -/
def eitherNaN (x y : Fp) : Bool := x.isNaN || y.isNaN

/-- NV for any NaN. -/
def nvAny (x y : Fp) : FpFlags := if eitherNaN x y then flagNV else 0

/-- `vfcmpeq` (R177): equal as reals, false with a NaN. -/
def execVfcmpeq (d : BitVec 3) (a b : RegNo) (p : BitVec 3) (l : BitVec 2) (s : State) : Result :=
  s.compareFp d a b p l (fun x y => (!eitherNaN x y && decide (fpCompare x y = .eq), nvOf x y))

/-- `vfcmplt` (R177). -/
def execVfcmplt (d : BitVec 3) (a b : RegNo) (p : BitVec 3) (l : BitVec 2) (s : State) : Result :=
  s.compareFp d a b p l (fun x y => (!eitherNaN x y && decide (fpCompare x y = .lt), nvAny x y))

/-- `vfcmple` (R177). -/
def execVfcmple (d : BitVec 3) (a b : RegNo) (p : BitVec 3) (l : BitVec 2) (s : State) : Result :=
  s.compareFp d a b p l (fun x y => (!eitherNaN x y && decide (fpCompare x y ≠ .gt), nvAny x y))

/-- `vfcmpun` (R177): either is NaN. -/
def execVfcmpun (d : BitVec 3) (a b : RegNo) (p : BitVec 3) (l : BitVec 2) (s : State) : Result :=
  s.compareFp d a b p l (fun x y => (eitherNaN x y, nvOf x y))

/-- The end of a floating-point instruction: lanes rounded to the format, flags of the lanes written. -/
def State.finishFp (s : State) (srcs : List RegNo) (d : RegNo) (p : BitVec 16) (l : BitVec 2) (xs : List (Fp × FpFlags)) : Result :=
  let rs := xs.map (fpFinish (laneFmt l) .rne)
  s.finishV srcs d p (fpVec l rs) (writtenFlags (laneBits l) p (rs.map (fun r => r.2)))

/-- A two-source floating-point instruction (R178). -/
def State.fp2 (s : State) (d a b : RegNo) (p : BitVec 3) (l : BitVec 2) (f : Fp → Fp → Fp × FpFlags) : Result :=
  s.withPorts [a, b] [d] false (fun s =>
    s.finishFp [a, b] d (s.p p) l (List.zipWith f (fpLanes l (s.v a)) (fpLanes l (s.v b))))

/-- A one-source floating-point instruction (R178). -/
def State.fp1 (s : State) (d a : RegNo) (p : BitVec 3) (l : BitVec 2) (f : Fp → Fp × FpFlags) : Result :=
  s.withPorts [a] [d] false (fun s => s.finishFp [a] d (s.p p) l ((fpLanes l (s.v a)).map f))

/-- A three-source floating-point instruction; every lane is active (R180). -/
def State.fp3 (s : State) (d a b c : RegNo) (l : BitVec 2) (f : Fp → Fp → Fp → Fp × FpFlags) : Result :=
  s.withPorts [a, b, c] [d] false (fun s =>
    s.finishFp [a, b, c] d (BitVec.allOnes 16) l
      (List.zipWith (fun g z => g z) (List.zipWith f (fpLanes l (s.v a)) (fpLanes l (s.v b))) (fpLanes l (s.v c))))

/-- `vfadd` (R178): sum. -/
def execVfadd (d a b : RegNo) (p : BitVec 3) (l : BitVec 2) (s : State) : Result :=
  s.fp2 d a b p l (fpAdd)

/-- `vfsub` (R178): difference. -/
def execVfsub (d a b : RegNo) (p : BitVec 3) (l : BitVec 2) (s : State) : Result :=
  s.fp2 d a b p l (fun x y => fpAdd x y.negate)

/-- `vfmul` (R178): product. -/
def execVfmul (d a b : RegNo) (p : BitVec 3) (l : BitVec 2) (s : State) : Result :=
  s.fp2 d a b p l (fpMul)

/-- `vfmin` (R178): smaller, −0 below +0. -/
def execVfmin (d a b : RegNo) (p : BitVec 3) (l : BitVec 2) (s : State) : Result :=
  s.fp2 d a b p l (fpMinMax true)

/-- `vfmax` (R178): larger, −0 below +0. -/
def execVfmax (d a b : RegNo) (p : BitVec 3) (l : BitVec 2) (s : State) : Result :=
  s.fp2 d a b p l (fpMinMax false)

/-- `vfabs` (R178, R179): sign cleared. -/
def execVfabs (d a : RegNo) (p : BitVec 3) (l : BitVec 2) (s : State) : Result :=
  s.fp1 d a p l (fun x => (x.abs, 0))

/-- `vfneg` (R178, R179): sign inverted. -/
def execVfneg (d a : RegNo) (p : BitVec 3) (l : BitVec 2) (s : State) : Result :=
  s.fp1 d a p l (fun x => (x.negate, 0))

/-- `vfrcp` (R178, R179): reciprocal. -/
def execVfrcp (d a : RegNo) (p : BitVec 3) (l : BitVec 2) (s : State) : Result :=
  s.fp1 d a p l (fpRecip)

/-- `vfrsq` (R178, R179): reciprocal square root. -/
def execVfrsq (d a : RegNo) (p : BitVec 3) (l : BitVec 2) (s : State) : Result :=
  s.fp1 d a p l (fpRsqrt)

/-- `vfma` (R180). -/
def execVfma (d a b c : RegNo) (l : BitVec 2) (s : State) : Result := s.fp3 d a b c l (fpFma)

/-- `vfms` (R180). -/
def execVfms (d a b c : RegNo) (l : BitVec 2) (s : State) : Result := s.fp3 d a b c l (fun x y z => fpFma x y z.negate)

/-- `vfnma` (R180). -/
def execVfnma (d a b c : RegNo) (l : BitVec 2) (s : State) : Result := s.fp3 d a b c l (fun x y z => fpFma x.negate y z)

/-- `vfnms` (R180). -/
def execVfnms (d a b c : RegNo) (l : BitVec 2) (s : State) : Result := s.fp3 d a b c l (fun x y z => fpFma x.negate y z.negate)

/-- A three-source integer instruction; every lane is active (R180). -/
def State.vec3 (s : State) (d a b c : RegNo) (f : VReg → VReg → VReg → VReg) : Result :=
  s.withPorts [a, b, c] [d] false (fun s =>
    s.finishV [a, b, c] d (BitVec.allOnes 16) (f (s.v a) (s.v b) (s.v c)) 0)

/-- `vmac` (R180): signed saturating multiply-accumulate. -/
def execVmac (d a b c : RegNo) (l : BitVec 2) (s : State) : Result :=
  s.vec3 d a b c (lanes3 l (fun x y z => satSigned (x.toInt * y.toInt + z.toInt)))

/-- `vmacn` (R180): unsigned saturating multiply-accumulate. -/
def execVmacn (d a b c : RegNo) (l : BitVec 2) (s : State) : Result :=
  s.vec3 d a b c (lanes3 l (fun x y z => satUnsigned ((x.toNat : Int) * y.toNat + z.toNat)))

/-- The lane count of a shape. -/
def laneCount (l : BitVec 2) : Nat := 128 / laneBits l

/-- A vector whose lane `i` is `f i`. -/
def buildLanes (l : BitVec 2) (f : Nat → BitVec (laneBits l)) : VReg :=
  ofLanes (laneBits l) 0 ((List.range (laneCount l)).map f)

/-- `vshuf` (R181). -/
def execVshuf (d a b : RegNo) (p : BitVec 3) (l : BitVec 2) (s : State) : Result :=
  s.vec2 d a b p (fun x y => buildLanes l (fun i =>
    if (lane (laneBits l) y i).toNat < laneCount l then lane (laneBits l) x (lane (laneBits l) y i).toNat else 0))

/-- `vsplat` (R181): the low bits of a scalar into every lane. -/
def execVsplat (d a : RegNo) (p : BitVec 3) (l : BitVec 2) (s : State) : Result :=
  s.withPorts [] [d] false (fun s => s.finishV [] d (s.p p) (buildLanes l (fun _ => (s.g a).setWidth _)) 0)

/-- `vext` (R181): one lane, sign-extended, into a scalar register. -/
def execVext (d a b : RegNo) (l : BitVec 2) (s : State) : Result :=
  s.withPorts [a] [] false (fun s =>
    (s.takeUnits [a]).setDone d ((lane (laneBits l) (s.v a) ((s.g b).toNat % laneCount l)).signExtend 64))

/-- `vins` (R181): a scalar into one lane, the other lanes kept. -/
def execVins (d a b : RegNo) (p : BitVec 3) (l : BitVec 2) (s : State) : Result :=
  s.withPorts [] [d] true (fun s =>
    s.finishV [] d (s.p p) (buildLanes l (fun i =>
      if i = (s.g b).toNat % laneCount l then (s.g a).setWidth _ else lane _ (s.core.r.readV d) i)) 0)

/-- `vzip` (R181): the low halves interleaved. -/
def execVzip (d a b : RegNo) (p : BitVec 3) (l : BitVec 2) (s : State) : Result :=
  s.vec2 d a b p (fun x y => buildLanes l (fun i => if i % 2 = 0 then lane _ x (i / 2) else lane _ y (i / 2)))

/-- `vunzip` (R181): the even lanes of both. -/
def execVunzip (d a b : RegNo) (p : BitVec 3) (l : BitVec 2) (s : State) : Result :=
  s.vec2 d a b p (fun x y => buildLanes l (fun i =>
    if i < laneCount l / 2 then lane _ x (2 * i) else lane _ y (2 * (i - laneCount l / 2))))

/-- `vrot` (R181): lanes rotated by a scalar count. -/
def execVrot (d a b : RegNo) (p : BitVec 3) (l : BitVec 2) (s : State) : Result :=
  s.vec1 d a p (fun x => buildLanes l (fun i => lane _ x ((i + (s.g b).toNat) % laneCount l)))

/-- `vsel` (R181): bytes chosen by a predicate; every byte is written. -/
def execVsel (d a b : RegNo) (p : BitVec 3) (_l : BitVec 2) (s : State) : Result :=
  s.vec2 d a b 0 (fun x y => mergeBytes (s.p p) x y)

/-- `vmov` (R181). -/
def execVmov (d a : RegNo) (p : BitVec 3) (_l : BitVec 2) (s : State) : Result := s.vec1 d a p (fun x => x)

/-- The active lanes of a vector (R182). -/
def activeLanes (l : BitVec 2) (p : BitVec 16) (x : VReg) : List (BitVec (laneBits l)) :=
  ((lanesOf (laneBits l) x).zipIdx.filter (fun y => laneActive (laneBits l) p y.2)).map (fun y => y.1)

/-- A reduction: its result in bits 63:0, zeros above, the destination written whole (R182). -/
def State.reduce (s : State) (d a : RegNo) (p : BitVec 3) (l : BitVec 2) (f : List (BitVec (laneBits l)) → Word) : Result :=
  s.withPorts [a] [d] false (fun s =>
    s.finishV [a] d (BitVec.allOnes 16) ((f (activeLanes l (s.p p) (s.v a))).setWidth 128) 0)

/-- `vredadd` (R182): the sum of the sign-extended active lanes. -/
def execVredadd (d a : RegNo) (p : BitVec 3) (l : BitVec 2) (s : State) : Result :=
  s.reduce d a p l (fun xs => xs.foldl (fun z x => z + x.signExtend 64) 0)

/-- `vredmin` (R182): from the largest signed value down. -/
def execVredmin (d a : RegNo) (p : BitVec 3) (l : BitVec 2) (s : State) : Result :=
  s.reduce d a p l (fun xs => (xs.foldl (pickMin BitVec.slt) (BitVec.intMax (laneBits l))).signExtend 64)

/-- `vredmax` (R182): from the least signed value up. -/
def execVredmax (d a : RegNo) (p : BitVec 3) (l : BitVec 2) (s : State) : Result :=
  s.reduce d a p l (fun xs => (xs.foldl (pickMax BitVec.slt) (BitVec.intMin (laneBits l))).signExtend 64)

/-- `vredminn` (R182): from the largest unsigned value down. -/
def execVredminn (d a : RegNo) (p : BitVec 3) (l : BitVec 2) (s : State) : Result :=
  s.reduce d a p l (fun xs => (xs.foldl (pickMin BitVec.ult) (BitVec.allOnes (laneBits l))).setWidth 64)

/-- `vredmaxn` (R182): from zero up. -/
def execVredmaxn (d a : RegNo) (p : BitVec 3) (l : BitVec 2) (s : State) : Result :=
  s.reduce d a p l (fun xs => (xs.foldl (pickMax BitVec.ult) 0).setWidth 64)

/-- One level of the pairwise tree of R102, each node rounded. -/
def pairLevel : List Nat → List Nat × FpFlags
  | x :: y :: r =>
    let z := roundF32 (fpAdd (f32 x) (f32 y))
    let t := pairLevel r
    (z.1 :: t.1, z.2 ||| t.2)
  | r => (r, 0)

/-- The pairwise tree of R102 over `2^k` f32 lanes, with its flags. -/
def pairTree : Nat → List Nat → Nat × FpFlags
  | 0, xs => (xs.headD 0, 0)
  | k + 1, xs =>
    let t := pairLevel xs
    let r := pairTree k t.1
    (r.1, t.2 ||| r.2)

/-- `vfredadd` (R102, R182): the pairwise f32 sum, inactive lanes entering as +0. -/
def execVfredadd (d a : RegNo) (p : BitVec 3) (l : BitVec 2) (s : State) : Result :=
  s.withPorts [a] [d] false (fun s =>
    let xs := (lanesOf (laneBits l) (s.v a)).zipIdx.map (fun x =>
      if laneActive (laneBits l) (s.p p) x.2 then (if l = 1 then x.1.toNat * 65536 else x.1.toNat) else 0)
    let z := pairTree (if l = 1 then 3 else 2) xs
    s.finishV [a] d (BitVec.allOnes 16) (BitVec.ofNat 128 z.1) z.2)

/-- A dot product of R183: the lanes of the old destination plus four byte products each. -/
def State.dot8 (s : State) (d a b : RegNo) (p : BitVec 3) (signed : Bool) : Result :=
  s.withPorts [a, b] [d] true (fun s =>
    let byte (v : VReg) (i : Nat) : Int :=
      if signed then (lane 8 v i).toInt else ((lane 8 v i).toNat : Int)
    let e (i : Nat) : Int :=
      (if signed then (lane 32 (s.core.r.readV d) i).toInt else ((lane 32 (s.core.r.readV d) i).toNat : Int))
        + ((List.range 4).map (fun j => byte (s.v a) (4 * i + j) * byte (s.v b) (4 * i + j))).sum
    let es := (List.range 4).map e
    let io (z : Int) : FpFlags := if signed && (decide (z < -2147483648) || decide (2147483647 < z)) then flagIO else 0
    s.finishV [a, b] d (s.p p) (ofLanes 32 0 (es.map (BitVec.ofInt 32))) (writtenFlags 32 (s.p p) (es.map io)))

/-- `vdot8` (R183): signed bytes, raising IO. -/
def execVdot8 (d a b : RegNo) (p : BitVec 3) (_l : BitVec 2) (s : State) : Result := s.dot8 d a b p true

/-- `vdot8n` (R183): unsigned bytes, no flag. -/
def execVdot8n (d a b : RegNo) (p : BitVec 3) (_l : BitVec 2) (s : State) : Result := s.dot8 d a b p false

/-- `vpop` (R184). -/
def execVpop (d a : RegNo) (p : BitVec 3) (l : BitVec 2) (s : State) : Result :=
  s.vec1 d a p (lanes1 l (fun {n} x => BitVec.ofNat n (popNat n x.toNat)))

/-- `vclz` (R184). -/
def execVclz (d a : RegNo) (p : BitVec 3) (l : BitVec 2) (s : State) : Result :=
  s.vec1 d a p (lanes1 l (fun {n} x => BitVec.ofNat n (clzNat n x.toNat)))

/-- `vctz` (R184). -/
def execVctz (d a : RegNo) (p : BitVec 3) (l : BitVec 2) (s : State) : Result :=
  s.vec1 d a p (lanes1 l (fun {n} x => BitVec.ofNat n (ctzNat n x.toNat)))

/-- The bytes that `vcvt` writes: those of active elements, and everything above the last element (R185). -/
def cvtMask (wd n : Nat) (p : BitVec 16) : BitVec 16 :=
  (List.range 16).foldl (fun acc b =>
    if decide (n * wd / 8 ≤ b) || laneActive wd p (b / (wd / 8)) then acc ||| BitVec.ofNat 16 (2 ^ b) else acc) 0

/-- `vcvt` (R185): `t` the destination type, `u` the source type. Through a bound write port the bytes of an element that is
not active are appended as zero, those whose own predicate bit is 1 too: neither R175 nor R185 gives them (log entry 83, DESIGN
CHOICE). -/
def execVcvt (d a : RegNo) (t u : BitVec 4) (r p : BitVec 3) (s : State) : Result :=
  if t = u then s.illegal (.vcvt d a t u r p)
  else
    s.withPorts [a] [d] false (fun s =>
      let ws := cvtBits u.toNat
      let wd := cvtBits t.toNat
      let n := 128 / max ws wd
      let rs := (List.range n).map (fun i => cvtWrite t.toNat (rndOf r) (cvtRead u.toNat ((s.v a).toNat / 2 ^ (ws * i) % 2 ^ ws)))
      let x := ofLanes wd 0 (rs.map (fun y => BitVec.ofNat wd y.1))
      let x' := if s.core.boundWrite d then mergeBytes (s.p p) x 0 else x
      s.finishV [a] d (cvtMask wd n (s.p p)) x' (activeFlags wd (s.p p) (rs.map (fun y => y.2))))

/-- Code `i` of group `k`: bytes, or nibbles with `f` (R186). -/
def groupCode (f : BitVec 1) (k : BitVec 3) (x : VReg) (i : Nat) : Nat :=
  if f = 1 then x.toNat / 2 ^ (16 * k.toNat + 4 * i) % 16 else x.toNat / 2 ^ (32 * k.toNat + 8 * i) % 256

/-- `vdec` (R186): four codes through a decode table. -/
def execVdec (d a : RegNo) (f : BitVec 1) (k : BitVec 3) (t : BitVec 2) (s : State) : Result :=
  s.withPorts [a] [d] false (fun s =>
    if s.core.tableBusy t.toNat then s.stay .table (t.setWidth 64)
    else
      s.finishV [a] d (BitVec.allOnes 16)
        (ofLanes 32 0 ((List.range 4).map (fun i =>
          BitVec.ofNat 32 (tabDecode (s.core.eng.tabs[t.toNat]'t.isLt) (groupCode f k (s.v a) i))))) 0)

/-- `venc` (R187): four f32 lanes encoded into one group of the destination, its other bytes kept. -/
def execVenc (d a : RegNo) (f : BitVec 1) (k : BitVec 3) (t : BitVec 2) (r : BitVec 3) (s : State) : Result :=
  s.withPorts [a] [d] true (fun s =>
    if s.core.tableBusy t.toNat then s.stay .table (t.setWidth 64)
    else
      let w := if f = 1 then 4 else 8
      let cs := (List.range 4).map (fun i =>
        tabEncode (s.core.eng.tabs[t.toNat]'t.isLt) (2 ^ w) (rndOf r) (f32 (lane 32 (s.v a) i).toNat))
      let group : Nat := (cs.zipIdx.map (fun c => c.1.1 * 2 ^ (w * c.2))).sum
      s.finishV [a] d (BitVec.allOnes 16)
        (fieldPut (4 * w) (4 * w * k.toNat) (s.core.r.readV d) (BitVec.ofNat 128 group))
        (orFlags (cs.map (fun c => c.2))))

/-- A segment table's f32 word at a byte offset (R188). -/
def segWord (m : Memory) (o : Nat) : Nat := natOf (m.readN o 4)

/-- A line of a segment table at a value, fused and rounded once (R189). -/
def segLine (m : Memory) (j : Nat) (x : Fp) : Nat × FpFlags :=
  roundF32 (fpFma (f32 (segWord m (16 + 8 * j))) x (f32 (segWord m (20 + 8 * j))))

/-- A tail rule (R189): zero, ident, or the line held at a boundary. -/
def segTail (m : Memory) (rule : Nat) (bits : Nat) (j : Nat) (b : Fp) : Nat × FpFlags :=
  match rule with
  | 0 => (0, 0)
  | 1 => (bits, 0)
  | _ => segLine m j b

/-- `segev` of one lane (R189), for a table whose header is valid. -/
def segLane (m : Memory) (lo step : Fp) (tails bits : Nat) : Nat × FpFlags :=
  let x := f32 bits
  if x.isNaN then fpRound fmtF32 .rne x
  else
    let hi := (fpAdd lo (fpMul step (.fin false 16 0)).1).1
    let j := fpFloorDiv (fpAdd x lo.negate).1 step
    if j < 0 then segTail m (tails % 4) bits 0 lo
    else if 15 < j then segTail m (tails / 4 % 4) bits 15 hi
    else segLine m j.toNat x

/-- Whether the header of a segment table is valid (R189). -/
def segValid (lo step : Fp) (tails : Nat) : Bool :=
  (match step with | .fin n m _ => !n && decide (m ≠ 0) | _ => false) &&
  (match lo with | .fin _ _ _ => true | _ => false) &&
  decide (tails % 4 ≠ 3) && decide (tails / 4 % 4 ≠ 3)

/-- `segev` (R189). -/
def execSegev (d a : RegNo) (t : BitVec 2) (s : State) : Result :=
  s.withPorts [a] [d] false (fun s =>
    if s.core.eng.segLoads.any (fun x => x.table = t.toNat) then s.stay .table (t.setWidth 64)
    else
      let m := s.core.eng.segs[t.toNat]'t.isLt
      let lo := f32 (segWord m 0)
      let step := f32 (segWord m 4)
      let tails := (m.read 8).toNat
      let rs := (lanesOf 32 (s.v a)).map (fun x =>
        if segValid lo step tails then segLane m lo step tails x.toNat else (0x7FC00000, flagNV))
      s.finishV [a] d (BitVec.allOnes 16) (ofLanes 32 0 (rs.map (fun r => BitVec.ofNat 32 r.1))) (orFlags (rs.map (fun r => r.2))))

end Sys2Proof.Machine
end

