-- ==== Sys2Proof/Machine/Matrix.lean ====
section
/-! DEFINITION. The matrix unit: slots, accumulators and the instructions of majors 0x2E and 0x2F
(R191 to R207). A slot's row is 64 bytes of its kilobyte (log entry 9). -/

namespace Sys2Proof.Machine

/-! ### Formats (R87, R91) -/

/-- Bits of an element in memory. -/
def fmtBits (f : Nat) : Nat :=
  if f = 0 ∨ f = 3 then 32
  else if f = 1 ∨ f = 2 ∨ f = 4 ∨ f = 5 ∨ f = 28 ∨ f = 29 then 16
  else if f = 6 ∨ f = 7 ∨ (10 ≤ f ∧ f ≤ 13) ∨ f = 18 ∨ (20 ≤ f ∧ f ≤ 23) then 8
  else if f = 30 then 1
  else if f = 31 then 2
  else 4

/-- K per slot. -/
def fmtK (f : Nat) : Nat :=
  match fmtBits f with
  | 32 => 16
  | 16 => 32
  | 8 => 64
  | _ => 128

/-- Whether a format is of integer kind. -/
def fmtInteger (f : Nat) : Bool := decide (4 ≤ f ∧ f ≤ 9) || decide (f = 30) || decide (f = 31)

/-- Whether a format is block-scaled. -/
def fmtScaled (f : Nat) : Bool := decide (18 ≤ f ∧ f ≤ 29)

/-- The decode table of a format, if it has one. -/
def fmtTable (f : Nat) : Option (Fin 4) :=
  if 10 ≤ f ∧ f ≤ 17 then some ⟨(f + 2) % 4, by omega⟩
  else if 20 ≤ f ∧ f ≤ 27 then some ⟨f % 4, by omega⟩ else none

/-- The value of an element of real kind. -/
def realValue (tabs : Vector DecTab 4) (f code : Nat) : Fp :=
  match fmtTable f with
  | some t => f32 (tabDecode tabs[t] code)
  | none =>
    match f with
    | 0 => f32 code
    | 1 | 28 => fpDecode fmtBf16 code
    | 2 | 29 => fpDecode fmtF16 code
    | 3 => w19Value code
    | 18 => fpOfInt (signedOf 8 code)
    | _ => fpOfInt (signedOf 4 code)

/-- The value of an element of integer kind, with NV for the i2 code 0b10 (R91). -/
def integerValue (f code : Nat) : Int × FpFlags :=
  match f with
  | 4 => (signedOf 16 code, 0)
  | 6 => (signedOf 8 code, 0)
  | 8 => (signedOf 4 code, 0)
  | 30 => (if code = 0 then 1 else -1, 0)
  | 31 => if code = 1 then (1, 0) else if code = 3 then (-1, 0) else (0, if code = 2 then flagNV else 0)
  | _ => (code, 0)

/-- Element `i` of packed bytes of `eb`-bit elements (R91). -/
def packedElem (bs : List Byte) (eb i : Nat) : Nat := natOf bs / 2 ^ (eb * i) % 2 ^ eb

/-- Codes packed from the lowest bits up. -/
def packNat (eb : Nat) : List Nat → Nat
  | [] => 0
  | c :: cs => c % 2 ^ eb + 2 ^ eb * packNat eb cs

/-! ### Slots -/

/-- The code of element `k` of a slot's row. -/
def Slot.code (t : Slot) (row k : Nat) : Nat :=
  let eb := fmtBits t.fmt.toNat
  natOf (t.data.readN (64 * row + eb * k / 8) ((eb + 7) / 8)) / 2 ^ (eb * k % 8) % 2 ^ eb

/-- Whether an element is valid: below `kv`, and not left out by a gather (R191, R201). -/
def Slot.valid (t : Slot) (row k : Nat) : Bool := decide (k < t.kv) && !t.absent.contains (128 * row + k)

/-- An element of real kind; one that is not valid is +0. -/
def Slot.real (t : Slot) (tabs : Vector DecTab 4) (row k : Nat) : Fp :=
  if t.valid row k then realValue tabs t.fmt.toNat (t.code row k) else .fin false 0 0

/-- An element of integer kind; one that is not valid is 0. -/
def Slot.integer (t : Slot) (row k : Nat) : Int × FpFlags :=
  if t.valid row k then integerValue t.fmt.toNat (t.code row k) else (0, 0)

/-- The scale byte of a block of a row; 0 for a format without scales (R95). -/
def Slot.scale (t : Slot) (row block : Nat) : Byte :=
  if fmtScaled t.fmt.toNat then t.scales.read (16 * row + block) else 0

/-- A slot's row replaced by codes from element 0 on, zeros after them. -/
def Slot.setRow (t : Slot) (row : Nat) (codes : List Nat) : Slot :=
  { t with data := t.data.writeN (64 * row) (bytesOf 64 (packNat (fmtBits t.fmt.toNat) codes)) }

/-- A slot field of a matrix instruction, advanced by the active `loopx` levels (R131). -/
def Core.slotIndex (c : Core) (f : BitVec 4) : Fin 16 :=
  let n := (c.x.loops.toList.map (fun l =>
    if l.active then l.pass * (l.step.extractLsb' 42 4).toNat else 0)).sum
  ⟨(f.toNat + n) % 16, Nat.mod_lt _ (by decide)⟩

/-- A slot of the acting core. -/
def State.slot (s : State) (n : Fin 16) : Slot := s.core.mat.slots[n]

/-- Replace a slot of the acting core. -/
def State.setSlot (s : State) (n : Fin 16) (t : Slot) : State :=
  s.onMat (fun m => { m with slots := m.slots.set n t })

/-- The accumulator a field names. -/
def accIndex (p : BitVec 4) : Fin 4 := ⟨p.toNat % 4, Nat.mod_lt _ (by decide)⟩

/-- Replace an accumulator of the acting core. -/
def State.setAcc (s : State) (n : Fin 4) (a : Acc) : State := s.onMat (fun m => { m with accs := m.accs.set n a })

/-- An element of an accumulator. -/
def Acc.elem (a : Acc) (n : Nat) : Nat := ((aget a.elems n).getD 0).toNat

/-- An accumulator from its 256 elements; zeros are not listed. -/
def Acc.ofElems (k : AccKind) (xs : List Nat) : Acc :=
  ⟨k, (xs.zipIdx.filter (fun x => x.1 % 2 ^ 32 ≠ 0)).map (fun x => (x.2, BitVec.ofNat 32 x.1))⟩

/-- The fault "operand slot state" with a slot or accumulator number (R207). -/
def State.slotFault (s : State) (n : Nat) : Result := s.trap 0x08 (BitVec.ofNat 64 n) 0

/-- A matrix instruction is done at issue, its flags to be raised when it retires in the unit (R98, R193). -/
def State.matrixDone (s : State) (f : FpFlags) : Result := (s.onMat (fun m => { m with flags := m.flags ++ [f] })).done

/-- Whether a decode table that a format needs is being loaded (R94). -/
def State.fmtHeld (s : State) (f : Nat) : Bool :=
  match fmtTable f with
  | some t => s.core.tableBusy t.val
  | none => false

/-- `mclaim` (R194). -/
def execMclaim (p : BitVec 4) (s : State) : Result :=
  let n := s.core.slotIndex p
  if (s.slot n).st = .free then
    (s.setSlot n { s.slot n with st := .claimed, fmt := 0, kv := 0, blk := none, scales := [], absent := [] }).done
  else s.slotFault n.val

/-- `mrel` (R194): a loading slot is waited for. -/
def execMrel (p : BitVec 4) (s : State) : Result :=
  let n := s.core.slotIndex p
  match (s.slot n).st with
  | .free => s.slotFault n.val
  | .loading => s.stay .slot (BitVec.ofNat 64 n.val)
  | _ => (s.setSlot n { s.slot n with st := .free }).done

/-! ### Loads (R195, R196) -/

/-- The valid-K count that a register gives (R195). -/
def kvOf (w : Word) (k : Nat) : Nat :=
  let v := w.toNat / 2 ^ 48
  if v = 0 ∨ k < v then k else v

/-- The bytes of a row that are read now: those of an untimed local path (R196). R206 leaves them unordered against the
core's accesses to other bytes: the model reads them as the `mload` issues (log entry 17, DESIGN CHOICE). -/
def State.rowNow (s : State) (a : Word) (n : Nat) : Option (List Byte) :=
  match pathOf a with
  | some (p, off) =>
    if p.isTimed || decide (p = .globalRo) then none
    else some (s.localBytes p off n)
  | none => none

/-- The rows of an `mload`: their addresses and the bytes that hold valid elements. -/
def loadRows (base : Word) (stride : Word) (count : Nat) : List Word :=
  (List.range count).map (fun r => base + stride * BitVec.ofNat 64 r)

/-- The first of some addresses at which a scratchpad read of `n` bytes meets an uncorrectable error (R282). -/
def State.errorAt (s : State) (rows : List Word) (n : Nat) : Option Word :=
  rows.find? (fun a => match pathOf a with | some (p, off) => s.spadFault p off n | none => false)

/-- `mload` (R195, R196). A row of the scratchpad with an uncorrectable error leaves the slot as it was. -/
def execMload (p : BitVec 4) (g k : RegNo) (s : State) : Result :=
  let n := s.core.slotIndex p
  let f := k.toNat
  let eb := fmtBits f
  let kk := fmtK f
  let desc := s.gNext g
  let kv := kvOf desc kk
  let trans := desc.getLsbD 47
  let stride : Word := (desc.extractLsb' 0 47).signExtend 64
  let full := if trans then 16 * eb / 8 else kk * eb / 8
  let align := min 16 full
  let bytes := if trans then full else (kv * eb + 7) / 8
  let rows := loadRows (s.g g) stride (if trans then kv else 16)
  if (s.slot n).st ≠ .claimed then s.slotFault n.val
  else
    match firstTrap (rows.map (fun a => spanTrapOf s.core .load a full bytes 1 (decide (g = 2)))) with
    | some t => .next (s.finish t)
    | none =>
      if (s.g g).toNat % align ≠ 0 then s.trap 0x04 (s.g g) 0
      else if stride.toNat % align ≠ 0 then s.trap 0x04 stride 0
      else if s.fmtHeld f || rows.any s.viewHeld then s.stay .table (BitVec.ofNat 64 f)
      else
        match s.errorAt rows bytes with
        | some a => (s.defer 0x12 a).done
        | none =>
          let s1 := rows.foldl (fun s a => s.settleAt a bytes) s
          let load : MLoad := ⟨n.val, trans, k, kv, rows.zipIdx.map (fun r => (r.2, r.1, s1.rowNow r.1 bytes)),
            s1.loadInstant 0, s1.reader, s1.clause, s1.slot n⟩
          ((s1.setSlot n { s1.slot n with st := .loading, fmt := k, kv := kv, blk := none, scales := [], absent := [] }).onMat
            (fun m => { m with loads := m.loads ++ [load] })).done

/-- A slot as its rows have landed (R195). -/
def MLoad.land (l : MLoad) (t : Slot) (rows : List (Nat × List Byte)) : Slot :=
  let eb := fmtBits l.fmt.toNat
  let elem (row k : Nat) : Nat :=
    match rows.find? (fun r => decide (r.1 = if l.trans then k else row)) with
    | some r => packedElem r.2 eb (if l.trans then row else k)
    | none => 0
  let t1 := { t with st := .ready, fmt := l.fmt, kv := l.kv, blk := none, scales := [], data := [], absent := [] }
  (List.range 16).foldl (fun t r => t.setRow r ((List.range l.kv).map (elem r))) t1

/-! ### Multiplying (R101, R197 to R201) -/

/-- The kind of a pair of formats that R197 admits; `true` for integer kind. -/
def pairKind (a b : Nat) : Option Bool :=
  if fmtInteger a && fmtInteger b then (if fmtK a = fmtK b then some true else none)
  else if fmtInteger a || fmtInteger b then none
  else if fmtK a = 16 ∨ fmtK b = 16 then (if a = b then some false else none)
  else if fmtK a = fmtK b then some false
  else none

/-- An element of the tree, with the flags raised below it. -/
abbrev Node := Fp × FpFlags

/-- One level of the tree of R101: pairs added and rounded. -/
def treeLevel : List Node → List Node
  | x :: y :: r =>
    let z := roundF32 (fpAdd x.1 y.1)
    (f32 z.1, x.2 ||| y.2 ||| z.2) :: treeLevel r
  | r => r

/-- A block total scaled by its two exponents (R95, R101); a block that no formed group enters is +0. The products of a block
whose scale is 0x80 are NaN and raise nothing. -/
def scaleNode (sa sb : Byte) (formed : Bool) (x : Node) : Node :=
  if !formed then (.fin false 0 0, x.2)
  else if sa = 0x80 ∨ sb = 0x80 then (.nan false, 0)
  else
    match x.1 with
    | .fin n m e =>
      let z := roundF32 (.fin n m (e + sa.toInt + sb.toInt), 0)
      (f32 z.1, x.2 ||| z.2)
    | v => (v, x.2)

/-- The tree of R101 from level `lev`, with the scaling of the level whose nodes are blocks. -/
def treeSum (blockLev : Option Nat) (scaleAt : Nat → Node → Node) : Nat → Nat → List Node → Node
  | 0, _, xs => xs.headD (.fin false 0 0, 0)
  | fuel + 1, lev, xs =>
    let ys := treeLevel xs
    let zs := if blockLev = some lev then ys.zipIdx.map (fun y => scaleAt y.2 y.1) else ys
    treeSum blockLev scaleAt fuel (lev + 1) zs

/-- The number of levels of a tree over `k` leaves. -/
def treeDepth (k : Nat) : Nat := Nat.log2 k

/-- One output element of real kind (R101, R201): `formed` tells whether the group of row `k` is formed. -/
def realElem (tabs : Vector DecTab 4) (a b : Slot) (formed : Nat → Bool) (acc : Fp) (i j : Nat) : Nat × FpFlags :=
  let k := fmtK a.fmt.toNat
  let av (n : Nat) : Fp := a.real tabs i n
  let bv (n : Nat) : Fp := b.real tabs j n
  if a.fmt = 0 then
    let r := (List.range k).foldl (fun (x : Fp × FpFlags) n =>
      if formed n then
        let z := roundF32 (fpFma (av n) (bv n) x.1)
        (f32 z.1, x.2 ||| z.2)
      else x) (acc, 0)
    ((fpRound fmtF32 .rne r.1).1, r.2)
  else
    let leaves := (List.range k).map (fun n => if formed n then fpMul (av n) (bv n) else (.fin false 0 0, 0))
    let l := match a.blk with | some l => some l | none => b.blk
    let scaleAt (m : Nat) (x : Node) : Node :=
      let len := l.getD 8
      scaleNode (a.scale i m) (b.scale j m) ((List.range len).any (fun n => formed (m * len + n))) x
    let root := treeSum (l.map Nat.log2) scaleAt (treeDepth k) 1 leaves
    let z := roundF32 (fpAdd acc root.1)
    (z.1, root.2 ||| z.2)

/-- One output element of integer kind (R101). -/
def integerElem (a b : Slot) (formed : Nat → Bool) (acc : Int) (i j : Nat) : Nat × FpFlags :=
  let k := fmtK a.fmt.toNat
  let r := (List.range k).foldl (fun (x : Int × FpFlags) n =>
    if formed n then
      let p := a.integer i n
      let q := b.integer j n
      (x.1 + p.1 * q.1, x.2 ||| p.2 ||| q.2)
    else x) (acc, 0)
  (wrapInt 32 r.1, r.2 ||| (if r.1 < -2147483648 ∨ 2147483647 < r.1 then flagIO else 0))

/-- The accumulator after a multiply, and the flags of every product and rounding (R97, R198). -/
def multiply (tabs : Vector DecTab 4) (a b : Slot) (formed : Nat → Bool) (integer accumulate : Bool) (old : Acc) :
    Acc × FpFlags :=
  let one (n : Nat) : Nat × FpFlags :=
    if integer then integerElem a b formed (if accumulate then signedOf 32 (old.elem n) else 0) (n / 16) (n % 16)
    else realElem tabs a b formed (if accumulate then f32 (old.elem n) else .fin true 0 0) (n / 16) (n % 16)
  let rs := (List.range 256).map one
  (Acc.ofElems (if integer then .s32 else .f32) (rs.map (fun r => r.1)), orFlags (rs.map (fun r => r.2)))

/-- Whether an accumulator's kind admits accumulating a kind (R192, R198). -/
def kindAdmits (k : AccKind) (integer : Bool) : Bool :=
  match k with
  | .z => true
  | .f32 => !integer
  | .s32 => integer

/-- A k operand without scales (R198). -/
def Slot.unscaled (t : Slot) : Bool := fmtScaled t.fmt.toNat && t.blk.isNone

/-- The multiply of `mma` and `mmas`, once both slots are ready: a table still loading holds it (R94). -/
def State.runMma (s : State) (p : Fin 4) (a b : Slot) (formed : Nat → Bool) (integer : Bool) (c : BitVec 1) : Result :=
  if s.fmtHeld a.fmt.toNat || s.fmtHeld b.fmt.toNat then s.stay .table 0
  else
    let r := multiply s.core.eng.tabs a b formed integer (decide (c = 1)) s.core.mat.accs[p]
    (s.setAcc p r.1).matrixDone r.2

/-- `mma` (R198). -/
def execMma (p q s2 : BitVec 4) (c : BitVec 1) (s : State) : Result :=
  let nq := s.core.slotIndex q
  let ns := s.core.slotIndex s2
  let a := s.slot nq
  let b := s.slot ns
  if a.st = .free ∨ a.st = .claimed then s.slotFault nq.val
  else if b.st = .free ∨ b.st = .claimed then s.slotFault ns.val
  else
    match pairKind a.fmt.toNat b.fmt.toNat with
    | none => s.slotFault nq.val
    | some integer =>
      if a.unscaled then s.slotFault nq.val
      else if b.unscaled then s.slotFault ns.val
      else if a.blk.isSome && b.blk.isSome && decide (a.blk ≠ b.blk) then
        s.trap 0x09 (BitVec.ofNat 64 (a.blk.getD 0)) (BitVec.ofNat 64 (b.blk.getD 0))
      else if decide (c = 1) && !kindAdmits s.core.mat.accs[accIndex p].kind integer then s.slotFault (accIndex p).val
      else if a.st = .loading then s.stay .slot (BitVec.ofNat 64 nq.val)
      else if b.st = .loading then s.stay .slot (BitVec.ofNat 64 ns.val)
      else s.runMma (accIndex p) a b (fun _ => true) integer c

/-- An entry of a sparse B (R200): its row, column and code. -/
structure SparseEntry where
  row : Nat
  col : Nat
  code : Nat
  deriving DecidableEq, Repr

/-- A TCM access of the gather (R201), `base2` where g2 is its base: a trap, or the bytes. -/
def State.gatherBytes (s : State) (a : Word) (n align : Nat) (base2 : Bool) : Except Flow (List Byte) :=
  match pathOf a with
  | some (.tcm, off) =>
    if 0x10000 < off + n then .error (.trap 0x05 a 0)
    else
      match accessTrapAt s.core .load a n align base2 false with
      | some t => .error t
      | none => .ok (s.core.mem.tcm.readN off n)
  | _ => .error (.trap 0x05 a 0)

/-- The trap of a gather access, if it takes one. -/
def gatherTrap (r : Except Flow (List Byte)) : Option Flow :=
  match r with
  | .error t => some t
  | .ok _ => none

/-- The entries of B below its valid count: the row pointers, then the column indices, then the values, each
array on the TCM path and aligned to its element (R200, R201). -/
def State.gatherAll (s : State) (vals cidx rptr : Word) (eb k kv : Nat) : Except Flow (List SparseEntry) := do
  let ptrs ← s.gatherBytes rptr (2 * (k + 1)) 2 false
  let rows := (List.range kv).map (fun r =>
    let lo := packedElem ptrs 16 r
    (r, (List.range (packedElem ptrs 16 (r + 1) - lo)).map (fun i => lo + i)))
  let last := (rows.flatMap (fun r => r.2.map (fun e => e + 1))).foldl max 0
  let cs ← s.gatherBytes cidx last 1 false
  let vs ← s.gatherBytes vals ((last * eb + 7) / 8) ((eb + 7) / 8) false
  pure (rows.flatMap (fun r => r.2.map (fun e => ⟨r.1, packedElem cs 8 e % 16, packedElem vs eb e⟩)))

/-- The slot that the gather builds: B dense, the elements left out listed (R201). -/
def gatherSlot (t : Slot) (f : BitVec 5) (kv : Nat) (es : List SparseEntry) : Slot :=
  let entry (col row : Nat) : Option SparseEntry := es.reverse.find? (fun e => decide (e.row = row ∧ e.col = col))
  let t1 := { t with
    st := .ready, fmt := f, kv := kv, blk := none, scales := [], data := []
    absent := (List.range (16 * 128)).filter (fun n => decide (n % 128 < kv) && (entry (n / 128) (n % 128)).isNone) }
  (List.range 16).foldl (fun t col => t.setRow col ((List.range kv).map (fun k =>
    match entry col k with | some e => e.code | none => 0))) t1

/-- The descriptor of an `mmas` (R200): its four words as one number. -/
def State.descriptor (s : State) (a : Word) : Nat := natOf (s.core.mem.tcm.readN (a.toNat % 2 ^ 56) 32)

/-- `mmas` (R200, R201, R207): the states of its slots and the scales of Q first, then the descriptor, what it says, and its
arrays, after the core's own synchronising stores to TCM. -/
def execMmas (p q s2 : BitVec 4) (g : RegNo) (x c : BitVec 1) (s : State) : Result :=
  let nq := s.core.slotIndex q
  let ns := s.core.slotIndex s2
  let a := s.slot nq
  if a.st = .free ∨ a.st = .claimed then s.slotFault nq.val
  else if (s.slot ns).st ≠ .claimed then s.slotFault ns.val
  else if a.unscaled then s.slotFault nq.val
  else
  let s1 := s.drain (fun x => x.tcm)
  match gatherTrap (s1.gatherBytes (s.g g) 32 32 (decide (g = 2))) with
  | some t => .next (s.finish t)
  | none =>
    let d := s1.descriptor (s.g g)
    let f : BitVec 5 := BitVec.ofNat 5 d
    if bitsOf d 63 5 ≠ 0 ∨ fmtScaled f.toNat then s.slotFault ns.val
    else
      match pairKind a.fmt.toNat f.toNat with
      | none => s.slotFault nq.val
      | some integer =>
        let kv := kvOf (s.gNext g) (fmtK f.toNat)
        if decide (c = 1) && !kindAdmits s.core.mat.accs[accIndex p].kind integer then s.slotFault (accIndex p).val
        else
          match s1.gatherAll (BitVec.ofNat 64 (d / 2 ^ 192)) (BitVec.ofNat 64 (d / 2 ^ 128)) (BitVec.ofNat 64 (d / 2 ^ 64))
              (fmtBits f.toNat) (fmtK f.toNat) kv with
          | .error t => .next (s.finish t)
          | .ok es =>
            if a.st = .loading then s.stay .slot (BitVec.ofNat 64 nq.val)
            else if s.fmtHeld a.fmt.toNat || s.fmtHeld f.toNat then s.stay .table 0
            else
              let b := gatherSlot (s.slot ns) f kv es
              let formed (k : Nat) : Bool := decide (x = 1) || es.any (fun e => decide (e.row / 8 = k / 8))
              (s1.setSlot ns b).runMma (accIndex p) a b formed integer c

/-- `mscale` (R202): its scales are read at issue as a load of the task (R149, R282; log entry 17, DESIGN CHOICE, since R206
leaves them unordered against the core's accesses to other bytes). -/
def execMscale (q : BitVec 4) (g : RegNo) (l : BitVec 2) (s : State) : Result :=
  let nq := s.core.slotIndex q
  let t := s.slot nq
  let len := 8 * 2 ^ l.toNat
  let n := (s.gNext g).toNat % 65536
  let need := (t.kv + len - 1) / len
  if t.st = .free ∨ t.st = .claimed ∨ !fmtScaled t.fmt.toNat then s.slotFault nq.val
  else if n < need then s.trap 0x09 (BitVec.ofNat 64 n) (BitVec.ofNat 64 need)
  else
    match spanTrap s.core .load (s.g g) (16 * n) 1 (decide (g = 2)) with
    | some f => .next (s.finish f)
    | none =>
      if t.st = .loading then s.stay .slot (BitVec.ofNat 64 nq.val)
      else
        let s1 := s.settleAt (s.g g) (16 * n)
        match s1.engineReadN s1.reader (s.g g) (s1.loadInstant 0) (16 * n) with
        | .wait => s.stay .table 0
        | .fault e => (s1.defer e (s.g g)).done
        | .bytes bs =>
          let scales : Memory := (List.range 16).foldl (fun m r => m.writeN (16 * r) ((bs.drop (r * n)).take need)) []
          let s2 := s1.noteReadN s1.reader (s.g g) (s1.loadInstant 0) (16 * n)
          (s2.setSlot nq { t with blk := some len, scales := scales }).matrixDone (if need < n then flagSS else 0)

/-- The value of an accumulator's element: an integer of S32, else f32 (R192, R203). -/
def Acc.value (a : Acc) (n : Nat) : Fp :=
  match a.kind with
  | .s32 => fpOfInt (signedOf 32 (a.elem n))
  | _ => f32 (a.elem n)

/-- An element converted to a format below 18 (R203). -/
def convertElem (tabs : Vector DecTab 4) (f : Nat) (r : Rnd) (x : Fp) : Nat × FpFlags :=
  match fmtTable f with
  | some t => tabEncode tabs[t] (if f < 14 then 256 else 16) r x
  | none =>
    match f with
    | 0 => fpRound fmtF32 r x
    | 1 => fpRound fmtBf16 r x
    | 2 => fpRound fmtF16 r x
    | 3 => cvtWrite 3 r x
    | 4 => fpToInt true 16 r x
    | 5 => fpToInt false 16 r x
    | 6 => fpToInt true 8 r x
    | 7 => fpToInt false 8 r x
    | 8 => fpToInt true 4 r x
    | _ => fpToInt false 4 r x

/-- The 256 elements of an accumulator converted, with their flags. -/
def Acc.convert (a : Acc) (tabs : Vector DecTab 4) (f : Nat) (r : Rnd) : List Nat × FpFlags :=
  let rs := (List.range 256).map (fun n => convertElem tabs f r (a.value n))
  (rs.map (fun x => x.1), orFlags (rs.map (fun x => x.2)))

/-- `mcvt` (R203). -/
def execMcvt (p q : BitVec 4) (r : BitVec 3) (k : RegNo) (s : State) : Result :=
  let nq := s.core.slotIndex q
  if 18 ≤ k.toNat then s.illegal (.mcvt p q r k)
  else if (s.slot nq).st ≠ .claimed then s.slotFault nq.val
  else if s.fmtHeld k.toNat then s.stay .table (k.setWidth 64)
  else
    let c := s.core.mat.accs[accIndex p].convert s.core.eng.tabs k.toNat (rndOf r)
    let t : Slot := { s.slot nq with st := .ready, fmt := k, kv := 16, blk := none, scales := [], data := [], absent := [] }
    (s.setSlot nq ((List.range 16).foldl (fun t i => t.setRow i ((c.1.drop (16 * i)).take 16)) t)).matrixDone c.2

/-- The keys of the 16-byte pieces of a tile on a timed path, or the fault of the first piece that has one and its
address: nothing of a tile is stored where one piece faults (R204, R207). -/
def State.pieceKeys (s : State) (p : Path) (a : Word) (off inst : Nat) : List Nat → Except (BitVec 8 × Word) (List Nat)
  | [] => .ok []
  | i :: is =>
    let at_ := a + BitVec.ofNat 64 (16 * i)
    let key : Except (BitVec 8) Nat :=
      if p = .loft then
        if s.loftAllowed (s.core.x.ctx.map (fun x => x.part)) (off + 16 * i) 16 then .ok (off + 16 * i) else .error 0x11
      else s.walked (s.core.part s) (decide (s.core.x.mode = .user)) true (off + 16 * i) inst
    match key with
    | .error c => .error (c, at_)
    | .ok k =>
      match s.pieceKeys p a off inst is with
      | .error e => .error e
      | .ok ks => .ok (k :: ks)

/-- A piece of a tile leaves for its home. -/
def State.sendPiece (s : State) (t : TStore) (a : Word) (bs : List Byte) (i key : Nat) : State :=
  let s1 := s.send { t with addr := a + BitVec.ofNat 64 (16 * i), home := some key, data := atOffsets 0 ((bs.drop (16 * i)).take 16) }
  match s.core.part s, pathOf a with
  | some p, some (.global, va) => s1.countRemote (shingleOf s.core.id) p (va + 16 * i) key
  | _, _ => s1

/-- A tile stored on a timed path as one store of the task: one key, pieces of 16 bytes (R204). -/
def State.sendTile (s : State) (p : Path) (a : Word) (off : Nat) (t : TStore) (bs : List Byte) (f : FpFlags) : Result :=
  match s.pieceKeys p a off t.inst (List.range ((bs.length + 15) / 16)) with
  | .error e => (s.takeSeq.defer e.1 e.2).done
  | .ok ks => (ks.zipIdx.foldl (fun s k => s.sendPiece t a bs k.2 k.1) s.takeSeq).matrixDone f

/-- `mstore` (R204). -/
def execMstore (p : BitVec 4) (g k : RegNo) (s : State) : Result :=
  let eb := fmtBits k.toNat
  let n := 256 * eb / 8
  let a := s.g g
  if 18 ≤ k.toNat then s.illegal (.mstore p g k)
  else
    match spanTrap s.core .store a n 16 (decide (g = 2)) with
    | some f => .next (s.finish f)
    | none =>
      if s.fmtHeld k.toNat then s.stay .table (k.setWidth 64)
      else
        let acc := s.core.mat.accs[accIndex p]
        let c := if k = 0 then ((List.range 256).map acc.elem, (0 : FpFlags)) else acc.convert s.core.eng.tabs k.toNat .rne
        let bs := bytesOf n (packNat eb c.1)
        match pathOf a with
        | some (q, off) =>
          if q.isTimed then
            let nowOnly := match s.core.x.ctx with | some x => x.nowOnly | none => true
            let inst := if nowOnly then s.dev.now + 1 else s.storeInstant 0
            s.sendTile q a off (s.storeFrame a inst) bs c.2
          else if s.spadFault q off n then (s.defer 0x12 a).done
          else (s.localStore (decide (q = .tcm)) (atOffsets off bs) false).matrixDone c.2
        | none => s.matrixDone c.2

/-- `mzero` (R205). -/
def execMzero (p : BitVec 4) (s : State) : Result := (s.setAcc (accIndex p) ⟨.z, []⟩).done

/-- `mtr` (R205). -/
def execMtr (p : BitVec 4) (s : State) : Result :=
  let acc := s.core.mat.accs[accIndex p]
  (s.setAcc (accIndex p) (Acc.ofElems acc.kind ((List.range 256).map (fun n => acc.elem (n % 16 * 16 + n / 16))))).done

end Sys2Proof.Machine
end

