-- ==== Sys2Proof/Machine/Register.lean ====
section
/-! DEFINITION. The device registers of a shingle: what a read returns and what a write does, by who makes
it (R281, R285, R292, R295, R300, R302, R320 to R325, R328, R329, R332, R333, R340). -/

namespace Sys2Proof.Machine

/-- The writer that an access stands for. -/
def State.writer (s : State) : RegSrc → Writer
  | .core k => .supervisor k ((s.coreAt k).part s)
  | .host p => .host (s.hostPart p)
  | .firmware _ => .firmware

/-! ### Capability list (R323, R324) -/

/-- The capabilities of a shingle: id, offset and length of the block. -/
def capabilities (sh : Nat) : List (Nat × Nat × Nat) :=
  [(1, 0x100, 0x20)] ++ (if sh = 0 then [(2, 0x1000, 0x88)] else []) ++
  [(3, 0x2000, 0x180), (4, 0x3000, 0x68), (5, 0x3100, 0x10), (6, 0x4000, 0x128)] ++
  (if sh < 8 ∨ 24 ≤ sh then [(7, 0x5000, 0xD00)] else []) ++
  [(8, 0x6000, 0xD00), (9, 0x7000, 0x28), (10, 0x800, 0x360)]

/-- A word of the capability list: two a record. -/
def capabilityWord (sh i : Nat) : Nat :=
  let cs := capabilities sh
  match cs[i / 2]? with
  | none => 0
  | some c =>
    if i % 2 = 0 then c.1 + 2 ^ 16
    else c.2.1 + c.2.2 * 2 ^ 16 + (if i / 2 + 1 < cs.length then (i / 2 + 1) * 16 else 0) * 2 ^ 32

/-! ### Digest (R285) -/

/-- The exclusion ranges of a partition: base and limit. -/
def Partition.exclusions (q : Partition) : List (Nat × Nat) :=
  (List.range 8).map (fun k => ((q.reg (0x2100 + 16 * k)).toNat, (q.reg (0x2108 + 16 * k)).toNat))

/-- Whether a digest of the range of a partition at an instant is refused. -/
def State.digestRefused (s : State) (q : Partition) (t : Nat) : Bool :=
  let b := q.reg 0x2080
  let l := q.reg 0x2088
  let path (a : Word) : Nat := match pathOf a with | some (.loft, _) => 1 | some (.global, _) => 2 | _ => 0
  decide (t < q.horizon ∨ s.dev.now < t ∨ b.toNat % 64 ≠ 0 ∨ path b = 0) ||
    (decide (b.toNat < l.toNat) && decide (path (l - 1) ≠ path b))

/-- A write of DIGI starts a digest, or is refused; while one is busy it is ignored. -/
def State.startDigest (s : State) (part : Option Nat) (v : Word) : State :=
  match part with
  | none => s
  | some p =>
    match s.partition p with
    | none => s
    | some q =>
      if q.digest then s
      else if s.digestRefused q v.toNat then s.onPart p (fun q => (q.setReg 0x2090 v).setReg 0x2098 0x4000000000000000)
      else s.onPart p (fun q => { (q.setReg 0x2090 v).setReg 0x2098 0 with digest := true })

/-- The visible bytes of a line of a digest, excluded bytes read as zero. -/
def State.digestLine (s : State) (p : Nat) (q : Partition) (t : Nat) (a : Word) : List Byte :=
  let bs := match pathOf a with
    | some (.loft, off) => s.homeBytes off t 64
    | some (.global, va) =>
      match s.translate (some p) false false va t with
      | .ok key => s.homeBytes key t 64
      | .error _ => List.replicate 64 0
    | _ => List.replicate 64 0
  bs.zipIdx.map (fun b =>
    let x := a.toNat + b.2
    if q.exclusions.any (fun e => decide (e.1 ≤ x ∧ x < e.2)) then 0 else b.1)

/-- The digest of a partition's range. -/
def State.digestOf (s : State) (p : Nat) (q : Partition) : Word :=
  let b := (q.reg 0x2080).toNat
  let l := (q.reg 0x2088).toNat
  let t := (q.reg 0x2090).toNat
  (List.range ((l - b + 63) / 64)).foldl (fun d i =>
    let a : Word := BitVec.ofNat 64 (b + 64 * i)
    d + crc64 (bytesOf 8 a.toNat ++ s.digestLine p q t a)) 0

/-- A digest completes. -/
def State.endDigest (s : State) (p : Nat) : State :=
  match s.partition p with
  | none => s
  | some q => if q.digest then s.onPart p (fun x => { x.setReg 0x20A0 (s.digestOf p q) with digest := false }) else s

/-- A write of an exclusion register; one that would make a ninth distinct non-empty range is refused and sets
DCMDST bit 1. -/
def State.writeExclusion (s : State) (part : Option Nat) (off : Nat) (v : Word) : State :=
  match part with
  | none => s
  | some p =>
    s.onPart p (fun q =>
      let q1 := q.setReg off v
      let n := ((q1.exclusions.filter (fun e => decide (e.1 < e.2))).eraseDups).length
      if 8 < n then q.setReg 0x2028 (q.reg 0x2028 ||| 2) else q1.setReg 0x2028 (q.reg 0x2028 &&& 1))

/-! ### Temperatures and counters -/

/-- TJMAX of a shingle (R332): the highest of its junction temperatures as last told (log entry 47). -/
def State.tjMax (s : State) (sh : Nat) : Word := s.shReg sh 0x800 0

/-- The home that counter `h` of a shingle counts for (R54, R329). -/
def counterHome (sh h : Nat) : Nat := sh * 80 + (if h < 64 then 16 + h else h - 64)

/-- Homes and words of the counters at 0x6800. -/
def counterAt (sh off : Nat) : Option (Nat × Bool) :=
  if 0x6800 ≤ off ∧ off < 0x6D00 then some (counterHome sh ((off - 0x6800) / 16), decide (off % 16 = 8)) else none

/-- Whether a shingle has a purlin block. -/
def hasPurlin (sh : Nat) : Bool := decide (sh < 8 ∨ 24 ≤ sh)

/-- The port of a local number of a shingle. -/
def shinglePort (sh l : Nat) : Nat := if sh < 8 then 4 * sh + l else 32 + 4 * (sh - 24) + l

/-! ### Reads -/

/-- A partition-scoped register. -/
def State.partReg (s : State) (part : Option Nat) (off : Nat) : Word :=
  match part.bind s.partition with
  | none => 0
  | some q =>
    match off with
    | 0x2000 | 0x2008 => 0
    | 0x2018 => BitVec.ofNat 64 q.horizon
    | 0x2098 => q.reg 0x2098 ||| (if q.digest then 0x8000000000000000 else 0)
    | o => if (0x2018 ≤ o ∧ o ≤ 0x20A0) ∨ (0x2100 ≤ o ∧ o < 0x2180) then q.reg o else 0

/-- MGTOUCH of a core; a frame from IFR on is never marked (R302). -/
def Core.touched (c : Core) : Word :=
  let below : BitVec 16 := BitVec.ofNat 16 (2 ^ c.csr.ifr.toNat - 1)
  c.x.touchTcm.setWidth 64 ||| ((c.x.touchIm &&& below).setWidth 64 <<< 16)

/-- IDREV (R325): the silicon revision as `qrd srev` gives it to the core that reads; to the host and the firmware that of the
shingle's first physical core (R158; log entry 60). -/
def State.revision (s : State) (src : RegSrc) (sh : Nat) : Word :=
  match src with
  | .core k => Config.coreRev (s.coreAt k).phys
  | _ => Config.coreRev (sh * 8192)

/-- A register that has no partition of its own and no side effect. -/
def State.plainReg (s : State) (src : RegSrc) (sh off : Nat) : Word :=
  let own (f : Core → Word) : Word := match src with | .core k => f (s.coreAt k) | _ => 0
  let part := (s.writer src).part
  let busy (op : Nat → Bool) : Word := if s.dev.img.cmds.any (fun c => decide (c.shingle = sh) && op c.op) then 0x8000000000000000 else 0
  if off < 0x100 then BitVec.ofNat 64 (capabilityWord sh (off / 8))
  else if off < 0x800 then
    match off with
    | 0x100 => 0x3034394356
    | 0x108 => s.revision src sh
    | 0x110 => BitVec.ofNat 64 (Config.deviceId.toNat + sh * 2 ^ 32)
    | 0x118 => s.dev.out.bust
    | _ => 0
  else if off < 0x1000 then
    match off with
    | 0x800 => s.tjMax sh
    | 0x808 => s.shReg sh 0x808 0
    | 0x818 => s.shReg sh 0x818 1520
    | o => if 0x900 ≤ o ∧ o < 0xC60 then s.shReg sh o 6076 else 0
  else if off < 0x2000 then
    if sh ≠ 0 ∨ off % 0x40 = 0x20 ∧ off < 0x1080 ∨ 0x1088 ≤ off then 0
    else if off = 0x1028 ∨ off = 0x1068 then
      s.shReg 0 off 0 ||| (if s.dev.out.hostCopies.any (fun c => c.port = (off - 0x1000) / 0x40) then 0x8000000000000000 else 0)
    else s.shReg 0 off 0
  else if off < 0x3000 then s.partReg part off
  else if off < 0x4000 then
    match off with
    | 0x3018 => s.tmStatus sh
    | 0x3060 => s.pmStatus part sh
    | 0x3100 => s.vdRead part sh false
    | 0x3108 => s.vdRead part sh true
    | 0x3000 | 0x3008 | 0x3040 | 0x3048 | 0x3050 => s.shReg sh off 0
    | _ => 0
  else if off < 0x5000 then
    match off with
    | 0x4000 => own (fun c => c.x.mglive)
    | 0x4008 => own Core.touched
    | 0x4018 => s.shReg sh 0x4018 0 ||| busy (fun o => o == 3)
    | 0x4020 => s.shReg sh 0x4020 1024
    | 0x4118 => s.shReg sh 0x4118 0 ||| busy (fun o => o != 3)
    | 0x4100 | 0x4108 | 0x4120 => s.shReg sh off 0
    | _ => 0
  else if off < 0x6000 then
    if !hasPurlin sh then 0
    else if off < 0x5400 then
      let p := s.port (shinglePort sh ((off - 0x5000) / 0x100))
      match off % 0x100 with
      | 0 => BitVec.ofNat 64 ((if p.up then 2 ^ 63 else 0) + p.lanes.toNat)
      | 8 | 0x10 => s.shReg sh off 0
      | _ => 0
    else if off < 0x5800 then s.shReg sh off 0
    else if off = 0x5800 then s.shReg 0 0x5800 0
    else if 0x5C00 ≤ off ∧ off < 0x5D00 then
      (if off % 16 = 0 then Config.egressBase ((off - 0x5C00) / 16) else Config.egressLimit ((off - 0x5C00) / 16)).setWidth 64
    else 0
  else if off < 0x7000 then
    match counterAt sh off with
    | some (h, tie) => (aget (if tie then s.dev.timed.tieCount else s.dev.timed.lateCount) h).getD 0
    | none =>
      match off with
      | 0x6000 => s.shReg 0 0x6000 128
      | 0x6008 => BitVec.ofNat 64 s.dev.now
      | 0x6010 | 0x6018 | 0x6028 => s.shReg 0 off 0
      | _ => 0
  else
    match off with
    | 0x7000 => BitVec.ofNat 64 ((if s.dev.out.fwSlot then 1 else 0) + s.dev.out.fwVersion.toNat * 2 ^ 16)
    | 0x7008 => s.shReg sh 0x7008 0
    | 0x7018 => s.shReg 0 0x7018 0
    | _ => 0

/-- A register is read: its value, and the machine after it. A read of DHELD marks the task (R281). -/
def State.readReg (s : State) (src : RegSrc) (sh off : Nat) : Word × State :=
  if off = 0x2010 then
    match (s.writer src).part with
    | some p => if (s.partition p).isSome then s.dheld p else (0, s)
    | none => (0, s)
  else (s.plainReg src sh off, s)

/-- A read of up to 16 bytes below 0x8000: each register read once, the lower first (R340). -/
def State.readBytes (s : State) (src : RegSrc) (sh off n : Nat) : List Byte × State :=
  let r0 := s.readReg src sh (off / 8 * 8)
  if n ≤ 8 then (((bytesOf 8 r0.1.toNat).drop (off % 8)).take n, r0.2)
  else
    let r1 := r0.2.readReg src sh (off / 8 * 8 + 8)
    (bytesOf 8 r0.1.toNat ++ bytesOf 8 r1.1.toNat, r1.2)

/-! ### What the host reads (R318 to R320, R325, R336) -/

/-- What a read of a BAR returns: all ones until bring-up is complete (R336). -/
def State.barRead (s : State) (bs : List Byte) : List Byte := if s.barsUp then bs else List.replicate bs.length 0xFF

/-- The bring-up status in a port's vendor-specific extended capability, which a host reads before the BARs answer too
(R325). -/
def State.hostBringUpStatus (s : State) : Word := s.dev.out.bust

/-- A read of BAR 0 returns zeros (R318). -/
def State.hostEnqueueRead (s : State) (n : Nat) : List Byte := s.barRead (List.replicate n 0)

/-- A read of BAR 2: the mailbox word as it stands; zero for a number that names no core (R319). -/
def State.hostMailboxRead (s : State) (off n : Nat) : List Byte :=
  let k := off / 32
  let v : Word := if k < coreCount then (s.coreAt k).sw.mbox[off / 8 % 4]'(Nat.mod_lt _ (by decide)) else 0
  s.barRead (((bytesOf 8 v.toNat).drop (off % 8)).take n)

/-- A read of BAR 4 by a port, at any width (R320, R340); the offsets of a core's own window are not the host's, and read
zero (log entry 68). -/
def State.hostRegisterRead (s : State) (port sh off n : Nat) : List Byte × State :=
  if off < 0x8000 ∧ s.barsUp then s.readBytes (.host port) sh off n else (s.barRead (List.replicate n 0), s)

/-! ### Writes -/

/-- A write of a partition-scoped register. -/
def State.writePart (s : State) (part : Option Nat) (off : Nat) (v : Word) : State :=
  match part with
  | none => s
  | some p =>
    match off with
    | 0x2000 => s.drel p v
    | 0x2008 => s.dabort p v
    | 0x2020 => s.onPart p (fun q => q.setReg off (if v.toNat % 256 = 0 then 1 else v &&& 0xFF))
    | 0x2030 => s.onPart p (fun q => q.setReg off (if v.toNat % 65536 = 0 then 1 else v &&& 0xFFFF))
    | 0x2090 => s.startDigest part v
    | o =>
      if (0x2040 ≤ o ∧ o ≤ 0x2078) ∨ o = 0x2080 ∨ o = 0x2088 then s.onPart p (fun q => q.setReg o v)
      else if 0x2100 ≤ o ∧ o < 0x2180 then s.writeExclusion part o v
      else s

/-- A register is written, with the side effect that the register has. Bits of IWCTL and IWVA that R328 does not list are
kept and read back: the spec does not say that they are reserved (log entry 69, DESIGN CHOICE). -/
def State.writeReg (s : State) (src : RegSrc) (sh off : Nat) (v : Word) : State :=
  let w := s.writer src
  let part := w.part
  let fw := decide (w = .firmware)
  if off < 0x800 then s
  else if off < 0x1000 then
    match off with
    | 0x810 => s.tripReset sh (s.tjMax sh).toInt
    | 0x818 => if fw ∧ 960 ≤ v.toNat ∧ v.toNat ≤ 1600 then s.setShReg sh off v else s
    | o => if fw ∧ 0x900 ≤ o ∧ o < 0xC60 then s.setShReg sh o (if v.toNat % 65536 = 0 then 1 else v &&& 0xFFFF) else s
  else if off < 0x2000 then
    if sh ≠ 0 then s
    else if off = 0x1080 then s.setShReg 0 off v
    else if 0x1080 < off then s
    else
      match off % 0x40 with
      | 0x00 | 0x08 | 0x10 | 0x18 => s.setShReg 0 off v
      | 0x20 => if v = 1 then s.hostStart ((off - 0x1000) / 0x40) false else if v = 2 then s.hostStart ((off - 0x1000) / 0x40) true else s
      | 0x30 => s.setShReg 0 off (v &&& 0x7F)
      | _ => s
  else if off < 0x3000 then s.writePart part off v
  else if off < 0x4000 then
    match off with
    | 0x3000 | 0x3008 | 0x3040 => s.setShReg sh off v
    | 0x3048 => s.setShReg sh off (v &&& 0x3FFFFFF)
    | 0x3050 => s.setShReg sh off (v &&& 0xFFFFFFFFFFFFFF)
    | 0x3010 => s.tmCommand part sh v
    | 0x3058 => s.pmCommand part sh v
    | 0x3100 => s.vdRequest part sh v
    | _ => s
  else if off < 0x5000 then
    match off with
    | 0x4010 => s.mgCommand w sh v
    | 0x4020 => s.setShReg sh off (if v.toNat % 65536 = 0 then 1 else v &&& 0xFFFF)
    | 0x4100 | 0x4120 => s.setShReg sh off v
    | 0x4108 => s.setShReg sh off (v &&& 0x3FFFF)
    | 0x4110 => s.scCommand w sh v
    | _ => s
  else if off < 0x6000 then
    if !hasPurlin sh then s
    else if off < 0x5400 then (if off % 0x100 = 8 ∨ off % 0x100 = 0x10 then s.setShReg sh off v else s)
    else if off < 0x5800 then s.setShReg sh off v
    else if off = 0x5800 then s.setShReg 0 0x5800 v
    else s
  else if off < 0x7000 then
    match counterAt sh off with
    | some (h, tie) =>
      s.onTimed (fun m => if tie then { m with tieCount := aset m.tieCount h v } else { m with lateCount := aset m.lateCount h v })
    | none =>
      match off with
      | 0x6000 => s.writePeriod v
      | 0x6010 => s.setShReg 0 off (v &&& 0x3F01)
      | 0x6018 => s.setShReg 0 off v
      | _ => s
  else
    match off with
    | 0x7008 => s.setShReg sh off v
    | 0x7010 => s.fwCommand sh v
    | 0x7020 => s.heartbeat
    | _ => s

/-- Registers are written one after another, the lower first (R340). -/
def State.writeRegs (s : State) (src : RegSrc) (sh off : Nat) : List Word → State
  | [] => s
  | v :: vs => State.writeRegs (s.writeReg src sh off v) src sh (off + 8) vs

/-- The 64-bit values of bytes. -/
def wordsOf (bs : List Byte) : List Word :=
  (List.range (bs.length / 8)).map (fun i => BitVec.ofNat 64 (natOf ((bs.drop (8 * i)).take 8)))

/-- A write of 8 or 16 bytes aligned to their number; other widths change nothing, and from the host they are
counted in HDROP (R320, R340). -/
def State.writeBytes (s : State) (src : RegSrc) (sh off : Nat) (bs : List Byte) : State :=
  if (bs.length = 8 ∨ bs.length = 16) ∧ off % bs.length = 0 then
    (if off < 0x8000 then s.writeRegs src sh off (wordsOf bs) else s)
  else
    match src with
    | .host _ => s.hostDrop
    | _ => s

end Sys2Proof.Machine
end

