-- ==== Sys2Proof/Machine/Dev.lean ====
section
/-! DEFINITION. The DEV path of a core: the shingle registers below 0x8000, and the window on the core's own
matrix unit and copy records above (R265, R340). -/

namespace Sys2Proof.Machine

/-! ### Items of the core window -/

/-- The code of a block length; 3 for a slot with no scales bound. -/
def blockCode (b : Option Nat) : Nat :=
  match b with
  | some 8 => 0
  | some 16 => 1
  | some 32 => 2
  | _ => 3

/-- The block length of a code. -/
def codeBlock (n : Nat) : Option Nat :=
  match n with
  | 0 => some 8
  | 1 => some 16
  | 2 => some 32
  | _ => none

/-- The code of a slot's state. -/
def SlotState.code : SlotState → Nat
  | .free => 0
  | .claimed => 1
  | .loading => 2
  | .ready => 3

/-- The state that a written code gives: 2 is taken as READY. -/
def codeState (n : Nat) : SlotState :=
  match n with
  | 0 => .free
  | 1 => .claimed
  | _ => .ready

/-- A slot word. -/
def Slot.word (t : Slot) : Nat := t.st.code + t.fmt.toNat * 4 + t.kv % 256 * 256 + blockCode t.blk * 65536

/-- A slot with its word written; elements that a gather left out stay so only under the same format. -/
def Slot.ofWord (t : Slot) (v : Nat) : Slot :=
  { t with st := codeState (v % 4), fmt := BitVec.ofNat 5 (v / 4), kv := bitsOf v 15 8, blk := codeBlock (bitsOf v 17 16)
           absent := if t.fmt = BitVec.ofNat 5 (v / 4) then t.absent else [] }

/-- The code of an accumulator's kind. -/
def AccKind.code : AccKind → Nat
  | .z => 0
  | .f32 => 1
  | .s32 => 2

/-- An accumulator with its kind written; 3 changes nothing. -/
def Acc.ofKind (a : Acc) (v : Nat) : Acc :=
  match v % 4 with
  | 0 => { a with kind := .z }
  | 1 => { a with kind := .f32 }
  | 2 => { a with kind := .s32 }
  | _ => a

/-- A byte of an accumulator. -/
def Acc.byte (a : Acc) (o : Nat) : Byte := BitVec.ofNat 8 (a.elem (o / 4) / 2 ^ (8 * (o % 4)))

/-- An accumulator with a byte replaced. -/
def Acc.setByte (a : Acc) (o : Nat) (b : Byte) : Acc :=
  let v : BitVec 32 := BitVec.ofNat 32 (natOf (setAt (bytesOf 4 (a.elem (o / 4))) (o % 4) b))
  { a with elems := if v = 0 then adel a.elems (o / 4) else aset a.elems (o / 4) v }

/-- A slot with a byte of its data replaced: the elements that the byte holds are no longer left out. -/
def Slot.setByte (t : Slot) (o : Nat) (b : Byte) : Slot :=
  let eb := fmtBits t.fmt.toNat
  let first := o % 64 * 8 / eb
  let last := (o % 64 * 8 + 7) / eb
  { t with data := t.data.write o b
           absent := t.absent.filter (fun n => !decide (n / 128 = o / 64 ∧ first ≤ n % 128 ∧ n % 128 ≤ last)) }

/-- A word of a copy record. -/
def CopyRec.word (r : CopyRec) (j : Nat) : Word :=
  match j with
  | 0 => r.dst
  | 1 => r.src
  | 2 => r.desc
  | 3 => BitVec.ofNat 64 ((if r.valid then 2 ^ 63 else 0) + r.tag % 2 ^ 17)
  | 4 => BitVec.ofNat 64 (r.seq % 2 ^ 32)
  | 5 => r.readInst
  | 6 => r.writeInst
  | _ => 0

/-- A copy record with a word written. -/
def CopyRec.setWord (r : CopyRec) (j : Nat) (v : Word) : CopyRec :=
  match j with
  | 0 => { r with dst := v, owner := Option.none }
  | 1 => { r with src := v, owner := Option.none }
  | 2 => { r with desc := v, owner := Option.none }
  | 3 => { r with valid := v.getLsbD 63, tag := v.toNat % 2 ^ 17, owner := Option.none }
  | 4 => { r with seq := v.toNat % 2 ^ 32, owner := Option.none }
  | 5 => { r with readInst := v, owner := Option.none }
  | 6 => { r with writeInst := v, owner := Option.none }
  | _ => r

/-- The slot whose data, scales or word stand at an offset. -/
def windowSlot (off : Nat) : Option (Fin 16) :=
  let n :=
    if 0x8000 ≤ off ∧ off < 0xC000 then some ((off - 0x8000) / 0x400)
    else if 0xE000 ≤ off ∧ off < 0xF000 then some ((off - 0xE000) / 256)
    else none
  n.map (fun i => ⟨i % 16, Nat.mod_lt _ (by decide)⟩)

/-- The register-like item at an offset. -/
def Core.windowWord (c : Core) (off : Nat) : Word :=
  if h : 0xD000 ≤ off ∧ off < 0xD080 then
    BitVec.ofNat 64 (c.mat.slots[(off - 0xD000) / 8]'(by omega)).word
  else if h : 0xD080 ≤ off ∧ off < 0xD0A0 then
    BitVec.ofNat 64 (c.mat.accs[(off - 0xD080) / 8]'(by omega)).kind.code
  else if h : 0xD100 ≤ off ∧ off < 0xD300 then
    (c.eng.copyRecs[(off - 0xD100) / 64]'(by omega)).word ((off - 0xD100) / 8 % 8)
  else 0

/-- A byte of the core window. -/
def Core.windowByte (c : Core) (off : Nat) : Byte :=
  if h : 0x8000 ≤ off ∧ off < 0xC000 then
    (c.mat.slots[(off - 0x8000) / 0x400]'(by omega)).data.read ((off - 0x8000) % 0x400)
  else if h : 0xC000 ≤ off ∧ off < 0xD000 then
    (c.mat.accs[(off - 0xC000) / 0x400]'(by omega)).byte ((off - 0xC000) % 0x400)
  else if h : 0xE000 ≤ off ∧ off < 0xF000 then
    (c.mat.slots[(off - 0xE000) / 256]'(by omega)).scales.read ((off - 0xE000) % 256)
  else BitVec.ofNat 8 ((c.windowWord (off / 8 * 8)).toNat / 2 ^ (8 * (off % 8)))

/-- A byte of operand memory, an accumulator or the scales is written. -/
def Core.windowSetByte (c : Core) (off : Nat) (b : Byte) : Core :=
  if h : 0x8000 ≤ off ∧ off < 0xC000 then
    let i := (off - 0x8000) / 0x400
    have hi : i < 16 := by omega
    { c with mat := { c.mat with slots := c.mat.slots.set i (c.mat.slots[i].setByte ((off - 0x8000) % 0x400) b) } }
  else if h : 0xC000 ≤ off ∧ off < 0xD000 then
    let i := (off - 0xC000) / 0x400
    have hi : i < 4 := by omega
    { c with mat := { c.mat with accs := c.mat.accs.set i (c.mat.accs[i].setByte ((off - 0xC000) % 0x400) b) } }
  else if h : 0xE000 ≤ off ∧ off < 0xF000 then
    let i := (off - 0xE000) / 256
    have hi : i < 16 := by omega
    { c with mat := { c.mat with slots := c.mat.slots.set i { c.mat.slots[i] with scales := c.mat.slots[i].scales.write ((off - 0xE000) % 256) b } } }
  else c

/-- A register-like item is written: a slot word, a kind, a word of a copy record, the copy control. -/
def State.windowSetWord (s : State) (off : Nat) (v : Word) : State :=
  if h : 0xD000 ≤ off ∧ off < 0xD080 then
    let i := (off - 0xD000) / 8
    have hi : i < 16 := by omega
    s.onMat (fun m => { m with slots := m.slots.set i (m.slots[i].ofWord v.toNat) })
  else if h : 0xD080 ≤ off ∧ off < 0xD0A0 then
    let i := (off - 0xD080) / 8
    have hi : i < 4 := by omega
    s.onMat (fun m => { m with accs := m.accs.set i (m.accs[i].ofKind v.toNat) })
  else if h : 0xD100 ≤ off ∧ off < 0xD300 then
    let i := (off - 0xD100) / 64
    have hi : i < 8 := by omega
    s.onEng (fun e => { e with copyRecs := e.copyRecs.set i (e.copyRecs[i].setWord ((off - 0xD100) / 8 % 8) v) })
  else if off = 0xD300 then
    if v = 1 then s.squashCopies else if v = 2 then s.reissue else s
  else s

/-! ### Loads and stores on DEV (R340) -/

/-- The slot in LOADING that an access to the window must wait for. -/
def Core.windowWaits (c : Core) (off : Nat) : Option (Fin 16) :=
  match windowSlot off with
  | some i => if c.mat.slots[i].st = SlotState.loading then some i else none
  | none => none

/-- A load of up to 16 bytes on DEV. -/
def State.devRead (s : State) (off n : Nat) : List Byte × State :=
  if off < 0x8000 then s.readBytes (.core s.core.id) (shingleOf s.core.id) off n
  else ((List.range n).map (fun i => s.core.windowByte (off + i)), s)

/-- The value of a register with listed bytes of it replaced. -/
def mergeWord (old : Word) (bs : List (Nat × Byte)) : Word :=
  BitVec.ofNat 64 (natOf (bs.foldl (fun l b => setAt l b.1 b.2) (bytesOf 8 old.toNat)))

/-- One register of DEV is written, if any of its bytes is: bytes that a predicate leaves out keep what a read
gives. -/
def State.devWriteReg (s : State) (off : Nat) (bs : List (Nat × Byte)) : State :=
  if bs.isEmpty then s
  else if off < 0x8000 then
    let src : RegSrc := .core s.core.id
    let sh := shingleOf s.core.id
    s.writeReg src sh off (mergeWord (s.plainReg src sh off) bs)
  else s.windowSetWord off (mergeWord (s.core.windowWord off) bs)

/-- A store of listed bytes (offset from `off`, byte) of an access of `n` bytes on DEV. -/
def State.devWrite (s : State) (off n : Nat) (bs : List (Nat × Byte)) : State :=
  if devRegisterLike off then
    let s1 := s.devWriteReg off (bs.filter (fun b => decide (b.1 < 8)))
    if 8 < n then s1.devWriteReg (off + 8) ((bs.filter (fun b => decide (8 ≤ b.1))).map (fun b => (b.1 - 8, b.2))) else s1
  else { s with core := bs.foldl (fun c b => c.windowSetByte (off + b.1) b.2) s.core }

/-- What a store on DEV must wait for: a slot that is LOADING, or the reduce copies before a squash (R164). -/
def State.devStoreWaits (s : State) (off : Nat) (bs : List (Nat × Byte)) : Option (WaitReason × Word) :=
  let word (o : Nat) : Option (Fin 16) :=
    if h : 0xD000 ≤ o ∧ o < 0xD080 then
      let i : Fin 16 := ⟨(o - 0xD000) / 8, by omega⟩
      if s.core.mat.slots[i].st = SlotState.loading then some i else none
    else none
  let second := if bs.any (fun b => decide (8 ≤ b.1)) then word (off + 8) else none
  match (s.core.windowWaits off).orElse (fun _ => (word off).orElse (fun _ => second)) with
  | some i => some (.slot, BitVec.ofNat 64 i.val)
  | none =>
    if off = 0xD300 ∧ mergeWord 0 (bs.filter (fun b => decide (b.1 < 8))) = 1 ∧ s.core.reducing then some (.copy, 0) else none

end Sys2Proof.Machine
end

