-- ==== Sys2Proof/Machine/Memory.lean ====
section
/-! DEFINITION. Loads, stores and atomics (R142 to R152). -/

namespace Sys2Proof.Machine

/-! ### Loads (R142, R143, R146, R147) -/

/-- Whether a core keeps as many remote accesses as it can (R147). -/
def Core.remoteFull (c : Core) : Bool := decide (remoteLimit ≤ c.eng.remote.length)

/-- The address of the first empty word that an access on a path touches, as its wait names it (R34, R53). -/
def State.emptyUnder (s : State) (p : Path) (off n : Nat) : Option Word :=
  match p.under off n with
  | some (tcm, o, m) => (s.firstEmpty tcm o m).map (wordAddress tcm)
  | none => none

/-- Whether a load that has read its bank at issue may still be performed later: an ordinary one of the scratchpad
into a register (R80, R83). -/
def lateAllowed (dst : RDst) (p : Path) (im : BitVec 2) : Bool :=
  (match p with | .spad | .spadBf16 | .spadView _ => true | _ => false) && decide (im ≠ 3) && (match dst with | .g _ _ | .v _ _ => true | _ => false)

/-- The scratchpad words that an access reads (R53). -/
def spadWords (p : Path) (off n : Nat) : List Nat :=
  match p.under off n with
  | some (false, o, m) => wordsTouched o m
  | _ => []

/-- A load that has read its bank at issue is noted where its banks may still perform it. -/
def State.mayBeLate (s : State) (dst : RDst) (p : Path) (off n : Nat) (a : Word) (im : BitVec 2) : State :=
  if lateAllowed dst p im then
    s.onEng (fun e => { e with loads := e.loads ++ [⟨dst, a, n, s.core.x.handBank, spadWords p off n, s.dev.tick⟩] })
  else s

/-- The destination of a load that is still to be performed counts as written (R36), and keeps its value until then. -/
def State.markDst (s : State) (dst : RDst) : State :=
  match dst with
  | .g r _ => s.setG r (s.g r)
  | .v r _ => s.setVReg r (s.core.r.readV r)
  | _ => s

/-- A scratchpad load that comes after earlier accesses of the core to its words is issued, to be performed word by word
(R51, R80). -/
def State.pendLoad (s : State) (dst : RDst) (p : Path) (off n : Nat) (a : Word) : State :=
  let l : LateLoad := ⟨dst, a, n, s.core.x.handBank, [], s.dev.tick⟩
  (s.markDst dst).onEng (fun e => { e with
    pend := e.pend ++ (spadWords p off n).map (fun w => ⟨4 * w, false, [], false, none, some l, s.dev.tick⟩) })

/-- Whether a scratchpad load is issued before it is performed: an earlier access of the core to its words is still to be
performed. A load into a register that the end of its own clause advances is performed at issue (R130; log entry 17, DESIGN
CHOICE). -/
def State.loadPends (s : State) (dst : RDst) (p : Path) (off n : Nat) (im : BitVec 2) : Bool :=
  lateAllowed dst p im && s.owesWords p off n && !(match dst.scalar with | some r => s.core.loopRegs.contains r | none => false)

/-- A load of `n` bytes that has passed the checks of R48; a scratchpad word with an uncorrectable error gives a deferred
fault and no value (R282). -/
def State.loadFrom (s : State) (dst : RDst) (p : Path) (off n : Nat) (a : Word) (im : BitVec 2) : Result :=
  if p.isTimed then
    match s.instantTrap true im with
    | some f => .next (s.finish f)
    | none =>
      if s.core.remoteFull then s.stay .remoteSlot 0
      else (s.beginRemote dst a n (some (s.loadInstant im)) (s.loadStart p off n)).done
  else if p = .globalRo then
    match s.roHit off n with
    | some bs => (s.writeReply dst s.core.x.handBank n bs).done
    | none => if s.core.remoteFull then s.stay .remoteSlot 0 else (s.beginRemote dst a n none .walk).done
  else if p = .dev then
    match s.core.windowWaits off with
    | some i => s.stay .slot (BitVec.ofNat 64 i.val)
    | none => ((s.devRead off n).2.writeReply dst s.core.x.handBank n (s.devRead off n).1).done
  else if p.heldByTable s.core then s.stay .table 0
  else
    let s1 := s.settle p off n
    match (if im = 3 then s1.emptyUnder p off n else none) with
    | some w => s1.stay .fullEmpty w
    | none =>
      if s.spadFault p off n then (s.defer 0x12 a).done
      else if s.loadPends dst p off n im then (s.pendLoad dst p off n a).done
      else ((s1.writeReply dst s.core.x.handBank n (s1.localBytes p off n)).mayBeLate dst p off n a im).done

/-- A scalar load of `n` bytes (R142). -/
def State.scalarLoad (s : State) (t b : RegNo) (im : BitVec 2) (zeroExt : Bool) (o : BitVec 10) (n : Nat) : Result :=
  let a := s.baseOffset b o n
  match accessTrap s.core .load a n (decide (b = 2)) (decide (im = 3)) with
  | some f => .next (s.finish f)
  | none =>
    match pathOf a with
    | some (p, off) => s.loadFrom (.g t zeroExt) p off n a im
    | none => s.trap 0x05 a 0

/-- `ldb` (R142). -/
def execLdb (t b : RegNo) (i : BitVec 2) (e : BitVec 1) (o : BitVec 10) (s : State) : Result :=
  s.scalarLoad t b i (decide (e = 1)) o 1

/-- `ldh` (R142). -/
def execLdh (t b : RegNo) (i : BitVec 2) (e : BitVec 1) (o : BitVec 10) (s : State) : Result :=
  s.scalarLoad t b i (decide (e = 1)) o 2

/-- `ldw` (R142). -/
def execLdw (t b : RegNo) (i : BitVec 2) (e : BitVec 1) (o : BitVec 10) (s : State) : Result :=
  s.scalarLoad t b i (decide (e = 1)) o 4

/-- `ldd` (R142). -/
def execLdd (t b : RegNo) (i : BitVec 2) (o : BitVec 10) (s : State) : Result := s.scalarLoad t b i false o 8

/-- `vld` (R146); the stream fault of a misused port is taken before the traps of R48, in an order that the spec leaves
open (log entry 70, DESIGN CHOICE): into a bound write port it appends, with zeros where the predicate is 0. -/
def execVld (t b : RegNo) (i : BitVec 2) (p : BitVec 3) (o : BitVec 10) (s : State) : Result :=
  let a := s.baseOffset b o 16
  if s.core.boundRead t then .next (s.finish (streamFault t))
  else
    match firstTrap [accessTrap s.core .load a 16 (decide (b = 2)) (decide (i = 3)),
        if s.core.boundWrite t then s.core.writePortTrap t else none] with
    | some f => .next (s.finish f)
    | none =>
      match pathOf a with
      | some (q, off) => s.loadFrom (if s.core.boundWrite t then .port t (s.p p) else .v t (s.p p)) q off 16 a i
      | none => s.trap 0x05 a 0

/-! ### Stores (R144, R146) -/

/-- A store of listed bytes (offset from the address, byte) of an access of `n` bytes that has passed the checks
of R48; `take` is what the instruction does besides, once nothing stops it. A store that meets an uncorrectable error of the
scratchpad is not performed, with a deferred fault (R145, R282); a synchronising one waits for the core's loads from
GLOBAL-RO (R83). -/
def State.storeTo (s : State) (p : Path) (off n : Nat) (a : Word) (im : BitVec 2) (drop : Bool)
    (bs : List (Nat × Byte)) (take : State → State) : Result :=
  if p.isTimed then
    match s.instantTrap false im with
    | some f => .next (s.finish f)
    | none =>
      let st : TStore := { s.storeFrame a (s.storeInstant im) with data := bs, drop := drop }
      let s1 := (take s).takeSeq
      if bs.isEmpty then s1.done else (s1.sendTimed p off n st).done
  else if p = .dev then
    match s.devStoreWaits off bs with
    | some (r, w) => s.stay r w
    | none => ((take s).devWrite off n bs).done
  else if im = 3 ∧ s.core.untimedOut then s.stay .drain 0
  else if !bs.isEmpty && s.spadFault p off n then ((take s).defer 0x12 a).done
  else ((take s).localStore (decide (p = .tcm)) (bs.map (fun b => (off + b.1, b.2))) (decide (im = 3))).done

/-- A scalar store of the low `n` bytes of a register (R144). -/
def State.scalarStore (s : State) (t b : RegNo) (im : BitVec 2) (drop : Bool) (o : BitVec 10) (n : Nat) : Result :=
  let a := s.baseOffset b o n
  match accessTrap s.core .store a n (decide (b = 2)) (decide (im = 3)) with
  | some f => .next (s.finish f)
  | none =>
    match pathOf a with
    | some (p, off) => s.storeTo p off n a im drop (atOffsets 0 (bytesOf n (s.g t).toNat)) (fun s => s)
    | none => s.trap 0x05 a 0

/-- `stb` (R144). -/
def execStb (t b : RegNo) (i : BitVec 2) (e : BitVec 1) (o : BitVec 10) (s : State) : Result :=
  s.scalarStore t b i (decide (e = 1)) o 1

/-- `sth` (R144). -/
def execSth (t b : RegNo) (i : BitVec 2) (e : BitVec 1) (o : BitVec 10) (s : State) : Result :=
  s.scalarStore t b i (decide (e = 1)) o 2

/-- `stw` (R144). -/
def execStw (t b : RegNo) (i : BitVec 2) (e : BitVec 1) (o : BitVec 10) (s : State) : Result :=
  s.scalarStore t b i (decide (e = 1)) o 4

/-- `std` (R144). -/
def execStd (t b : RegNo) (i : BitVec 2) (e : BitVec 1) (o : BitVec 10) (s : State) : Result :=
  s.scalarStore t b i (decide (e = 1)) o 8

/-- The bytes that a predicated vector store writes (R146). -/
def storedBytes (p : BitVec 16) (v : VReg) : List (Nat × Byte) :=
  (atOffsets 0 (vbytes v)).filter (fun b => p.getLsbD b.1)

/-- `vst` (R146): from a bound read port it takes the next unit; a misused port's stream fault comes before the traps of
R48 (log entry 70, DESIGN CHOICE). -/
def execVst (t b : RegNo) (i : BitVec 2) (p : BitVec 3) (o : BitVec 10) (s : State) : Result :=
  let a := s.baseOffset b o 16
  if s.core.boundWrite t then .next (s.finish (streamFault t))
  else
    match firstTrap [accessTrap s.core .store a 16 (decide (b = 2)) (decide (i = 3)),
        if s.core.boundRead t then s.core.readPortTrap t else none] with
    | some f => .next (s.finish f)
    | none =>
      match s.core.portEmpty [t] with
      | some r => s.stay .streamData (portVal r)
      | none =>
        match pathOf a with
        | some (q, off) => s.storeTo q off 16 a i false (storedBytes (s.p p) (s.v t)) (fun s => s.takeUnits [t])
        | none => s.trap 0x05 a 0

/-! ### Atomics (R150, R151) -/

/-- An atomic of TCM, at its word at once: its destination, the word and its flags (R150). -/
def State.atomicTcm (s0 : State) (off : Nat) (t : RegNo) (op : AtomOp) : State :=
  let s := s0.settle .tcm off op.bytes
  let old := s.core.mem.tcm.readN off op.bytes
  let r := atomicOp (8 * op.bytes) op (natOf old)
  (({ s with core := s.core.tcmWrite (atOffsets off (bytesOf op.bytes r.1)) } : State).setG t (amoValue op.wide old)).raise r.2

/-- An atomic of the scratchpad is issued; its bank performs it later (R51, R80). Its destination counts as written from now
on (R36), and keeps its value until then. -/
def State.atomicSpad (s : State) (off : Nat) (t : RegNo) (op : AtomOp) : State :=
  (s.setG t (s.g t)).onEng (fun e => { e with
    pend := e.pend ++ [⟨off, false, [], false, some ⟨op, t, s.core.x.handBank, 0⟩, none, s.dev.tick⟩] })

/-- An atomic with destination `t`, base `b` and operand `x` (R150, R151). -/
def State.atomic (s : State) (ins : Instr) (t b x : RegNo) (im : BitVec 2) (fn : BitVec 4) (wide : Bool) : Result :=
  let a := s.g b
  let op : AtomOp := ⟨fn, wide, s.g x, s.g t, s.core.id, s.core.eng.nextTag⟩
  if im = 3 then s.illegal ins
  else
    match accessTrap s.core .atomic a op.bytes (decide (b = 2)) false with
    | some f => .next (s.finish f)
    | none =>
      match pathOf a with
      | none => s.trap 0x05 a 0
      | some (p, off) =>
        if p.isTimed then
          match s.instantTrap false im with
          | some f => .next (s.finish f)
          | none =>
            if s.core.remoteFull then s.stay .remoteSlot 0
            else
              let inst := s.storeInstant im
              let st : TStore := { s.storeFrame a inst with atomic := some op }
              if p = .loft ∧ !s.loftAllowed (s.core.x.ctx.map (fun x => x.part)) off op.bytes then
                (s.takeSeq.beginRemote (.amo t wide) a op.bytes (some inst) (.faulted 0x11)).done
              else
                ((s.takeSeq.beginRemote (.amo t wide) a op.bytes (some inst) .atomic).sendTimed p off op.bytes st).done
        else if p = .tcm then (s.atomicTcm off t op).done
        else if s.spadFault p off op.bytes then (s.defer 0x12 a).done
        else (s.atomicSpad off t op).done

/-- `aadd` (R150). -/
def execAadd (t b x : RegNo) (i : BitVec 2) (w : BitVec 1) (s : State) : Result :=
  s.atomic (.aadd t b x i w) t b x i 0 (decide (w = 1))

/-- `aand` (R150). -/
def execAand (t b x : RegNo) (i : BitVec 2) (w : BitVec 1) (s : State) : Result :=
  s.atomic (.aand t b x i w) t b x i 1 (decide (w = 1))

/-- `aor` (R150). -/
def execAor (t b x : RegNo) (i : BitVec 2) (w : BitVec 1) (s : State) : Result :=
  s.atomic (.aor t b x i w) t b x i 2 (decide (w = 1))

/-- `axor` (R150). -/
def execAxor (t b x : RegNo) (i : BitVec 2) (w : BitVec 1) (s : State) : Result :=
  s.atomic (.axor t b x i w) t b x i 3 (decide (w = 1))

/-- `amin` (R150). -/
def execAmin (t b x : RegNo) (i : BitVec 2) (w : BitVec 1) (s : State) : Result :=
  s.atomic (.amin t b x i w) t b x i 4 (decide (w = 1))

/-- `amax` (R150). -/
def execAmax (t b x : RegNo) (i : BitVec 2) (w : BitVec 1) (s : State) : Result :=
  s.atomic (.amax t b x i w) t b x i 5 (decide (w = 1))

/-- `aminn` (R150). -/
def execAminn (t b x : RegNo) (i : BitVec 2) (w : BitVec 1) (s : State) : Result :=
  s.atomic (.aminn t b x i w) t b x i 6 (decide (w = 1))

/-- `amaxn` (R150). -/
def execAmaxn (t b x : RegNo) (i : BitVec 2) (w : BitVec 1) (s : State) : Result :=
  s.atomic (.amaxn t b x i w) t b x i 7 (decide (w = 1))

/-- `aswap` (R150). -/
def execAswap (t b x : RegNo) (i : BitVec 2) (w : BitVec 1) (s : State) : Result :=
  s.atomic (.aswap t b x i w) t b x i 8 (decide (w = 1))

/-- `acas` (R150): the destination is the comparand too. -/
def execAcas (t b x : RegNo) (i : BitVec 2) (w : BitVec 1) (s : State) : Result :=
  s.atomic (.acas t b x i w) t b x i 9 (decide (w = 1))

/-- `afadd` (R150): f32 only. -/
def execAfadd (t b x : RegNo) (i : BitVec 2) (s : State) : Result := s.atomic (.afadd t b x i) t b x i 10 false

end Sys2Proof.Machine
end

