-- ==== Sys2Proof/Machine/Sync.lean ====
section
/-! DEFINITION. Fences, the instant register, the status words and the quarantine registers (R82, R153 to R159). -/

namespace Sys2Proof.Machine

/-- `fence` (R82, R153): it waits for the core's copy writes inside a rectangle beyond the own cluster. -/
def execFence (a : RegNo) (s : State) : Result :=
  let r := if a = 0 then Scope.own else rectOf (s.g a)
  if s.fenceWaits r then s.stay .drain 0 else (s.fenced r).done

/-- The base of `seti` (R155). -/
def State.setiBase (s : State) (b : BitVec 2) : Nat :=
  match b.toNat with
  | 0 => s.dev.now
  | 1 => match s.core.x.ctx with | some x => x.rel | none => 0
  | 2 => match s.core.x.ctx with | some x => x.pub | none => 0
  | _ => s.core.sw.ix.toNat

/-- `seti` (R155). -/
def execSeti (a : RegNo) (b : BitVec 2) (n : BitVec 10) (s : State) : Result :=
  (s.onSw (fun w => { w with ix := BitVec.ofNat 56 (s.setiBase b + (s.g a).toNat + n.toNat) })).done

/-- Field `k` of the running task's work identifier (R25, R114); 0 with no task. -/
def State.widField (s : State) (k : Nat) : Word :=
  match s.core.x.ctx with
  | none => 0
  | some x =>
    match s.loadedFor x.part x.node with
    | some l => BitVec.ofNat 64 (fieldOf l.tmpl.widths x.wid k)
    | none => 0

/-- What `rds` reads from a status word (R156); the words of the running task read 0 with no task. -/
def State.statusValue (s : State) (n : StatusName) : Word :=
  let w := s.core.sw
  let task (f : Ctx → Word) : Word := match s.core.x.ctx with | some x => f x | none => 0
  match n with
  | .now => BitVec.ofNat 64 (s.dev.now % 2 ^ 56)
  | .rel => task (fun x => BitVec.ofNat 64 (x.rel % 2 ^ 56))
  | .pub => task (fun x => BitVec.ofNat 64 (x.pub % 2 ^ 56))
  | .ix => w.ix.setWidth 64
  | .lid => BitVec.ofNat 64 s.core.id
  | .lclu => BitVec.ofNat 64 (clusterOf s.core.id)
  | .lshg => BitVec.ofNat 64 (shingleOf s.core.id)
  | .task => task (fun x => x.token)
  | .wid => task (fun x => x.wid)
  | .widField k => s.widField k.val
  | .mbox k => w.mbox[k]
  | .mboxf => w.mboxf.setWidth 64
  | .lc k => s.core.x.loops[k].lc
  | .uepc => w.uepc.setWidth 64
  | .ucause => w.ucause.setWidth 64
  | .uval => w.uval
  | .uvec => w.uvec.setWidth 64
  | .uien => w.en.setWidth 64 ||| (w.pend.setWidth 64 <<< 16)
  | .fstat => w.fstat.setWidth 64
  | .late => w.late
  | .tie => w.tie
  | .stkb => w.stkb
  | .stkl => w.stkl
  | .scope => w.scope.setWidth 64
  | .parkth => w.parkCycles.setWidth 64 ||| (w.rscope.setWidth 64 <<< 62)

/-- `rds` (R156): a read of `fstat` waits for the flags of every earlier instruction (R98, R151). -/
def execRds (d : RegNo) (n : BitVec 12) (s : State) : Result :=
  match statusWord n.toNat with
  | none => s.illegal (.rds d n)
  | some w =>
    if w = .fstat ∧ s.core.flagsPending s.dev.timed then s.stay .drain 0
    else (s.setG d (s.statusValue w)).done

/-- A clause address as `uepc`, `uvec`, `xepc` and `xtvec` hold it (R172). -/
def clauseLayout (v : Word) : BitVec 16 := v.setWidth 16 &&& 0xFFFC

/-- A supervisor's write of an lc word also gives the counter that `xret` restores, where no level was active at the
trap: so a software context switch restores the counters it saved (R134, R266; log entry 15). -/
def State.suspendedCount (s : State) (k : Fin 3) (v : Word) : State :=
  if s.core.x.mode = .supervisor ∧ !anyLoop s.core.x.xLoops then
    s.onX (fun x => { x with xLoops := x.xLoops.set k { x.xLoops[k] with lc := v } })
  else s

/-- What `wrs` writes to a status word (R156); none for a read-only word. -/
def State.writeStatus (s : State) (n : StatusName) (v : Word) : Option State :=
  match n with
  | .now | .rel | .pub | .lid | .lclu | .lshg | .task | .wid | .widField _ => none
  | .ix => some (s.onSw (fun w => { w with ix := v.setWidth 56 }))
  | .mbox k => some (s.onSw (fun w => { w with mbox := w.mbox.set k v }))
  | .mboxf => some (s.onSw (fun w => { w with mboxf := w.mboxf &&& ~~~(v.setWidth 4) }))
  | .lc k => some (((s.onX (fun x => x.mark (60 + k.val))).setLoop k { s.core.x.loops[k] with lc := v }).suspendedCount k v)
  | .uepc => some (s.onSw (fun w => { w with uepc := clauseLayout v }))
  | .ucause => some (s.onSw (fun w => { w with ucause := v.setWidth 8 }))
  | .uval => some (s.onSw (fun w => { w with uval := v }))
  | .uvec => some (s.onSw (fun w => { w with uvec := clauseLayout v }))
  | .uien => some (s.onSw (fun w => { w with en := v.setWidth 6 }))
  | .fstat => some (s.onSw (fun w => { w with fstat := v.setWidth 7 }))
  | .late => some (s.onSw (fun w => { w with late := v }))
  | .tie => some (s.onSw (fun w => { w with tie := v }))
  | .stkb => some (s.onSw (fun w => { w with stkb := v }))
  | .stkl => some (s.onSw (fun w => { w with stkl := v }))
  | .scope => some (s.onSw (fun w => { w with scope := v.setWidth 37 }))
  | .parkth => some (s.onSw (fun w => { w with parkCycles := v.setWidth 32, rscope := v.extractLsb' 62 2 }))

/-- `wrs` (R156): a write of `fstat` comes after every earlier instruction's flags (R98). -/
def execWrs (a : RegNo) (n : BitVec 12) (s : State) : Result :=
  match statusWord n.toNat with
  | none => s.illegal (.wrs a n)
  | some w =>
    match s.writeStatus w (s.g a) with
    | none => s.illegal (.wrs a n)
    | some t => if w = .fstat ∧ s.core.flagsPending s.dev.timed then s.stay .drain 0 else t.done

/-- What `qrd` samples (R158). -/
def State.quarantine (s : State) (n : Nat) : Option Word :=
  let c := s.core
  match n with
  | 0 => some c.x.cycle
  | 1 => some (BitVec.ofNat 64 c.phys)
  | 2 => some (BitVec.ofNat 64 (c.phys / 8192))
  | 3 =>
    match aget s.dev.disp.tjunc (clusterOf c.id) with
    | some t => some (BitVec.ofInt 64 t)
    | none => some (Config.junction s.dev.tick (clusterOf c.id))
  | 4 => some (Config.wallClock s.dev.tick)
  | 5 => some (Config.coreRev c.phys)
  | _ => none

/-- `qrd` (R158). -/
def execQrd (q : BitVec 3) (n : BitVec 12) (s : State) : Result :=
  match s.quarantine n.toNat with
  | none => s.illegal (.qrd q n)
  | some v => State.done { s with core := { s.core with r := { s.core.r with q := s.core.r.q.set q.toNat v (q.isLt) } } }

/-- Whether eight bytes lie in one profiling range of a core (R259). -/
def Core.profiled (c : Core) (a : Word) : Bool :=
  ([0, 1, 2, 3] : List (Fin 4)).any (fun k =>
    let b := c.csr.prof[2 * k.val]
    let l := c.csr.prof[2 * k.val + 1]
    let path (x : Word) : Nat := match pathOf x with | some (.tcm, _) => 1 | some (.global, _) => 2 | _ => 0
    decide (b.toNat < l.toNat) && decide (path b ≠ 0 ∧ path (l - 1) = path b) && decide (b.toNat ≤ a.toNat ∧ a.toNat + 8 ≤ l.toNat))

/-- `qst` (R159): into a profiling range, naming the next instant with no `seq` of its own on GLOBAL; a supervisor with no
task takes the next of its core's issue numbers (R72). -/
def execQst (q : BitVec 3) (a : RegNo) (o : BitVec 10) (s : State) : Result :=
  let addr := s.baseOffset a o 8
  let bs := atOffsets 0 (bytesOf 8 (s.core.r.q[q.toNat]'(q.isLt)).toNat)
  match accessTrap s.core .store addr 8 (decide (a = 2)) false with
  | some f => .next (s.finish f)
  | none =>
    if !s.core.profiled addr then s.trap 0x0C addr 0
    else
      match pathOf addr with
      | some (.tcm, off) => (s.localStore true (bs.map (fun b => (off + b.1, b.2))) false).done
      | some (p, off) =>
        let s1 := if s.core.x.ctx.isNone then s.takeSeq else s
        (s1.sendTimed p off 8 { s.storeFrame addr (s.dev.now + 1) with data := bs, qst := true, seq := 0 }).done
      | none => s.trap 0x05 addr 0

end Sys2Proof.Machine
end

