-- ==== Sys2Proof/Machine/Xfer.lean ====
section
/-! DEFINITION. Copies, streams, code fetches and table loads as instructions (R160 to R170, R241, R243). -/

namespace Sys2Proof.Machine

/-! ### Copies (R160 to R164) -/

/-- Whether a stop of a core waits to take effect: its engine accepts no new copy (R164). -/
def State.stopPending (s : State) (k : Nat) : Bool := s.dev.img.cmds.any (fun c => decide ((c.op = 1 ∨ c.op = 4) ∧ c.core = k))

/-- Whether a copy descriptor is illegal: op 5 to 7, or a reserved bit set (R163). -/
def badDescriptor (d : Word) : Bool :=
  decide (4 < (d.extractLsb' 24 3).toNat) || d.getLsbD 63 || decide (d.extractLsb' 29 15 ≠ 0)

/-- What stops an `xcopy` at issue, in order: the descriptor, the source as a load, the destination as a store,
and the further cases of R163. -/
def State.copyTrap (s : State) (a b : RegNo) (dst src desc : Word) : Option Flow :=
  let len := (desc.extractLsb' 0 24).toNat
  let dcore := (desc.extractLsb' 44 18).toNat
  let reduce := decide (desc.extractLsb' 24 3 ≠ 0)
  let path (x : Word) : Option Path := (pathOf x).map (fun p => p.1)
  let timed := match path dst with | some p => p.isTimed | none => false
  let preempt := match s.core.x.ctx with | some x => x.preempt | none => false
  if badDescriptor desc then some (.trap 0x01 desc 0)
  else if path src = some .im then some (.trap 0x05 src 0)
  else
    firstTrap [
      spanTrap s.core .load src len 4 (decide (b = 2)),
      spanTrap s.core .store dst len 4 (decide (a = 2)),
      if desc.getLsbD 62 && (!(decide (path dst = some .tcm ∨ path dst = some .spad)) || decide (coreCount ≤ dcore) ||
          decide (s.clusterPart (clusterOf dcore) ≠ s.core.part s))
        then some (.trap 0x05 dst 0) else none,
      if len % 4 ≠ 0 then some (.trap 0x04 (BitVec.ofNat 64 len) 0) else none,
      if reduce && timed then some (.trap 0x05 dst 0) else none,
      if reduce && preempt then some (.trap 0x14 desc 0) else none]

/-- The copy that an `xcopy` starts in a slot (R160, R161). -/
def State.newCopy (s : State) (dst src desc : Word) (slot : Nat) : Copy :=
  let n := match s.core.x.ctx with | some x => x.copies | none => 0
  let tag := 0x10000 + 8 * (n % 8192) + slot
  { tag := tag, reader := s.reader, frame := { s.storeFrame dst (s.storeInstant 0) with copy := some tag },
    src := src, desc := desc, todo := List.range ((desc.extractLsb' 0 24).toNat / 4), readInst := s.loadInstant 0,
    flags := 0, failed := false, got := [], no := s.dev.tick }

/-- `xcopy` (R160, R161): while no slot is free, or a stop of the core is pending, it waits; one from an untimed source waits
for the core's loads from GLOBAL-RO. -/
def execXcopy (d a b c : RegNo) (s : State) : Result :=
  let dst := s.g a
  let src := s.g b
  let desc := s.g c
  match s.copyTrap a b dst src desc with
  | some f => .next (s.finish f)
  | none =>
    let waited := match s.core.x.wait with | some w => decide (w.reason = .copySlot) | none => false
    match s.core.freeCopySlots with
    | [] => s.stay .copySlot 0
    | slot :: _ =>
      if s.stopPending s.core.id || (waited && !s.core.eng.copyGrant) then s.stay .copySlot 0
      else if s.core.untimedOut && (match pathOf src with | some (p, _) => !p.isTimed | none => false) then s.stay .drain 0
      else
        let x := s.newCopy dst src desc slot
        let timed := match pathOf dst with | some (p, _) => p.isTimed | none => false
        let s1 := if desc.getLsbD 27 then s.settleAt dst x.len else s
        let s2 := if timed then s1.takeSeq else s1
        let s3 := s2.onX (fun x => { x with ctx := x.ctx.map (fun c => { c with copies := c.copies + 1 }) })
        let s4 := s3.onEng (fun e => { e with copyGrant := false })
        ((s4.acceptCopy x).setG d (BitVec.ofNat 64 x.tag)).done

/-- An incomplete copy of the acting core's context: that of a tag, or any for tag 0 (R162). -/
def State.incomplete (s : State) (tag : Word) : Option Copy :=
  s.core.eng.copies.find? (fun x => decide (x.reader.run = s.core.run) &&
    (decide (tag = 0) || decide (BitVec.ofNat 64 x.tag = tag)))

/-- `xstat` (R162): on a copy whose fault is still to be taken it waits (R243). -/
def execXstat (d a : RegNo) (s : State) : Result :=
  if s.g a = 0 then (s.setG d 0).done
  else
    match s.incomplete (s.g a) with
    | none => (s.setG d 0).done
    | some x => if x.failed then s.stay .copy (s.g a) else (s.setG d 1).done

/-- `xwait` (R162): `xwait g0` waits for every copy of the context. A register that holds 0 names no copy. -/
def execXwait (d : RegNo) (s : State) : Result :=
  if d ≠ 0 ∧ s.g d = 0 then s.done
  else
    match s.incomplete (s.g d) with
    | some _ => s.stay .copy (s.g d)
    | none => s.done

/-! ### Streams (R165 to R167) -/

/-- The signed row stride of a stream descriptor. -/
def rowStride (desc : Word) : Word := (desc.extractLsb' 40 20).signExtend 64

/-- What stops an `sbind` of a port (R167); base g2 is bounded as a load's (log entry 71, DESIGN CHOICE). -/
def State.bindTrap (s : State) (d a : RegNo) (base desc : Word) : Option Flow :=
  if (s.core.bound d).isSome then some (streamFault d)
  else
    match pathOf base with
    | some (.im, _) | some (.dev, _) => some (.trap 0x05 base 0)
    | _ =>
      firstTrap [
        accessTrap s.core (if 30 ≤ d.toNat then .store else .load) base 16 (decide (a = 2)) false,
        if (rowStride desc).toNat % 16 ≠ 0 then some (.trap 0x04 (rowStride desc) 0) else none]

/-- `sbind` (R165, R167). -/
def execSbind (d a b : RegNo) (s : State) : Result :=
  match portIndex d with
  | none => s.illegal (.sbind d a b)
  | some i =>
    match s.bindTrap d a (s.g a) (s.g b) with
    | some f => .next (s.finish f)
    | none =>
      let t : Stream := {
        base := s.g a, desc := s.g b, taken := 0, fetched := 0, fifo := [], appends := [], saved := s.core.r.readV d,
        reader := s.reader, clause := s.clause }
      State.done { s with core := s.core.setStream i (some t) }

/-- `sunbind` (R166): it waits for the port's appends. -/
def execSunbind (d : RegNo) (s : State) : Result :=
  match portIndex d with
  | none => s.illegal (.sunbind d)
  | some i =>
    match s.core.eng.streams[i] with
    | none => s.done
    | some _ => if s.appending i then s.stay .drain (portVal d) else (s.unbind i).done

/-- `sstat` (R166). -/
def execSstat (d a : RegNo) (s : State) : Result :=
  match portIndex a with
  | none => s.illegal (.sstat d a)
  | some i =>
    match s.core.eng.streams[i] with
    | none => (s.setG d 0).done
    | some t => (s.setG d (BitVec.ofNat 64 (2 ^ 63 + (t.count - t.taken)))).done

/-! ### Code (R168) -/

/-- What stops a `cfetch` (R168, R257); base g2 is bounded as a load's (log entry 71, DESIGN CHOICE). -/
def State.fetchTrap (s : State) (a : RegNo) (f : BitVec 4) (src : Word) : Option Flow :=
  let onPath := match pathOf src, pathOf (src + 4095) with
    | some (p, _), some (q, _) => decide (p = q ∧ (p = .loft ∨ p = .global ∨ p = .globalRo))
    | _, _ => false
  if !onPath then some (.trap 0x05 src 0)
  else if s.core.x.mode = .user ∧ s.core.csr.supEn ∧ s.core.csr.ifr.toNat ≤ f.toNat then
    some (.trap 0x03 (BitVec.ofNat 64 (f.toNat * 0x1000)) 0)
  else spanTrap s.core .load src 4096 64 (decide (a = 2))

/-- `cfetch` (R168): the frame is absent until the fetch completes; a later request supersedes an earlier one. -/
def execCfetch (a : RegNo) (f : BitVec 4) (s : State) : Result :=
  match s.fetchTrap a f (s.g a) with
  | some t => .next (s.finish t)
  | none =>
    let r : CodeReq := ⟨s.g a, s.loadInstant 0, s.reader, none, []⟩
    ((s.onMem (fun m => m.setFrame f.toNat (.landing r))).onX
      (fun x => { x with touchIm := if f.toNat < s.core.csr.ifr.toNat then x.touchIm ||| BitVec.ofNat 16 (2 ^ f.toNat) else x.touchIm })).done

/-- The code that `cstat` gives for a frame. -/
def Frame.code : Frame → Nat
  | .resident _ => 0
  | .landing _ => 1
  | .failed => 2
  | .empty => 3

/-- `cstat` (R168). -/
def execCstat (d : RegNo) (f : BitVec 4) (s : State) : Result :=
  (s.setG d (BitVec.ofNat 64 (s.core.mem.frame f.toNat).code)).done

/-! ### Tables (R169, R170) -/

/-- Whether a load of the scratchpad goes through the view of a decode table: it decodes by the table as it stands before
the table's next load (R94). -/
def LateLoad.usesTable (l : LateLoad) (t : Nat) : Bool :=
  match pathOf l.addr with
  | some (.spadView v, _) => decide (v.val = t)
  | _ => false

/-- `dtld` (R169): a scratchpad source with an uncorrectable error leaves the table as it is (R282); base g2 is bounded as a
load's (log entry 71, DESIGN CHOICE). -/
def execDtld (a : RegNo) (v : BitVec 1) (n : BitVec 8) (t : BitVec 2) (s : State) : Result :=
  match spanTrap s.core .load (s.g a) 1024 4 (decide (a = 2)) with
  | some f => .next (s.finish f)
  | none =>
    if s.viewHeld (s.g a) then s.stay .table 0
    else if (s.errorAt [s.g a] 1024).isSome then (s.defer 0x12 (s.g a)).done
    else
      let s1 := (s.settleAt (s.g a) 1024).drain (fun p => match p.load with | some x => x.usesTable t.toNat | none => false)
      let l : TabLoad := ⟨t.toNat, if v = 1 then some n else none, s.g a, s.loadInstant 0, s1.captured (s.g a) 1024,
        s.reader, s.clause⟩
      ((s1.loadsDone (fun x => x.usesTable t.toNat)).onEng (fun e => { e with dtLoads := e.dtLoads ++ [l] })).done

/-- `segld` (R170). R60 names loads, stores, vector accesses and atomics, and says nothing of a table load: the model
takes its stack fault with base g2 (log entry 71, DESIGN CHOICE). -/
def execSegld (a : RegNo) (t : BitVec 2) (s : State) : Result :=
  let onPath := match pathOf (s.g a) with
    | some (p, _) => decide (p = .tcm ∨ p = .spad ∨ p = .loft ∨ p = .global ∨ p = .globalRo)
    | none => false
  if !onPath then s.trap 0x05 (s.g a) 0
  else
    match spanTrap s.core .load (s.g a) 144 16 (decide (a = 2)) with
    | some f => .next (s.finish f)
    | none =>
      if (s.errorAt [s.g a] 144).isSome then (s.defer 0x12 (s.g a)).done
      else
        let s1 := s.settleAt (s.g a) 144
        let l : TabLoad := ⟨t.toNat, none, s.g a, s.loadInstant 0, s1.captured (s.g a) 144, s.reader, s.clause⟩
        (s1.onEng (fun e => { e with segLoads := e.segLoads ++ [l] })).done

end Sys2Proof.Machine
end

