-- ==== Sys2Proof/Machine/Task.lean ====
section
/-! DEFINITION. The task instructions (R214 to R219). -/

namespace Sys2Proof.Machine

/-- The generation of the issuing task; with no task none is stated. -/
def State.ownGen (s : State) : BitVec 16 :=
  match s.core.x.ctx with
  | some x => x.gen
  | none => Config.noTaskGen s.dev.tick

/-- PUB of the current group; with no task none is stated. -/
def State.ownPub (s : State) : Nat :=
  match s.core.x.ctx with
  | some x => x.pub
  | none => (Config.noTaskPub s.dev.tick).toNat

/-- A publication or a signal goes on C0 to the dispatcher that owns its node. -/
def State.toOwner (s : State) (node : Nat) (b : Body) : State :=
  s.postC0 (coreEndpoint s.core.id 0) (s.ownerEndpoint (s.partOfCore s.core.id) node (shingleOf s.core.id)) b

/-- A task record with a generation in place of its own (R214). -/
def recordWithGen (bs : List Byte) (gen : BitVec 16) : List Byte := bs.take 12 ++ bytesOf 2 gen.toNat ++ bs.drop 14

/-- `tspawn` (R214, R219). -/
def execTspawn (d : RegNo) (s : State) : Result :=
  match s.tcmTrap .load (s.g d) 64 64 with
  | some f => .next (s.finish f)
  | none =>
    let s1 := s.settleAt (s.g d) 64
    let bs := recordWithGen (s1.tcmBytes (s.g d) 64) s1.ownGen
    (s1.toOwner (bitsOf (natOf bs) 91 64) (.taskRecord (some (s.partOfCore s.core.id)) bs none)).done

/-- The publish instruction (R215). -/
def execTpub (d a b : RegNo) (s : State) : Result :=
  let node := ((s.g d).extractLsb' 0 28).toNat
  (s.toOwner node (.publish (s.partOfCore s.core.id) node (s.g a) s.ownGen ((s.g b).extractLsb' 0 56).toNat none 0)).done

/-- `tsig` (R216). -/
def execTsig (d a : RegNo) (s : State) : Result :=
  let node := ((s.g d).extractLsb' 0 28).toNat
  (s.toOwner node (.signal (s.partOfCore s.core.id) node (s.g a) s.ownGen s.ownPub false false)).done

/-- Whether the retirement of the acting core's task still waits: for its fence and copies, its appends, its
replies, the acknowledgements of its drop-policy stores, or a fault still to be taken (R217). -/
def State.retireWaits (s : State) : Bool :=
  s.fenceWaits s.core.sw.fenceScope || (s.incomplete 0).isSome ||
    ([0, 1, 2, 3] : List (Fin 4)).any (fun i => s.appending i) || s.core.eng.remote.any Remote.ofCtx ||
    (s.core.x.ctx.isSome && s.dropUnacked s.core.run) ||
    (decide (s.core.x.mode = .user) && !s.core.x.deferred.isEmpty)

/-- The task retires as by `tret`, after `pre` (R217, R235). -/
def State.retireAs (s : State) (i : Instr) (pre : State → State) : Result :=
  if s.core.x.inHandler then s.illegal i
  else if s.retireWaits then s.stay .drain 0
  else .next ((pre (([0, 1, 2, 3] : List (Fin 4)).foldl (fun t p => t.unbind p) s.drainAll)).finishLeave .retire)

/-- `tret` (R217). -/
def execTret (s : State) : Result := s.retireAs .tret (fun t => t)

/-- The item of a task that a selector names (R218). -/
def State.taskItem (s : State) (x : Ctx) (sel : Word) : Word :=
  if sel.toNat < 8 then
    match s.nodeFor x.part x.node with
    | none => 0
    | some (l, d) =>
      match d.args[sel.toNat]? with
      | none => 0
      | some a => argAddress l.tmpl.widths x.wid a
  else
    match sel.toNat with
    | 8 => match x.inline with
      | some off => BitVec.ofNat 64 (0x20 * 2 ^ 56 + off)
      | none => 0
    | 9 => x.reply
    | 10 => if x.poison then 1 else 0
    | 11 => x.gen.setWidth 64
    | _ => 0

/-- `targ` (R218); with no task it gives 0, as the status words of the task do. -/
def execTarg (d a : RegNo) (s : State) : Result :=
  match s.core.x.ctx with
  | none => (s.setG d 0).done
  | some x => (s.setG d (s.taskItem x (s.g a))).done

end Sys2Proof.Machine
end

