-- ==== Sys2Proof/Machine/MsgOps.lean ====
section
/-! DEFINITION. The message instructions: `send`, `recv`, `recvadd`, `qbind`, `qstat` (R223 to R229, R232). -/

namespace Sys2Proof.Machine

/-! ### `send` (R225, R229) -/

/-- Whether a control word is a queue fault: reserved bits, a bad length or kind, an unbound route. -/
def Ni.badControl (n : Ni) (c : Word) : Bool :=
  let len := (c.extractLsb' 0 7).toNat
  let kind := (c.extractLsb' 10 2).toNat
  decide (64 < len) || decide (kind = 3) || decide (c.extractLsb' 14 9 ≠ 0) || c.getLsbD 7 ||
    (decide (kind = 1) && decide (len ≠ 8)) || (decide (kind = 2) && decide (len ≠ 64)) ||
    (decide (kind = 0) && (n.routes[(c.extractLsb' 8 2).toNat]'((c.extractLsb' 8 2).isLt)).ep.isNone)

/-- The route a control word names. -/
def controlRoute (c : Word) : Fin 4 := ⟨(c.extractLsb' 8 2).toNat, (c.extractLsb' 8 2).isLt⟩

/-- A payload as sent: bytes past its length are zero. -/
def padded (bs : List Byte) : List Byte := (bs ++ List.replicate 64 0).take 64

/-- The message of a `send` of kind 1 or 2. -/
def State.directMessage (s : State) (c : Word) (bs : List Byte) : Message :=
  let dest := c.toNat / 2 ^ 23
  let src := coreEndpoint s.core.id 0
  if c.extractLsb' 10 2 = 1 then
    ⟨.c0, src, epMesh dest, epDevice dest, .direct,
      .mailbox (epCore dest) (c.extractLsb' 12 2).toNat (BitVec.ofNat 64 (natOf bs))⟩
  else
    let tmpl := bitsOf (natOf bs) 91 64 / 4096
    let owner := match s.dev.disp.loaded.find? (fun l => decide (l.tmpl.id = tmpl)) with
      | some l => l.owner
      | none => shingleOf s.core.id
    ⟨.c0, src, dispatcherEndpoint owner, epDevice dest, .direct, .taskRecord none bs (some tmpl)⟩

/-- Whether the staging buffer is full (R225). -/
def Core.stagingFull (c : Core) : Bool := decide (stagingLimit ≤ c.ni.staging.length)

/-- `send` (R225, R229). -/
def execSend (d a : RegNo) (s : State) : Result :=
  let c := s.g a
  let len := min 64 (c.extractLsb' 0 7).toNat
  match s.tcmTrap .load (s.g d) len 16 with
  | some f => .next (s.finish f)
  | none =>
    if s.core.ni.badControl c then s.trap 0x15 c 0
    else if s.core.stagingFull then s.stay .staging 0
    else
      let s1 := s.settleAt (s.g d) len
      let bs := s1.tcmBytes (s.g d) len
      if c.extractLsb' 10 2 = 0 then (s1.emitRecord s.core.id (controlRoute c) (padded bs) len 0).done
      else (s1.stage s.core.id (s1.directMessage c bs)).done

/-- A splice record is sent on a route, its op written into byte 4 (R232). -/
def State.sendSplice (s : State) (op : Byte) (d a : RegNo) : Result :=
  let c := s.g a
  match s.tcmTrap .load (s.g d) 64 16 with
  | some f => .next (s.finish f)
  | none =>
    if s.core.ni.badControl c || decide (c.extractLsb' 0 7 ≠ 64) || decide (c.extractLsb' 10 2 ≠ 0) then s.trap 0x15 c 0
    else if s.core.stagingFull then s.stay .staging 0
    else
      let s1 := s.settleAt (s.g d) 64
      (s1.emitRecord s.core.id (controlRoute c) (setAt (s1.tcmBytes (s.g d) 64) 4 op) 64 1).done

/-! ### The head of a queue (R226, R232, R235) -/

/-- What stands at the head of a queue for an instruction: a record to take, nothing yet, the handling of a splice
that the instruction waits for, or the seam that ends an elide. -/
inductive QHead where
  | record (r : Record)
  | nothing
  | handled (s : State)
  | seam

/-- A splice or nack record at the head of a pipeline input is handled (R232); none where it is delivered. A copy
of a serial whose watchdog has expired is dropped. -/
def State.handleMarker (s : State) (q : Fin 8) (r : Record) : Option State :=
  let k := s.core.id
  let s1 := s.onQueue k q (fun u => { u with heldSince := some (u.heldSince.getD (s.dev.now, s.watchdog (s.partOfCore k))) })
  if s.core.ni.dropped.contains (spliceSerial r) then some ((s.onQueue k q Queue.pop).drainRing k q)
  else if !s.core.ni.aligned r then some s1
  else if decide (r.kind = 3) || decide (spliceTarget r ≠ s.core.ni.stage) then
    if s.core.ni.boundRoutes.isEmpty then none else some ((s.emitAll k r.payload r.kind).popSplice k (spliceSerial r))
  else if (s.core.ni.queue q).raised then some s1
  else if s.core.sw.en.getLsbD 2 then
    some ((s1.onQueue k q (fun u => { u with raised := true })).onCore k (fun c => c.pendCause 2 (BitVec.ofNat 64 q.val)))
  else some (s1.failSplice k r 7)

/-- The head of a queue of the acting core. -/
def State.queueHead (s : State) (q : Fin 8) : QHead :=
  match (s.core.ni.queue q).recs with
  | [] => .nothing
  | r :: _ =>
    if r.kind = 2 then .seam
    else if (s.core.ni.queue q).pipe && r.isSplice then
      match s.handleMarker q r with
      | some t => .handled t
      | none => .record r
    else .record r

/-- The record at the head of a queue is popped; a delivered splice record from every input. -/
def State.popHead (s : State) (q : Fin 8) (r : Record) : State :=
  if (s.core.ni.queue q).pipe && r.isSplice then s.popSplice s.core.id (spliceSerial r)
  else (s.onQueue s.core.id q Queue.pop).drainRing s.core.id q

/-- The wait on an empty queue; in wake mode the context parks at once, in a paired clause as the clause ends (R224). -/
def State.awaitRecord (s : State) (q : Fin 8) : Result :=
  let t := (s.waiting .queue (BitVec.ofNat 64 q.val)).finish .stay
  .next (if s.core.x.inPair then t else t.parkAtOnce)

/-- The queue that a register names, if it is bound (R229). -/
def State.boundQueue (s : State) (v : Word) : Option (Fin 8) :=
  let q : Fin 8 := ⟨(v.extractLsb' 0 3).toNat, (v.extractLsb' 0 3).isLt⟩
  if v.toNat < 8 ∧ (s.core.ni.queue q).bound then some q else none

/-- The seam has reached the head of an eliding stage: the edit ends and the stage retires as by `tret` (R235). -/
def State.elideEnd (s : State) (q : Fin 8) (i : Instr) : Result :=
  s.retireAs i (fun t =>
    let t1 := t.onQueue t.core.id q Queue.pop
    match t1.core.ni.eliding with
    | some p => t1.finishElide t1.core.id p
    | none => t1)

/-- An instruction that takes the head of a queue. -/
def State.takeHead (s0 : State) (v : Word) (i : Instr) (take : State → Fin 8 → Record → Result) : Result :=
  match s0.boundQueue v with
  | none => s0.trap 0x15 v 0
  | some q =>
    let s := s0.drainRing s0.core.id q
    match s.queueHead q with
    | .nothing => s.awaitRecord q
    | .handled t => t.stay .seam (BitVec.ofNat 64 q.val)
    | .seam => s.elideEnd q i
    | .record r => take s q r

/-- `recv` (R226, R229, R251): its bytes come after what the core's earlier accesses still write there. -/
def execRecv (d a b : RegNo) (s : State) : Result :=
  match s.tcmTrap .store (s.g a) 64 16 with
  | some f => .next (s.finish f)
  | none =>
    s.takeHead (s.g b) (.recv d a b) (fun s0 q r =>
      let off := tcmOffset (s0.g a)
      let s := s0.settleAt (s0.g a) 64
      let s1 := { s with core := (s.core.tcmWrite (atOffsets off (padded r.payload))).tcmMark true (wordsTouched off 64) }
      ((s1.popHead q r).setG d (sideHeader r)).done)

/-- The four lanes of a vector with four payload words added (R227). -/
def addPayload (v : VReg) (bs : List Byte) : List (Nat × FpFlags) :=
  ([0, 1, 2, 3] : List Nat).map (fun k =>
    roundF32 (fpAdd (f32 (v.toNat / 2 ^ (32 * k))) (f32 (natOf ((bs.drop (4 * k)).take 4)))))

/-- One of the four vectors of a `recvadd`. -/
def State.addInto (d : RegNo) (bs : List Byte) (s : State) (j : Nat) : State :=
  let r : RegNo := d + BitVec.ofNat 5 j
  let x := addPayload (s.core.r.readV r) (bs.drop (16 * j))
  (s.setVReg r (fpVec 2 x)).raise (orFlags (x.map (fun y => y.2)))

/-- `recvadd` (R227, R229). -/
def execRecvadd (d a : RegNo) (s : State) : Result :=
  if 28 < d.toNat then s.illegal (.recvadd d a)
  else
    match ([0, 1, 2, 3] : List Nat).find? (fun j => (s.core.bound (d + BitVec.ofNat 5 j)).isSome) with
    | some j => .next (s.finish (streamFault (d + BitVec.ofNat 5 j)))
    | none =>
      s.takeHead (s.g a) (.recvadd d a) (fun s q r =>
        if r.kind ≠ 0 then s.trap 0x15 (s.g a) 0
        else ((([0, 1, 2, 3] : List Nat).foldl (State.addInto d (padded r.payload)) s).popHead q r).done)

/-! ### `qbind` and `qstat` (R223, R228, R229) -/

/-- Whether a binding word is a queue fault. -/
def badBinding (v : Word) : Bool :=
  let ring := (v.extractLsb' 8 16).toNat
  decide (12 < (v.extractLsb' 0 4).toNat) || decide (v.toNat / 2 ^ 24 ≠ 0) || v.getLsbD 7 ||
    (decide (ring ≠ 0) && !((List.range 11).any (fun i => decide (ring = 32 * 2 ^ i))))

/-- Whether a queue holds records, on its NI, in its ring or for a seam. -/
def Queue.holds (q : Queue) : Bool := !q.recs.isEmpty || !q.held.isEmpty || !q.ringSrcs.isEmpty

/-- The binding that `qbind`'s operands give a queue (R223). -/
def Queue.bind (q : Queue) (v ring node : Word) : Queue :=
  q.bindAs (v.extractLsb' 4 2) (v.getLsbD 6) ring (v.extractLsb' 8 16).toNat (node.extractLsb' 0 28).toNat
    (node.extractLsb' 32 16)

/-- A queue is bound: the old ring's records are taken back first, which may wait for the ring's own stores. -/
def State.bindQueue (s : State) (q : Fin 8) (v ring node : Word) : Result :=
  match State.emptyRing s.core.id q (s.core.ni.queue q).ringSrcs.length s with
  | none => s.stay .staging 0
  | some t => (t.onQueue t.core.id q (fun u => u.bind v ring node)).done

/-- The endpoint of a route word; none unbinds. -/
def routeWord (v : Word) : Option Nat := if v.getLsbD 63 then some (v.extractLsb' 0 41).toNat else none

/-- A route is pointed at an endpoint or unbound, unless a splice is being prepared. -/
def State.bindRoute (s : State) (r : Fin 4) (v : Word) : Result :=
  match s.core.ni.prep with
  | some p => if p.failed then (s.onNi (fun n => n.pointRoute r (routeWord v) false)).done else s.trap 0x16 (BitVec.ofNat 64 p.queue) 0
  | none => (s.onNi (fun n => n.pointRoute r (routeWord v) false)).done

/-- `qbind` (R223, R229): a ring's address is checked as an engine destination (R48, R257). -/
def execQbind (d a b : RegNo) (s : State) : Result :=
  let v := s.g d
  let tgt := (v.extractLsb' 0 4).toNat
  let cap := (v.extractLsb' 8 16).toNat
  let unbind := decide (v.extractLsb' 4 2 = 3)
  let ringed := decide (tgt < 8) && !unbind && decide (cap ≠ 0)
  match (if ringed then spanTrap s.core .store (s.g a) (128 * cap) 128 false else none) with
  | some f => .next (s.finish f)
  | none =>
    if badBinding v then s.trap 0x15 v 0
    else if tgt < 8 then
      let q : Fin 8 := ⟨tgt % 8, Nat.mod_lt _ (by decide)⟩
      if unbind then
        if (s.core.ni.queue q).holds then s.trap 0x15 v 0
        else (s.onQueue s.core.id q (fun _ => .unbound)).done
      else s.bindQueue q v (s.g a) (s.g b)
    else if tgt < 12 then s.bindRoute ⟨tgt % 4, Nat.mod_lt _ (by decide)⟩ (s.g a)
    else (s.onNi (fun n => { n with stage := (s.g a).setWidth 32 })).done

/-- The state of a queue as `qstat` gives it. R228 says of the count only that it is of the records in the queue and ring: the
model counts those held for a seam too (log entry 84, DESIGN CHOICE). -/
def Queue.status (q : Queue) : Word :=
  BitVec.ofNat 64 ((if q.bound then 2 ^ 63 else 0) + q.mode.toNat * 2 ^ 61 + (if q.pipe then 2 ^ 60 else 0) +
    (if q.heldSince.isSome then 2 ^ 59 else 0) + q.cap % 65536 * 65536 + min 65535 (q.waiting + q.held.length))

/-- The state of a target (R228). -/
def Ni.status (n : Ni) (t : BitVec 4) : Word :=
  if t.toNat < 8 then (n.queue ⟨t.toNat % 8, Nat.mod_lt _ (by decide)⟩).status
  else if t.toNat < 12 then
    match n.routes[t.toNat % 4].ep with
    | some e => BitVec.ofNat 64 (2 ^ 63 + e)
    | none => 0
  else if t = 12 then n.stage.setWidth 64
  else 0

/-- `qstat` (R228). -/
def execQstat (d a : RegNo) (s : State) : Result := (s.setG d (s.core.ni.status ((s.g a).extractLsb' 0 4))).done

end Sys2Proof.Machine
end

