-- ==== Sys2Proof/Machine/Splice.lean ====
section
/-! DEFINITION. The splice instructions, the preparation of a splice, and the return from a user-level handler,
which applies a committed rebind (R174, R232 to R237, R246 to R248). -/

namespace Sys2Proof.Machine

/-- `splice.ins` (R232, R237). -/
def execSpliceIns (d a : RegNo) (s : State) : Result := s.sendSplice 0 d a

/-- `splice.eli` (R232, R237). -/
def execSpliceEli (d a : RegNo) (s : State) : Result := s.sendSplice 1 d a

/-- `splice.reb` (R232, R237). -/
def execSpliceReb (d a : RegNo) (s : State) : Result := s.sendSplice 2 d a

/-! ### Preparation (R233, R246) -/

/-- The partition of a core's splices. -/
def State.splicePart (s : State) (k : Nat) : Nat :=
  match (s.coreAt k).x.ctx with
  | some x => x.part
  | none => s.partOfCore k

/-- The failure that preparation finds when it begins: the limits on routes and inputs, then a node that is not
loaded; 0 for none (R233, R234). -/
def State.prepReason (s : State) (r : Record) : Nat :=
  let routes := s.core.ni.boundRoutes.length
  let inputs := s.core.ni.inputs.length
  if spliceOp r < 2 ∧ routes ≠ 1 then 5
  else if spliceOp r = 1 ∧ inputs ≠ 1 then 5
  else if spliceOp r ≠ 1 ∧ (s.nodeFor (s.splicePart s.core.id) (spliceNode r)).isNone then 8
  else 0

/-- The IM frame and the number of the segment of a node in a partition. -/
def State.nodeFrame (s : State) (part node : Nat) : Option (Nat × Nat) :=
  match s.nodeFor part node with
  | none => none
  | some (l, d) => (l.segment d.seg).map (fun f => (f.1, f.2.2))

/-- Whether a core holds a node's segment resident. -/
def State.nodeResident (s : State) (k part node : Nat) : Bool :=
  match s.nodeFrame part node with
  | some (f, uid) => decide ((s.coreAt k).mem.frame f = .resident (some uid))
  | none => false

/-- A rebind requests the new node's segment into its frame, unless it stands there. -/
def Core.requestSegment (c : Core) (frame uid : Nat) : Core :=
  if c.mem.frame frame = .resident (some uid) then c
  else
    { c with
      mem := c.mem.setFrame frame (.landing ⟨0, 0, ⟨false, 0, 0, none, true⟩, some uid, []⟩)
      x := { c.x with
        touchIm := if frame < c.csr.ifr.toNat then c.x.touchIm ||| BitVec.ofNat 16 (2 ^ frame) else c.x.touchIm } }

/-- Preparation begins: what is to be known at once is decided, a rebind requests its code (R233). -/
def State.beginPrep (s : State) (q : Fin 8) (block : Word) (r : Record) : State :=
  let reason := s.prepReason r
  let part := s.splicePart s.core.id
  let ready := decide (reason ≠ 0) || decide (spliceOp r = 1) ||
    (decide (spliceOp r ≠ 0) && s.nodeResident s.core.id part (spliceNode r))
  let s1 := s.onNi (fun n => { n with prep := some ⟨q.val, r, block, ready, reason, false, none, 0⟩ })
  if ready || decide (spliceOp r = 0) then s1
  else
    match s.nodeFrame part (spliceNode r) with
    | some (f, uid) => { s1 with core := s1.core.requestSegment f uid }
    | none => s1

/-- The splice record that a `spl.prep` may prepare: the targeted one at the head of the queue of the running
cause-2 handler, while none is prepared; one that the watchdog has failed is not (R237). -/
def State.targeted (s : State) (v : Word) : Option (Fin 8 × Record) :=
  let q : Fin 8 := ⟨(v.extractLsb' 0 3).toNat, (v.extractLsb' 0 3).isLt⟩
  if !s.core.x.inHandler || decide (s.core.sw.ucause ≠ 2) || decide (v ≠ s.core.sw.uval) || decide (8 ≤ v.toNat) ||
      (match s.core.ni.prep with | some p => !p.failed | none => false) || !(s.core.ni.queue q).raised then none
  else
    match (s.core.ni.queue q).recs with
    | r :: _ => if r.kind = 1 then some (q, r) else none
    | [] => none

/-- `spl.prep` (R233, R237). -/
def execSplPrep (d a b : RegNo) (s : State) : Result :=
  match s.targeted (s.g a) with
  | none => s.trap 0x16 (s.g a) 0
  | some (q, r) =>
    match s.tcmTrap .load (s.g b) (spliceSize r) 64 with
    | some f => .next (s.finish f)
    | none => ((s.beginPrep q (s.g b) r).setG d 0).done

/-- What `spl.cmt` finds at the commit: a failure of the preparation, code that is not resident, another silicon
revision, or 0 (R234). -/
def State.verdict (s : State) (p : Prep) : Nat :=
  let part := s.splicePart s.core.id
  if p.reason ≠ 0 then p.reason
  else
    match spliceOp p.record, p.placed with
    | 0, some c =>
      if !s.nodeResident c part (spliceNode p.record) then 2
      else if Config.coreRev (s.coreAt c).phys ≠ Config.coreRev s.core.phys then 3
      else 0
    | 0, none => 1
    | 1, _ => 0
    | _, _ => if s.nodeResident s.core.id part (spliceNode p.record) then 0 else 2

/-- Preparation is over for the NI. -/
def State.clearPrep (s : State) : State := s.onNi (fun n => { n with prep := none })

/-- `spl.cmt` (R234, R235, R237). -/
def execSplCmt (d : RegNo) (s : State) : Result :=
  match s.core.ni.prep with
  | none => s.trap 0x16 s.core.sw.uval 0
  | some p =>
    if p.failed then (s.clearPrep.setG d (BitVec.ofNat 64 p.reason)).done
    else if !p.ready then s.stay .prep 0
    else if s.verdict p ≠ 0 then
      (((s.failSplice s.core.id p.record (s.verdict p)).clearPrep).setG d (BitVec.ofNat 64 (s.verdict p))).done
    else (((s.commitSplice s.core.id p).clearPrep).setG d 0).done

/-- `spl.abt` (R234, R237). -/
def execSplAbt (s : State) : Result :=
  match s.core.ni.prep with
  | none => s.trap 0x16 s.core.sw.uval 0
  | some p => if p.failed then s.clearPrep.done else ((s.failSplice s.core.id p.record 6).clearPrep).done

/-! ### An insert's task is placed (R233) -/

/-- Whether a core may take an inserted task: it is of the partition and has no context. -/
def State.mayInsert (s : State) (part k : Nat) : Bool :=
  decide (k < coreCount) && decide (s.clusterPart (clusterOf k) = some part) && s.coreIdle k

/-- Whether a core has no queue or route bound. -/
def Core.unbound (c : Core) : Bool := !c.ni.queues.any (fun q => q.bound) && !c.ni.routes.any (fun r => r.ep.isSome)

/-- The core of an insert: the one named, or one that the dispatcher chooses (R233). -/
def State.insertCore (s : State) (part : Nat) (r : Record) : Option Nat :=
  let place := spliceField r 23 16
  if bitOf place 63 then
    let free := ((s.partClusters part).flatMap (fun cl => (List.range 48).map (coreInCluster cl))).filter
      (fun k => s.mayInsert part k && (s.coreAt k).unbound)
    free[Config.coreChoice s.dev.tick % max 1 free.length]?
  else
    let k := bitsOf place 20 3
    if s.mayInsert part k then some k else none

/-- The queue of an insert's place (R231). -/
def insertQueue (r : Record) : Fin 8 := ⟨spliceField r 23 16 % 8, Nat.mod_lt _ (by decide)⟩

/-- The inserted task of a splice starts on a core of the partition: released at the instant of its placement,
with its queue, stage id and route bound, and the state block copied (R233). -/
def State.startInsert (s : State) (k c : Nat) (p : Prep) (l : Loaded) (d : NodeDesc) (slot : Nat) (gen : BitVec 16) : State :=
  let r := p.record
  let now := s.dev.now
  let param := (r.payload.drop 40).take 24 ++ List.replicate 8 0
  let t : Tcb := { Tcb.fresh l.part l.owner slot (spliceNode r) (BitVec.ofNat 64 (spliceSerial r).toNat) gen with
    published := true, rel := now + 1, groupRel := now + 1, pub := now + 1 + d.budget, inline := some param }
  let s1 := ((s.putTcb t).writeInline t param).startTask c l d t
  let q := insertQueue r
  let route := (s.coreAt k).ni.routes[0].ep
  let off := tcmOffset p.block
  let block := s.localRead k true off (spliceSize r)
  let s2 := s1.onCore c (fun x => { x with ni :=
    { ((x.ni.onQueue q (fun u => u.bindAs 0 true 0 0 u.node u.gen)).pointRoute 0 route false)
      with stage := BitVec.ofNat 32 (spliceField r 35 32) } })
  s2.localWrite c true (atOffsets off block)

/-- The dispatcher places the task of an insert, or finds that it cannot: reason 1. A task placed while its frame
is absent ends the preparation with reason 2 (R233, R234, R246). What an earlier binding left in the ring of the task's queue
is taken back first, as at a `qbind`. -/
def State.placeInsert (s : State) (k : Nat) (p : Prep) : State :=
  let part := s.splicePart k
  let end_ (s : State) (q : Prep) : State := s.onCore k (fun c => { c with ni := { c.ni with prep := some q } })
  let gen := match (s.coreAt k).x.ctx with | some x => x.gen | none => Config.noTaskGen s.dev.tick
  match s.insertCore part p.record, s.nodeFor part (spliceNode p.record) with
  | some c, some (l, d) =>
    let slot : Option Nat := match s.findSlot l (spliceNode p.record) (BitVec.ofNat 64 (spliceSerial p.record).toNat) with
      | .take i => some i
      | .found t => if decide (t.st = .retired) && decide (t.gen ≠ gen) then some t.slot else none
      | .full => none
    match slot with
    | none => end_ s { p with ready := true, reason := 1 }
    | some i =>
    match State.emptyRing c (insertQueue p.record) ((s.coreAt c).ni.queue (insertQueue p.record)).ringSrcs.length s with
    | none => s
    | some s0 =>
      let s1 := s0.startInsert k c p l d i gen
      let p1 : Prep := { p with placed := some c, run := (s1.coreAt c).run }
      if s1.nodeResident c part (spliceNode p.record) then end_ s1 p1
      else end_ s1 { p1 with ready := true, reason := 2 }
  | _, _ => end_ s { p with ready := true, reason := 1 }

/-- Whether a placed task waits at its first `recv`: on the core that runs it, or parked there (R36, R246). -/
def State.awaitsRecord (s : State) (run : Nat) : Bool :=
  match s.coreOf run with
  | some k => match (s.coreAt k).x.wait with
    | some w => decide (w.reason = .queue)
    | none => false
  | none => s.dev.disp.recs.any (fun q => match q.cont with
    | some c => decide (c.ctx.run = run ∧ c.code = 4)
    | none => false)

/-- One step of a preparation: an insert's task is placed; the preparation ends when that task waits for a record,
or when a rebind's code request is over. -/
def State.advancePrep (s : State) (k : Nat) : State :=
  match (s.coreAt k).ni.prep with
  | none => s
  | some p =>
    if p.ready || p.failed then s
    else
      let ended (s : State) : State := s.onCore k (fun c => { c with ni := { c.ni with prep := some { p with ready := true } } })
      if spliceOp p.record = 0 then
        match p.placed with
        | none => s.placeInsert k p
        | some _ => if s.awaitsRecord p.run then ended s else s
      else
        match s.nodeFrame (s.splicePart k) (spliceNode p.record) with
        | none => ended s
        | some (f, _) => match (s.coreAt k).mem.frame f with
          | .landing _ => s
          | _ => ended s

/-! ### `uiret` (R174, R235) -/

/-- A committed rebind takes hold: the context continues at the new node's entry, under its number. -/
def State.rebound (s : State) : State :=
  match s.core.ni.rebind, s.core.x.ctx with
  | some node, some x =>
    let s1 := s.onNi (fun n => { n with rebind := none })
    match s.nodeFor x.part node with
    | none => s1
    | some (l, d) =>
      let frame := match l.segment d.seg with | some f => f.1 | none => 0
      (s1.onSw (fun w => { w with uepc := BitVec.ofNat 16 (frame * 0x1000 + d.entry.toNat) })).onX
        (fun e => { e with ctx := some { x with node := node } })
  | _, _ => s

/-- `uiret` (R174): outside a handler it is an illegal instruction. -/
def execUiret (s : State) : Result :=
  if s.core.x.inHandler then .next (s.rebound.finish .userReturn) else s.illegal .uiret

end Sys2Proof.Machine
end

