-- ==== Sys2Proof/Machine/Gang.lean ====
section
/-! DEFINITION. Gangs, group boundaries and parking as instructions (R40 to R43, R135 to R141, R154). -/

namespace Sys2Proof.Machine

/-! ### Gangs (R135, R137) -/

/-- The core cycles after which a `fuse` continues alone, and a blocked member leaves its gang (R43, R135). -/
def gangLimit : Nat := 4096

/-- The cores that a `fuse` mask names, by rising logical number. -/
def fuseMembers (k : Nat) (m : Word) : List Nat :=
  ((List.range 48).filter (fun c => m.getLsbD c)).map (coreInCluster (clusterOf k))

/-- The core cycles that a core has waited for one reason. -/
def Core.waited (c : Core) (r : WaitReason) : Nat :=
  match c.x.wait with
  | some w => if w.reason = r then w.cycles else 0
  | none => 0

/-- Whether a swap has moved a core out of its logical cluster (R310). -/
def Core.displaced (c : Core) : Bool :=
  decide (c.phys / 8192 ≠ shingleOf c.id ∨ c.phys % 8192 / 48 ≠ clusterIndex (clusterOf c.id))

/-- Whether a core still waits at a `fuse` of a mask; a displaced one never does (R310). -/
def Core.fusing (c : Core) (m : Word) : Bool :=
  !c.displaced && decide (c.fuse = some (m, false)) && (match c.x.wait with | some w => decide (w.reason = .fuse ∧ w.cycles ≤ gangLimit) | none => false)

/-- The gang of a mask forms: the acting core's `fuse` completes, and those of the others are decided. -/
def State.formGang (s : State) (m : Word) : State :=
  let members := fuseMembers s.core.id m
  members.foldl (fun t k => t.onCore k (fun c => { c with gang := members, fuse := if k = s.core.id then none else some (m, true) })) s

/-- `fuse` (R135); a displaced core's completes at once and forms nothing (R310). -/
def execFuse (a : RegNo) (s : State) : Result :=
  let m := s.g a &&& 0xFFFFFFFFFFFF
  let me := localIndex s.core.id
  let clear : State := { s with core := { s.core with fuse := none } }
  if s.core.fuse.map (fun f => f.2) = some true then clear.done
  else if !m.getLsbD me || decide (m = BitVec.ofNat 64 (2 ^ me)) || decide (s.core.gang ≠ []) || s.core.x.inHandler || s.core.displaced then clear.done
  else if gangLimit < s.core.waited .fuse then clear.done
  else if (fuseMembers s.core.id m).all (fun k => decide (k = s.core.id) || (s.coreAt k).fusing m) then (s.formGang m).done
  else State.stay { s with core := { s.core with fuse := some (m, false) } } .fuse 0

/-- `split` (R137). -/
def execSplit (s : State) : Result := s.dissolveGang.done

/-! ### Group boundaries (R40, R41, R138) -/

/-- The next group begins: its instants, in the core and in the task's TCB. -/
def State.nextGroup (s : State) (x : Ctx) : State :=
  let rel := x.pub
  let y : Ctx := { x with rel := rel, pub := rel + x.budget, groups := x.groups + 1 }
  let s1 := s.onX (fun e => { e with ctx := some y })
  match s.tcbOfCtx x with
  | some t => s1.putTcb { t with groupRel := rel, pub := y.pub }
  | none => s1

/-- A context stands at a group boundary until its REL begins. -/
def State.untilRel (s : State) (rel : Nat) : Result :=
  let t := s.finish .next
  .next (if rel ≤ s.dev.now then t else t.onX (fun x => { x with wait := some ⟨.yieldRel, BitVec.ofNat 64 rel, 0⟩ }))

/-- The number of the lowest bound port. -/
def Core.lowestPort (c : Core) : Word :=
  BitVec.ofNat 64 (28 + (([0, 1, 2, 3] : List (Fin 4)).filter (fun i => c.eng.streams[i].isSome)).foldr (fun i _ => i.val) 0)

/-- The value of `xmig` (R256). -/
def Csrs.xmig (c : Csrs) : Word :=
  BitVec.ofNat 64 ((if c.req then 2 ^ 63 else 0) + c.why.toNat * 2 ^ 18 + c.target.toNat)

/-- Whether the ready queues of the acting core's cluster hold work of higher priority (R138, R276). -/
def State.outranked (s : State) (prio : Nat) : Bool :=
  match s.ageAll.headOf (clusterOf s.core.id) with
  | some r => decide (prio < r.aged)
  | none => false

/-- `yield` (R138 to R141): after the fence of R154. With no task it does nothing. How a supervisor takes the boundary
otherwise than through `xmig` the spec does not say, and the model gives that branch of R138 no effect of its own (log
entry 72, DESIGN CHOICE). -/
def execYield (a : RegNo) (s : State) : Result :=
  let m := cleanMask (s.g a)
  let scope := s.core.sw.fenceScope
  if s.core.x.inHandler then s.illegal (.yield a)
  else
    match s.core.x.ctx with
    | none => s.done
    | some x =>
      if s.fenceWaits scope then s.stay .drain 0
      else
        let s1 := ((s.fenced scope).nextGroup x).leaveGang
        if anyLoop s.core.x.loops || decide (16 < maskSlots m) then s1.untilRel x.pub
        else if s.core.csr.req then
          let s2 := s1.onX (fun e => { e with mglive := m ||| 0x8000000000000000, reqSince := none })
          .next (s2.finish (.trapAfter 0x18 s.core.csr.xmig))
        else if s.outranked x.prio then
          if s.core.anyPort then s.trap 0x0A s.core.lowestPort 0 else .next (s1.finishLeave (.boundary m))
        else s1.untilRel x.pub

/-- `park` (R140, R141): after every remote access has replied and the fence of R154. Where several misuses hold at once
the spec gives no order: the model takes the illegal instruction, then the stream fault, then the loop fault; and where
several levels are active it names the lowest of them (log entry 73, DESIGN CHOICE). -/
def execPark (a : RegNo) (s : State) : Result :=
  let m := cleanMask (s.g a)
  let scope := s.core.sw.fenceScope
  if s.core.x.inHandler ∨ 16 < maskSlots m then s.illegal (.park a)
  else if s.core.anyPort then s.trap 0x0A s.core.lowestPort 0
  else if anyLoop s.core.x.loops then
    s.trap 0x0B (if s.core.x.loops[0].active then 0 else if s.core.x.loops[1].active then 1 else 2) 0
  else if s.core.eng.remote.any Remote.ofCtx || s.fenceWaits scope then s.stay .drain 0
  else .next (s.drainAll.finishLeave (.park m))

end Sys2Proof.Machine
end

