-- ==== Sys2Proof/Machine/Sys.lean ====
section
/-! DEFINITION. The control and status registers and the system instructions (R253 to R262, R265, R267). -/

namespace Sys2Proof.Machine

/-! ### CSRs (R254 to R259) -/

/-- The assigned CSR numbers (R254). -/
def csrAssigned (n : Nat) : Bool :=
  decide (n ≤ 0x00A) || decide (0x010 ≤ n ∧ n ≤ 0x015) || decide (0x020 ≤ n ∧ n ≤ 0x027)

/-- A bit of a register's value. -/
def bitAt (b : Bool) (i : Nat) : Word := if b then BitVec.ofNat 64 (2 ^ i) else 0

/-- `xstatus` (R255); RP is live. -/
def Core.xstatus (c : Core) : Word :=
  bitAt c.csr.me 7 ||| bitAt c.csr.sb 6 ||| bitAt c.csr.la 5 ||| bitAt c.csr.puh 4 |||
    bitAt (decide (c.csr.pm = .supervisor)) 3 ||| bitAt (c.eng.remote.any Remote.ofCtx) 1 ||| bitAt c.csr.tip 0

/-- A CSR's value (R254). -/
def Core.csrValue (c : Core) (n : Nat) : Word :=
  let x := c.csr
  match n with
  | 0x000 => c.xstatus
  | 0x001 => x.xepc.setWidth 64
  | 0x002 => x.xcause.setWidth 64
  | 0x003 => x.xval
  | 0x004 => x.xval2
  | 0x005 => x.xtvec.setWidth 64
  | 0x006 => x.xscratch
  | 0x007 => x.xmig
  | 0x008 => bitAt x.nisBusy 63 ||| bitAt x.nisErr 62 ||| x.nisCount.setWidth 64
  | 0x00A => bitAt x.supEn 8 ||| (x.ifr.setWidth 64 <<< 4) ||| x.tfr.setWidth 64
  | 0x010 => x.sstkb
  | 0x011 => x.sstkl
  | 0x012 => x.sParkCycles.setWidth 64 ||| (x.sRscope.setWidth 64 <<< 62)
  | 0x013 => x.sscope.setWidth 64
  | 0x014 => x.suvec.setWidth 64
  | 0x015 => x.suien.setWidth 64
  | n => if h : 0x020 ≤ n ∧ n < 0x028 then x.prof[n - 0x020] else 0

/-- A migration request is set or cleared: one that finds no context does nothing; one that arises while ME is
1 makes event 0x18 pending, and its deadline begins (R256, R263, R312). -/
def Core.setRequest (c : Core) (now : Nat) (req : Bool) : Core :=
  let req' := req && c.x.ctx.isSome
  { c with
    csr := { c.csr with req := req' }
    x := { c.x with
      ev18 := c.x.ev18 || (req' && !c.csr.req && c.csr.me)
      reqSince := if req' then (if c.csr.req then c.x.reqSince else some now) else none } }

/-- `xmig` is written (R256). -/
def Core.writeXmig (c : Core) (now : Nat) (v : Word) : Core :=
  ({ c with csr := { c.csr with why := v.extractLsb' 18 2, target := v.extractLsb' 0 18 } } : Core).setRequest now (v.getLsbD 63)

/-- `xstatus` is written: ME, PUH, PM and TIP (R255, R263). -/
def Core.writeXstatus (c : Core) (v : Word) : Core :=
  { c with
    csr := { c.csr with me := v.getLsbD 7, puh := v.getLsbD 4, pm := if v.getLsbD 3 then .supervisor else .user, tip := v.getLsbD 0 }
    x := { c.x with ev18 := c.x.ev18 || (v.getLsbD 7 && !c.csr.me && c.csr.req) } }

/-- What a write of a CSR does (R254 to R259, R265, R267). -/
def State.writeCsr (s : State) (n : Nat) (v : Word) : State :=
  match n with
  | 0x000 => { s with core := s.core.writeXstatus v }
  | 0x001 => s.onCsr (fun x => { x with xepc := clauseLayout v })
  | 0x002 => s.onCsr (fun x => { x with xcause := v.setWidth 8 })
  | 0x003 => s.onCsr (fun x => { x with xval := v })
  | 0x004 => s.onCsr (fun x => { x with xval2 := v })
  | 0x005 => s.onCsr (fun x => { x with xtvec := clauseLayout v })
  | 0x006 => s.onCsr (fun x => { x with xscratch := v })
  | 0x007 => { s with core := s.core.writeXmig s.dev.now v }
  | 0x008 => if v.extractLsb' 0 2 = 1 then s.nisSpill v else if v.extractLsb' 0 2 = 2 then s.nisReinject v else s
  | 0x009 => s.endContext (v.setWidth 8)
  | 0x00A => s.onCsr (fun x => { x with supEn := v.getLsbD 8, ifr := v.extractLsb' 4 4, tfr := v.extractLsb' 0 4 })
  | 0x010 => s.onCsr (fun x => { x with sstkb := v })
  | 0x011 => s.onCsr (fun x => { x with sstkl := v })
  | 0x012 => s.onCsr (fun x => { x with sParkCycles := v.setWidth 32, sRscope := v.extractLsb' 62 2 })
  | 0x013 => s.onCsr (fun x => { x with sscope := v.setWidth 37 })
  | 0x014 => s.onCsr (fun x => { x with suvec := clauseLayout v })
  | 0x015 => s.onCsr (fun x => { x with suien := v.setWidth 6 })
  | n => if h : 0x020 ≤ n ∧ n < 0x028 then s.onCsr (fun x => { x with prof := x.prof.set (n - 0x020) v }) else s

/-! ### SYS instructions (R115, R116, R260) -/

/-- A system instruction: privileged (R115, order 8). -/
def State.privileged (s : State) (i : Instr) (f : State → Result) : Result :=
  if s.core.x.mode = .user then s.trap 0x03 ((s.wordAtIssue i).setWidth 64) 0 else f s

/-- An instruction on a CSR, which must be assigned (R115, order 9). -/
def State.onAssigned (s : State) (i : Instr) (n : BitVec 12) (f : State → Result) : Result :=
  s.privileged i (fun s => if csrAssigned n.toNat then f s else s.illegal i)

/-- `csrr` (R260). -/
def execCsrr (d : RegNo) (n : BitVec 12) (s : State) : Result :=
  s.onAssigned (.csrr d n) n (fun s => (s.setG d (s.core.csrValue n.toNat)).done)

/-- `csrw` (R260). -/
def execCsrw (a : RegNo) (n : BitVec 12) (s : State) : Result :=
  s.onAssigned (.csrw a n) n (fun s => (s.writeCsr n.toNat (s.g a)).done)

/-- `csrs` (R260). -/
def execCsrs (a : RegNo) (n : BitVec 12) (s : State) : Result :=
  s.onAssigned (.csrs a n) n (fun s => (s.writeCsr n.toNat (s.core.csrValue n.toNat ||| s.g a)).done)

/-- `csrc` (R260). -/
def execCsrc (a : RegNo) (n : BitVec 12) (s : State) : Result :=
  s.onAssigned (.csrc a n) n (fun s => (s.writeCsr n.toNat (s.core.csrValue n.toNat &&& ~~~(s.g a))).done)

/-- `xret` (R262). -/
def execXret (s : State) : Result := s.privileged .xret (fun s => .next (s.finish .trapReturn))

/-- The first pending system event: its cause and value, and the core with it taken (R263). A taken 0x18 clears
bit 63 of MGLIVE (R312). -/
def Core.takeEvent (c : Core) : Option (BitVec 8 × Word × Core) :=
  if c.x.ev18 then some (0x18, c.csr.xmig, { c with x := { c.x with ev18 := false, arrived := false, mglive := c.x.mglive &&& 0x7FFFFFFFFFFFFFFF } })
  else
    match c.x.ev19 with
    | some w => some (0x19, w, { c with x := { c.x with ev19 := none } })
    | none => none

/-- `wfi` (R260): a pending event completes it and is then taken, unless a trap is in progress. -/
def execWfi (s : State) : Result :=
  s.privileged .wfi (fun s =>
    match s.core.takeEvent with
    | some (code, v, c) => if s.core.csr.tip then s.done else .next (State.finish { s with core := c } (.trapAfter code v))
    | none => if s.core.sw.mboxf ≠ 0 then s.done else s.stay .event 0)

end Sys2Proof.Machine
end

