-- ==== Sys2Proof/Machine/Traps.lean ====
section
/-! DEFINITION. What is taken at a clause boundary: illegal words and clauses, deferred faults, system events,
user-level interrupts (R115, R116, R173, R243, R257, R263). -/

namespace Sys2Proof.Machine

/-- A clause or word that is no instruction traps (R115, R116, R257). -/
def execIllegalWordIssue (r : Reject) (s : State) : Result :=
  match r with
  | .illegalClause w0 w1 => s.trap 0x02 (w1 ++ w0) 0
  | .illegalWord w => s.trap 0x01 (w.setWidth 64) 0
  | .privilegedFetch a => s.trap 0x03 (a.setWidth 64) 0

/-- A deferred task fault may be taken: in user mode with no trap in progress (R263). -/
def Core.canTakeFault (c : Core) : Bool :=
  !c.x.deferred.isEmpty && decide (c.x.mode = .user ∧ c.x.run = .running) && !c.csr.tip

/-- Whether a core waits in `wfi`; the event that comes completes it as it issues again (R260). -/
def Core.inWfi (c : Core) : Bool :=
  match c.x.wait with
  | some w => decide (w.reason = .event)
  | none => false

/-- A system event may be taken between clauses: with no trap in progress, in user mode, or in supervisor mode with no task
context (R263); the supervisor that a move has given a context takes the event of its arrival (R314). A `wfi` takes its own
event as it completes (R260). -/
def Core.canTakeEvent (c : Core) : Bool :=
  (c.x.ev18 || c.x.ev19.isSome) && !c.csr.tip && !c.inWfi && (decide (c.x.mode = .user) || c.x.ctx.isNone || c.x.arrived)

/-- A user-level interrupt may be taken (R173, R263). -/
def Core.canTakeUser (c : Core) : Bool :=
  decide (c.x.mode = .user ∧ c.x.run = .running) && !c.x.inHandler && decide (c.sw.en &&& c.sw.pend ≠ 0)

/-- Whether the core's first clause waits for its code (R246). -/
def Core.awaitsCode (c : Core) : Bool :=
  match c.x.run with
  | .codeWait _ => true
  | _ => false

/-- Whether an instruction of the core waits at issue. -/
def Core.waitsAtIssue (c : Core) : Bool :=
  match c.x.wait with
  | some w => decide (w.reason ≠ .yieldRel)
  | none => false

/-- Whether the core stands between clauses, has resumed a context and not issued since (R148), or is in a wait that is
abandoned (R105, R173); a `fuse` that is decided completes first, and so does the code of a first clause. -/
def Core.atBoundary (c : Core) : Bool :=
  (!c.x.pc.getLsbD 2 || c.waitsAtIssue || c.x.fresh || decide (c.x.run = .idle)) && decide (c.fuse.map (fun f => f.2) ≠ some true) && !c.awaitsCode

/-- What the acting core takes before its next clause: a deferred fault, then an event, then a user-level interrupt
(R239, R263); nothing while its clock stands. -/
def State.boundary (s : State) : Option Instr :=
  if !s.core.atBoundary || s.core.x.stopped.isSome || s.clockGated s.core.id then none
  else if s.core.canTakeFault then some .deferredFaultTake
  else if s.core.canTakeEvent then some .systemEventTake
  else if s.core.canTakeUser then some .userInterruptEntry
  else none

/-- The oldest deferred fault is taken; the copy that it ended leaves the engine (R243, R261, R263). -/
def execDeferredFaultTake (s : State) : Result :=
  match s.core.x.deferred with
  | [] => .next s
  | d :: rest =>
    if s.boundary = some .deferredFaultTake then
      let s1 := (s.onX (fun x => { x with deferred := rest })).dropFailed d
      .next (s1.enterTrap d.cause d.addr (d.clause.setWidth 64) s1.core.x.pc)
    else .next s

/-- A pending system event is taken; a core that waits for work leaves off waiting (R261, R263). -/
def execSystemEventTake (s : State) : Result :=
  match s.core.takeEvent with
  | none => .next s
  | some (code, v, c) =>
    if s.boundary = some .systemEventTake then
      .next (State.enterTrap { s with core := { c with x := { c.x with run := .running } } } code v 0 c.x.pc)
    else .next s

/-- The lowest set bit of a set of causes. -/
def lowestCause (m : BitVec 6) : Option (Fin 6) := ([0, 1, 2, 3, 4, 5] : List (Fin 6)).find? (fun i => m.getLsbD i.val)

/-- The lowest enabled pending cause enters the handler (R173). -/
def execUserInterruptEntry (s : State) : Result :=
  match lowestCause (s.core.sw.en &&& s.core.sw.pend) with
  | none => .next s
  | some i => if s.boundary = some .userInterruptEntry then .next (s.enterHandler i) else .next s

end Sys2Proof.Machine
end

