-- ==== Sys2Proof/Machine/EvTimed.lean ====
section
/-! DEFINITION. Steps of the homes, the instant counter, the read-only caches and the purges (R56, R62 to R79,
R147 to R149, R278). A step whose item is not there, or not due, changes nothing (log entry 3). -/

namespace Sys2Proof.Machine

/-! ### The instant boundary (R7, R73, R277) -/

/-- The aging count of a record at a new instant: one at whose end a continuation is not resumable does not count, and
the earlier ones stay (R276). -/
def State.aging (s : State) (r : QRec) : QRec :=
  match r.cont with
  | some c => if decide (max r.since r.rel < s.dev.now) && !s.resumable c then { r with since := max r.since r.rel + 1 } else r
  | none => r

/-- A queued record as a new instant finds it: its aging count, and, of a `near` record, when it came to the head of the
queue of its priority, each instant that ends with the core it names idle not counted (R273; log entry 20). -/
def State.atHead (s : State) (r : QRec) : QRec :=
  let r1 := s.aging r
  if r.near.isSome then
    match s.prioHead r.cluster r.prio with
    | some h => if decide (r.place = 1 ∧ h.part = r.part ∧ h.node = r.node ∧ h.wid = r.wid) then
        { r1 with headSince := some (match r.headSince with | some t => if s.nearIdle r then t + 1 else t | none => s.dev.now) }
      else { r1 with headSince := none }
    | none => { r1 with headSince := none }
  else r1

/-- The last instant that the 56-bit counter counts (R1, R7). -/
def lastInstant : Nat := 2 ^ 56 - 1

/-- The counter takes its next value: a new period, beacons that did not come. -/
def State.advanceInstant (s : State) : State :=
  let t := s.dev.now + 1
  let s1 := s.onDev (fun d => { d with
    now := t, ending := false, iperiodNext := none, missed := if t % 64 = 0 ∧ !s.isMaster then d.missed + 1 else d.missed })
  match s.dev.iperiodNext with
  | some p => s1.setShReg 0 0x6000 (p.setWidth 64)
  | none => s1

/-- Whether the owner reclaims a TCB at the end of the instant: it is RETIRED, and the horizon of its partition has passed
its PUB by 256 (R270). -/
def State.reclaims (s : State) (t : Tcb) : Bool :=
  match s.partition t.part with
  | some q => decide (t.st = .retired ∧ t.pub + 256 ≤ q.horizon ∧ s.dev.now < lastInstant) && !s.quiesced
  | none => false

/-- A slot as its reclaim leaves it, EMPTY. -/
def Tcb.reclaimed (t : Tcb) : Tcb := Tcb.fresh t.part t.owner t.slot t.node t.wid t.gen

/-- The slots whose reclaim is due are EMPTY by the end of the instant (R270). -/
def State.reclaimDue (s : State) : State :=
  s.onDisp (fun d => { d with tcbs := d.tcbs.map (fun t => if s.reclaims t then t.reclaimed else t) })

/-- `INSTANT_BOUNDARY`: the owners have reclaimed what is due; the horizon of the instant that ends is broadcast, the counter advances, pages move, and
every home applies what the new instant makes visible. The spec gives the counter 56 bits and says nothing of what
follows its last value: the model takes no boundary there (log entry 63, DESIGN CHOICE). -/
def execInstantBoundary (s : State) : Result :=
  if lastInstant ≤ s.dev.now then .next s else
  let s1 := (s.reclaimDue.broadcast s.dev.now).advanceInstant
  let s2 := (s1.carryPages s1.dev.now).applyInstant s1.dev.now
  .next (s2.onDisp (fun d => { d with recs := d.recs.map s2.atHead }))

/-! ### Homes (R63 to R68) -/

/-- The fault of a store or atomic that its walk or a remote home refuses: the answer to another part, the failure of
a host copy, or the deferred fault of its atomic's reply, its copy or its task (R149, R162, R291). -/
def State.storeFault (s : State) (t : TStore) (cause : BitVec 8) : State :=
  match t.device, t.src with
  | some d, _ => s.answer d t.core (match t.atomic with | some a => a.tag | none => 0) [] cause
  | none, .host => s.hostRefused t.node t.addr cause
  | none, .firmware => s
  | none, _ =>
    match t.atomic, t.copy with
    | some a, _ => s.setRemote t.core a.tag (.faulted cause)
    | none, some tag => s.asCore t.core (fun s =>
        match s.core.eng.copies.find? (fun x => decide (x.tag = tag)) with
        | some x => if x.failed then s else s.abandonCopy x cause t.addr
        | none => s)
    | none, none => s.asCore t.core (fun s =>
        s.deferFor ⟨decide (t.src = .task), t.token, t.run, some t.part, t.sup⟩ ⟨cause, t.addr, t.clause, none⟩)

/-- Whether a home has a place for a store or atomic: an entry of its reserve, or what R64 and R299 leave a plain
store. A late store of policy drop takes none. -/
def State.mayAccept (s : State) (t : TStore) (key : Nat) : Bool :=
  let t1 := s.acceptedAs t key
  if t.atomic.isSome then decide (s.atomicEntries (homeOf t1.base) < atomicReserve) else (t1.late && t.drop) || s.hasRoom t1

/-- The class that a store or atomic goes on to another part: a timed store on the tier of C2, an atomic on C1 (R230). -/
def TStore.flitClass (t : TStore) : Cls := if t.atomic.isSome then .c1 else .c2

/-- Whether a line of a host copy waits for an earlier one of its port, so that a copy that fails stops at that line (R322;
log entry 44). -/
def State.hostBehind (s : State) (t : TStore) : Bool :=
  decide (t.src = .host ∧ t.device = none) &&
    s.dev.timed.flight.any (fun x => decide (x.src = .host ∧ x.device = none ∧ x.node = t.node ∧ x.id < t.id))

/-- `HOME_STORE_ACCEPT`: a translated store in flight, while its home has a place for it (R64); to a remote part it waits
for the port (R327), and the part may answer it with protection (R291). A home that meets an uncorrectable error does not
perform it (R145, R282). -/
def execHomeStoreAccept (n : Nat) (s : State) : Result :=
  match s.dev.timed.flight[n]? with
  | none => .next s
  | some t =>
    match t.home with
    | none => .next s
    | some key =>
      let s1 := s.onTimed (fun m => { m with flight := dropAt m.flight n })
      if t.gate ∨ s.keyWaits key t.flitClass ∨ s.hostBehind t ∨ s.queued (.store t.id) then .next s
      else if s.keyBarred key || (!ownKey key && Config.remoteRefuses s.dev.tick) then .next (s1.storeFault t 0x11)
      else if !s.mayAccept t key then .next s
      else if Config.homeEcc s.dev.tick then .next (s1.storeFault t 0x12)
      else .next ((s1.sendAccess t.flitClass t.core key).acceptStore t key)

/-- `HOME_LOAD_REQUEST`: a load of an instant that has begun is answered (R68, R70, R296). -/
def execHomeLoadRequest (core tag : Nat) (s : State) : Result :=
  match s.anyRemote core tag with
  | none => .next s
  | some r =>
    match r.stat, r.inst with
    | .home key, some t =>
      if s.dev.now < t ∨ r.gate ∨ s.homeWaits key ∨ s.queued (.access core tag) then .next s
      else .next ((s.sendAccess .c1 core key).setRemote core tag (s.homeAnswer key t r.width))
    | _, _ => .next s

/-- `RO_CACHE_FILL`: the line of a GLOBAL-RO miss as visible now (R56). -/
def execRoCacheFill (core tag : Nat) (s : State) : Result :=
  match s.anyRemote core tag with
  | none => .next s
  | some r =>
    match r.stat, r.inst with
    | .home key, none =>
      if r.gate ∨ s.homeWaits key ∨ s.queued (.access core tag) then .next s
      else
        match s.homeAnswer (64 * lineOf key) s.dev.now 64 with
        | .served line _ =>
          let s1 := (s.sendAccess .c1 core key).roPut (shingleOf core) key line
          .next (s1.setRemote core tag (.served ((line.drop (key % 64)).take r.width) 0))
        | a => .next (s.setRemote core tag a)
    | _, _ => .next s

/-- `STORE_ACK`: an acknowledgement reaches its NI (R63, R66). -/
def execStoreAck (n : Nat) (s : State) : Result :=
  match s.dev.timed.acks[n]? with
  | none => .next s
  | some a => if s.gated a.core then .next s else .next (s.onTimed (fun m => { m with acks := dropAt m.acks n }))

/-- `LATE_REPORT` (R67, R239). -/
def execLateReport (n : Nat) (s : State) : Result :=
  match s.dev.timed.lateReports[n]? with
  | none => .next s
  | some r =>
    if s.gated r.core then .next s
    else .next (((s.onTimed (fun m => { m with lateReports := dropAt m.lateReports n })).onCore r.core (fun c => c.lateReport r)).lateDrop r)

/-- `TIE_REPORT` (R74). -/
def execTieReport (n : Nat) (s : State) : Result :=
  match s.dev.timed.tieReports[n]? with
  | none => .next s
  | some r =>
    if s.gated r.core then .next s
    else .next ((s.onTimed (fun m => { m with tieReports := dropAt m.tieReports n })).onCore r.core (fun c => c.tieReport r))

/-- Whether a remote access has its reply. -/
def Remote.answered (r : Remote) : Bool :=
  match r.stat with
  | .served _ _ | .faulted _ => true
  | _ => false

/-- Whether a core stands with its clock stopped, for an image, a double trap or a thermal trip: its NI holds the replies
(R304, R331). -/
def State.holdsReplies (s : State) (k : Nat) : Bool := (s.coreAt k).x.stopped.isSome || s.tripped k

/-- Whether a reply waits at the gate of its core's voltage domain: the domain switches, or its gate has closed while
the load was held for an instant to come (R301). -/
def State.replyGated (s : State) (k : Nat) (r : Remote) : Bool :=
  s.gated k || (s.gateShut k && (match r.inst with | some t => decide (s.gateSince k < t) | none => false))

/-- A reply to the handler's bank reaches that bank of the core that issued the access (R148, R173). -/
def State.replyBank (s : State) (k : Nat) (r : Remote) : State :=
  s.asCore k (fun s => match r.stat with
    | .served bs _ => (s.writeReply r.dst true r.width bs).addStride r
    | _ => s.addStride r)

/-- A reply that reaches the record of a context that parked on a core; a value for the handler's bank stays out of the
record (R148). -/
def State.replyParked (s : State) (k : Nat) (r : Remote) : State :=
  let s1 := if r.toBank then s.replyBank k r else s
  let r1 : Remote := if r.toBank then { r with dst := .g 0 false } else r
  s1.onDisp (fun d => { d with recs := d.recs.map (fun q => match q.cont with
    | some c => if decide (c.core = k) && c.remote.any (fun x => decide (x.tag = r.tag)) then { q with cont := some (c.reply r1) } else q
    | none => q) })

/-- `REMOTE_REPLY`: on the core of the access, or in the record of the context that parked there (R147 to R149). While
the core stands its NI holds the reply (R149, R304, R331). -/
def execRemoteReply (core tag : Nat) (s : State) : Result :=
  match s.remoteOf core tag with
  | some r =>
    if r.answered && !s.replyGated core r && !s.holdsReplies core then .next (s.asCore core (fun s => s.replyHere r)) else .next s
  | none =>
    match s.parkedRemote core tag with
    | none => .next s
    | some r => if r.answered && !s.replyGated core r then .next (s.replyParked core r) else .next s

/-! ### Purges (R76, R278) -/

/-- Whether a store or entry is one that a purge removes. -/
def Purge.takes (p : Purge) (t : TStore) : Bool :=
  decide (t.device = none ∧ t.src = .task ∧ t.token = p.token ∧ t.part = p.part)

/-- `TASK_PURGE_SEND`: once every store of the task is accepted; it goes to this part's homes, and to the parts whose
homes hold an entry of the task. -/
def execTaskPurgeSend (n : Nat) (s : State) : Result :=
  match s.dev.timed.purges[n]? with
  | none => .next s
  | some p =>
    if s.dev.timed.flight.any p.takes then .next s
    else
      let s1 := s.onTimed (fun m => { m with purges := setAt m.purges n { p with sent := true } })
      let far := ((s.dev.timed.tense.filter (fun t => p.takes t && !ownKey t.base)).map (fun t => keyDevice t.base)).eraseDups
      .next (far.foldl (fun s d => s.route ⟨.c0, coreEndpoint p.core 0, 2 ^ 33, d, .direct, .purge p.token⟩) s1)

/-- `PURGE_APPLY`: a home removes the entries of the token; the homes of this part by their number, the remote ones
together by any higher number. A store that had lost a byte of a shared entry to a purged one stays, and its data becomes
visible: the spec does not say what the purge leaves there (log entry 22, DESIGN CHOICE). -/
def execPurgeApply (n home : Nat) (s : State) : Result :=
  match s.dev.timed.purges[n]? with
  | none => .next s
  | some p =>
    if !p.sent then .next s
    else .next (s.onTimed (fun m => { m with
      tense := m.tense.filter (fun t => !(p.takes t && decide ((homeOf t.base).getD home = home))) }))

/-- `FAULT_POLICY_APPLY`: with the purge confirmed by every home the owner marks the task HELD and applies its policy, once
no update has it quiesced (R334); a cancelled task has retired already. -/
def execFaultPolicyApply (n : Nat) (s : State) : Result :=
  match s.dev.timed.purges[n]? with
  | none => .next s
  | some p =>
    if !p.sent || s.quiesced || s.dev.timed.tense.any p.takes then .next s
    else
      let s1 := s.onTimed (fun m => { m with purges := dropAt m.purges n })
      if p.cause = 0 then .next s1
      else
        match s1.tcbOf p.part p.node p.wid with
        | some t => .next (s1.applyPolicy t p.cause p.passed)
        | none => .next s1

end Sys2Proof.Machine
end

