-- ==== Sys2Proof/Machine/EvNi.lean ====
section
/-! DEFINITION. Steps of the network interfaces: arrivals, staged messages, splices, seams and links, spilled
buffers, copy control, and the traffic of a swap (R157, R221, R222, R225, R232 to R236, R246 to R250, R265, R267, R309). A
step whose message is not there, or may not arrive yet, changes nothing (log entry 3). -/

namespace Sys2Proof.Machine

/-! ### Arrivals (R157, R221, R250) -/

/-- Whether a record that arrives at a bound queue is one that an expired watchdog drops (R232). -/
def Ni.dropsRecord (n : Ni) (q : Fin 8) (r : Record) : Bool :=
  (n.queue q).pipe && r.isSplice && n.dropped.contains (spliceSerial r)

/-- Whether an arriving record is held for a seam (R236, R249). -/
def Queue.holdsBack (q : Queue) (r : Record) : Bool := r.as && !q.seamSrcs.contains r.src && q.keptSeam.isNone

/-- Whether a queue has a place for a record, or publishes it at once (R221, R224, R236). -/
def Queue.admits (q : Queue) (r : Record) : Bool :=
  q.takes (decide (r.kind = 5)) || (decide (q.mode = 1 ∧ r.kind = 0) && !q.holdsBack r)

/-- The queue of an endpoint. -/
def epQueueNo (e : Nat) : Fin 8 := ⟨epQueue e % 8, Nat.mod_lt _ (by decide)⟩

/-- The NI of a core under an image logs the `n`-th message in flight. -/
def State.logTaken (s : State) (k n : Nat) : State :=
  match s.arriving n with
  | some m => (s.takeMsg n).logArrival k m
  | none => s

/-- `RECORD_ARRIVAL`: at a bound queue with a place for it; any other record waits in the fabric. The NI of a core that
stands under an image logs it (R306). -/
def execRecordArrival (n : Nat) (s : State) : Result :=
  match (s.arriving n).map Message.body with
  | some (.record ep r) =>
    let k := epCore ep
    let q := epQueueNo ep
    let qu := (s.coreAt k).ni.queue q
    if coreCount ≤ k ∨ !qu.bound then .next s
    else if (s.coreAt k).ni.dropsRecord q r then .next (s.takeMsg n)
    else if (s.imageOn k).isSome then .next (s.logTaken k n)
    else if qu.admits r then .next ((s.takeMsg n).arrive k q r)
    else .next s
  | _ => .next s

/-- An arrival in a mailbox word of a core (R157). -/
def Core.mailboxArrival (c : Core) (w : BitVec 2) (v : Word) : Core :=
  let c1 : Core := { c with sw := { c.sw with
    mbox := c.sw.mbox.set w.toNat v w.isLt, mboxf := c.sw.mboxf ||| BitVec.ofNat 4 (2 ^ w.toNat) } }
  c1.pendCause 3 (w.setWidth 64)

/-- `MAILBOX_WRITE`; one that names no core changes nothing. -/
def execMailboxWrite (n : Nat) (s : State) : Result :=
  match (s.arriving n).map Message.body with
  | some (.mailbox core word v) =>
    let s1 := s.takeMsg n
    if core < coreCount then .next (s1.onCore core (fun c => c.mailboxArrival (BitVec.ofNat 2 word) v)) else .next s1
  | _ => .next s

/-! ### Splices (R232, R246) -/

/-- The instant at which the watchdog of a serial expires: a span, as DSPWD stood then, after the first hold over the
inputs of an NI (R232, R281). -/
def Ni.watchEnd (n : Ni) (serial : BitVec 32) : Option Nat :=
  let holds := (n.inputs.filterMap (fun q => match (n.queue q).recs with
    | h :: _ => if h.isSplice && decide (spliceSerial h = serial) then (n.queue q).heldSince else none
    | [] => none))
  (leastBy id (holds.map (fun h => h.1))).bind (fun t => (holds.find? (fun h => decide (h.1 = t))).map (fun h => h.1 + h.2))

/-- The splice at the head of a queue fails with reason 4: later copies of its serial are dropped, and `spl.cmt` of
its preparation writes the reason (R232, R304). -/
def State.expireSplice (s : State) (k : Nat) (r : Record) : State :=
  let serial := spliceSerial r
  (s.failSplice k r 4).onCore k (fun c => { c with ni := { c.ni with
    dropped := c.ni.dropped ++ [serial]
    prep := c.ni.prep.map (fun p =>
      if spliceSerial p.record = serial then { p with failed := true, reason := 4, placed := none } else p) } })

/-- `SPLICE_WATCHDOG_EXPIRY`: DSPWD instants after the first input's hold. -/
def execSpliceWatchdogExpiry (core queue : Nat) (s : State) : Result :=
  if core < coreCount then
    let ni := (s.coreAt core).ni
    match (ni.queue ⟨queue % 8, Nat.mod_lt _ (by decide)⟩).recs with
    | [] => .next s
    | r :: _ =>
      if !r.isSplice then .next s
      else
        match ni.watchEnd (spliceSerial r) with
        | none => .next s
        | some t => if t ≤ s.dev.now then .next (s.expireSplice core r) else .next s
  else .next s

/-- `SPLICE_PREP_END`: a preparation goes on, to its end (R233, R246). -/
def execSplicePrepEnd (core : Nat) (s : State) : Result :=
  if core < coreCount ∧ !s.quiesced then .next (s.advancePrep core) else .next s

/-! ### Seams and links (R235, R236, R248, R249) -/

/-- Whether a queue of an NI is the input of the stage that an elide retires. -/
def Ni.elides (n : Ni) (q : Fin 8) : Bool :=
  match n.eliding with
  | some p => decide (p.queue = q.val)
  | none => false

/-- The seam of an elide takes its place in the queue, so that it reaches the head; it is no record, and raises no
cause. -/
def State.queueSeam (s : State) (k : Nat) (q : Fin 8) (src : Nat) : State :=
  let sw := (s.coreAt k).sw
  (s.enqueue k q ⟨[], 0, 0, 2, false, src⟩).onCore k (fun c => { c with sw := sw })

/-- `SEAM_ARRIVAL`. -/
def execSeamArrival (n : Nat) (s : State) : Result :=
  match (s.arriving n).map Message.body with
  | some (.seam ep src) =>
    let k := epCore ep
    let q := epQueueNo ep
    let ni := (s.coreAt k).ni
    if coreCount ≤ k ∨ !(ni.queue q).bound then .next s
    else if (s.imageOn k).isSome then .next (s.logTaken k n)
    else if ni.elides q then
      if (ni.queue q).takes false then .next ((s.takeMsg n).queueSeam k q src) else .next s
    else if (ni.queue q).releases then .next ((s.takeMsg n).seamAt k q src)
    else .next s
  | _ => .next s

/-- `SEAM_SEEN_REPORT`: the route stops setting AS. -/
def execSeamSeenReport (n : Nat) (s : State) : Result :=
  match (s.arriving n).map Message.body with
  | some (.seamSeen src _) =>
    let r := sourceRoute src
    let s1 := s.takeMsg n
    if src / 4 < coreCount then
      .next (s1.onCore (src / 4) (fun c => { c with ni := { c.ni with routes := c.ni.routes.set r { c.ni.routes[r] with as := false } } }))
    else .next s1
  | _ => .next s

/-- The predecessor's NI applies a link: a seam on its route to the eliding stage, which then points at the
successor and sets AS; and it acknowledges (R235, R248). -/
def State.applyLink (s : State) (src oldEp newEp asker serial reply : Nat) : State :=
  let k := src / 4
  let r := sourceRoute src
  let s1 := if (s.coreAt k).ni.routes[r].ep = some oldEp then
      (s.emitSeam k r).onCore k (fun c => { c with ni := c.ni.pointRoute r (some newEp) true })
    else s
  s1.post ⟨.c0, coreEndpoint k 0, epMesh asker, epDevice asker, .direct, .linkAck asker serial reply⟩

/-- `SPLICE_LINK`. -/
def execSpliceLink (n : Nat) (s : State) : Result :=
  match (s.arriving n).map Message.body with
  | some (.link src oldEp newEp asker serial reply) =>
    if src / 4 < coreCount then .next ((s.takeMsg n).applyLink src oldEp newEp asker serial reply) else .next (s.takeMsg n)
  | _ => .next s

/-- `LINK_ACK`: the report of kind 2 goes to the owner. -/
def execLinkAck (n : Nat) (s : State) : Result :=
  match (s.arriving n).map Message.body with
  | some (.linkAck asker serial reply) => .next ((s.takeMsg n).postReport (epCore asker) reply 2 serial 0)
  | _ => .next s

/-! ### Staged messages (R225, R327, R328) -/

/-- A message refused at the sending NI: the fault is protection, of the task that sent it, or of the supervisor where none
did (R327, R328). -/
def State.refuseSend (s : State) (k run : Nat) : State :=
  let w := Config.refusedSend s.dev.tick
  let d : Deferred := ⟨0x11, w.extractLsb' 0 64, w.extractLsb' 64 16, none⟩
  if run ≠ 0 then s.deferTask run d
  else if (s.coreAt k).x.ctx.isNone then s.onCore k (fun c => c.defer d)
  else s

/-- A message leaves the staging buffer of a core. -/
def State.unstage (s : State) (k n : Nat) : State :=
  s.onCore k (fun c => { c with ni := { c.ni with staging := dropAt c.ni.staging n } })

/-- `STAGED_MESSAGE_SENT`: the first staged message of its order. -/
def execStagedMessageSent (core n : Nat) (s : State) : Result :=
  let c := s.coreAt core
  match c.ni.staging[n]? with
  | none => .next s
  | some (run, m) =>
    if coreCount ≤ core ∨ (c.ni.staging.take n).any (fun x => x.2.sameLane m) ∨ s.gated core then .next s
    else if m.device = ownDevice then .next ((s.unstage core n).route m)
    else if !s.reachable m.device then .next ((s.unstage core n).refuseSend core run)
    else if s.portReady m.device m.cls then .next ((s.unstage core n).route m)
    else .next s

/-! ### Spilled buffers, copy control, `xtend` (R265, R267) -/

/-- `XNIS_COMMAND_DONE`. -/
def execXnisCommandDone (core : Nat) (s : State) : Result := .next (s.asCore core State.nisDone)

/-- `XTEND_WRITE`: what a write of `xtend` does (R267). -/
def execXtendWrite (v : Word) (s : State) : Result := .next (s.endContext (v.setWidth 8))

/-- `XNIS_SPILL`: what a write of `xnis` with bits 1:0 = 1 does. -/
def execXnisSpill (v : Word) (s : State) : Result := .next (s.nisSpill ((v &&& 0xFFFFFFFFFFFFFFFC) ||| 1))

/-- `XNIS_REINJECT`: what a write of `xnis` with bits 1:0 = 2 does. -/
def execXnisReinject (v : Word) (s : State) : Result := .next (s.nisReinject ((v &&& 0xFFFFFFFFFFFFFFFC) ||| 2))

/-- `COPY_SQUASH`: what a store of 1 to the copy control does, once no reduce copy is incomplete (R164). -/
def execCopySquash (s : State) : Result := if s.core.reducing then .next s else .next s.squashCopies

/-- `COPY_REISSUE`: what a store of 2 to the copy control does. -/
def execCopyReissue (s : State) : Result := .next s.reissue

/-! ### The traffic of a swap (R309) -/

/-- `STRAGGLER_FORWARD`. -/
def execStragglerForward (n : Nat) (s : State) : Result := .next (s.forward n)

/-- `DRAIN_MARKER_SEND`. -/
def execDrainMarkerSend (n : Nat) (s : State) : Result := .next (s.sendMarkers n)

/-- `DRAIN_MARKER`. -/
def execDrainMarker (n : Nat) (c2 : Bool) (s : State) : Result := .next (s.takeMarker n (if c2 then .c2 else .c0))

end Sys2Proof.Machine
end

