-- ==== Sys2Proof/Machine/EvOuter.lean ====
section
/-! DEFINITION. Steps of the translation stations, the dispenser, the ridge cores, the voltage domains, images and
moves, the host, the fabric, the firmware and the power of the part (R264, R281 to R286, R291 to R315, R317 to R337, R342).
A step that is not due changes nothing (log entry 3). -/

namespace Sys2Proof.Machine

/-! ### Walks (R291) -/

/-- The partition of a remote access: of its core, or of the context that parked there. -/
def State.remotePart (s : State) (k tag : Nat) : Option Nat :=
  match s.remoteOf k tag with
  | some _ => (s.coreAt k).part s
  | none => s.dev.disp.recs.findSome? (fun q => match q.cont with
    | some c => if decide (c.core = k) && c.remote.any (fun r => decide (r.tag = tag)) then some c.ctx.part else none
    | none => none)

/-- The offset in the GLOBAL space of an address. -/
def globalOffset (a : Word) : Nat := match pathOf a with | some (_, va) => va | none => 0

/-- A load's walk ends: at its home, which the station counts where it is another shingle's (R284), or with a fault for
its reply. -/
def State.walkLoad (s : State) (k tag : Nat) (r : Remote) : State :=
  let part := s.remotePart k tag
  match s.walked part (!r.sup) false (globalOffset r.addr) (r.inst.getD s.dev.now) with
  | .ok key => (s.setRemote k tag (.home key)).countRemote (shingleOf k) (part.getD 128) (globalOffset r.addr) key
  | .error c => s.setRemote k tag (.faulted c)

/-- A store's walk ends: on its way to its home, or nothing is stored. -/
def State.walkStore (s : State) (n : Nat) (t : TStore) : State :=
  match s.walked (some t.part) (!t.sup) true (globalOffset t.addr) t.inst with
  | .ok key =>
    (s.onTimed (fun m => { m with flight := setAt m.flight n { t with home := some key } })).countRemote (shingleOf t.core) t.part
      (globalOffset t.addr) key
  | .error c => (s.onTimed (fun m => { m with flight := dropAt m.flight n })).storeFault t c

/-- `PAGE_WALK`. -/
def execPageWalk (w : WalkRef) (s : State) : Result :=
  match w with
  | .load core tag =>
    match s.anyRemote core tag with
    | some r => if r.stat = .walk ∧ !r.gate then .next (s.walkLoad core tag r) else .next s
    | none => .next s
  | .store n =>
    match s.dev.timed.flight[n]? with
    | some t => if t.home.isNone ∧ !t.gate then .next (s.walkStore n t) else .next s
    | none => .next s

/-! ### Device registers (R281, R285, R292, R295, R300, R302, R320, R340) -/

/-- Whether a ridge core's firmware writes the registers of a shingle: each supervises its own, and the elected module
ridge controller all (R4). -/
def State.ridgeReaches (s : State) (ridge sh : Nat) : Bool := decide (ridge < 32 ∧ sh < 32 ∧ (ridge = sh ∨ ridge = s.dev.out.controller))

/-- A register write by a core, the host or the firmware: a core reaches its own shingle, a ridge core what it
supervises, and the host only while the BARs answer (R336). -/
def State.regWrite (s : State) (src : RegSrc) (sh off : Nat) (v : Word) : State :=
  match src with
  | .core k => if k < coreCount then s.writeReg src (shingleOf k) off v else s
  | .host p => if s.barsUp ∧ p < 2 ∧ sh < 32 then s.writeReg src sh off v else s
  | .firmware r => if s.ridgeReaches r sh then s.writeReg src sh off v else s

/-- `REGISTER_WRITE`. -/
def execRegisterWrite (src : RegSrc) (shingle offset : Nat) (bytes : List Byte) (s : State) : Result :=
  match src with
  | .core k => if k < coreCount then .next (s.writeBytes src (shingleOf k) offset bytes) else .next s
  | .host p => if s.barsUp ∧ p < 2 ∧ shingle < 32 then .next (s.writeBytes src shingle offset bytes) else .next s
  | .firmware r => if s.ridgeReaches r shingle then .next (s.writeBytes src shingle offset bytes) else .next s

/-- `TMCMD_MAP`: a write of TMCMD with op 1. -/
def execTmcmdMap (src : RegSrc) (shingle : Nat) (v : Word) (s : State) : Result :=
  if v.toNat % 4 = 1 then .next (s.regWrite src shingle 0x3010 v) else .next s

/-- `TMCMD_UNMAP`: a write of TMCMD with op 2. -/
def execTmcmdUnmap (src : RegSrc) (shingle : Nat) (v : Word) (s : State) : Result :=
  if v.toNat % 4 = 2 then .next (s.regWrite src shingle 0x3010 v) else .next s

/-- `TM_COMMAND_COMPLETE`. -/
def execTmCommandComplete (shingle : Nat) (s : State) : Result := .next (s.tmComplete shingle)

/-- `PMCMD_MOVE`: a write of PMCMD. -/
def execPmcmdMove (src : RegSrc) (shingle : Nat) (v : Word) (s : State) : Result := .next (s.regWrite src shingle 0x3058 v)

/-- `VDREQ_WRITE`. -/
def execVdreqWrite (src : RegSrc) (shingle : Nat) (v : Word) (s : State) : Result := .next (s.regWrite src shingle 0x3100 v)

/-- `VD_DRAIN_DONE`. -/
def execVdDrainDone (shingle domain : Nat) (s : State) : Result := .next (s.vdDrained shingle domain)

/-- `VD_SWITCH_DONE`. -/
def execVdSwitchDone (shingle domain : Nat) (s : State) : Result := .next (s.vdSwitched shingle domain)

/-- `DREL_WRITE`. -/
def execDrelWrite (src : RegSrc) (v : Word) (s : State) : Result := .next (s.regWrite src 0 0x2000 v)

/-- `DABORT_WRITE`. -/
def execDabortWrite (src : RegSrc) (v : Word) (s : State) : Result := .next (s.regWrite src 0 0x2008 v)

/-- `DHELD_READ`. -/
def execDheldRead (src : RegSrc) (s : State) : Result := .next (s.readReg src 0 0x2010).2

/-- `DIGEST_START`: a write of DIGI. -/
def execDigestStart (src : RegSrc) (v : Word) (s : State) : Result := .next (s.regWrite src 0 0x2090 v)

/-- `DIGEST_DONE`. -/
def execDigestDone (part : Nat) (s : State) : Result := .next (s.endDigest part)

/-- `EXCLUSION_WRITE`: a write of an exclusion register. -/
def execExclusionWrite (src : RegSrc) (offset : Nat) (v : Word) (s : State) : Result :=
  if 0x2100 ≤ offset ∧ offset < 0x2180 ∧ offset % 8 = 0 then .next (s.regWrite src 0 offset v) else .next s

/-! ### Home moves (R79, R284, R296) -/

/-- `HOME_HANDOVER`: at the start of the move's instant. -/
def execHomeHandover (n : Nat) (s : State) : Result :=
  .next (s.onMove n (fun m => if m.inst ≤ s.dev.now then { m with handed := true } else m))

/-- `HANDOVER_APPLY`. -/
def execHandoverApply (n : Nat) (s : State) : Result :=
  .next (s.onMove n (fun m => { m with applied := m.applied || (m.handed && !s.queued (.move m.part m.va)) }))

/-- `MOVE_COMPLETE`: the hand-over is applied and the horizon has reached the move's instant. -/
def execMoveComplete (n : Nat) (s : State) : Result :=
  match s.dev.trans.moves[n]? with
  | none => .next s
  | some m =>
    match s.partition m.part with
    | none => .next s
    | some q => if m.applied && decide (m.inst ≤ q.horizon) && !s.oldServes m then .next (s.endMove n m) else .next s

/-- The shingle from which most of the remote accesses to a page come: more than from all the others together. -/
def State.mostlyFrom (s : State) (part va : Nat) : Option Nat :=
  let cs := s.dev.trans.counts.filter (fun c => decide (c.part = part ∧ c.va = va))
  let total := (cs.map (fun c => c.count)).sum
  (cs.find? (fun (c : PageCount) => decide (total < 2 * c.count))).map (fun c => c.shingle)

/-- `DISPENSER_HOME_MOVE`: the dispenser moves a page whose remote accesses come mostly from one shingle to a frame of
that shingle, through the registers of that shingle (R284, R295). -/
def execDispenserHomeMove (part va frame inst : Nat) (s : State) : Result :=
  match s.mostlyFrom part va, homeOf (dramKey (frame * 65536)) with
  | some sh, some h =>
    if homeShingle h ≠ sh then .next s
    else
      .next ((((s.setShReg sh 0x3040 (BitVec.ofNat 64 va)).setShReg sh 0x3048 (BitVec.ofNat 64 (frame % 2 ^ 26))).setShReg sh 0x3050
        (BitVec.ofNat 64 (inst % 2 ^ 56))).pmCommand (some part) sh 1)
  | _, _ => .next s

/-! ### Droop, errors, double traps (R264, R282) -/

/-- The frames of IM that some bytes of it touch. -/
def framesOf (seg : Nat × List Byte) : List Nat :=
  (List.range 16).filter (fun f => decide (seg.1 < (f + 1) * 4096 ∧ f * 4096 < seg.1 + seg.2.length))

/-- The bytes of a segment by their addresses in a memory of 64 KiB. -/
def segmentBytes (seg : Nat × List Byte) : List (Nat × Byte) := (atOffsets seg.1 seg.2).filter (fun b => decide (b.1 < 0x10000))

/-- The firmware writes a supervisor into a core's memories: the bytes of its segments, whose frames are resident
(R128). -/
def CoreMem.reload (m : CoreMem) (i : SupImage) : CoreMem :=
  let m1 : CoreMem := { m with
    im := i.im.foldl (fun m g => m.writeAll (segmentBytes g)) m.im
    tcm := i.tcm.foldl (fun m g => m.writeAll (segmentBytes g)) m.tcm }
  (i.im.flatMap framesOf).foldl (fun m f => m.setFrame f (.resident none)) m1

/-- The ridge core reloads the supervisor of the acting core: its memories, and its CSRs at their reset values but for
those that the firmware writes (R264; log entry 76). -/
def State.reloadSupervisor (s : State) (i : SupImage) : State :=
  i.csrs.foldl (fun s c => s.writeCsr c.1 c.2) ((s.onMem (fun m => m.reload i)).onCsr (fun _ => Csrs.reset))

/-- The ridge core takes an image of a stopped core, ends its context with a cause, and reloads the supervisor; the core
then takes new work (R264, R282). -/
def State.ridgeRecover (s : State) (k : Nat) (cause : BitVec 8) (i : SupImage) : State :=
  s.asCore k (fun s =>
    let s0 := s.leaveGang
    let a := (s0.firmwareArea k).getD 0
    let r := { s0.imageOf s0.core cause a (a + 0x80000) with valid := false }
    let s1 := s0.onDev (fun d => { d with img := { d.img with images := d.img.images ++ [r] } })
    let s2 := ((s1.endContext cause).freeCore).onX (fun x => { x with stopped := none, double := none, inPair := false, flow := .next })
    s2.reloadSupervisor i)

/-- A window of a core: event 0x19, or the ridge core's recovery where any of it was in supervisor mode. -/
def State.windowAt (s : State) (k : Nat) (sup : Bool) (v : Word) (i : SupImage) : State :=
  if coreCount ≤ k ∨ (s.coreAt k).x.stopped.isSome then s
  else if sup || decide ((s.coreAt k).x.mode = .supervisor) then s.ridgeRecover k 0x19 i
  else s.onCore k (fun c => { c with x := { c.x with ev19 := some v } })

/-- `DROOP_DETECT`. -/
def execDroopDetect (cluster : Nat) (cores : List Nat) (window : ErrorWindow) (s : State) : Result :=
  let w : BitVec 16 := (aget s.dev.disp.windows cluster).getD 0 + 1
  let s1 := s.onDisp (fun d => { d with windows := aset d.windows cluster w })
  .next ((cores.filter (fun k => clusterOf k = cluster)).foldl (fun s k => s.windowAt k (window.sup.contains k) (w.setWidth 64) window.image) s1)

/-- `CORE_ARRAY_ERROR`. -/
def execCoreArrayError (core : Nat) (array : BitVec 8) (window : ErrorWindow) (s : State) : Result :=
  .next (s.windowAt core (window.sup.contains core) (0x8000000000000000 ||| array.setWidth 64) window.image)

/-- `DOUBLE_TRAP_RECOVERY`. -/
def execDoubleTrapRecovery (r : Recovery) (s : State) : Result :=
  if r.core < coreCount ∧ (s.coreAt r.core).x.stopped = some .doubleTrap then .next (s.ridgeRecover r.core 0x1A r.image) else .next s

/-! ### Withholding (R283, R284) -/

/-- Whether a cluster is withheld, its exemption apart. -/
def Dispatch.holds (d : Dispatch) (cl : Nat) : Bool := d.hot.contains cl || d.drawing.contains cl

/-- A temperature as a number that rises with it. -/
def heat (t : Int) : Nat := (t + 2 ^ 40).toNat

/-- The exempt clusters: of a partition whose clusters are all withheld, the one that was exempt already, else the
coolest. -/
def State.exemptNow (s : State) : List Nat :=
  s.dev.disp.parts.filterMap (fun p =>
    let cls := s.partClusters p.1
    if !cls.isEmpty && cls.all s.dev.disp.holds then
      match cls.find? (fun c => s.dev.disp.exempt.contains c) with
      | some c => some c
      | none => leastBy (fun c => heat ((aget s.dev.disp.tjunc c).getD 0)) cls
    else none)

/-- A cluster's temperature and power are evaluated, and which of the two hold it. -/
def State.evaluate (s : State) (cl : Nat) (tj : Int) (pw : Nat) (hot drawing : List Nat → List Nat) : State :=
  let s1 := s.onDisp (fun d => { d with
    tjunc := aset d.tjunc cl tj, power := aset d.power cl pw, hot := hot d.hot, drawing := drawing d.drawing })
  let known := (s1.dev.disp.tjunc.filter (fun t => clusterShingle t.1 = clusterShingle cl)).map (fun t => t.2)
  (s1.onDisp (fun d => { d with exempt := s1.exemptNow })).setShReg (clusterShingle cl) 0x800 (BitVec.ofInt 64 (known.foldl max tj))

/-- TSET of a cluster. -/
def State.setPoint (s : State) (cl : Nat) : Int := (s.shReg (clusterShingle cl) 0x818 1520).toNat

/-- CPBUD of a cluster. -/
def State.powerBudget (s : State) (cl : Nat) : Nat :=
  max 1 ((s.shReg (clusterShingle cl) (0x900 + 8 * clusterIndex cl) 6076).toNat % 65536)

/-- The target core for a kernel that is to leave a withheld cluster: one of the cluster chosen as for `any`. -/
def State.kernelTarget (s : State) (k : Nat) (x : Ctx) : Option Nat :=
  match s.loadedFor x.part x.node with
  | none => none
  | some l =>
    let cl := s.placeAny l x.prio
    let free := ((List.range 48).map (coreInCluster cl)).filter s.moveTarget
    free[Config.coreChoice (s.dev.tick + k) % max 1 free.length]?

/-- The dispenser requests the migration of a persistent kernel on a core, unless a request stands. -/
def State.requestMove (s : State) (why : BitVec 2) (k : Nat) : State :=
  let c := s.coreAt k
  match c.x.ctx with
  | none => s
  | some x =>
    if x.groups = 0 ∨ c.csr.req ∨ c.x.stopped.isSome then s
    else
      match s.kernelTarget k x with
      | none => s
      | some l => s.onCore k (fun c => c.writeXmig s.dev.now (0x8000000000000000 ||| (why.setWidth 64 <<< 18) ||| BitVec.ofNat 64 (l % 2 ^ 18)))

/-- `CLUSTER_WITHHOLD`. -/
def execClusterWithhold (cluster : Nat) (tjunc : Int) (power : Nat) (s : State) : Result :=
  let s1 := s.evaluate cluster tjunc power
    (fun t => if s.setPoint cluster ≤ tjunc then insertNat t cluster else t)
    (fun t => if s.powerBudget cluster < power then insertNat t cluster else t)
  if s1.isWithheld cluster then
    .next (((List.range 48).map (coreInCluster cluster)).foldl
      (fun s k => s.requestMove (if s1.dev.disp.hot.contains cluster then 0 else 1) k) s1)
  else .next s1

/-- `CLUSTER_UNWITHHOLD`. -/
def execClusterUnwithhold (cluster : Nat) (tjunc : Int) (power : Nat) (s : State) : Result :=
  .next (s.evaluate cluster tjunc power
    (fun t => if tjunc < s.setPoint cluster - 48 then eraseNat t cluster else t)
    (fun t => if 100 * power < 95 * s.powerBudget cluster then eraseNat t cluster else t))

/-- The tier of something in flight (R230). -/
def Waiting.tier : Waiting → Nat
  | .message m => match m.cls with | .c0 | .c1 => 0 | .c2 => 1
  | .store _ => 1
  | .access _ _ => 0
  | .fetch _ _ | .move _ _ => 2

/-- Whether something of a tier waits at an arbiter. -/
def Arbiter.waits (a : Arbiter) (t : Nat) : Bool := a.waiting.any (fun w => decide (w.tier = t))

/-- The tier that an arbiter grants next: one whose counter has reached 64, tier 1 first, else the highest that waits
(R286). -/
def Arbiter.tier (a : Arbiter) : Option Nat :=
  if 64 ≤ a.tier1 ∧ a.waits 1 then some 1
  else if 64 ≤ a.tier2 ∧ a.waits 2 then some 2
  else ([0, 1, 2] : List Nat).find? a.waits

/-- A grant, to the oldest of the tier that R286 names: it waits there no more. A lower tier's counter counts a grant to a
higher tier while it waits, and starts anew when it is granted or has nothing waiting. -/
def Arbiter.grant (a : Arbiter) : Arbiter :=
  match a.tier with
  | none => ⟨0, 0, []⟩
  | some t => {
      tier1 := if t = 1 ∨ !a.waits 1 then 0 else if t = 0 then min 64 (a.tier1 + 1) else a.tier1
      tier2 := if t = 2 ∨ !a.waits 2 then 0 else min 64 (a.tier2 + 1)
      waiting := dropAt a.waiting (a.waiting.findIdx (fun w => decide (w.tier = t))) }

/-- What a reference names, if it is still in flight. -/
def State.waitingOf (s : State) (r : FlightRef) : Option Waiting :=
  match r with
  | .message n => (s.dev.fab.msgs[n]?).map .message
  | .store n => (s.dev.timed.flight[n]?).map (fun t => .store t.id)
  | .access k tag => if (s.anyRemote k tag).any (fun r => !r.answered) then some (.access k tag) else none
  | .fetch k f => match (s.coreAt k).mem.frame f with | .landing _ => some (.fetch k f) | _ => none
  | .move n => (s.dev.trans.moves[n]?).map (fun m => .move m.part m.va)

/-- Whether what waits is still in flight. -/
def State.stillFlies (s : State) (w : Waiting) : Bool :=
  match w with
  | .message m => s.dev.fab.msgs.contains m
  | .store id => s.dev.timed.flight.any (fun t => decide (t.id = id))
  | .access k tag => (s.waitingOf (.access k tag)).isSome
  | .fetch k f => (s.waitingOf (.fetch k f)).isSome
  | .move p va => s.dev.trans.moves.any (fun m => decide (m.part = p ∧ m.va = va) && !m.applied)

/-- An arbiter as it stands before a grant: what waited there and is still in flight, and what has come to it since. -/
def State.arbiterFor (s : State) (a : Arbitration) : Arbiter :=
  let old := (aget s.dev.fab.starve a.arbiter).getD ⟨0, 0, []⟩
  { old with waiting := old.waiting.filter s.stillFlies ++ ((a.waiting.filterMap s.waitingOf).filter (fun w => !s.queued w)).eraseDups }

/-- `STARVATION_GRANT`: one grant of an arbiter. What waits there arrives nowhere until it is granted, so that a lower tier
goes on after at most 64 grants to higher ones (R44, R286; log entry 55). -/
def execStarvationGrant (a : Arbitration) (s : State) : Result :=
  .next (s.onDev (fun d => { d with fab := { d.fab with starve := aset d.fab.starve a.arbiter (s.arbiterFor a).grant } }))

/-! ### Migration and images (R256, R304 to R314) -/

/-- `XMIG_RIDGE_WRITE`. -/
def execXmigRidgeWrite (core : Nat) (v : Word) (s : State) : Result :=
  if core < coreCount then .next (s.onCore core (fun c => c.writeXmig s.dev.now v)) else .next s

/-- `MIGRATION_DEADLINE`: MGDL instants after the request, while no image command of the shingle is busy. -/
def execMigrationDeadline (core : Nat) (s : State) : Result :=
  match (s.coreAt core).x.reqSince with
  | none => .next s
  | some t =>
    if core < coreCount ∧ t + s.moveDeadline (shingleOf core) ≤ s.dev.now ∧ (s.coreAt core).x.stopped.isNone ∧
        !s.imageBusy (shingleOf core) then .next (s.deadlineStop core)
    else .next s

/-- `SCCMD_STOP`: a write of SCCMD with op 1. -/
def execSccmdStop (src : RegSrc) (shingle : Nat) (v : Word) (s : State) : Result :=
  if v.toNat % 4 = 1 then .next (s.regWrite src shingle 0x4110 v) else .next s

/-- `CORE_STOP`. -/
def execCoreStop (shingle : Nat) (s : State) : Result := .next (s.stopNow shingle)

/-- `IMAGE_STREAM_DONE`. -/
def execImageStreamDone (shingle : Nat) (s : State) : Result := .next (s.streamImage shingle)

/-- `SCCMD_RESTORE`: a write of SCCMD with op 2. -/
def execSccmdRestore (src : RegSrc) (shingle : Nat) (v : Word) (s : State) : Result :=
  if v.toNat % 4 = 2 then .next (s.regWrite src shingle 0x4110 v) else .next s

/-- `RESTORE_DONE`. -/
def execRestoreDone (shingle : Nat) (s : State) : Result := .next (s.restoreNow shingle)

/-- `MGCMD_MOVE`: a write of MGCMD. -/
def execMgcmdMove (src : RegSrc) (shingle : Nat) (v : Word) (s : State) : Result := .next (s.regWrite src shingle 0x4010 v)

/-- `MGCMD_DONE`. -/
def execMgcmdDone (shingle : Nat) (s : State) : Result := .next (s.moveNow shingle)

/-! ### The host (R318 to R322) -/

/-- A step of the host on one of its two ports, while the BARs answer (R336). -/
def State.hostStep (s : State) (port : Nat) (f : State → State) : Result := if s.barsUp ∧ port < 2 then .next (f s) else .next s

/-- `HOST_ENQUEUE_WRITE`. -/
def execHostEnqueueWrite (port offset : Nat) (bytes : List Byte) (s : State) : Result :=
  s.hostStep port (fun s => s.hostEnqueue port offset bytes)

/-- `HOST_MAILBOX_WRITE`. -/
def execHostMailboxWrite (port offset : Nat) (bytes : List Byte) (s : State) : Result :=
  s.hostStep port (fun s => s.hostMailbox port offset bytes)

/-- `HOST_COPY_TO_MODULE`. -/
def execHostCopyToModule (port : Nat) (s : State) : Result := s.hostStep port (fun s => s.hostStart port false)

/-- `HOST_COPY_TO_HOST`. -/
def execHostCopyToHost (port : Nat) (s : State) : Result := s.hostStep port (fun s => s.hostStart port true)

/-- `HOST_COPY_DONE`. -/
def execHostCopyDone (port : Nat) (s : State) : Result := .next (s.hostDone port)

/-- `IMAGE_LOAD` (R342). -/
def execImageLoad (part : Nat) (img : Image) (choice : LoadChoice) (s : State) : Result := .next (s.loadImage part img choice)

/-! ### Fabric and time (R326 to R330) -/

/-- `FLIT_RECEIVE`. -/
def execFlitReceive (port : Nat) (seq : BitVec 12) (flit : FlitBody) (s : State) : Result :=
  .next (s.flit port seq flit)

/-- `PORT_DOWN`. -/
def execPortDown (port : Nat) (s : State) : Result := .next (s.portFails port)

/-- `PURLIN_PORT_UP`. -/
def execPurlinPortUp (port : Nat) (lanes : BitVec 4) (s : State) : Result := .next (s.portUp port lanes)

/-- `PORT_REROUTE`. -/
def execPortReroute (device port : Nat) (s : State) : Result := .next (s.reroute device port)

/-- `FABRIC_INBOUND_REQUEST`. -/
def execFabricInboundRequest (r : FabricReq) (s : State) : Result := .next (s.inbound r)

/-- `TIME_BEACON`. -/
def execTimeBeacon (port inst period : Nat) (offset : BitVec 32) (s : State) : Result := .next (s.beacon port inst period offset)

/-- `BEACON_SEND`: the master's, every 64 instants. -/
def execBeaconSend (s : State) : Result :=
  if s.isMaster ∧ s.dev.now % 64 = 0 then .next (s.sendBeacons s.dev.now s.period) else .next s

/-- `LOCK_LOSS`: after 16 beacons missed one after another. -/
def execLockLoss (s : State) : Result := if 16 ≤ s.dev.missed then .next (s.setLock false) else .next s

/-- `IPERIOD_WRITE`. -/
def execIperiodWrite (v : Word) (s : State) : Result := .next (s.writePeriod v)

/-! ### Firmware (R331 to R334) -/

/-- `FW_UPDATE`: an update starts, or goes to its next phase. -/
def execFwUpdate (sigOk verOk fmtOk : Bool) (version : BitVec 32) (s : State) : Result :=
  .next (s.advanceUpdate sigOk verOk fmtOk version)

/-- `FW_RECONFIGURE`: a write of 2 to FWCMD. -/
def execFwReconfigure (shingle : Nat) (s : State) : Result :=
  if shingle < 32 then .next (s.fwCommand shingle 2) else .next s

/-- `FW_HEARTBEAT`. -/
def execFwHeartbeat (s : State) : Result := .next s.heartbeat

/-- `FW_HEARTBEAT_TIMEOUT`. -/
def execFwHeartbeatTimeout (s : State) : Result := .next s.rollBack

/-- `THERMAL_TRIP`. -/
def execThermalTrip (shingle : Nat) (tjunc : Int) (s : State) : Result := .next (s.trip shingle tjunc)

/-- `TRIPRST_WRITE`. -/
def execTriprstWrite (shingle : Nat) (hottest : Int) (s : State) : Result := .next (s.tripReset shingle hottest)

/-! ### Power (R335, R336) -/

/-- `POWER_ON`. -/
def execPowerOn (ok : List Bool) (locked : Bool) (config : BootConfig) (s : State) : Result :=
  .next (s.bringUp ok locked config)

/-- `POWER_LOSS`. -/
def execPowerLoss (s : State) : Result := .next s.unpowered

end Sys2Proof.Machine
end

