-- ==== Sys2Proof/Machine/EvTasks.lean ====
section
/-! DEFINITION. Steps of the dispatchers, of waiting contexts and of the engines of a core (R36, R40, R43, R59, R80,
R135, R161 to R170, R193 to R196, R213, R270 to R276). -/

namespace Sys2Proof.Machine

/-! ### Owners (R213, R219, R220, R270) -/

/-- The `n`-th message in flight reaches its owner, unless a firmware update has the owners quiesced or a held
record of its identity goes first (R213, R334). -/
def State.atOwner (s : State) (n : Nat) (f : State → Body → State) : Result :=
  match s.arriving n with
  | none => .next s
  | some m => if s.quiesced || s.heldFirst m.body then .next s else .next (f (s.takeMsg n) m.body)

/-- `PUBLISH`: a publication, or a task record. -/
def execPublish (n : Nat) (s : State) : Result :=
  match (s.arriving n).map Message.body with
  | some (.publish _ _ _ _ _ _ _) => s.atOwner n State.applyRecord
  | some (.taskRecord part bs window) => s.atOwner n (fun t _ => t.applyTaskRecord part bs window)
  | _ => .next s

/-- `SIGNAL`. -/
def execSignal (n : Nat) (s : State) : Result :=
  match (s.arriving n).map Message.body with
  | some (.signal _ _ _ _ _ _ _) => s.atOwner n State.applyRecord
  | _ => .next s

/-- `HELD_GENERATION_APPLY`: the first held record of an identity whose time has come. -/
def execHeldGenerationApply (n : Nat) (s : State) : Result :=
  match s.dev.disp.heldMsgs[n]? with
  | none => .next s
  | some h =>
    if s.quiesced || !s.heldDue h || (s.dev.disp.heldMsgs.take n).any (fun x => decide (x.body.identity = h.body.identity)) then .next s
    else .next ((s.onDisp (fun d => { d with heldMsgs := dropAt d.heldMsgs n })).applyRecord h.body)

/-- `TCB_RECLAIM`: the horizon has passed the PUB of a RETIRED task by 256; the slot is reclaimed as the instant ends. -/
def execTcbReclaim (n : Nat) (s : State) : Result :=
  match s.dev.disp.tcbs[n]? with
  | none => .next s
  | some t => 
    if s.reclaims t then
      .next ((s.onDisp (fun d => { d with tcbs := setAt d.tcbs n t.reclaimed })).onDev (fun d => { d with ending := true }))
    else .next s

/-! ### Ready queues (R273 to R276) -/

/-- Records of a priority in a cluster's queue. -/
def State.queueCount (s : State) (cl prio : Nat) : Nat :=
  (s.dev.disp.recs.filter (fun r => decide (r.place = 1 ∧ r.cluster = cl ∧ r.prio = prio))).length

/-- Records of a priority in a shingle's overflow. -/
def State.overflowCount (s : State) (sh prio : Nat) : Nat :=
  (s.dev.disp.recs.filter (fun r => decide (r.place = 2 ∧ clusterShingle r.cluster = sh ∧ r.prio = prio))).length

/-- Replace the `n`-th queued record. -/
def State.setRec (s : State) (n : Nat) (r : QRec) : State := s.onDisp (fun d => { d with recs := setAt d.recs n r })

/-- Whether a record in transit may enter its queue: a context at once; a task in an instant after its release,
and after those of its owner and instant that come before it (R275). -/
def State.mayEnter (s : State) (r : QRec) : Bool :=
  r.cont.isSome || (decide (r.since < s.dev.now) &&
    !s.dev.disp.recs.any (fun x => decide (x.place = 0 ∧ x.since = r.since ∧ x.part = r.part) && x.cont.isNone &&
      decide ((s.loadedFor x.part x.node).map (fun l => l.owner) = (s.loadedFor r.part r.node).map (fun l => l.owner)) && x.before r))

/-- `CLUSTER_RECORD_ARRIVAL`: into the cluster's queue, else the shingle's overflow, else it waits and is counted
once. -/
def execClusterRecordArrival (n : Nat) (s : State) : Result :=
  match s.dev.disp.recs[n]? with
  | none => .next s
  | some r =>
    if r.place ≠ 0 ∨ !s.mayEnter r then .next s
    else if s.queueCount r.cluster r.prio < 128 then .next (s.setRec n { r with place := 1, since := s.dev.now })
    else if s.overflowCount (clusterShingle r.cluster) r.prio < 4096 then .next (s.setRec n { r with place := 2, since := s.dev.now })
    else if r.waited then .next s
    else .next ((s.setRec n { r with waited := true }).count r.part 0x2068)

/-- `OVERFLOW_RETURN`: the first overflow record of a cluster and priority, as an entry frees. -/
def execOverflowReturn (n : Nat) (s : State) : Result :=
  match s.dev.disp.recs[n]? with
  | none => .next s
  | some r =>
    if decide (r.place = 2) && decide (s.queueCount r.cluster r.prio < 128) &&
        !s.dev.disp.recs.any (fun x => decide (x.place = 2 ∧ x.cluster = r.cluster ∧ x.prio = r.prio) && x.before r) then
      .next (s.setRec n { r with place := 1 })
    else .next s

/-- `TAKE_RECORD`: an idle core takes the first record that may run on it. -/
def execTakeRecord (core : Nat) (s : State) : Result :=
  if core < coreCount ∧ s.coreIdle core then
    let s1 := s.ageAll
    match s1.recordFor core with
    | none => .next s
    | some (r, i) => .next ((s1.onDisp (fun d => { d with recs := dropAt d.recs i })).runRecord core r)
  else .next s

/-- `PRIORITY_AGING` of an eligible record (R276). -/
def execPriorityAging (n : Nat) (s : State) : Result :=
  match s.dev.disp.recs[n]? with
  | none => .next s
  | some r => if s.eligible r then .next (s.setRec n { r with aged := r.agedAt s.dev.now }) else .next s

/-- DHINT of a partition: bits 7:0, a 0 is 1 (R281). -/
def State.hintSpan (s : State) (part : Nat) : Nat :=
  match s.partition part with
  | some q => max 1 ((q.reg 0x2020).toNat % 256)
  | none => 4

/-- `NEAR_HINT_EXPIRY`: the named core was not idle while the record waited at the head (R273). -/
def execNearHintExpiry (n : Nat) (s : State) : Result :=
  match s.dev.disp.recs[n]? with
  | none => .next s
  | some r =>
    match r.near, r.headSince with
    | some _, some t =>
      if decide (r.place = 1 ∧ t + s.hintSpan r.part ≤ s.dev.now) && !s.nearIdle r then .next (s.setRec n { r with expired := true })
      else .next s
    | _, _ => .next s

/-! ### Waiting contexts (R36, R40, R43, R135) -/

/-- Whether a core's clock runs. -/
def State.runs (s : State) (k : Nat) : Bool := decide (k < coreCount) && (s.coreAt k).x.stopped.isNone && !s.clockGated k

/-- `AUTO_PARK` (R36, R224). -/
def execAutoPark (core : Nat) (s : State) : Result :=
  if s.runs core then .next (s.asCore core State.parkWaiting) else .next s

/-- `YIELD_RESUME`: the new group's REL has begun (R40). -/
def execYieldResume (core : Nat) (s : State) : Result :=
  match (s.coreAt core).x.wait, (s.coreAt core).x.ctx with
  | some w, some x =>
    if w.reason = .yieldRel ∧ x.rel ≤ s.dev.now ∧ s.runs core then .next (s.onCore core (fun c => { c with x := { c.x with wait := none } }))
    else .next s
  | _, _ => .next s

/-- `GANG_WAIT_SPLIT`: one synchronising wait has lasted too long (R43). -/
def execGangWaitSplit (core : Nat) (s : State) : Result :=
  match (s.coreAt core).x.wait with
  | some w =>
    if decide (w.reason = .fullEmpty ∨ w.reason = .future ∨ w.reason = .queue ∨ w.reason = .copy) && decide (gangLimit < w.cycles) &&
        decide ((s.coreAt core).gang ≠ []) && s.runs core then
      .next (s.leaveGangOf core (s.coreAt core).gang)
    else .next s
  | none => .next s

/-- `FUSE_TIMEOUT`: the request is decided, and the core continues alone (R135). -/
def execFuseTimeout (core : Nat) (s : State) : Result :=
  match (s.coreAt core).fuse with
  | some (m, false) =>
    if decide (gangLimit < (s.coreAt core).waited .fuse) && s.runs core then .next (s.onCore core (fun c => { c with fuse := some (m, true) }))
    else .next s
  | _ => .next s

/-! ### Engines (R59, R80, R161 to R170, R193 to R196) -/

/-- A step of the engines of a core whose clock runs. -/
def State.engineStep (s : State) (core : Nat) (f : State → State) : Result :=
  if s.runs core then .next (s.asCore core f) else .next s

/-- `COPY_ACCEPT`: a waiting `xcopy` has a slot granted (R161, R164). -/
def execCopyAccept (core : Nat) (s : State) : Result :=
  s.engineStep core (fun t =>
    match t.core.x.wait with
    | some w =>
      if decide (w.reason = .copySlot) && !t.core.freeCopySlots.isEmpty && !t.stopPending t.core.id then
        t.onEng (fun e => { e with copyGrant := true })
      else t
    | none => t)

/-- `COPY_COMPLETE`: every write of a copy is performed, its timed ones accepted (R162). -/
def execCopyComplete (core tag : Nat) (s : State) : Result :=
  s.engineStep core (fun t =>
    match t.core.eng.copies.find? (fun x => decide (x.tag = tag)) with
    | some x => if !x.failed && x.todo.isEmpty && !t.copyInFlight x then t.finishCopy x else t
    | none => t)

/-- `CODE_FETCH_COMPLETE` (R49, R168, R246). -/
def execCodeFetchComplete (core frame : Nat) (clause : Option Nat) (s : State) : Result :=
  s.engineStep core (fun t =>
    if t.queued (.fetch core frame) then t
    else
    match clause with
    | some c => t.landClause frame c
    | none => t.completeFetch frame)

/-- `DTLD_COMPLETE` (R169). -/
def execDtldComplete (core : Nat) (s : State) : Result := s.engineStep core State.completeDtld

/-- `SEGLD_COMPLETE` (R170). -/
def execSegldComplete (core : Nat) (s : State) : Result := s.engineStep core State.completeSegld

/-- The bytes of a row of an `mload`. -/
def MLoad.rowLength (l : MLoad) : Nat :=
  let eb := fmtBits l.fmt.toNat
  if l.trans then 16 * eb / 8 else (l.kv * eb + 7) / 8

/-- The rows of a load as read: the first fault, a wait, or all of them. -/
def landedRows (s : State) (l : MLoad) : List (Nat × Word × Option (List Byte)) → Except (Option (BitVec 8 × Word)) (List (Nat × List Byte))
  | [] => .ok []
  | r :: rs =>
    match s.rowBytes l l.rowLength r, landedRows s l rs with
    | .fault c, _ => .error (some (c, r.2.1))
    | _, .error (some e) => .error (some e)
    | .wait, _ => .error none
    | _, .error none => .error none
    | .bytes bs, .ok xs => .ok ((r.1, bs) :: xs)

/-- A load of a slot leaves the matrix unit. -/
def State.dropLoad (s : State) (slot : Nat) : State :=
  s.onMat (fun m => { m with loads := m.loads.filter (fun l => decide (l.slot ≠ slot)) })

/-- `MLOAD_LAND`: the slot becomes READY, or is CLAIMED with the data it had after a deferred fault (R195, R196, R207); its
rows of GLOBAL-RO fill the read-only cache (R56). -/
def execMloadLand (core slot : Nat) (s : State) : Result :=
  s.engineStep core (fun t =>
    match t.core.mat.loads.find? (fun l => decide (l.slot = slot)) with
    | none => t
    | some l =>
      let i : Fin 16 := ⟨slot % 16, Nat.mod_lt _ (by decide)⟩
      match landedRows t l l.rows with
      | .error none => t
      | .error (some (c, a)) =>
        ((t.dropLoad slot).onMat (fun m => { m with slots := m.slots.set i l.old })).deferFor l.reader ⟨c, a, l.clause, none⟩
      | .ok rows =>
        let t1 := l.rows.foldl (fun t r => if r.2.2.isSome then t else t.noteReadN l.reader r.2.1 l.inst l.rowLength) t
        (t1.dropLoad slot).onMat (fun m => { m with slots := m.slots.set i (l.land m.slots[i] rows) }))

/-- The bank of a word of a late load performs it: the register, which nothing has used, takes what the bank holds now (R80);
the words of one load at moments of their own (R52). -/
def State.performLoad (s : State) (n w : Nat) : State :=
  match s.core.eng.loads[n]? with
  | none => s
  | some l =>
    if l.todo.contains w then
      (s.onEng (fun e => { e with loads := (setAt e.loads n { l with todo := eraseNat l.todo w }).filter (fun l => !l.todo.isEmpty) })).takeWord l w
    else s

/-- `BANK_ACCESS_PERFORMED`: a core's own access, once those that it waits for are performed; a word of a core's late load; a
word of a copy, or its read alone; the oldest append of a write port (R80, R83, R161). -/
def execBankAccessPerformed (core : Nat) (b : BankRef) (s : State) : Result :=
  s.engineStep core (fun t =>
    match b with
    | .store n =>
      match t.core.eng.pend[n]? with
      | none => t
      | some p =>
        if (t.core.eng.pend.take n).any p.waitsFor then t
        else (t.onEng (fun e => { e with pend := dropAt e.pend n })).performStore (clusterOf t.core.id) p
    | .load n w => t.performLoad n w
    | .copyRead tag w =>
      match t.core.eng.copies.find? (fun x => decide (x.tag = tag)) with
      | some x => if x.todo.contains w then t.copyRead x w else t
      | none => t
    | .copyWord tag w =>
      match t.core.eng.copies.find? (fun x => decide (x.tag = tag)) with
      | some x => if x.todo.contains w then t.copyWord x w else t
      | none => t
    | .append i => if h : i < 4 then t.performAppend ⟨i, h⟩ else t)

/-- `STREAM_DATA_ARRIVAL` (R59). -/
def execStreamDataArrival (core port : Nat) (s : State) : Result :=
  s.engineStep core (fun t => if h : port < 4 then t.fetchUnit ⟨port, h⟩ else t)

/-- `MATRIX_INSTRUCTION_DONE`: the oldest matrix instruction in progress retires its flags (R98, R193). -/
def execMatrixInstructionDone (core : Nat) (s : State) : Result :=
  s.engineStep core (fun t =>
    match t.core.mat.flags with
    | [] => t
    | f :: fs => (t.onMat (fun m => { m with flags := fs })).raise f)

end Sys2Proof.Machine
end

