-- ==== Sys2Proof/Machine/Dispatch.lean ====
section
/-! DEFINITION. One arm per instruction: its meaning. -/

namespace Sys2Proof.Machine

/-- What an instruction does. -/
def exec (i : Instr) (s : State) : Host.Outcome State Fault Refusal :=
  match i with
  | .add d a b w => Sys2Proof.Machine.execAdd d a b w s
  | .sub d a b w => Sys2Proof.Machine.execSub d a b w s
  | .and d a b w => Sys2Proof.Machine.execAnd d a b w s
  | .or d a b w => Sys2Proof.Machine.execOr d a b w s
  | .xor d a b w => Sys2Proof.Machine.execXor d a b w s
  | .andn d a b w => Sys2Proof.Machine.execAndn d a b w s
  | .shl d a b w => Sys2Proof.Machine.execShl d a b w s
  | .shr d a b w => Sys2Proof.Machine.execShr d a b w s
  | .sra d a b w => Sys2Proof.Machine.execSra d a b w s
  | .rol d a b w => Sys2Proof.Machine.execRol d a b w s
  | .slt d a b w => Sys2Proof.Machine.execSlt d a b w s
  | .sltn d a b w => Sys2Proof.Machine.execSltn d a b w s
  | .min d a b w => Sys2Proof.Machine.execMin d a b w s
  | .max d a b w => Sys2Proof.Machine.execMax d a b w s
  | .minn d a b w => Sys2Proof.Machine.execMinn d a b w s
  | .maxn d a b w => Sys2Proof.Machine.execMaxn d a b w s
  | .sel d a b p => Sys2Proof.Machine.execSel d a b p s
  | .addi d a i2 => Sys2Proof.Machine.execAddi d a i2 s
  | .andi d a i2 => Sys2Proof.Machine.execAndi d a i2 s
  | .ori d a i2 => Sys2Proof.Machine.execOri d a i2 s
  | .xori d a i2 => Sys2Proof.Machine.execXori d a i2 s
  | .shli d a n => Sys2Proof.Machine.execShli d a n s
  | .shri d a n => Sys2Proof.Machine.execShri d a n s
  | .srai d a n => Sys2Proof.Machine.execSrai d a n s
  | .roli d a n => Sys2Proof.Machine.execRoli d a n s
  | .movi d i2 => Sys2Proof.Machine.execMovi d i2 s
  | .movs d i2 => Sys2Proof.Machine.execMovs d i2 s
  | .mul d a b w => Sys2Proof.Machine.execMul d a b w s
  | .mulh d a b w => Sys2Proof.Machine.execMulh d a b w s
  | .mulhn d a b w => Sys2Proof.Machine.execMulhn d a b w s
  | .div d a b w => Sys2Proof.Machine.execDiv d a b w s
  | .divn d a b w => Sys2Proof.Machine.execDivn d a b w s
  | .rem d a b w => Sys2Proof.Machine.execRem d a b w s
  | .remn d a b w => Sys2Proof.Machine.execRemn d a b w s
  | .clz d a w => Sys2Proof.Machine.execClz d a w s
  | .ctz d a w => Sys2Proof.Machine.execCtz d a w s
  | .pop d a w => Sys2Proof.Machine.execPop d a w s
  | .brev d a w => Sys2Proof.Machine.execBrev d a w s
  | .sext d a b w => Sys2Proof.Machine.execSext d a b w s
  | .zext d a b w => Sys2Proof.Machine.execZext d a b w s
  | .bext d a b w => Sys2Proof.Machine.execBext d a b w s
  | .bins d a b w => Sys2Proof.Machine.execBins d a b w s
  | .vadd d a b p l => Sys2Proof.Machine.execVadd d a b p l s
  | .vsub d a b p l => Sys2Proof.Machine.execVsub d a b p l s
  | .vmul d a b p l => Sys2Proof.Machine.execVmul d a b p l s
  | .vmulh d a b p l => Sys2Proof.Machine.execVmulh d a b p l s
  | .vmulhn d a b p l => Sys2Proof.Machine.execVmulhn d a b p l s
  | .vmin d a b p l => Sys2Proof.Machine.execVmin d a b p l s
  | .vmax d a b p l => Sys2Proof.Machine.execVmax d a b p l s
  | .vminn d a b p l => Sys2Proof.Machine.execVminn d a b p l s
  | .vmaxn d a b p l => Sys2Proof.Machine.execVmaxn d a b p l s
  | .vabs d a p l => Sys2Proof.Machine.execVabs d a p l s
  | .vneg d a p l => Sys2Proof.Machine.execVneg d a p l s
  | .vand d a b p l => Sys2Proof.Machine.execVand d a b p l s
  | .vor d a b p l => Sys2Proof.Machine.execVor d a b p l s
  | .vxor d a b p l => Sys2Proof.Machine.execVxor d a b p l s
  | .vandn d a b p l => Sys2Proof.Machine.execVandn d a b p l s
  | .vshl d a b p l => Sys2Proof.Machine.execVshl d a b p l s
  | .vshr d a b p l => Sys2Proof.Machine.execVshr d a b p l s
  | .vsra d a b p l => Sys2Proof.Machine.execVsra d a b p l s
  | .vadds d a b p l => Sys2Proof.Machine.execVadds d a b p l s
  | .vaddsn d a b p l => Sys2Proof.Machine.execVaddsn d a b p l s
  | .vsubs d a b p l => Sys2Proof.Machine.execVsubs d a b p l s
  | .vsubsn d a b p l => Sys2Proof.Machine.execVsubsn d a b p l s
  | .vavg d a b p l => Sys2Proof.Machine.execVavg d a b p l s
  | .vavgn d a b p l => Sys2Proof.Machine.execVavgn d a b p l s
  | .vcmpeq d a b p l => Sys2Proof.Machine.execVcmpeq d a b p l s
  | .vcmpne d a b p l => Sys2Proof.Machine.execVcmpne d a b p l s
  | .vcmplt d a b p l => Sys2Proof.Machine.execVcmplt d a b p l s
  | .vcmple d a b p l => Sys2Proof.Machine.execVcmple d a b p l s
  | .vcmpltn d a b p l => Sys2Proof.Machine.execVcmpltn d a b p l s
  | .vcmplen d a b p l => Sys2Proof.Machine.execVcmplen d a b p l s
  | .vfcmpeq d a b p l => Sys2Proof.Machine.execVfcmpeq d a b p l s
  | .vfcmplt d a b p l => Sys2Proof.Machine.execVfcmplt d a b p l s
  | .vfcmple d a b p l => Sys2Proof.Machine.execVfcmple d a b p l s
  | .vfcmpun d a b p l => Sys2Proof.Machine.execVfcmpun d a b p l s
  | .vfadd d a b p l => Sys2Proof.Machine.execVfadd d a b p l s
  | .vfsub d a b p l => Sys2Proof.Machine.execVfsub d a b p l s
  | .vfmul d a b p l => Sys2Proof.Machine.execVfmul d a b p l s
  | .vfmin d a b p l => Sys2Proof.Machine.execVfmin d a b p l s
  | .vfmax d a b p l => Sys2Proof.Machine.execVfmax d a b p l s
  | .vfabs d a p l => Sys2Proof.Machine.execVfabs d a p l s
  | .vfneg d a p l => Sys2Proof.Machine.execVfneg d a p l s
  | .vfrcp d a p l => Sys2Proof.Machine.execVfrcp d a p l s
  | .vfrsq d a p l => Sys2Proof.Machine.execVfrsq d a p l s
  | .vfma d a b c l => Sys2Proof.Machine.execVfma d a b c l s
  | .vfms d a b c l => Sys2Proof.Machine.execVfms d a b c l s
  | .vfnma d a b c l => Sys2Proof.Machine.execVfnma d a b c l s
  | .vfnms d a b c l => Sys2Proof.Machine.execVfnms d a b c l s
  | .vmac d a b c l => Sys2Proof.Machine.execVmac d a b c l s
  | .vmacn d a b c l => Sys2Proof.Machine.execVmacn d a b c l s
  | .vshuf d a b p l => Sys2Proof.Machine.execVshuf d a b p l s
  | .vsplat d a p l => Sys2Proof.Machine.execVsplat d a p l s
  | .vext d a b l => Sys2Proof.Machine.execVext d a b l s
  | .vins d a b p l => Sys2Proof.Machine.execVins d a b p l s
  | .vzip d a b p l => Sys2Proof.Machine.execVzip d a b p l s
  | .vunzip d a b p l => Sys2Proof.Machine.execVunzip d a b p l s
  | .vrot d a b p l => Sys2Proof.Machine.execVrot d a b p l s
  | .vsel d a b p l => Sys2Proof.Machine.execVsel d a b p l s
  | .vmov d a p l => Sys2Proof.Machine.execVmov d a p l s
  | .vredadd d a p l => Sys2Proof.Machine.execVredadd d a p l s
  | .vfredadd d a p l => Sys2Proof.Machine.execVfredadd d a p l s
  | .vredmin d a p l => Sys2Proof.Machine.execVredmin d a p l s
  | .vredmax d a p l => Sys2Proof.Machine.execVredmax d a p l s
  | .vredminn d a p l => Sys2Proof.Machine.execVredminn d a p l s
  | .vredmaxn d a p l => Sys2Proof.Machine.execVredmaxn d a p l s
  | .vdot8 d a b p l => Sys2Proof.Machine.execVdot8 d a b p l s
  | .vdot8n d a b p l => Sys2Proof.Machine.execVdot8n d a b p l s
  | .vpop d a p l => Sys2Proof.Machine.execVpop d a p l s
  | .vclz d a p l => Sys2Proof.Machine.execVclz d a p l s
  | .vctz d a p l => Sys2Proof.Machine.execVctz d a p l s
  | .vcvt d a t u r p => Sys2Proof.Machine.execVcvt d a t u r p s
  | .vdec d a f k t => Sys2Proof.Machine.execVdec d a f k t s
  | .venc d a f k t r => Sys2Proof.Machine.execVenc d a f k t r s
  | .segev d a t => Sys2Proof.Machine.execSegev d a t s
  | .beq a b o => Sys2Proof.Machine.execBeq a b o s
  | .bne a b o => Sys2Proof.Machine.execBne a b o s
  | .blt a b o => Sys2Proof.Machine.execBlt a b o s
  | .bge a b o => Sys2Proof.Machine.execBge a b o s
  | .bltn a b o => Sys2Proof.Machine.execBltn a b o s
  | .bgen a b o => Sys2Proof.Machine.execBgen a b o s
  | .bpany a o => Sys2Proof.Machine.execBpany a o s
  | .bpnone a o => Sys2Proof.Machine.execBpnone a o s
  | .jal d o => Sys2Proof.Machine.execJal d o s
  | .j o => Sys2Proof.Machine.execJ o s
  | .jr a => Sys2Proof.Machine.execJr a s
  | .jalr d a => Sys2Proof.Machine.execJalr d a s
  | .ret => Sys2Proof.Machine.execRet s
  | .fjmp a => Sys2Proof.Machine.execFjmp a s
  | .loop l c n => Sys2Proof.Machine.execLoop l c n s
  | .loopx l c n s2 => Sys2Proof.Machine.execLoopx l c n s2 s
  | .fuse a => Sys2Proof.Machine.execFuse a s
  | .split => Sys2Proof.Machine.execSplit s
  | .yield a => Sys2Proof.Machine.execYield a s
  | .park a => Sys2Proof.Machine.execPark a s
  | .ldb t b i2 e o => Sys2Proof.Machine.execLdb t b i2 e o s
  | .ldh t b i2 e o => Sys2Proof.Machine.execLdh t b i2 e o s
  | .ldw t b i2 e o => Sys2Proof.Machine.execLdw t b i2 e o s
  | .ldd t b i2 o => Sys2Proof.Machine.execLdd t b i2 o s
  | .stb t b i2 e o => Sys2Proof.Machine.execStb t b i2 e o s
  | .sth t b i2 e o => Sys2Proof.Machine.execSth t b i2 e o s
  | .stw t b i2 e o => Sys2Proof.Machine.execStw t b i2 e o s
  | .std t b i2 e o => Sys2Proof.Machine.execStd t b i2 e o s
  | .vld t b i2 p o => Sys2Proof.Machine.execVld t b i2 p o s
  | .vst t b i2 p o => Sys2Proof.Machine.execVst t b i2 p o s
  | .aadd t b s2 i2 w => Sys2Proof.Machine.execAadd t b s2 i2 w s
  | .aand t b s2 i2 w => Sys2Proof.Machine.execAand t b s2 i2 w s
  | .aor t b s2 i2 w => Sys2Proof.Machine.execAor t b s2 i2 w s
  | .axor t b s2 i2 w => Sys2Proof.Machine.execAxor t b s2 i2 w s
  | .amin t b s2 i2 w => Sys2Proof.Machine.execAmin t b s2 i2 w s
  | .amax t b s2 i2 w => Sys2Proof.Machine.execAmax t b s2 i2 w s
  | .aminn t b s2 i2 w => Sys2Proof.Machine.execAminn t b s2 i2 w s
  | .amaxn t b s2 i2 w => Sys2Proof.Machine.execAmaxn t b s2 i2 w s
  | .aswap t b s2 i2 w => Sys2Proof.Machine.execAswap t b s2 i2 w s
  | .acas t b s2 i2 w => Sys2Proof.Machine.execAcas t b s2 i2 w s
  | .afadd t b s2 i2 => Sys2Proof.Machine.execAfadd t b s2 i2 s
  | .fence a => Sys2Proof.Machine.execFence a s
  | .seti a b n => Sys2Proof.Machine.execSeti a b n s
  | .rds d n => Sys2Proof.Machine.execRds d n s
  | .wrs a n => Sys2Proof.Machine.execWrs a n s
  | .qrd q n => Sys2Proof.Machine.execQrd q n s
  | .qst q a o => Sys2Proof.Machine.execQst q a o s
  | .xcopy d a b c => Sys2Proof.Machine.execXcopy d a b c s
  | .xstat d a => Sys2Proof.Machine.execXstat d a s
  | .xwait d => Sys2Proof.Machine.execXwait d s
  | .sbind d a b => Sys2Proof.Machine.execSbind d a b s
  | .sunbind d => Sys2Proof.Machine.execSunbind d s
  | .sstat d a => Sys2Proof.Machine.execSstat d a s
  | .cfetch a f => Sys2Proof.Machine.execCfetch a f s
  | .cstat d f => Sys2Proof.Machine.execCstat d f s
  | .dtld a v n t => Sys2Proof.Machine.execDtld a v n t s
  | .segld a t => Sys2Proof.Machine.execSegld a t s
  | .mclaim p => Sys2Proof.Machine.execMclaim p s
  | .mrel p => Sys2Proof.Machine.execMrel p s
  | .mload p g k => Sys2Proof.Machine.execMload p g k s
  | .mstore p g k => Sys2Proof.Machine.execMstore p g k s
  | .mzero p => Sys2Proof.Machine.execMzero p s
  | .mma p q s2 c => Sys2Proof.Machine.execMma p q s2 c s
  | .mmas p q s2 g x c => Sys2Proof.Machine.execMmas p q s2 g x c s
  | .mscale q g l => Sys2Proof.Machine.execMscale q g l s
  | .mcvt p q r k => Sys2Proof.Machine.execMcvt p q r k s
  | .mtr p => Sys2Proof.Machine.execMtr p s
  | .tspawn d => Sys2Proof.Machine.execTspawn d s
  | .tpub d a b => Sys2Proof.Machine.execTpub d a b s
  | .tsig d a => Sys2Proof.Machine.execTsig d a s
  | .tret => Sys2Proof.Machine.execTret s
  | .targ d a => Sys2Proof.Machine.execTarg d a s
  | .send d a => Sys2Proof.Machine.execSend d a s
  | .recv d a b => Sys2Proof.Machine.execRecv d a b s
  | .recvadd d a => Sys2Proof.Machine.execRecvadd d a s
  | .qbind d a b => Sys2Proof.Machine.execQbind d a b s
  | .qstat d a => Sys2Proof.Machine.execQstat d a s
  | .spliceIns d a => Sys2Proof.Machine.execSpliceIns d a s
  | .spliceEli d a => Sys2Proof.Machine.execSpliceEli d a s
  | .spliceReb d a => Sys2Proof.Machine.execSpliceReb d a s
  | .splPrep d a b => Sys2Proof.Machine.execSplPrep d a b s
  | .splCmt d => Sys2Proof.Machine.execSplCmt d s
  | .splAbt => Sys2Proof.Machine.execSplAbt s
  | .uiret => Sys2Proof.Machine.execUiret s
  | .uien m => Sys2Proof.Machine.execUien m s
  | .uidis m => Sys2Proof.Machine.execUidis m s
  | .trap n => Sys2Proof.Machine.execTrap n s
  | .csrr d n => Sys2Proof.Machine.execCsrr d n s
  | .csrw a n => Sys2Proof.Machine.execCsrw a n s
  | .csrs a n => Sys2Proof.Machine.execCsrs a n s
  | .csrc a n => Sys2Proof.Machine.execCsrc a n s
  | .xret => Sys2Proof.Machine.execXret s
  | .wfi => Sys2Proof.Machine.execWfi s
  | .illegalWordIssue r => Sys2Proof.Machine.execIllegalWordIssue r s
  | .doubleTrapRecovery r => Sys2Proof.Machine.execDoubleTrapRecovery r s
  | .deferredFaultTake => Sys2Proof.Machine.execDeferredFaultTake s
  | .systemEventTake => Sys2Proof.Machine.execSystemEventTake s
  | .userInterruptEntry => Sys2Proof.Machine.execUserInterruptEntry s
  | .instantBoundary => Sys2Proof.Machine.execInstantBoundary s
  | .homeStoreAccept n => Sys2Proof.Machine.execHomeStoreAccept n s
  | .homeLoadRequest core tag => Sys2Proof.Machine.execHomeLoadRequest core tag s
  | .roCacheFill core tag => Sys2Proof.Machine.execRoCacheFill core tag s
  | .storeAck n => Sys2Proof.Machine.execStoreAck n s
  | .lateReport n => Sys2Proof.Machine.execLateReport n s
  | .tieReport n => Sys2Proof.Machine.execTieReport n s
  | .remoteReply core tag => Sys2Proof.Machine.execRemoteReply core tag s
  | .taskPurgeSend n => Sys2Proof.Machine.execTaskPurgeSend n s
  | .purgeApply n home => Sys2Proof.Machine.execPurgeApply n home s
  | .faultPolicyApply n => Sys2Proof.Machine.execFaultPolicyApply n s
  | .publish n => Sys2Proof.Machine.execPublish n s
  | .signal n => Sys2Proof.Machine.execSignal n s
  | .heldGenerationApply n => Sys2Proof.Machine.execHeldGenerationApply n s
  | .tcbReclaim n => Sys2Proof.Machine.execTcbReclaim n s
  | .clusterRecordArrival n => Sys2Proof.Machine.execClusterRecordArrival n s
  | .overflowReturn n => Sys2Proof.Machine.execOverflowReturn n s
  | .takeRecord core => Sys2Proof.Machine.execTakeRecord core s
  | .priorityAging n => Sys2Proof.Machine.execPriorityAging n s
  | .nearHintExpiry n => Sys2Proof.Machine.execNearHintExpiry n s
  | .autoPark core => Sys2Proof.Machine.execAutoPark core s
  | .yieldResume core => Sys2Proof.Machine.execYieldResume core s
  | .gangWaitSplit core => Sys2Proof.Machine.execGangWaitSplit core s
  | .fuseTimeout core => Sys2Proof.Machine.execFuseTimeout core s
  | .copyAccept core => Sys2Proof.Machine.execCopyAccept core s
  | .copyComplete core tag => Sys2Proof.Machine.execCopyComplete core tag s
  | .codeFetchComplete core frame clause => Sys2Proof.Machine.execCodeFetchComplete core frame clause s
  | .dtldComplete core => Sys2Proof.Machine.execDtldComplete core s
  | .segldComplete core => Sys2Proof.Machine.execSegldComplete core s
  | .mloadLand core slot => Sys2Proof.Machine.execMloadLand core slot s
  | .recordArrival n => Sys2Proof.Machine.execRecordArrival n s
  | .mailboxWrite n => Sys2Proof.Machine.execMailboxWrite n s
  | .spliceWatchdogExpiry core queue => Sys2Proof.Machine.execSpliceWatchdogExpiry core queue s
  | .splicePrepEnd core => Sys2Proof.Machine.execSplicePrepEnd core s
  | .seamArrival n => Sys2Proof.Machine.execSeamArrival n s
  | .seamSeenReport n => Sys2Proof.Machine.execSeamSeenReport n s
  | .spliceLink n => Sys2Proof.Machine.execSpliceLink n s
  | .linkAck n => Sys2Proof.Machine.execLinkAck n s
  | .flitReceive port seq flit => Sys2Proof.Machine.execFlitReceive port seq flit s
  | .portDown port => Sys2Proof.Machine.execPortDown port s
  | .portReroute device port => Sys2Proof.Machine.execPortReroute device port s
  | .fabricInboundRequest r => Sys2Proof.Machine.execFabricInboundRequest r s
  | .timeBeacon port inst period offset => Sys2Proof.Machine.execTimeBeacon port inst period offset s
  | .beaconSend => Sys2Proof.Machine.execBeaconSend s
  | .lockLoss => Sys2Proof.Machine.execLockLoss s
  | .pageWalk w => Sys2Proof.Machine.execPageWalk w s
  | .tmcmdMap src shingle v => Sys2Proof.Machine.execTmcmdMap src shingle v s
  | .tmcmdUnmap src shingle v => Sys2Proof.Machine.execTmcmdUnmap src shingle v s
  | .tmCommandComplete shingle => Sys2Proof.Machine.execTmCommandComplete shingle s
  | .pmcmdMove src shingle v => Sys2Proof.Machine.execPmcmdMove src shingle v s
  | .homeHandover n => Sys2Proof.Machine.execHomeHandover n s
  | .handoverApply n => Sys2Proof.Machine.execHandoverApply n s
  | .moveComplete n => Sys2Proof.Machine.execMoveComplete n s
  | .dispenserHomeMove part va frame inst => Sys2Proof.Machine.execDispenserHomeMove part va frame inst s
  | .vdreqWrite src shingle v => Sys2Proof.Machine.execVdreqWrite src shingle v s
  | .vdDrainDone shingle domain => Sys2Proof.Machine.execVdDrainDone shingle domain s
  | .vdSwitchDone shingle domain => Sys2Proof.Machine.execVdSwitchDone shingle domain s
  | .droopDetect cluster cores window => Sys2Proof.Machine.execDroopDetect cluster cores window s
  | .coreArrayError core array window => Sys2Proof.Machine.execCoreArrayError core array window s
  | .clusterWithhold cluster tjunc power => Sys2Proof.Machine.execClusterWithhold cluster tjunc power s
  | .clusterUnwithhold cluster tjunc power => Sys2Proof.Machine.execClusterUnwithhold cluster tjunc power s
  | .starvationGrant a => Sys2Proof.Machine.execStarvationGrant a s
  | .xmigRidgeWrite core v => Sys2Proof.Machine.execXmigRidgeWrite core v s
  | .migrationDeadline core => Sys2Proof.Machine.execMigrationDeadline core s
  | .xtendWrite v => Sys2Proof.Machine.execXtendWrite v s
  | .xnisSpill v => Sys2Proof.Machine.execXnisSpill v s
  | .xnisReinject v => Sys2Proof.Machine.execXnisReinject v s
  | .copySquash => Sys2Proof.Machine.execCopySquash s
  | .copyReissue => Sys2Proof.Machine.execCopyReissue s
  | .sccmdStop src shingle v => Sys2Proof.Machine.execSccmdStop src shingle v s
  | .coreStop shingle => Sys2Proof.Machine.execCoreStop shingle s
  | .imageStreamDone shingle => Sys2Proof.Machine.execImageStreamDone shingle s
  | .sccmdRestore src shingle v => Sys2Proof.Machine.execSccmdRestore src shingle v s
  | .restoreDone shingle => Sys2Proof.Machine.execRestoreDone shingle s
  | .mgcmdMove src shingle v => Sys2Proof.Machine.execMgcmdMove src shingle v s
  | .mgcmdDone shingle => Sys2Proof.Machine.execMgcmdDone shingle s
  | .stragglerForward n => Sys2Proof.Machine.execStragglerForward n s
  | .drainMarkerSend n => Sys2Proof.Machine.execDrainMarkerSend n s
  | .drainMarker n c2 => Sys2Proof.Machine.execDrainMarker n c2 s
  | .drelWrite src v => Sys2Proof.Machine.execDrelWrite src v s
  | .dabortWrite src v => Sys2Proof.Machine.execDabortWrite src v s
  | .dheldRead src => Sys2Proof.Machine.execDheldRead src s
  | .digestStart src v => Sys2Proof.Machine.execDigestStart src v s
  | .digestDone part => Sys2Proof.Machine.execDigestDone part s
  | .exclusionWrite src offset v => Sys2Proof.Machine.execExclusionWrite src offset v s
  | .hostEnqueueWrite port offset bytes => Sys2Proof.Machine.execHostEnqueueWrite port offset bytes s
  | .hostMailboxWrite port offset bytes => Sys2Proof.Machine.execHostMailboxWrite port offset bytes s
  | .hostCopyToModule port => Sys2Proof.Machine.execHostCopyToModule port s
  | .hostCopyToHost port => Sys2Proof.Machine.execHostCopyToHost port s
  | .hostCopyDone port => Sys2Proof.Machine.execHostCopyDone port s
  | .fwUpdate sigOk verOk fmtOk version => Sys2Proof.Machine.execFwUpdate sigOk verOk fmtOk version s
  | .fwReconfigure shingle => Sys2Proof.Machine.execFwReconfigure shingle s
  | .fwHeartbeat => Sys2Proof.Machine.execFwHeartbeat s
  | .fwHeartbeatTimeout => Sys2Proof.Machine.execFwHeartbeatTimeout s
  | .iperiodWrite v => Sys2Proof.Machine.execIperiodWrite v s
  | .thermalTrip shingle tjunc => Sys2Proof.Machine.execThermalTrip shingle tjunc s
  | .triprstWrite shingle hottest => Sys2Proof.Machine.execTriprstWrite shingle hottest s
  | .powerOn ok locked config => Sys2Proof.Machine.execPowerOn ok locked config s
  | .powerLoss => Sys2Proof.Machine.execPowerLoss s
  | .registerWrite src shingle offset bytes => Sys2Proof.Machine.execRegisterWrite src shingle offset bytes s
  | .bankAccessPerformed core b => Sys2Proof.Machine.execBankAccessPerformed core b s
  | .streamDataArrival core port => Sys2Proof.Machine.execStreamDataArrival core port s
  | .matrixInstructionDone core => Sys2Proof.Machine.execMatrixInstructionDone core s
  | .xnisCommandDone core => Sys2Proof.Machine.execXnisCommandDone core s
  | .stagedMessageSent core n => Sys2Proof.Machine.execStagedMessageSent core n s
  | .purlinPortUp port lanes => Sys2Proof.Machine.execPurlinPortUp port lanes s
  | .imageLoad part img choice => Sys2Proof.Machine.execImageLoad part img choice s

end Sys2Proof.Machine
end

