-- ==== Sys2Proof/Machine/Issue.lean ====
section
/-! DEFINITION. How clauses issue: fetch, the checks of R115, pending registers, paired clauses, gangs, and
what is taken between clauses (R103 to R107, R115, R147, R263). -/

namespace Sys2Proof.Machine

/-- Whether an access comes from the host or the firmware. -/
def outside : RegSrc → Bool
  | .core _ => false
  | _ => true

/-- The g registers an instruction reads or writes (R147). -/
def gNamed : Instr → List RegNo
  | .add d a b _ => [d, a, b]
  | .sub d a b _ => [d, a, b]
  | .and d a b _ => [d, a, b]
  | .or d a b _ => [d, a, b]
  | .xor d a b _ => [d, a, b]
  | .andn d a b _ => [d, a, b]
  | .shl d a b _ => [d, a, b]
  | .shr d a b _ => [d, a, b]
  | .sra d a b _ => [d, a, b]
  | .rol d a b _ => [d, a, b]
  | .slt d a b _ => [d, a, b]
  | .sltn d a b _ => [d, a, b]
  | .min d a b _ => [d, a, b]
  | .max d a b _ => [d, a, b]
  | .minn d a b _ => [d, a, b]
  | .maxn d a b _ => [d, a, b]
  | .sel d a b _ => [d, a, b]
  | .addi d a _ => [d, a]
  | .andi d a _ => [d, a]
  | .ori d a _ => [d, a]
  | .xori d a _ => [d, a]
  | .shli d a _ => [d, a]
  | .shri d a _ => [d, a]
  | .srai d a _ => [d, a]
  | .roli d a _ => [d, a]
  | .movi d _ => [d]
  | .movs d _ => [d]
  | .mul d a b _ => [d, a, b]
  | .mulh d a b _ => [d, a, b]
  | .mulhn d a b _ => [d, a, b]
  | .div d a b _ => [d, a, b]
  | .divn d a b _ => [d, a, b]
  | .rem d a b _ => [d, a, b]
  | .remn d a b _ => [d, a, b]
  | .clz d a _ => [d, a]
  | .ctz d a _ => [d, a]
  | .pop d a _ => [d, a]
  | .brev d a _ => [d, a]
  | .sext d a b _ => [d, a, b]
  | .zext d a b _ => [d, a, b]
  | .bext d a b _ => [d, a, b]
  | .bins d a b _ => [d, a, b]
  | .vsplat _ a _ _ => [a]
  | .vext d _ b _ => [d, b]
  | .vins _ a b _ _ => [a, b]
  | .vrot _ _ b _ _ => [b]
  | .beq a b _ => [a, b]
  | .bne a b _ => [a, b]
  | .blt a b _ => [a, b]
  | .bge a b _ => [a, b]
  | .bltn a b _ => [a, b]
  | .bgen a b _ => [a, b]
  | .jal d _ => [d]
  | .jr a => [a]
  | .jalr d a => [d, a]
  | .ret  => [1]
  | .fjmp a => [a]
  | .loop _ c _ => [c]
  | .loopx _ c _ s2 => [c, s2]
  | .fuse a => [a]
  | .yield a => [a]
  | .park a => [a]
  | .ldb t b _ _ _ => [t, b]
  | .ldh t b _ _ _ => [t, b]
  | .ldw t b _ _ _ => [t, b]
  | .ldd t b _ _ => [t, b]
  | .stb t b _ _ _ => [t, b]
  | .sth t b _ _ _ => [t, b]
  | .stw t b _ _ _ => [t, b]
  | .std t b _ _ _ => [t, b]
  | .vld _ b _ _ _ => [b]
  | .vst _ b _ _ _ => [b]
  | .aadd t b s2 _ _ => [t, b, s2]
  | .aand t b s2 _ _ => [t, b, s2]
  | .aor t b s2 _ _ => [t, b, s2]
  | .axor t b s2 _ _ => [t, b, s2]
  | .amin t b s2 _ _ => [t, b, s2]
  | .amax t b s2 _ _ => [t, b, s2]
  | .aminn t b s2 _ _ => [t, b, s2]
  | .amaxn t b s2 _ _ => [t, b, s2]
  | .aswap t b s2 _ _ => [t, b, s2]
  | .acas t b s2 _ _ => [t, b, s2]
  | .afadd t b s2 _ => [t, b, s2]
  | .fence a => [a]
  | .seti a _ _ => [a]
  | .rds d _ => [d]
  | .wrs a _ => [a]
  | .qst _ a _ => [a]
  | .xcopy d a b c => [d, a, b, c]
  | .xstat d a => [d, a]
  | .xwait d => [d]
  | .sbind _ a b => [a, b]
  | .sstat d _ => [d]
  | .cfetch a _ => [a]
  | .cstat d _ => [d]
  | .dtld a _ _ _ => [a]
  | .segld a _ => [a]
  | .mload _ g _ => [g, (g + 1)]
  | .mstore _ g _ => [g]
  | .mmas _ _ _ g _ _ => [g, (g + 1)]
  | .mscale _ g _ => [g, (g + 1)]
  | .tspawn d => [d]
  | .tpub d a b => [d, a, b]
  | .tsig d a => [d, a]
  | .targ d a => [d, a]
  | .send d a => [d, a]
  | .recv d a b => [d, a, b]
  | .recvadd _ a => [a]
  | .qbind d a b => [d, a, b]
  | .qstat d a => [d, a]
  | .spliceIns d a => [d, a]
  | .spliceEli d a => [d, a]
  | .spliceReb d a => [d, a]
  | .splPrep d a b => [d, a, b]
  | .splCmt d => [d]
  | .csrr d _ => [d]
  | .csrw a _ => [a]
  | .csrs a _ => [a]
  | .csrc a _ => [a]
  | _ => []

/-- The four v registers of a `recvadd` from one on; none past v31. -/
def fourFrom (d : RegNo) : List RegNo :=
  (List.range 4).filterMap (fun i => if d.toNat + i < 32 then some (BitVec.ofNat 5 (d.toNat + i)) else none)

/-- The v registers an instruction reads or writes. -/
def vNamed : Instr → List RegNo
  | .vadd d a b _ _ => [d, a, b]
  | .vsub d a b _ _ => [d, a, b]
  | .vmul d a b _ _ => [d, a, b]
  | .vmulh d a b _ _ => [d, a, b]
  | .vmulhn d a b _ _ => [d, a, b]
  | .vmin d a b _ _ => [d, a, b]
  | .vmax d a b _ _ => [d, a, b]
  | .vminn d a b _ _ => [d, a, b]
  | .vmaxn d a b _ _ => [d, a, b]
  | .vabs d a _ _ => [d, a]
  | .vneg d a _ _ => [d, a]
  | .vand d a b _ _ => [d, a, b]
  | .vor d a b _ _ => [d, a, b]
  | .vxor d a b _ _ => [d, a, b]
  | .vandn d a b _ _ => [d, a, b]
  | .vshl d a b _ _ => [d, a, b]
  | .vshr d a b _ _ => [d, a, b]
  | .vsra d a b _ _ => [d, a, b]
  | .vadds d a b _ _ => [d, a, b]
  | .vaddsn d a b _ _ => [d, a, b]
  | .vsubs d a b _ _ => [d, a, b]
  | .vsubsn d a b _ _ => [d, a, b]
  | .vavg d a b _ _ => [d, a, b]
  | .vavgn d a b _ _ => [d, a, b]
  | .vcmpeq _ a b _ _ => [a, b]
  | .vcmpne _ a b _ _ => [a, b]
  | .vcmplt _ a b _ _ => [a, b]
  | .vcmple _ a b _ _ => [a, b]
  | .vcmpltn _ a b _ _ => [a, b]
  | .vcmplen _ a b _ _ => [a, b]
  | .vfcmpeq _ a b _ _ => [a, b]
  | .vfcmplt _ a b _ _ => [a, b]
  | .vfcmple _ a b _ _ => [a, b]
  | .vfcmpun _ a b _ _ => [a, b]
  | .vfadd d a b _ _ => [d, a, b]
  | .vfsub d a b _ _ => [d, a, b]
  | .vfmul d a b _ _ => [d, a, b]
  | .vfmin d a b _ _ => [d, a, b]
  | .vfmax d a b _ _ => [d, a, b]
  | .vfabs d a _ _ => [d, a]
  | .vfneg d a _ _ => [d, a]
  | .vfrcp d a _ _ => [d, a]
  | .vfrsq d a _ _ => [d, a]
  | .vfma d a b c _ => [d, a, b, c]
  | .vfms d a b c _ => [d, a, b, c]
  | .vfnma d a b c _ => [d, a, b, c]
  | .vfnms d a b c _ => [d, a, b, c]
  | .vmac d a b c _ => [d, a, b, c]
  | .vmacn d a b c _ => [d, a, b, c]
  | .vshuf d a b _ _ => [d, a, b]
  | .vsplat d _ _ _ => [d]
  | .vext _ a _ _ => [a]
  | .vins d _ _ _ _ => [d]
  | .vzip d a b _ _ => [d, a, b]
  | .vunzip d a b _ _ => [d, a, b]
  | .vrot d a _ _ _ => [d, a]
  | .vsel d a b _ _ => [d, a, b]
  | .vmov d a _ _ => [d, a]
  | .vredadd d a _ _ => [d, a]
  | .vfredadd d a _ _ => [d, a]
  | .vredmin d a _ _ => [d, a]
  | .vredmax d a _ _ => [d, a]
  | .vredminn d a _ _ => [d, a]
  | .vredmaxn d a _ _ => [d, a]
  | .vdot8 d a b _ _ => [d, a, b]
  | .vdot8n d a b _ _ => [d, a, b]
  | .vpop d a _ _ => [d, a]
  | .vclz d a _ _ => [d, a]
  | .vctz d a _ _ => [d, a]
  | .vcvt d a _ _ _ _ => [d, a]
  | .vdec d a _ _ _ => [d, a]
  | .venc d a _ _ _ _ => [d, a]
  | .segev d a _ => [d, a]
  | .vld t _ _ _ _ => [t]
  | .vst t _ _ _ _ => [t]
  | .sbind d _ _ => [d]
  | .sunbind d => [d]
  | .sstat _ a => [a]
  | .recvadd d _ => fourFrom d
  | _ => []

/-- The g register an instruction writes as its destination (R115, order 2). -/
def gDests : Instr → List RegNo
  | .add d _ _ _ => [d]
  | .sub d _ _ _ => [d]
  | .and d _ _ _ => [d]
  | .or d _ _ _ => [d]
  | .xor d _ _ _ => [d]
  | .andn d _ _ _ => [d]
  | .shl d _ _ _ => [d]
  | .shr d _ _ _ => [d]
  | .sra d _ _ _ => [d]
  | .rol d _ _ _ => [d]
  | .slt d _ _ _ => [d]
  | .sltn d _ _ _ => [d]
  | .min d _ _ _ => [d]
  | .max d _ _ _ => [d]
  | .minn d _ _ _ => [d]
  | .maxn d _ _ _ => [d]
  | .sel d _ _ _ => [d]
  | .addi d _ _ => [d]
  | .andi d _ _ => [d]
  | .ori d _ _ => [d]
  | .xori d _ _ => [d]
  | .shli d _ _ => [d]
  | .shri d _ _ => [d]
  | .srai d _ _ => [d]
  | .roli d _ _ => [d]
  | .movi d _ => [d]
  | .movs d _ => [d]
  | .mul d _ _ _ => [d]
  | .mulh d _ _ _ => [d]
  | .mulhn d _ _ _ => [d]
  | .div d _ _ _ => [d]
  | .divn d _ _ _ => [d]
  | .rem d _ _ _ => [d]
  | .remn d _ _ _ => [d]
  | .clz d _ _ => [d]
  | .ctz d _ _ => [d]
  | .pop d _ _ => [d]
  | .brev d _ _ => [d]
  | .sext d _ _ _ => [d]
  | .zext d _ _ _ => [d]
  | .bext d _ _ _ => [d]
  | .bins d _ _ _ => [d]
  | .vext d _ _ _ => [d]
  | .jal d _ => [d]
  | .jalr d _ => [d]
  | .ldb t _ _ _ _ => [t]
  | .ldh t _ _ _ _ => [t]
  | .ldw t _ _ _ _ => [t]
  | .ldd t _ _ _ => [t]
  | .aadd t _ _ _ _ => [t]
  | .aand t _ _ _ _ => [t]
  | .aor t _ _ _ _ => [t]
  | .axor t _ _ _ _ => [t]
  | .amin t _ _ _ _ => [t]
  | .amax t _ _ _ _ => [t]
  | .aminn t _ _ _ _ => [t]
  | .amaxn t _ _ _ _ => [t]
  | .aswap t _ _ _ _ => [t]
  | .acas t _ _ _ _ => [t]
  | .afadd t _ _ _ => [t]
  | .rds d _ => [d]
  | .xcopy d _ _ _ => [d]
  | .xstat d _ => [d]
  | .sstat d _ => [d]
  | .cstat d _ => [d]
  | .targ d _ => [d]
  | .recv d _ _ => [d]
  | .qstat d _ => [d]
  | .splPrep d _ _ => [d]
  | .splCmt d => [d]
  | .csrr d _ => [d]
  | _ => []

/-- The v registers an instruction writes as its destination. -/
def vDests : Instr → List RegNo
  | .vadd d _ _ _ _ => [d]
  | .vsub d _ _ _ _ => [d]
  | .vmul d _ _ _ _ => [d]
  | .vmulh d _ _ _ _ => [d]
  | .vmulhn d _ _ _ _ => [d]
  | .vmin d _ _ _ _ => [d]
  | .vmax d _ _ _ _ => [d]
  | .vminn d _ _ _ _ => [d]
  | .vmaxn d _ _ _ _ => [d]
  | .vabs d _ _ _ => [d]
  | .vneg d _ _ _ => [d]
  | .vand d _ _ _ _ => [d]
  | .vor d _ _ _ _ => [d]
  | .vxor d _ _ _ _ => [d]
  | .vandn d _ _ _ _ => [d]
  | .vshl d _ _ _ _ => [d]
  | .vshr d _ _ _ _ => [d]
  | .vsra d _ _ _ _ => [d]
  | .vadds d _ _ _ _ => [d]
  | .vaddsn d _ _ _ _ => [d]
  | .vsubs d _ _ _ _ => [d]
  | .vsubsn d _ _ _ _ => [d]
  | .vavg d _ _ _ _ => [d]
  | .vavgn d _ _ _ _ => [d]
  | .vfadd d _ _ _ _ => [d]
  | .vfsub d _ _ _ _ => [d]
  | .vfmul d _ _ _ _ => [d]
  | .vfmin d _ _ _ _ => [d]
  | .vfmax d _ _ _ _ => [d]
  | .vfabs d _ _ _ => [d]
  | .vfneg d _ _ _ => [d]
  | .vfrcp d _ _ _ => [d]
  | .vfrsq d _ _ _ => [d]
  | .vfma d _ _ _ _ => [d]
  | .vfms d _ _ _ _ => [d]
  | .vfnma d _ _ _ _ => [d]
  | .vfnms d _ _ _ _ => [d]
  | .vmac d _ _ _ _ => [d]
  | .vmacn d _ _ _ _ => [d]
  | .vshuf d _ _ _ _ => [d]
  | .vsplat d _ _ _ => [d]
  | .vins d _ _ _ _ => [d]
  | .vzip d _ _ _ _ => [d]
  | .vunzip d _ _ _ _ => [d]
  | .vrot d _ _ _ _ => [d]
  | .vsel d _ _ _ _ => [d]
  | .vmov d _ _ _ => [d]
  | .vredadd d _ _ _ => [d]
  | .vfredadd d _ _ _ => [d]
  | .vredmin d _ _ _ => [d]
  | .vredmax d _ _ _ => [d]
  | .vredminn d _ _ _ => [d]
  | .vredmaxn d _ _ _ => [d]
  | .vdot8 d _ _ _ _ => [d]
  | .vdot8n d _ _ _ _ => [d]
  | .vpop d _ _ _ => [d]
  | .vclz d _ _ _ => [d]
  | .vctz d _ _ _ => [d]
  | .vcvt d _ _ _ _ _ => [d]
  | .vdec d _ _ _ _ => [d]
  | .venc d _ _ _ _ _ => [d]
  | .segev d _ _ => [d]
  | .vld t _ _ _ _ => [t]
  | .recvadd d _ => fourFrom d
  | _ => []

/-- The predicate an instruction writes. -/
def pDests : Instr → List (BitVec 3)
  | .vcmpeq d _ _ _ _ => [d]
  | .vcmpne d _ _ _ _ => [d]
  | .vcmplt d _ _ _ _ => [d]
  | .vcmple d _ _ _ _ => [d]
  | .vcmpltn d _ _ _ _ => [d]
  | .vcmplen d _ _ _ _ => [d]
  | .vfcmpeq d _ _ _ _ => [d]
  | .vfcmplt d _ _ _ _ => [d]
  | .vfcmple d _ _ _ _ => [d]
  | .vfcmpun d _ _ _ _ => [d]
  | _ => []

/-- Whether a step comes from outside the acting core's clauses, so that the agenda may hold it: a step of an
agent other than a core's own instruction. -/
def fromAgenda : Instr → Bool
  | .doubleTrapRecovery _ => true
  | .deferredFaultTake => true
  | .systemEventTake => true
  | .userInterruptEntry => true
  | .instantBoundary => true
  | .homeStoreAccept _ => true
  | .homeLoadRequest _ _ => true
  | .roCacheFill _ _ => true
  | .storeAck _ => true
  | .lateReport _ => true
  | .tieReport _ => true
  | .remoteReply _ _ => true
  | .taskPurgeSend _ => true
  | .purgeApply _ _ => true
  | .faultPolicyApply _ => true
  | .publish _ => true
  | .signal _ => true
  | .heldGenerationApply _ => true
  | .tcbReclaim _ => true
  | .clusterRecordArrival _ => true
  | .overflowReturn _ => true
  | .takeRecord _ => true
  | .priorityAging _ => true
  | .nearHintExpiry _ => true
  | .autoPark _ => true
  | .yieldResume _ => true
  | .gangWaitSplit _ => true
  | .fuseTimeout _ => true
  | .copyAccept _ => true
  | .copyComplete _ _ => true
  | .codeFetchComplete _ _ _ => true
  | .dtldComplete _ => true
  | .segldComplete _ => true
  | .mloadLand _ _ => true
  | .recordArrival _ => true
  | .mailboxWrite _ => true
  | .spliceWatchdogExpiry _ _ => true
  | .splicePrepEnd _ => true
  | .seamArrival _ => true
  | .seamSeenReport _ => true
  | .spliceLink _ => true
  | .linkAck _ => true
  | .flitReceive _ _ _ => true
  | .portDown _ => true
  | .portReroute _ _ => true
  | .fabricInboundRequest _ => true
  | .timeBeacon _ _ _ _ => true
  | .beaconSend => true
  | .lockLoss => true
  | .pageWalk _ => true
  | .tmcmdMap src _ _ => outside src
  | .tmcmdUnmap src _ _ => outside src
  | .tmCommandComplete _ => true
  | .pmcmdMove src _ _ => outside src
  | .homeHandover _ => true
  | .handoverApply _ => true
  | .moveComplete _ => true
  | .dispenserHomeMove _ _ _ _ => true
  | .vdreqWrite src _ _ => outside src
  | .vdDrainDone _ _ => true
  | .vdSwitchDone _ _ => true
  | .droopDetect _ _ _ => true
  | .coreArrayError _ _ _ => true
  | .clusterWithhold _ _ _ => true
  | .clusterUnwithhold _ _ _ => true
  | .starvationGrant _ => true
  | .xmigRidgeWrite _ _ => true
  | .migrationDeadline _ => true
  | .sccmdStop src _ _ => outside src
  | .coreStop _ => true
  | .imageStreamDone _ => true
  | .sccmdRestore src _ _ => outside src
  | .restoreDone _ => true
  | .mgcmdMove src _ _ => outside src
  | .mgcmdDone _ => true
  | .stragglerForward _ => true
  | .drainMarkerSend _ => true
  | .drainMarker _ _ => true
  | .drelWrite src _ => outside src
  | .dabortWrite src _ => outside src
  | .dheldRead src => outside src
  | .digestStart src _ => outside src
  | .digestDone _ => true
  | .exclusionWrite src _ _ => outside src
  | .hostEnqueueWrite _ _ _ => true
  | .hostMailboxWrite _ _ _ => true
  | .hostCopyToModule _ => true
  | .hostCopyToHost _ => true
  | .hostCopyDone _ => true
  | .fwUpdate _ _ _ _ => true
  | .fwReconfigure _ => true
  | .fwHeartbeat => true
  | .fwHeartbeatTimeout => true
  | .iperiodWrite _ => true
  | .thermalTrip _ _ => true
  | .triprstWrite _ _ => true
  | .powerOn _ _ _ => true
  | .powerLoss => true
  | .registerWrite src _ _ _ => outside src
  | .bankAccessPerformed _ _ => true
  | .streamDataArrival _ _ => true
  | .matrixInstructionDone _ => true
  | .xnisCommandDone _ => true
  | .stagedMessageSent _ _ => true
  | .purlinPortUp _ _ => true
  | .imageLoad _ _ _ => true
  | _ => false

/-! ### Fetch -/

/-- The clause at an address: as captured by an active loop, else what IM holds (R128, R132). -/
def Core.clauseAt (c : Core) (a : Nat) : Nat :=
  let caps := c.x.loops.toList.filter (fun l => l.active)
  match (caps.flatMap (fun l => l.cap)).find? (fun e => e.1 = a) with
  | some e => e.2.toNat
  | none => natOf (c.mem.im.readN a 8)

/-- The active loops whose body holds the clause capture it (R132). Of a clause that the first pass skips, by a branch inside
the body, the spec says nothing: the model captures it in the pass that first executes it (log entry 82, DESIGN CHOICE). -/
def Core.capture (c : Core) (a : Nat) (w : Nat) : Core :=
  if anyLoop c.x.loops then
    { c with x := { c.x with loops := c.x.loops.map (fun l =>
        if l.active && decide (l.start ≤ a ∧ a < l.stop) && !l.cap.any (fun e => e.1 = a)
        then { l with cap := l.cap ++ [(a, BitVec.ofNat 64 w)] } else l) } }
  else c

/-- Word0 of a clause. -/
def clauseWord0 (w : Nat) : IWord := BitVec.ofNat 32 w

/-- Word1 of a clause. -/
def clauseWord1 (w : Nat) : IWord := BitVec.ofNat 32 (w / 2 ^ 32)

/-! ### The checks of a clause (R115) -/

/-- Whether two words of a paired clause name one destination register other than g0 (R12). -/
def sameDest (m a : Instr) : Bool :=
  (gDests m).any (fun r => decide (r ≠ 0) && (gDests a).contains r) || (vDests m).any (fun r => (vDests a).contains r)

/-- The bits of the code field of a major (R112). -/
def codeField (major : Nat) : Nat :=
  match major with
  | 0 | 8 | 9 => 0x3F0
  | 5 => 0x6000
  | 16 | 17 | 18 | 20 | 21 | 23 | 43 | 44 | 48 | 49 | 50 => 0x1F
  | 19 => 0x7
  | 32 => 0x1C00000
  | 34 | 36 | 42 | 45 | 51 | 52 => 0x7000
  | 35 => 0x800
  | 37 | 38 => 0x1800
  | 41 => 0x78
  | 46 | 47 => 0xE0
  | _ => 0

/-- The instruction that a word names by its major and code, whatever its other fields: it tells the destination of a word
whose fields are judged only later (R115, order 2 before orders 4 to 7). -/
def namedBy (w : IWord) : Option Instr :=
  match decodeFields w.toNat with
  | .ok i => some i
  | .error _ =>
    match decodeFields (w.toNat &&& (0x7FF00000 ||| codeField (w.toNat / 33554432 % 64))) with
    | .ok i => some i
    | .error _ => none

/-- The checks of orders 1 and 2 on a paired clause. -/
def pairIllegal (w0 w1 : IWord) : Bool :=
  isAClass w0 || !isAClass w1 ||
    (match namedBy w0, namedBy w1 with
    | some m, some a => sameDest m a
    | _, _ => false)

/-- Word1 decoded, its bit 31 checked first (R115, order 3). -/
def decodeWord1 (w : IWord) : Option Instr :=
  if w.getLsbD 31 then none
  else
    match decode w with
    | .ok i => some i
    | .error _ => none

/-- Word0 decoded. -/
def decodeWord0 (w : IWord) : Option Instr :=
  match decode w with
  | .ok i => some i
  | .error _ => none

/-! ### Pending registers (R147) -/

/-- The first outstanding access that an instruction must wait for: one whose destination it names, or a step register that
the end of its clause advances (R130, R147). -/
def Core.pendingFor (c : Core) (i : Instr) : Option Remote :=
  if c.eng.remote.isEmpty then none
  else c.eng.remote.find? (fun m =>
    (gNamed i ++ c.loopRegs).any (fun r => c.pends m r) || (vNamed i).any (fun r => m.dst.pendsV r))

/-- The loads and the atomics of the scratchpad whose destinations an instruction names have been performed (R80,
R84). -/
def State.loadsUsed (s : State) (i : Instr) : State :=
  let named := gNamed i ++ s.core.loopRegs
  (s.drain (fun p => named.any (fun r => s.core.owes p r) || (vNamed i).any p.owesV)).loadsDone (fun l => named.any (fun r => s.core.mayChange l r) || (vNamed i).any (fun r => l.dst.pendsV r))

/-- The wait on a pending register: reason 0x03 for a load held for an instant to come, else 0x06, with
the tag as object (R34, R70, R148). R34 names loads only: the model gives a timed atomic whose instant has not begun 0x03
too (log entry 80, DESIGN CHOICE). -/
def State.stayPending (s : State) (m : Remote) : State :=
  match m.inst with
  | some t => if s.dev.now < t then s.waiting .future (BitVec.ofNat 64 t) else s.waiting .remote (BitVec.ofNat 64 m.tag)
  | none => s.waiting .remote (BitVec.ofNat 64 m.tag)

/-! ### One core issues -/

/-- Whether a check of orders 8 to 10 that reads no register fails for an instruction, which comes before any wait: a SYS
instruction in user mode, a CSR that is not assigned, an instruction that a handler may not issue, or that only a handler may, a conversion of a type to
itself, a matrix format that none has, vectors past v31 (R115, R138, R140, R174, R190, R204, R217, R227). -/
def State.failsCheck (s : State) (i : Instr) : Bool :=
  match i with
  | .csrr _ n | .csrw _ n | .csrs _ n | .csrc _ n => decide (s.core.x.mode = .user) || !csrAssigned n.toNat
  | .xret | .wfi => decide (s.core.x.mode = .user)
  | .yield _ | .park _ | .tret => s.core.x.inHandler
  | .uiret => !s.core.x.inHandler
  | .vcvt _ _ t u _ _ => decide (t = u)
  | .mcvt _ _ _ k | .mstore _ _ k => decide (18 ≤ k.toNat)
  | .recvadd d _ => decide (28 < d.toNat)
  | _ => false

/-- A word of a fragment clause issues. -/
def State.issueWord (s : State) (w : IWord) (i : Option Instr) : Result :=
  match i with
  | none => exec (.illegalWordIssue (.illegalWord w)) s
  | some i =>
    match (if s.failsCheck i then none else s.core.pendingFor i) with
    | some m => .next (s.stayPending m)
    | none => exec i (s.loadsUsed i)

/-- The destination registers of a word from one register file, everything else from another. -/
def mergeRegs (i : Instr) (m a : Regs) : Regs :=
  let r1 := (gDests i).foldl (fun r d => r.writeG d (a.readG d)) m
  let r2 := (vDests i).foldl (fun r d => r.writeV d (a.readV d)) r1
  (pDests i).foldl (fun r d => r.writeP d (a.readP d)) r2

/-- The A-class word of a paired clause sees the registers and the tables from before its partner. -/
def State.forWord1 (sm s : State) : State :=
  { sm with core := { sm.core with
    r := s.core.r, eng := { sm.core.eng with dtLoads := s.core.eng.dtLoads, segLoads := s.core.eng.segLoads },
    x := { sm.core.x with flow := .next } } }

/-- Both words of a paired clause have executed: the A-class word's destination joins its partner's
effects, and the clause ends as the M-class word did (R12, R104); the wait of a `yield` for its REL goes on (R138). -/
def State.joinPair (a : Instr) (sm sa : State) : State :=
  let s1 := { sa with core := { sa.core with
    r := mergeRegs a sm.core.r sa.core.r
    eng := { sa.core.eng with dtLoads := sm.core.eng.dtLoads, segLoads := sm.core.eng.segLoads } } }
  let s2 := match sm.core.x.flow with
    | .leave l => s1.performLeave l
    | f => s1.applyFlow f
  s2.onX (fun x => { x with inPair := false, wait := if sm.core.yields sm.dev.now then sm.core.x.wait else x.wait })

/-- A paired clause issues: the M-class word, then the A-class word on the registers from before it. A
trap of either leaves nothing of the clause, and word0's comes first; a wait of either holds the clause, but a check that
word1 fails is taken while word0 waits at issue, its own checks being past (R115). -/
def State.issuePair (s : State) (m : Instr) (w1 : IWord) : Result :=
  match exec m (s.onX (fun x => { x with inPair := true, flow := .next })) with
  | .fault e => .fault e
  | .refused e => .refused e
  | .next sm =>
    match sm.core.x.flow with
    | .trap code val val2 => .next (s.enterTrap code val val2 s.core.x.pc)
    | f =>
      match decodeWord1 w1 with
      | none => exec (.illegalWordIssue (.illegalWord w1)) s
      | some a =>
        match exec a (sm.forWord1 s) with
        | .fault e => .fault e
        | .refused e => .refused e
        | .next sa =>
          match sa.core.x.flow, f with
          | .trap code val val2, _ => .next (s.enterTrap code val val2 s.core.x.pc)
          | _, .stay => .next (sm.onX (fun x => { x with inPair := false })).parkAtOnce
          | .stay, _ => .next (s.onX (fun x => { x with wait := sa.core.x.wait }))
          | _, _ => .next (sm.joinPair a sa)

/-- A paired clause whose words decode, or whose word1 does not: word0's wait on a register that is pending comes before any
trap of word1, since word0 may trap yet (R104, R115). -/
def State.issueWords (s : State) (m : Instr) (w1 : IWord) : Result :=
  if s.failsCheck m then s.issuePair m w1
  else
    match s.core.pendingFor m with
    | some r => .next (s.stayPending r)
    | none =>
      match decodeWord1 w1 with
      | none => (s.loadsUsed m).issuePair m w1
      | some a =>
        match (if s.failsCheck a then none else s.core.pendingFor a) with
        | some r => .next (s.stayPending r)
        | none => ((s.loadsUsed m).loadsUsed a).issuePair m w1

/-- A clause, or one word of it, issues at the acting core (R103, R115). Where the program counter names word1 of a clause
whose S is 0, by an `xepc` or `uepc` that software wrote, the spec is silent: word1 issues alone, as word1 of a fragment
clause (log entry 81, DESIGN CHOICE). -/
def State.issueClause (s : State) (w : Nat) : Result :=
  let w0 := clauseWord0 w
  let w1 := clauseWord1 w
  if s.core.x.pc.getLsbD 2 then s.issueWord w1 (decodeWord1 w1)
  else if w0.getLsbD 31 then s.issueWord w0 (decodeWord0 w0)
  else if pairIllegal w0 w1 then exec (.illegalWordIssue (.illegalClause w0 w1)) s
  else
    match decodeWord0 w0 with
    | none => exec (.illegalWordIssue (.illegalWord w0)) s
    | some m => s.issueWords m w1

/-! ### Between clauses (R263) -/

/-- Whether the acting core's task stands at a group boundary whose REL has still to begin (R40), or a `yield` in either mode
waits for it (R138); a handler runs. -/
def Core.beforeRel (c : Core) (now : Nat) : Bool :=
  c.yields now ||
    (decide (c.x.mode = .user) && !c.x.inHandler && (match c.x.ctx with | some x => decide (now < x.rel) | none => false))

/-- The acting core's next issue when it runs alone: what is taken first, the wait for a group's REL, the
reserved frames (R257), or the clause. -/
def State.issueAlone (s : State) : Result :=
  match s.boundary with
  | some i => exec i s
  | none =>
    if s.core.beforeRel s.dev.now then .next s
    else
    let a := s.clause.toNat
    if s.core.x.mode = .user ∧ reserved s.core .im a 8 then
      exec (.illegalWordIssue (.privilegedFetch s.clause)) s
    else
      let w := s.core.clauseAt a
      (({ s with core := s.core.capture a w } : State).onX (fun x => { x with fresh := false })).issueClause w

/-! ### Gangs (R42, R43) -/

/-- Whether an issue left its core waiting at the same word. -/
def stalled (before after : State) : Bool :=
  after.core.x.wait.isSome && decide (after.core.x.pc = before.core.x.pc)

/-- One member issues the leader's clause on its own state. -/
def State.issueAs (s : State) (k w : Nat) : Result :=
  let sk := s.actAs k
  ({ sk with core := sk.core.capture sk.clause.toNat w } : State).issueClause w

/-- The members that cannot issue the clause by themselves, each with what its attempt does (a splice that is handled, a
wait that goes on); a member that could issue is in no wait. -/
def blockedMembers (w : Nat) : List Nat → State → State × Bool
  | [], s => (s, false)
  | k :: ks, s =>
    match s.issueAs k w with
    | .next t =>
      if stalled (s.actAs k) t then ((blockedMembers w ks t).1, true)
      else blockedMembers w ks (if (s.coreAt k).x.wait.isSome then s.onCore k (fun c => { c with x := { c.x with wait := none } }) else s)
    | _ => blockedMembers w ks s

/-- Every member executes the leader's clause on its own state, in order of core number; a member that the
ones before it leave waiting stalls the gang. -/
def gangIssue (w : Nat) (s0 : State) : List Nat → State → Result
  | [], s => .next s
  | k :: ks, s =>
    match s.issueAs k w with
    | .fault e => .fault e
    | .refused e => .refused e
    | .next t =>
      if stalled (s.actAs k) t then .next ((s0.actAs k).onX (fun x => { x with wait := t.core.x.wait }))
      else gangIssue w s0 ks t

/-- How far a core's program counter went. -/
def pcMoved (before after : State) (k : Nat) : BitVec 16 := (after.coreAt k).x.pc - (before.coreAt k).x.pc

/-- The M-class word of a clause, or the word of a fragment clause, that a core issues next. -/
def wordOf (w : Nat) (pc : BitVec 16) : Option Instr :=
  if pc.getLsbD 2 then decodeWord1 (clauseWord1 w) else decodeWord0 (clauseWord0 w)

/-- Whether a core takes the branch that it issues next. -/
def State.branches (s : State) (k w : Nat) : Bool :=
  match wordOf w (s.coreAt k).x.pc with
  | some i => (s.actAs k).takes i
  | none => false

/-- The members that took another outcome than the one that leads now leave the gang (R43, R134): a branch that the one
takes and the other does not, or another clause to go on at. -/
def State.splitApart (s before : State) (w : Nat) (members : List Nat) : State :=
  match members.filter (fun k => decide ((s.coreAt k).gang ≠ [])) with
  | [] => s
  | lead :: rest =>
    rest.foldl (fun t k =>
      if before.branches k w = before.branches lead w ∧
          (pcMoved before s k = pcMoved before s lead ∨ (s.coreAt k).x.pc = (s.coreAt lead).x.pc) then t
      else t.leaveGangOf k (t.coreAt k).gang) s

/-- Whether a core's next word is word1 of a fragment clause. -/
def State.atWord1 (s : State) (k : Nat) : Bool := (s.coreAt k).x.pc.getLsbD 2

/-- The leader's clause at every member of a gang. -/
def State.gangClause (s : State) (members : List Nat) : Result :=
  let leader := members.headD s.core.id
  let sl := s.actAs leader
  if sl.core.x.mode = .user ∧ reserved sl.core .im sl.clause.toNat 8 then sl.issueAlone
  else
    let w := sl.core.clauseAt sl.clause.toNat
    match blockedMembers w members s with
    | (t, true) => .next (t.actAs leader)
    | (_, false) =>
      match gangIssue w s members s with
      | .next t => .next ((t.splitApart s w members).actAs leader)
      | r => r

/-- The next issue of a gang: something a member takes first, the rest of a member's own clause, or the leader's
clause at every member. -/
def State.issueGang (s : State) : Result :=
  let members := s.core.gang
  match members.find? (fun k => (s.actAs k).boundary.isSome) with
  | some k => (s.actAs k).issueAlone
  | none =>
    match members.find? s.atWord1 with
    | some k => if members.all s.atWord1 then s.gangClause members else (s.actAs k).issueAlone
    | none => s.gangClause members

/-- Whether the core's clock runs and it has something to issue. -/
def State.canIssue (s : State) (c : Core) : Bool :=
  c.x.stopped.isNone && decide (c.x.run = .running) && !s.clockGated c.id

/-- An issue takes core cycles, an unknown number beyond one, and advances the free values. -/
def State.tickCore (s : State) : State :=
  { s with
    core := { s.core with x := { s.core.x with cycle := s.core.x.cycle + BitVec.ofNat 64 s.elapsed } }
    dev := { s.dev with tick := s.dev.tick + 1 } }

/-- The other members of a gang count the same core cycles as its leader (R158). -/
def State.tickMembers (s : State) : State :=
  (s.core.gang.filter (fun k => decide (k ≠ s.core.id))).foldl (fun t k =>
    t.onCore k (fun c => { c with x := { c.x with cycle := c.x.cycle + BitVec.ofNat 64 s.elapsed } })) s

/-- Whether an idle core leaves off waiting for a system event (R263). -/
def State.wakes (s : State) : Bool := decide (s.core.x.run = .idle) && decide (s.boundary = some .systemEventTake)

/-- The acting core issues: alone; with its gang if it leads one that has formed and can issue; a member
that does not lead has its fetch gated off. A core with nothing to issue leaves the machine as it is. -/
def State.issue (s : State) : Result :=
  if s.wakes then exec .systemEventTake s.tickCore
  else if !s.canIssue s.core then .next s
  else if s.core.gang = [] ∨ s.core.fuse.isSome then s.tickCore.issueAlone
  else if s.core.gang.headD s.core.id ≠ s.core.id then .next s
  else if s.core.gang.all (fun k => s.canIssue (s.coreAt k) && (s.coreAt k).fuse.isNone) then s.tickMembers.tickCore.issueGang
  else .next s

/-- A step of another agent advances the free values. -/
def State.tickDev (s : State) : State := { s with dev := { s.dev with tick := s.dev.tick + 1 } }

/-- Whether an event is a power-on or a loss of power. -/
def isPower : Act → Bool
  | .event (.powerOn _ _ _) | .event .powerLoss => true
  | _ => false

/-- Whether an entry may come once the instant is ending: a reclaim of that end, the boundary, or power (R270, R335). -/
def endsInstant : Act → Bool
  | .event (.tcbReclaim _) | .event .instantBoundary => true
  | a => isPower a

/-- What is next in a machine that runs: the head of the agenda, or else an issue of the acting core. An entry that
names no core or no step of the agenda's passes without effect, and so does one that comes too late in an instant. -/
def State.act (s : State) : Result :=
  match s.agenda with
  | [] => if s.dev.ending then .next s else s.issue
  | a :: rest =>
    let s1 : State := { s with agenda := rest }
    if s.dev.ending && !endsInstant a then .next s1
    else
      match a with
      | .issue k => if k < coreCount then (s1.actAs k).issue else .next s1
      | .event i => if fromAgenda i then exec i s1.tickDev else .next s1

/-- One step. Without power, or halted in bring-up, only a change of its power happens (R335, R336). -/
def stepState (s : State) : Result :=
  if s.agenda.head?.any isPower then s.act
  else if !s.dev.out.powered then .fault .noPower
  else if s.dev.out.bust ≠ 7 then .fault .halted
  else s.act

/-- The bytes of an instruction stored at an address of the acting core's IM. -/
def State.storeIm (s : State) (a : Nat) (w : IWord) : State :=
  s.onMem (fun m => { m with im := m.im.writeN a (wordBytes w) })

/-- The acting core set to issue the word at its program counter next: word0 of a fragment clause, or
word1; the frame that the firmware has written is resident (R128; log entry 4). -/
def State.placeWord (s : State) (w : IWord) : State :=
  let w' := if s.core.x.pc.getLsbD 2 then w &&& 0x7FFFFFFF else w ||| 0x80000000
  let s1 := (s.storeIm s.core.x.pc.toNat w').onMem (fun m => m.setFrame (s.core.x.pc.toNat / 4096) (.resident none))
  { s1 with core := { s1.core with x := { s1.core.x with run := .running } }, agenda := [] }

end Sys2Proof.Machine
end

