-- ==== Sys2Proof/Safety.lean ====
section
/-! DEFINITION. What counts as a safe run, and the conditions on a state that the statements speak of. -/

namespace Sys2Proof.Machine

/-- A number of steps that neither fault nor are refused. -/
def State.SafeFor (s : State) (n : Nat) : Prop := ∃ t, Sys2Proof.core.run n s = .next t

/-- Every logical core stands under its own number (R2). -/
def State.Numbered (s : State) : Prop := ∀ k, (s.coreAt k).id = k

/-- The history of timed memory (R68): the versions stand newest first, and none is of an instant to come. -/
def State.History (s : State) : Prop :=
  s.dev.timed.versions.Pairwise (fun a b => b.1 ≤ a.1) ∧ ∀ v ∈ s.dev.timed.versions, v.1 ≤ s.dev.now

/-! ### What an instruction leaves -/

/-- The registers that the end of the word now issuing advances: those of the loop bodies that end there. A paired
clause ends later, and word0 of a fragment clause ends no body (R105, R130). -/
def State.endRegs (s : State) : List RegNo :=
  if s.core.x.inPair || !s.core.x.pc.getLsbD 2 then [] else s.core.loopRegs

/-- The engines without the strides that their accesses owe, and without their late loads. -/
def Engines.unowed (e : Engines) : Engines :=
  { e with
    remote := e.remote.map (fun m => { m with stride := 0 })
    pend := e.pend.map (fun p => { p with atomic := p.atomic.map (fun a => { a with stride := 0 }) })
    loads := [] }

/-- Only the registers and the execution state of the acting core may differ: memories, status words, CSRs, the matrix
unit, the NI, the other cores, the device and the agenda are as they were; and so are the engines, but for a stride that
an outstanding access owes to its register, and a late load that it settles (R130, R147). -/
def State.OnlyRegs (s t : State) : Prop :=
  t = { s with core := { s.core with r := t.core.r, x := t.core.x, eng := t.core.eng } } ∧
    t.core.eng.unowed = s.core.eng.unowed ∧ t.core.eng.loads.Sublist s.core.eng.loads

/-- No access is outstanding whose value a register is still to take. -/
def Core.Landed (c : Core) (r : RegNo) : Prop :=
  c.eng.remote.any (fun m => c.pends m r) = false ∧ c.eng.pend.any (fun p => c.owes p r) = false ∧
    c.eng.loads.any (fun l => c.mayChange l r) = false

/-- The execution state but for where the core stands: the program counter, the loop levels, the wait, the recorded
end of a paired clause, and the marks of R36. -/
def ExecState.SameButPlace (x y : ExecState) : Prop :=
  y = { x with pc := y.pc, loops := y.loops, wait := y.wait, flow := y.flow, written := y.written, writtenHigh := y.writtenHigh }

/-- The destination of a scalar integer instruction, majors 0x00 to 0x09 (R117). -/
def scalarDest : Instr → Option RegNo
  | .add d _ _ _ => some d
  | .sub d _ _ _ => some d
  | .and d _ _ _ => some d
  | .or d _ _ _ => some d
  | .xor d _ _ _ => some d
  | .andn d _ _ _ => some d
  | .shl d _ _ _ => some d
  | .shr d _ _ _ => some d
  | .sra d _ _ _ => some d
  | .rol d _ _ _ => some d
  | .slt d _ _ _ => some d
  | .sltn d _ _ _ => some d
  | .min d _ _ _ => some d
  | .max d _ _ _ => some d
  | .minn d _ _ _ => some d
  | .maxn d _ _ _ => some d
  | .sel d _ _ _ => some d
  | .mul d _ _ _ => some d
  | .mulh d _ _ _ => some d
  | .mulhn d _ _ _ => some d
  | .div d _ _ _ => some d
  | .divn d _ _ _ => some d
  | .rem d _ _ _ => some d
  | .remn d _ _ _ => some d
  | .sext d _ _ _ => some d
  | .zext d _ _ _ => some d
  | .bext d _ _ _ => some d
  | .bins d _ _ _ => some d
  | .addi d _ _ => some d
  | .andi d _ _ => some d
  | .ori d _ _ => some d
  | .xori d _ _ => some d
  | .shli d _ _ => some d
  | .shri d _ _ => some d
  | .srai d _ _ => some d
  | .roli d _ _ => some d
  | .clz d _ _ => some d
  | .ctz d _ _ => some d
  | .pop d _ _ => some d
  | .brev d _ _ => some d
  | .movi d _ => some d
  | .movs d _ => some d
  | _ => none

/-- The vector register that a vector instruction writes, majors 0x10 to 0x17 (R176 to R189). -/
def vectorDest : Instr → Option RegNo
  | .vadd d _ _ _ _ => some d
  | .vsub d _ _ _ _ => some d
  | .vmul d _ _ _ _ => some d
  | .vmulh d _ _ _ _ => some d
  | .vmulhn d _ _ _ _ => some d
  | .vmin d _ _ _ _ => some d
  | .vmax d _ _ _ _ => some d
  | .vminn d _ _ _ _ => some d
  | .vmaxn d _ _ _ _ => some d
  | .vand d _ _ _ _ => some d
  | .vor d _ _ _ _ => some d
  | .vxor d _ _ _ _ => some d
  | .vandn d _ _ _ _ => some d
  | .vshl d _ _ _ _ => some d
  | .vshr d _ _ _ _ => some d
  | .vsra d _ _ _ _ => some d
  | .vadds d _ _ _ _ => some d
  | .vaddsn d _ _ _ _ => some d
  | .vsubs d _ _ _ _ => some d
  | .vsubsn d _ _ _ _ => some d
  | .vavg d _ _ _ _ => some d
  | .vavgn d _ _ _ _ => some d
  | .vfadd d _ _ _ _ => some d
  | .vfsub d _ _ _ _ => some d
  | .vfmul d _ _ _ _ => some d
  | .vfmin d _ _ _ _ => some d
  | .vfmax d _ _ _ _ => some d
  | .vfma d _ _ _ _ => some d
  | .vfms d _ _ _ _ => some d
  | .vfnma d _ _ _ _ => some d
  | .vfnms d _ _ _ _ => some d
  | .vmac d _ _ _ _ => some d
  | .vmacn d _ _ _ _ => some d
  | .vshuf d _ _ _ _ => some d
  | .vins d _ _ _ _ => some d
  | .vzip d _ _ _ _ => some d
  | .vunzip d _ _ _ _ => some d
  | .vrot d _ _ _ _ => some d
  | .vsel d _ _ _ _ => some d
  | .vdot8 d _ _ _ _ => some d
  | .vdot8n d _ _ _ _ => some d
  | .vabs d _ _ _ => some d
  | .vneg d _ _ _ => some d
  | .vfabs d _ _ _ => some d
  | .vfneg d _ _ _ => some d
  | .vfrcp d _ _ _ => some d
  | .vfrsq d _ _ _ => some d
  | .vsplat d _ _ _ => some d
  | .vmov d _ _ _ => some d
  | .vredadd d _ _ _ => some d
  | .vfredadd d _ _ _ => some d
  | .vredmin d _ _ _ => some d
  | .vredmax d _ _ _ => some d
  | .vredminn d _ _ _ => some d
  | .vredmaxn d _ _ _ => some d
  | .vpop d _ _ _ => some d
  | .vclz d _ _ _ => some d
  | .vctz d _ _ _ => some d
  | .vcvt d _ _ _ _ _ => some d
  | .vdec d _ _ _ _ => some d
  | .venc d _ _ _ _ _ => some d
  | .segev d _ _ => some d
  | _ => none

/-- The predicate that a compare writes (R177). -/
def compareDest : Instr → Option (BitVec 3)
  | .vcmpeq d _ _ _ _ => some d
  | .vcmpne d _ _ _ _ => some d
  | .vcmplt d _ _ _ _ => some d
  | .vcmple d _ _ _ _ => some d
  | .vcmpltn d _ _ _ _ => some d
  | .vcmplen d _ _ _ _ => some d
  | .vfcmpeq d _ _ _ _ => some d
  | .vfcmplt d _ _ _ _ => some d
  | .vfcmple d _ _ _ _ => some d
  | .vfcmpun d _ _ _ _ => some d
  | _ => none

/-- The stream ports that an instruction names let it issue: none is misused, none has run dry (R59, R167). -/
def State.PortsReady (s : State) (srcs dsts : List RegNo) (old : Bool) : Prop :=
  s.core.portTrap srcs dsts old = none ∧ s.core.portEmpty srcs = none

/-- The machine after a vector instruction with result `x` and flags `fl`: units of its read ports taken, the
destination written under the predicate, the flags raised, the next word next (R98, R175). -/
def State.vectorNext (s : State) (srcs : List RegNo) (d : RegNo) (p : BitVec 16) (x : VReg) (fl : FpFlags) : State :=
  (((s.takeUnits srcs).setV d p x).raise fl).finish .next

/-- A result at either width of a scalar instruction: the 32-bit one sign-extended (R117). -/
def atWidth (w : BitVec 1) (x : Word) (y : BitVec 32) : Word := if w = 1 then y.signExtend 64 else x

/-! ### Loads and stores of each width -/

/-- The scalar load of `n` bytes; `ldd` has no extension bit (R142). -/
def loadOf (n : Nat) (t b : RegNo) (i : BitVec 2) (e : BitVec 1) (o : BitVec 10) : Instr :=
  match n with
  | 1 => .ldb t b i e o
  | 2 => .ldh t b i e o
  | 4 => .ldw t b i e o
  | _ => .ldd t b i o

/-- The scalar store of `n` bytes (R144). -/
def storeOf (n : Nat) (t b : RegNo) (i : BitVec 2) (e : BitVec 1) (o : BitVec 10) : Instr :=
  match n with
  | 1 => .stb t b i e o
  | 2 => .sth t b i e o
  | 4 => .stw t b i e o
  | _ => .std t b i e o

/-- The 32 and the 64 bit form of each integer atomic, with what it makes of the old value `x`, the operand `y` and
the comparand `c` (R150). -/
def atomicForms (t b s : RegNo) (i : BitVec 2) (w : BitVec 1) :
    List (Instr × (∀ n : Nat, BitVec n → BitVec n → BitVec n → BitVec n)) :=
  [(.aadd t b s i w, fun _ x y _ => x + y), (.aand t b s i w, fun _ x y _ => x &&& y),
   (.aor t b s i w, fun _ x y _ => x ||| y), (.axor t b s i w, fun _ x y _ => x ^^^ y),
   (.amin t b s i w, fun _ x y _ => if y.toInt < x.toInt then y else x),
   (.amax t b s i w, fun _ x y _ => if x.toInt < y.toInt then y else x),
   (.aminn t b s i w, fun _ x y _ => if y.toNat < x.toNat then y else x),
   (.amaxn t b s i w, fun _ x y _ => if x.toNat < y.toNat then y else x),
   (.aswap t b s i w, fun _ _ y _ => y), (.acas t b s i w, fun _ x y c => if x = c then y else x)]

/-- `m'` is `m` with bytes written from an offset on, every other byte reading as before. -/
def Memory.Written (m m' : Memory) (off : Nat) (bs : List Byte) : Prop :=
  (∀ k (h : k < bs.length), m'.read (off + k) = bs[k]) ∧ ∀ a, a < off ∨ off + bs.length ≤ a → m'.read a = m.read a

/-- Both memories of a core are in canonical form. -/
def CoreMem.Canonical (m : CoreMem) : Prop := m.im.wf = true ∧ m.tcm.wf = true

/-- What every step keeps: every core of the table stands under its own number; every memory of the machine, of its
stop images and of its history of instants is in canonical form; the history stands newest first with nothing of an
instant to come; the instant counter holds 56 bits. -/
structure State.Sound (s : State) : Prop where
  listed : ∀ e ∈ s.cores, e.2.id = e.1
  acting : s.core.mem.Canonical
  others : ∀ e ∈ s.cores, e.2.mem.Canonical
  spads : ∀ e ∈ s.dev.spads, e.2.wf = true
  versions : ∀ v ∈ s.dev.timed.versions, v.2.wf = true
  tables : s.dev.trans.ptab.wf = true
  images : ∀ r ∈ s.dev.img.images, r.core.mem.Canonical
  history : s.History
  clock : s.dev.now < 2 ^ 56

/-- The acting core's next issue is a clause of its own: nothing stands on the agenda, the machine has power and is
past bring-up, the instant is not ending, the core's clock runs and it is no member of a gang, nothing is to be taken first, its group's REL has
begun, and the frame may be fetched from (R40, R257, R263). -/
structure State.Ready (s : State) : Prop where
  agenda : s.agenda = []
  powered : s.dev.out.powered = true
  up : s.dev.out.bust = 7
  within : s.dev.ending = false
  running : s.core.x.run = .running
  clock : s.core.x.stopped = none ∧ s.clockGated s.core.id = false
  alone : s.core.gang = []
  first : s.boundary = none
  begun : s.core.beforeRel s.dev.now = false
  allowed : s.core.x.mode = .user → reserved s.core .im s.clause.toNat 8 = false

/-- The clause at the acting core's program counter. -/
def State.nextClauseWord (s : State) : Nat := s.core.clauseAt s.clause.toNat

/-- The machine as the clause at the program counter issues: the issue counted, the clause captured by the loops whose
first pass holds it (R132), and a resumed context no longer fresh. -/
def State.issuing (s : State) : State :=
  let u := s.tickCore
  ({ u with core := u.core.capture s.clause.toNat s.nextClauseWord } : State).onX (fun x => { x with fresh := false })

end Sys2Proof.Machine
end

