-- ==== Sys2Proof/Certificates/Slice0/Obligations.lean ====
section
/-! DEFINITION. The statements for the provers. -/

open Sys2Proof Sys2Proof.Machine

/-! ### Scalar integer instructions (majors 0x00 to 0x09) -/

/-- R118: each ALU instruction's code, and its result, written to its destination register, and the next word
follows.
R119, R120: the majors and the results of the immediate forms. -/
def Obligations.ScalarResults : Prop :=
  (∀ (s : State) (d a b : RegNo) (w : BitVec 1) (p : BitVec 3),
    let x := s.g a
    let y := s.g b
    let u := x.setWidth 32
    let v := y.setWidth 32
    let n := y.toNat % 64
    let k := y.toNat % 32
    let gives (i : Instr) (r : Word) : Prop := exec i s = .next ((s.setG d r).finish .next)
    gives (.add d a b w) (atWidth w (x + y) (u + v)) ∧
    gives (.sub d a b w) (atWidth w (x - y) (u - v)) ∧
    gives (.and d a b w) (atWidth w (x &&& y) (u &&& v)) ∧
    gives (.or d a b w) (atWidth w (x ||| y) (u ||| v)) ∧
    gives (.xor d a b w) (atWidth w (x ^^^ y) (u ^^^ v)) ∧
    gives (.andn d a b w) (atWidth w (x &&& ~~~y) (u &&& ~~~v)) ∧
    gives (.shl d a b w) (atWidth w (x <<< n) (u <<< k)) ∧
    gives (.shr d a b w) (atWidth w (x >>> n) (u >>> k)) ∧
    gives (.sra d a b w) (atWidth w (x.sshiftRight n) (u.sshiftRight k)) ∧
    gives (.rol d a b w) (atWidth w (x.rotateLeft n) (u.rotateLeft k)) ∧
    gives (.slt d a b w) (atWidth w (if x.toInt < y.toInt then 1 else 0) (if u.toInt < v.toInt then 1 else 0)) ∧
    gives (.sltn d a b w) (atWidth w (if x.toNat < y.toNat then 1 else 0) (if u.toNat < v.toNat then 1 else 0)) ∧
    gives (.min d a b w) (atWidth w (if y.toInt < x.toInt then y else x) (if v.toInt < u.toInt then v else u)) ∧
    gives (.max d a b w) (atWidth w (if x.toInt < y.toInt then y else x) (if u.toInt < v.toInt then v else u)) ∧
    gives (.minn d a b w) (atWidth w (if y.toNat < x.toNat then y else x) (if v.toNat < u.toNat then v else u)) ∧
    gives (.maxn d a b w) (atWidth w (if x.toNat < y.toNat then y else x) (if u.toNat < v.toNat then v else u)) ∧
    gives (.sel d a b p) (if (s.p p).getLsbD 0 then x else y) ∧
    (∀ e ∈ [(Instr.add d a b w, 0), (.sub d a b w, 1), (.and d a b w, 2), (.or d a b w, 3), (.xor d a b w, 4), (.andn d a b w, 5),
      (.shl d a b w, 6), (.shr d a b w, 7), (.sra d a b w, 8), (.rol d a b w, 9), (.slt d a b w, 10), (.sltn d a b w, 11),
      (.min d a b w, 12), (.max d a b w, 13), (.minn d a b w, 14), (.maxn d a b w, 15), (.sel d a b p, 16)],
      (encode e.1).extractLsb' 25 6 = 0x00 ∧ (encode e.1).extractLsb' 4 6 = BitVec.ofNat 6 e.2)) ∧
  (∀ (s : State) (d a : RegNo) (i : BitVec 15) (n : BitVec 6) (j : BitVec 20),
    let x := s.g a
    let m := i.signExtend 64
    let gives (i : Instr) (r : Word) : Prop := exec i s = .next ((s.setG d r).finish .next)
    gives (.addi d a i) (x + m) ∧
    gives (.andi d a i) (x &&& m) ∧
    gives (.ori d a i) (x ||| m) ∧
    gives (.xori d a i) (x ^^^ m) ∧
    gives (.shli d a n) (x <<< n.toNat) ∧
    gives (.shri d a n) (x >>> n.toNat) ∧
    gives (.srai d a n) (x.sshiftRight n.toNat) ∧
    gives (.roli d a n) (x.rotateLeft n.toNat) ∧
    gives (.movi d j) (j.signExtend 64) ∧
    gives (.movs d j) ((s.g d <<< 20) ||| j.setWidth 64) ∧
    (∀ e ∈ [(Instr.addi d a i, 0x01), (.andi d a i, 0x02), (.ori d a i, 0x03), (.xori d a i, 0x04), (.shli d a n, 0x05), (.shri d a n, 0x05),
      (.srai d a n, 0x05), (.roli d a n, 0x05), (.movi d j, 0x06), (.movs d j, 0x07)], (encode e.1).extractLsb' 25 6 = BitVec.ofNat 6 e.2))

/-- R121: each instruction's code; products, quotients truncated toward zero, remainders with the sign of the dividend, and the results of a
division by zero. -/
def Obligations.MulDivResults : Prop :=
  ∀ (s : State) (d a b : RegNo) (w : BitVec 1),
    let x := s.g a
    let y := s.g b
    let u := x.setWidth 32
    let v := y.setWidth 32
    let gives (i : Instr) (r : Word) : Prop := exec i s = .next ((s.setG d r).finish .next)
    gives (.mul d a b w) (atWidth w (BitVec.ofInt 64 (x.toInt * y.toInt)) (BitVec.ofInt 32 (u.toInt * v.toInt))) ∧
    gives (.mulh d a b w)
      (atWidth w (BitVec.ofInt 64 (x.toInt * y.toInt / 2 ^ 64)) (BitVec.ofInt 32 (u.toInt * v.toInt / 2 ^ 32))) ∧
    gives (.mulhn d a b w)
      (atWidth w (BitVec.ofNat 64 (x.toNat * y.toNat / 2 ^ 64)) (BitVec.ofNat 32 (u.toNat * v.toNat / 2 ^ 32))) ∧
    gives (.div d a b w)
      (atWidth w (if y = 0 then -1 else BitVec.ofInt 64 (x.toInt.tdiv y.toInt))
        (if v = 0 then -1 else BitVec.ofInt 32 (u.toInt.tdiv v.toInt))) ∧
    gives (.divn d a b w)
      (atWidth w (if y = 0 then -1 else BitVec.ofNat 64 (x.toNat / y.toNat))
        (if v = 0 then -1 else BitVec.ofNat 32 (u.toNat / v.toNat))) ∧
    gives (.rem d a b w)
      (atWidth w (if y = 0 then x else BitVec.ofInt 64 (x.toInt.tmod y.toInt))
        (if v = 0 then u else BitVec.ofInt 32 (u.toInt.tmod v.toInt))) ∧
    gives (.remn d a b w)
      (atWidth w (if y = 0 then x else BitVec.ofNat 64 (x.toNat % y.toNat))
        (if v = 0 then u else BitVec.ofNat 32 (u.toNat % v.toNat))) ∧
    (∀ e ∈ [(Instr.mul d a b w, 0), (.mulh d a b w, 1), (.mulhn d a b w, 2), (.div d a b w, 3), (.divn d a b w, 4), (.rem d a b w, 5),
      (.remn d a b w, 6)], (encode e.1).extractLsb' 25 6 = 0x08 ∧ (encode e.1).extractLsb' 4 6 = BitVec.ofNat 6 e.2)

/-- R122, R123: each instruction's code; counts of bits, reversal and fields, bit by bit. -/
def Obligations.BitFieldResults : Prop :=
  ∀ (s : State) (d a b : RegNo) (w : BitVec 1),
    let x := s.g a
    let y := s.g b
    let u := x.setWidth 32
    let old := s.g d
    let len (n : Nat) : Nat := if y.toNat / 256 % n = 0 then n else y.toNat / 256 % n
    let pos (n : Nat) : Nat := y.toNat % n
    let gives (i : Instr) (r : Word) : Prop := exec i s = .next ((s.setG d r).finish .next)
    gives (.clz d a w) (atWidth w (if x = 0 then 64 else BitVec.ofNat 64 (63 - Nat.log2 x.toNat))
      (if u = 0 then 32 else BitVec.ofNat 32 (31 - Nat.log2 u.toNat))) ∧
    (∃ m k : Nat, gives (.ctz d a w) (atWidth w (BitVec.ofNat 64 m) (BitVec.ofNat 32 k)) ∧
      m ≤ 64 ∧ (∀ i < m, x.getLsbD i = false) ∧ (m < 64 → x.getLsbD m = true) ∧
      k ≤ 32 ∧ (∀ i < k, u.getLsbD i = false) ∧ (k < 32 → u.getLsbD k = true)) ∧
    gives (.pop d a w) (atWidth w (BitVec.ofNat 64 ((List.range 64).countP (fun i => x.getLsbD i)))
      (BitVec.ofNat 32 ((List.range 32).countP (fun i => u.getLsbD i)))) ∧
    gives (.brev d a w) (atWidth w x.reverse u.reverse) ∧
    (∃ (r : Word) (q : BitVec 32), gives (.sext d a b w) (atWidth w r q) ∧
      (∀ i < 64, r.getLsbD i = x.getLsbD (min i (len 64 - 1))) ∧ (∀ i < 32, q.getLsbD i = u.getLsbD (min i (len 32 - 1)))) ∧
    (∃ (r : Word) (q : BitVec 32), gives (.zext d a b w) (atWidth w r q) ∧
      (∀ i < 64, r.getLsbD i = (decide (i < len 64) && x.getLsbD i)) ∧
      (∀ i < 32, q.getLsbD i = (decide (i < len 32) && u.getLsbD i))) ∧
    (∃ (r : Word) (q : BitVec 32), gives (.bext d a b w) (atWidth w r q) ∧
      (∀ i < 64, r.getLsbD i = (decide (i < len 64) && x.getLsbD (pos 64 + i))) ∧
      (∀ i < 32, q.getLsbD i = (decide (i < len 32) && u.getLsbD (pos 32 + i)))) ∧
    (∃ (r : Word) (q : BitVec 32), gives (.bins d a b w) (atWidth w r q) ∧
      (∀ i < 64, r.getLsbD i = if pos 64 ≤ i ∧ i < pos 64 + len 64 then x.getLsbD (i - pos 64) else old.getLsbD i) ∧
      (∀ i < 32, q.getLsbD i = if pos 32 ≤ i ∧ i < pos 32 + len 32 then u.getLsbD (i - pos 32) else old.getLsbD i)) ∧
    (∀ e ∈ [(Instr.clz d a w, 0), (.ctz d a w, 1), (.pop d a w, 2), (.brev d a w, 3), (.sext d a b w, 4), (.zext d a b w, 5), (.bext d a b w, 6),
      (.bins d a b w, 7)], (encode e.1).extractLsb' 25 6 = 0x09 ∧ (encode e.1).extractLsb' 4 6 = BitVec.ofNat 6 e.2)

/-- R14, R117: what a scalar integer instruction leaves unchanged: everything but its destination, the registers that
a loop body's end advances (the strides owed to them, where they are pending), and the place where the core stands. g0
reads zero after it too. -/
def Obligations.ScalarFrame : Prop :=
  ∀ (i : Instr) (s t : State) (d : RegNo), scalarDest i = some d → exec i s = .next t →
    s.OnlyRegs t ∧ s.core.x.SameButPlace t.core.x ∧
    t.core.r.v = s.core.r.v ∧ t.core.r.p = s.core.r.p ∧ t.core.r.q = s.core.r.q ∧ t.core.r.bank = s.core.r.bank ∧
    (∀ r, r ≠ d → r ∉ s.endRegs → t.g r = s.g r) ∧ t.g 0 = 0 ∧
    ((∀ r ∈ s.endRegs, s.core.Landed r) → t.core.eng = s.core.eng)

/-- R14, R106, R130: a register written reads back its value and g0 discards it; the word's end writes no register but
those that a loop body's end advances; a stride is added at once, or, to a register that is pending, to the value that
comes.
R104 to R107, R130, R132: where a word that ends without a trap leaves the core. -/
def Obligations.RegistersAndEnd : Prop :=
  (∀ (s : State) (d r : RegNo) (v : Word),
    (s.core.Landed r → s.stride r v = s.setG r (s.g r + v)) ∧
    (∀ m ∈ s.core.eng.remote, s.core.pends m r = true →
      (s.stride r v).g r = s.g r ∧ { m with stride := m.stride + v } ∈ (s.stride r v).core.eng.remote) ∧
    (d ≠ 0 → (s.setG d v).g d = v) ∧ (r ≠ d → (s.setG d v).g r = s.g r) ∧ s.setG 0 v = s ∧ s.g 0 = 0 ∧
    (r ∉ s.endRegs → (s.finish .next).g r = s.g r) ∧ (s.finish .next).core.r.v = s.core.r.v ∧
    (s.setG d v).endRegs = s.endRegs ∧ s.OnlyRegs (s.finish .next)) ∧
  (∀ (s : State) (target : BitVec 16),
    let x := s.core.x
    (x.inPair = true → s.finish .next = s.onX (fun x => { x with flow := .next }) ∧
      s.finish (.jump target) = s.onX (fun x => { x with flow := .jump target })) ∧
    (x.inPair = false → x.pc.getLsbD 2 = false → s.finish .next = s.onX (fun x => { x with pc := x.pc + 4, wait := none })) ∧
    (x.inPair = false → x.pc.getLsbD 2 = true → (∀ l ∈ x.loops.toList, l.active = true → l.stop ≠ s.clause.toNat + 8) →
      s.finish .next = s.onX (fun x => { x with pc := s.clause + 8, wait := none })) ∧
    (x.inPair = false → s.finish (.jump target) =
      s.onX (fun x => { x with pc := target, wait := none, loops := cancelLoops x.loops target.toNat })) ∧
    (∀ l : LoopLevel, x.inPair = false → x.pc.getLsbD 2 = true → x.loops[2] = l → l.active = true →
      l.stop = s.clause.toNat + 8 → 1 < l.lc.toNat →
      let t := s.finish .next
      t.core.x.pc = BitVec.ofNat 16 l.start ∧ t.core.x.loops[2] = { l with lc := l.lc - 1, pass := l.pass + 1 } ∧
      t.core.x.loops[1] = x.loops[1] ∧ t.core.x.loops[0] = x.loops[0]))

/-! ### Vector instructions (majors 0x10 to 0x17) -/

/-- R176: each VINT instruction's result lane by lane, at every shape, written under its predicate. -/
def Obligations.VectorIntegerResults : Prop :=
  ∀ (s : State) (d a b : RegNo) (p : BitVec 3) (l : BitVec 2), s.PortsReady [a, b] [d] false →
    let w := laneBits l
    let x (i : Nat) : BitVec w := lane w (s.v a) i
    let y (i : Nat) : BitVec w := lane w (s.v b) i
    let lo : Int := -2 ^ (w - 1)
    let hi : Int := 2 ^ (w - 1) - 1
    let gives (i : Instr) (r : Nat → BitVec w) : Prop :=
      ∃ v, (∀ k < laneCount l, lane w v k = r k) ∧ exec i s = .next (s.vectorNext [a, b] d (s.p p) v 0)
    gives (.vadd d a b p l) (fun i => x i + y i) ∧
    gives (.vsub d a b p l) (fun i => x i - y i) ∧
    gives (.vmul d a b p l) (fun i => BitVec.ofInt w ((x i).toInt * (y i).toInt)) ∧
    gives (.vmulh d a b p l) (fun i => BitVec.ofInt w ((x i).toInt * (y i).toInt / 2 ^ w)) ∧
    gives (.vmulhn d a b p l) (fun i => BitVec.ofNat w ((x i).toNat * (y i).toNat / 2 ^ w)) ∧
    gives (.vmin d a b p l) (fun i => if (y i).toInt < (x i).toInt then y i else x i) ∧
    gives (.vmax d a b p l) (fun i => if (x i).toInt < (y i).toInt then y i else x i) ∧
    gives (.vminn d a b p l) (fun i => if (y i).toNat < (x i).toNat then y i else x i) ∧
    gives (.vmaxn d a b p l) (fun i => if (x i).toNat < (y i).toNat then y i else x i) ∧
    gives (.vand d a b p l) (fun i => x i &&& y i) ∧
    gives (.vor d a b p l) (fun i => x i ||| y i) ∧
    gives (.vxor d a b p l) (fun i => x i ^^^ y i) ∧
    gives (.vandn d a b p l) (fun i => x i &&& ~~~(y i)) ∧
    gives (.vshl d a b p l) (fun i => x i <<< ((y i).toNat % w)) ∧
    gives (.vshr d a b p l) (fun i => x i >>> ((y i).toNat % w)) ∧
    gives (.vsra d a b p l) (fun i => (x i).sshiftRight ((y i).toNat % w)) ∧
    gives (.vadds d a b p l) (fun i => BitVec.ofInt w (max lo (min hi ((x i).toInt + (y i).toInt)))) ∧
    gives (.vaddsn d a b p l) (fun i => BitVec.ofNat w (min (2 ^ w - 1) ((x i).toNat + (y i).toNat))) ∧
    gives (.vsubs d a b p l) (fun i => BitVec.ofInt w (max lo (min hi ((x i).toInt - (y i).toInt)))) ∧
    gives (.vsubsn d a b p l) (fun i => BitVec.ofNat w ((x i).toNat - (y i).toNat)) ∧
    gives (.vavg d a b p l) (fun i => BitVec.ofInt w (((x i).toInt + (y i).toInt + 1) / 2)) ∧
    gives (.vavgn d a b p l) (fun i => BitVec.ofNat w (((x i).toNat + (y i).toNat + 1) / 2))

/-- R176, R181, R184: the VINT, VPERM and count instructions of one source, and those with a scalar operand.
R181: the permutations of two vector registers. -/
def Obligations.VectorUnaryAndPermuteResults : Prop :=
  (∀ (s : State) (d a b : RegNo) (p : BitVec 3) (l : BitVec 2),
    let w := laneBits l
    let n := laneCount l
    let x (i : Nat) : BitVec w := lane w (s.v a) i
    let gives (srcs : List RegNo) (i : Instr) (r : Nat → BitVec w) : Prop :=
      ∃ v, (∀ k < n, lane w v k = r k) ∧ exec i s = .next (s.vectorNext srcs d (s.p p) v 0)
    (s.PortsReady [a] [d] false →
      gives [a] (.vabs d a p l) (fun i => BitVec.ofInt w ((x i).toInt.natAbs : Int)) ∧
      gives [a] (.vneg d a p l) (fun i => -(x i)) ∧
      gives [a] (.vmov d a p l) x ∧
      gives [a] (.vrot d a b p l) (fun i => x ((i + (s.g b).toNat) % n)) ∧
      gives [a] (.vpop d a p l) (fun i => BitVec.ofNat w ((List.range w).countP (fun k => (x i).getLsbD k))) ∧
      gives [a] (.vclz d a p l) (fun i => BitVec.ofNat w (if x i = 0 then w else w - 1 - Nat.log2 (x i).toNat)) ∧
      gives [a] (.vctz d a p l) (fun i => BitVec.ofNat w (((List.range w).find? (fun k => (x i).getLsbD k)).getD w))) ∧
    (s.PortsReady [] [d] false → gives [] (.vsplat d a p l) (fun _ => (s.g a).setWidth w)) ∧
    (s.PortsReady [] [d] true → gives [] (.vins d a b p l) (fun i =>
      if i = (s.g b).toNat % n then (s.g a).setWidth w else lane w (s.core.r.readV d) i)) ∧
    (s.PortsReady [a] [] false → exec (.vext d a b l) s =
      .next (((s.takeUnits [a]).setG d ((x ((s.g b).toNat % n)).signExtend 64)).finish .next))) ∧
  (∀ (s : State) (d a b : RegNo) (p : BitVec 3) (l : BitVec 2), s.PortsReady [a, b] [d] false →
    let w := laneBits l
    let n := laneCount l
    let x (i : Nat) : BitVec w := lane w (s.v a) i
    let y (i : Nat) : BitVec w := lane w (s.v b) i
    let gives (q : BitVec 16) (i : Instr) (r : Nat → BitVec w) : Prop :=
      ∃ v, (∀ k < n, lane w v k = r k) ∧ exec i s = .next (s.vectorNext [a, b] d q v 0)
    gives (s.p p) (.vshuf d a b p l) (fun i => if (y i).toNat < n then x (y i).toNat else 0) ∧
    gives (s.p p) (.vzip d a b p l) (fun i => if i % 2 = 0 then x (i / 2) else y (i / 2)) ∧
    gives (s.p p) (.vunzip d a b p l) (fun i => if i < n / 2 then x (2 * i) else y (2 * (i - n / 2))) ∧
    (∃ v, (∀ k < 16, lane 8 v k = if (s.p p).getLsbD k then lane 8 (s.v a) k else lane 8 (s.v b) k) ∧
      exec (.vsel d a b p l) s = .next (s.vectorNext [a, b] d (BitVec.allOnes 16) v 0)))

/-- R177: what a compare writes to its destination predicate, byte by byte; p0 discards it; the
codes and the shapes; a floating-point compare raises the flags
of its active lanes. -/
def Obligations.VectorCompareResults : Prop :=
  ∀ (s : State) (d : BitVec 3) (a b : RegNo) (p : BitVec 3) (l : BitVec 2), s.PortsReady [a, b] [] false →
    let w := laneBits l
    let x (i : Nat) : BitVec w := lane w (s.v a) i
    let y (i : Nat) : BitVec w := lane w (s.v b) i
    let active (i : Nat) : Bool := (s.p p).getLsbD (w / 8 * i)
    let sets (c : Nat → Bool) (q : BitVec 16) : Prop :=
      ∀ k < 16, q.getLsbD k = if active (k / (w / 8)) then c (k / (w / 8)) else (s.p d).getLsbD k
    let gives (i : Instr) (c : Nat → Bool) : Prop :=
      ∃ q, sets c q ∧ exec i s = .next (((s.takeUnits [a, b]).setP d q).finish .next)
    let u (i : Nat) : Fp := fpDecode (laneFmt l) (x i).toNat
    let v (i : Nat) : Fp := fpDecode (laneFmt l) (y i).toNat
    let nan (i : Nat) : Bool := (u i).isNaN || (v i).isNaN
    let flags (f : Nat → FpFlags) : FpFlags := orFlags (((List.range (laneCount l)).filter active).map f)
    let givesFp (i : Instr) (c : Nat → Bool) (f : Nat → FpFlags) : Prop :=
      ∃ q, sets c q ∧ exec i s = .next ((((s.takeUnits [a, b]).setP d q).raise (flags f)).finish .next)
    gives (.vcmpeq d a b p l) (fun i => decide (x i = y i)) ∧
    gives (.vcmpne d a b p l) (fun i => decide (x i ≠ y i)) ∧
    gives (.vcmplt d a b p l) (fun i => decide ((x i).toInt < (y i).toInt)) ∧
    gives (.vcmple d a b p l) (fun i => decide ((x i).toInt ≤ (y i).toInt)) ∧
    gives (.vcmpltn d a b p l) (fun i => decide ((x i).toNat < (y i).toNat)) ∧
    gives (.vcmplen d a b p l) (fun i => decide ((x i).toNat ≤ (y i).toNat)) ∧
    (floatShape l = true →
      givesFp (.vfcmpeq d a b p l) (fun i => !nan i && decide (fpCompare (u i) (v i) = .eq)) (fun i => nvOf (u i) (v i)) ∧
      givesFp (.vfcmplt d a b p l) (fun i => !nan i && decide (fpCompare (u i) (v i) = .lt)) (fun i => if nan i then flagNV else 0) ∧
      givesFp (.vfcmple d a b p l) (fun i => !nan i && decide (fpCompare (u i) (v i) ≠ .gt)) (fun i => if nan i then flagNV else 0) ∧
      givesFp (.vfcmpun d a b p l) nan (fun i => nvOf (u i) (v i))) ∧
    (∀ q, s.setP 0 q = s) ∧
    (∀ e ∈ [(Instr.vcmpeq d a b p l, 0, true), (.vcmpne d a b p l, 1, true), (.vcmplt d a b p l, 2, true), (.vcmple d a b p l, 3, true),
      (.vcmpltn d a b p l, 4, true), (.vcmplen d a b p l, 5, true), (.vfcmpeq d a b p l, 6, l == 1 || l == 2),
      (.vfcmplt d a b p l, 7, l == 1 || l == 2), (.vfcmple d a b p l, 8, l == 1 || l == 2), (.vfcmpun d a b p l, 9, l == 1 || l == 2)],
      (encode e.1).extractLsb' 25 6 = 0x11 ∧ (encode e.1).extractLsb' 0 5 = BitVec.ofNat 5 e.2.1 ∧
        (encode e.1).extractLsb' 20 5 = d.setWidth 5 ∧ wellFormed e.1 = e.2.2)

/-- R178, R180, R97, R175: the lanes of the floating-point instructions, each rounded once to its format, with the
flags of the lanes that have a byte written.
R88, R89, R97: a value that the format holds exactly rounds to itself in every mode and raises no flag; a
signalling NaN gives the canonical NaN and NV. -/
def Obligations.VectorFloatResults : Prop :=
  (∀ (s : State) (d a b c : RegNo) (p : BitVec 3) (l : BitVec 2), floatShape l = true →
    let w := laneBits l
    let x (i : Nat) : Fp := fpDecode (laneFmt l) (lane w (s.v a) i).toNat
    let y (i : Nat) : Fp := fpDecode (laneFmt l) (lane w (s.v b) i).toNat
    let z (i : Nat) : Fp := fpDecode (laneFmt l) (lane w (s.v c) i).toNat
    let gives (srcs : List RegNo) (q : BitVec 16) (i : Instr) (f : Nat → Fp × FpFlags) : Prop :=
      ∃ v, (∀ k < laneCount l, lane w v k = BitVec.ofNat w (fpFinish (laneFmt l) .rne (f k)).1) ∧
        exec i s = .next (s.vectorNext srcs d q v
          (writtenFlags w q ((List.range (laneCount l)).map (fun k => (fpFinish (laneFmt l) .rne (f k)).2))))
    (s.PortsReady [a, b] [d] false →
      gives [a, b] (s.p p) (.vfadd d a b p l) (fun i => fpAdd (x i) (y i)) ∧
      gives [a, b] (s.p p) (.vfsub d a b p l) (fun i => fpAdd (x i) (y i).negate) ∧
      gives [a, b] (s.p p) (.vfmul d a b p l) (fun i => fpMul (x i) (y i)) ∧
      gives [a, b] (s.p p) (.vfmin d a b p l) (fun i => fpMinMax true (x i) (y i)) ∧
      gives [a, b] (s.p p) (.vfmax d a b p l) (fun i => fpMinMax false (x i) (y i))) ∧
    (s.PortsReady [a] [d] false →
      gives [a] (s.p p) (.vfabs d a p l) (fun i => ((x i).abs, 0)) ∧
      gives [a] (s.p p) (.vfneg d a p l) (fun i => ((x i).negate, 0)) ∧
      gives [a] (s.p p) (.vfrcp d a p l) (fun i => fpRecip (x i)) ∧
      gives [a] (s.p p) (.vfrsq d a p l) (fun i => fpRsqrt (x i))) ∧
    (s.PortsReady [a, b, c] [d] false →
      gives [a, b, c] (BitVec.allOnes 16) (.vfma d a b c l) (fun i => fpFma (x i) (y i) (z i)) ∧
      gives [a, b, c] (BitVec.allOnes 16) (.vfms d a b c l) (fun i => fpFma (x i) (y i) (z i).negate) ∧
      gives [a, b, c] (BitVec.allOnes 16) (.vfnma d a b c l) (fun i => fpFma (x i).negate (y i) (z i)) ∧
      gives [a, b, c] (BitVec.allOnes 16) (.vfnms d a b c l) (fun i => fpFma (x i).negate (y i) (z i).negate))) ∧
  (∀ (r : Rnd) (b : Nat), b < 2 ^ 32 →
    (b / 2 ^ 23 % 256 ≠ 255 → fpRound fmtF32 r (f32 b) = (b, 0)) ∧
    (b % 2 ^ 31 = 0x7F800000 → fpRound fmtF32 r (f32 b) = (b, 0)) ∧
    (0x7F800000 < b % 2 ^ 31 → (fpRound fmtF32 r (f32 b)).1 = 0x7FC00000) ∧
    (0x7F800000 < b % 2 ^ 31 → (roundF32 (fpAdd (f32 b) (f32 0))).2 = if b / 2 ^ 22 % 2 = 0 then flagNV else 0))

/-- R180, R182, R183: the multiply-accumulates, the reductions and the dot products. -/
def Obligations.VectorReduceResults : Prop :=
  ∀ (s : State) (d a b c : RegNo) (p : BitVec 3) (l : BitVec 2),
    let w := laneBits l
    let n := laneCount l
    let x (i : Nat) : BitVec w := lane w (s.v a) i
    let y (i : Nat) : BitVec w := lane w (s.v b) i
    let z (i : Nat) : BitVec w := lane w (s.v c) i
    let lo : Int := -2 ^ (w - 1)
    let hi : Int := 2 ^ (w - 1) - 1
    let all := BitVec.allOnes 16
    let active (i : Nat) : Bool := (s.p p).getLsbD (w / 8 * i)
    let entering := (List.range n).filter active
    let gives (i : Instr) (r : Word) : Prop := exec i s = .next (s.vectorNext [a] d all (r.setWidth 128) 0)
    let lanes3 (i : Instr) (r : Nat → BitVec w) : Prop :=
      ∃ v, (∀ k < n, lane w v k = r k) ∧ exec i s = .next (s.vectorNext [a, b, c] d all v 0)
    let dot (i : Instr) (signed : Bool) : Prop :=
      let num {m : Nat} (v : BitVec m) : Int := if signed then v.toInt else (v.toNat : Int)
      let e (k : Nat) : Int := num (lane 32 (s.core.r.readV d) k) +
        ((List.range 4).map (fun j => num (lane 8 (s.v a) (4 * k + j)) * num (lane 8 (s.v b) (4 * k + j)))).sum
      ∃ v, (∀ k < 4, lane 32 v k = BitVec.ofInt 32 (e k)) ∧
        exec i s = .next (s.vectorNext [a, b] d (s.p p) v (writtenFlags 32 (s.p p) ((List.range 4).map (fun k =>
          if signed && (decide (e k < -2 ^ 31) || decide (2 ^ 31 ≤ e k)) then flagIO else 0))))
    (s.PortsReady [a, b, c] [d] false →
      lanes3 (.vmac d a b c l) (fun i => BitVec.ofInt w (max lo (min hi ((x i).toInt * (y i).toInt + (z i).toInt)))) ∧
      lanes3 (.vmacn d a b c l) (fun i => BitVec.ofNat w (min (2 ^ w - 1) ((x i).toNat * (y i).toNat + (z i).toNat)))) ∧
    (s.PortsReady [a] [d] false →
      gives (.vredadd d a p l) (BitVec.ofInt 64 (entering.map (fun i => (x i).toInt)).sum) ∧
      (∃ m : Int, gives (.vredmin d a p l) (BitVec.ofInt 64 m) ∧ (∀ i ∈ entering, m ≤ (x i).toInt) ∧
        (m = hi ∨ ∃ i ∈ entering, m = (x i).toInt)) ∧
      (∃ m : Int, gives (.vredmax d a p l) (BitVec.ofInt 64 m) ∧ (∀ i ∈ entering, (x i).toInt ≤ m) ∧
        (m = lo ∨ ∃ i ∈ entering, m = (x i).toInt)) ∧
      (∃ m : Nat, gives (.vredminn d a p l) (BitVec.ofNat 64 m) ∧ (∀ i ∈ entering, m ≤ (x i).toNat) ∧
        (m = 2 ^ w - 1 ∨ ∃ i ∈ entering, m = (x i).toNat)) ∧
      (∃ m : Nat, gives (.vredmaxn d a p l) (BitVec.ofNat 64 m) ∧ (∀ i ∈ entering, (x i).toNat ≤ m) ∧
        (m = 0 ∨ ∃ i ∈ entering, m = (x i).toNat)) ∧
      (l = 2 →
        let e (i : Nat) : Nat := if active i then (x i).toNat else 0
        let add (i j : Nat) : Nat × FpFlags := roundF32 (fpAdd (f32 i) (f32 j))
        let r := add (add (e 0) (e 1)).1 (add (e 2) (e 3)).1
        exec (.vfredadd d a p l) s = .next (s.vectorNext [a] d all (BitVec.ofNat 128 r.1)
          ((add (e 0) (e 1)).2 ||| (add (e 2) (e 3)).2 ||| r.2))) ∧
      (l = 1 →
        let e (i : Nat) : Nat := if active i then (x i).toNat * 2 ^ 16 else 0
        let add (i j : Nat) : Nat × FpFlags := roundF32 (fpAdd (f32 i) (f32 j))
        let p0 := add (e 0) (e 1)
        let p1 := add (e 2) (e 3)
        let p2 := add (e 4) (e 5)
        let p3 := add (e 6) (e 7)
        let q0 := add p0.1 p1.1
        let q1 := add p2.1 p3.1
        let r := add q0.1 q1.1
        exec (.vfredadd d a p l) s = .next (s.vectorNext [a] d all (BitVec.ofNat 128 r.1)
          (p0.2 ||| p1.2 ||| p2.2 ||| p3.2 ||| q0.2 ||| q1.2 ||| r.2)))) ∧
    (s.PortsReady [a, b] [d] true → dot (.vdot8 d a b p l) true ∧ dot (.vdot8n d a b p l) false) ∧
    (∀ e ∈ [(Instr.vredadd d a p l, 0, true), (.vfredadd d a p l, 1, l == 1 || l == 2), (.vredmin d a p l, 2, true), (.vredmax d a p l, 3, true),
      (.vredminn d a p l, 4, true), (.vredmaxn d a p l, 5, true), (.vdot8 d a b p l, 6, l == 2), (.vdot8n d a b p l, 7, l == 2)],
      (encode e.1).extractLsb' 25 6 = 0x15 ∧ (encode e.1).extractLsb' 0 5 = BitVec.ofNat 5 e.2.1 ∧ wellFormed e.1 = e.2.2 ∧
        (e.2.1 < 6 → (encode e.1).extractLsb' 10 5 = 0))

/-- R185 to R189: `vcvt` element by element, the four codes of `vdec` and `venc` through their decode table, and
`segev` lane by lane. A `dtld` of the table in progress holds `vdec` and `venc`, a `segld` of it holds `segev`. Through a bound
write port the bytes that `vcvt` appends for an element that is not active are zero, whatever their own predicate bits: the
model's choice (log entry 83). -/
def Obligations.VectorConvertResults : Prop :=
  ∀ (s : State) (d a : RegNo) (t u : BitVec 4) (r p : BitVec 3) (f : BitVec 1) (k : BitVec 3) (n : BitVec 2),
    (s.PortsReady [a] [d] false →
      (t = u → exec (.vcvt d a t u r p) s = s.illegal (.vcvt d a t u r p)) ∧
      (t ≠ u → wellFormed (.vcvt d a t u r p) = true →
        let ws := cvtBits u.toNat
        let wd := cvtBits t.toNat
        let count := 128 / max ws wd
        let active (i : Nat) : Bool := (s.p p).getLsbD (wd / 8 * i)
        let y (i : Nat) : Nat × FpFlags := cvtWrite t.toNat (rndOf r) (cvtRead u.toNat (lane ws (s.v a) i).toNat)
        ∃ (v v' : VReg) (m : BitVec 16),
          (∀ i < count, lane wd v i = BitVec.ofNat wd (y i).1) ∧ (∀ b, count * wd ≤ b → v.getLsbD b = false) ∧
          (∀ b < 16, m.getLsbD b = if b < count * wd / 8 then active (b / (wd / 8)) else true) ∧
          (∀ b < 16, lane 8 v' b = if s.core.boundWrite d && !(s.p p).getLsbD b then 0 else lane 8 v b) ∧
          exec (.vcvt d a t u r p) s =
            .next (s.vectorNext [a] d m v' (orFlags (((List.range count).filter active).map (fun i => (y i).2))))) ∧
      (s.core.tableBusy n.toNat = false →
        ∃ v, (∀ i < 4, lane 32 v i = BitVec.ofNat 32 (tabDecode (s.core.eng.tabs[n.toNat]'n.isLt) (groupCode f k (s.v a) i))) ∧
          exec (.vdec d a f k n) s = .next (s.vectorNext [a] d (BitVec.allOnes 16) v 0)) ∧
      (s.core.tableBusy n.toNat = true → exec (.vdec d a f k n) s = s.stay .table (n.setWidth 64)) ∧
      (s.core.eng.segLoads.any (fun x => x.table = n.toNat) = true → exec (.segev d a n) s = s.stay .table (n.setWidth 64)) ∧
      (s.core.eng.segLoads.any (fun x => x.table = n.toNat) = false →
        let m := s.core.eng.segs[n.toNat]'n.isLt
        let lo := f32 (segWord m 0)
        let step := f32 (segWord m 4)
        let tails := (m.read 8).toNat
        let y (i : Nat) : Nat × FpFlags :=
          if segValid lo step tails then segLane m lo step tails (lane 32 (s.v a) i).toNat else (0x7FC00000, flagNV)
        ∃ v, (∀ i < 4, lane 32 v i = BitVec.ofNat 32 (y i).1) ∧
          exec (.segev d a n) s = .next (s.vectorNext [a] d (BitVec.allOnes 16) v (orFlags ((List.range 4).map (fun i => (y i).2)))))) ∧
    (s.PortsReady [a] [d] true → s.core.tableBusy n.toNat = true → exec (.venc d a f k n r) s = s.stay .table (n.setWidth 64)) ∧
    (s.PortsReady [a] [d] true → groupOk f k = true → s.core.tableBusy n.toNat = false →
      let w := if f = 1 then 4 else 8
      let y (i : Nat) : Nat × FpFlags :=
        tabEncode (s.core.eng.tabs[n.toNat]'n.isLt) (2 ^ w) (rndOf r) (f32 (lane 32 (s.v a) i).toNat)
      (∀ i < 4, (y i).1 < 2 ^ w) → ∃ v : VReg, (∀ i < 4, groupCode f k v i = (y i).1) ∧
        (∀ b < 128, b < 4 * w * k.toNat ∨ 4 * w * (k.toNat + 1) ≤ b → v.getLsbD b = (s.core.r.readV d).getLsbD b) ∧
        exec (.venc d a f k n r) s = .next (s.vectorNext [a] d (BitVec.allOnes 16) v (orFlags ((List.range 4).map (fun i => (y i).2)))))

/-- R15, R98, R175: what a vector instruction or a compare leaves unchanged while no stream port is bound: everything
but its destination, the flags that it raises, and the registers that a loop body's end advances, with the strides owed to
them. -/
def Obligations.VectorFrame : Prop :=
  ∀ (i : Instr) (s t : State), wellFormed i = true → (∀ k : Fin 4, s.core.eng.streams[k] = none) →
    ((vectorDest i).isSome ∨ (compareDest i).isSome) → (∀ d a u r p, i ≠ .vcvt d a u u r p) → exec i s = .next t →
    t = { s with core := { s.core with
      r := t.core.r, x := t.core.x, sw := { s.core.sw with fstat := t.core.sw.fstat }, eng := t.core.eng } } ∧
    t.core.eng.unowed = s.core.eng.unowed ∧ ((∀ r ∈ s.endRegs, s.core.Landed r) → t.core.eng = s.core.eng) ∧
    s.core.x.SameButPlace t.core.x ∧ s.core.sw.fstat ||| t.core.sw.fstat = t.core.sw.fstat ∧
    (∀ r, r ∉ s.endRegs → t.g r = s.g r) ∧ t.core.r.q = s.core.r.q ∧ t.core.r.bank = s.core.r.bank ∧
    (∀ r, vectorDest i ≠ some r → t.core.r.readV r = s.core.r.readV r) ∧
    (∀ q, compareDest i ≠ some q → t.p q = s.p q)

/-- R15, R175: under a predicate a register destination keeps the bytes whose bit is 0, and a bound write port is
appended to with zeros there, its register untouched.
R59, R190: a destination that is a bound read port, a source that is a bound write port, and an exhausted read port
take the stream fault; a read port with no unit ready holds the instruction. Of several ports misused by one instruction the
destination is the one named: the model's choice (log entry 83). -/
def Obligations.PredicatesAndPorts : Prop :=
  (∀ (s : State) (d : RegNo) (p : BitVec 16) (x : VReg),
    (s.core.boundWrite d = false → ∀ b < 16,
      lane 8 ((s.setV d p x).core.r.readV d) b = if p.getLsbD b then lane 8 x b else lane 8 (s.core.r.readV d) b) ∧
    (∀ (i : Fin 4) (t : Stream) (off : Nat), portIndex d = some i → s.core.eng.streams[i] = some t → 2 ≤ i.val →
      pathOf (t.unit t.taken) = some (.tcm, off) →
      ∃ u : VReg, (∀ b < 16, lane 8 u b = if p.getLsbD b then lane 8 x b else 0) ∧
        let t1 : Stream := { t with taken := t.taken + 1, appends := t.appends ++ [(t.taken, u)] }
        s.setV d p x = { s with core := s.core.setStream i (some t1) })) ∧
  (∀ (s : State) (d a b : RegNo) (p : BitVec 3) (l : BitVec 2),
    (s.core.boundRead d = true → exec (.vadd d a b p l) s = .next (s.finish (.trap 0x0A (d.setWidth 64) 0))) ∧
    (s.core.boundRead d = false → s.core.boundWrite a = true →
      exec (.vadd d a b p l) s = .next (s.finish (.trap 0x0A (a.setWidth 64) 0))) ∧
    (s.core.boundWrite d = true → exec (.vdot8 d a b p l) s = .next (s.finish (.trap 0x0A (d.setWidth 64) 0)) ∧
      exec (.vins d a b p l) s = .next (s.finish (.trap 0x0A (d.setWidth 64) 0))) ∧
    (∀ t, s.core.boundRead d = false → s.core.boundRead a = true → s.core.bound a = some t → t.count ≤ t.taken →
      exec (.vmov d a p l) s = .next (s.finish (.trap 0x0A (a.setWidth 64) 0))) ∧
    (∀ t, s.core.portTrap [a] [d] false = none → s.core.boundRead a = true → s.core.bound a = some t → t.fifo = [] →
      exec (.vmov d a p l) s = s.stay .streamData (a.setWidth 64)))

/-! ### Control flow, loops, gangs and groups (majors 0x20 to 0x24) -/

/-- R106, R124: the condition of each branch, and its target in clauses from its own clause.
R107, R125 to R128: jumps, calls and returns, the link they write, the return-address stack, and the traps of a
register target. -/
def Obligations.BranchAndJumpResults : Prop :=
  (∀ (s : State) (a b : RegNo) (o : BitVec 12),
    let x := s.g a
    let y := s.g b
    let q := s.p (a.setWidth 3)
    let target := s.clause + (o.signExtend 16 <<< 3)
    let takes (i : Instr) (c : Prop) : Prop :=
      (c → exec i s = .next (s.finish (.jump target))) ∧ (¬c → exec i s = .next (s.finish .next))
    takes (.beq a b o) (x = y) ∧
    takes (.bne a b o) (x ≠ y) ∧
    takes (.blt a b o) (x.toInt < y.toInt) ∧
    takes (.bge a b o) (y.toInt ≤ x.toInt) ∧
    takes (.bltn a b o) (x.toNat < y.toNat) ∧
    takes (.bgen a b o) (y.toNat ≤ x.toNat) ∧
    takes (.bpany a o) (∃ k < 16, q.getLsbD k = true) ∧
    takes (.bpnone a o) (∀ k < 16, q.getLsbD k = false)) ∧
  (∀ (s : State) (d a : RegNo) (o : BitVec 20),
    let link : Word := (s.clause + 8).setWidth 64
    let near := s.clause + (o.setWidth 16 <<< 3)
    let v := s.g a
    let r := s.g 1
    let pushed (t : State) : State :=
      if d = 0 then t else t.onX (fun x => { x with ras := ((s.clause + 8) :: x.ras).take 8 })
    let resident : Prop := ∃ seg, s.core.mem.frames[(v.extractLsb' 12 4).toNat]'(v.extractLsb' 12 4).isLt = .resident seg
    exec (.jal d o) s = .next ((pushed (s.setG d link)).finish (.jump near)) ∧
    exec (.j o) s = .next (s.finish (.jump near)) ∧
    (v.toNat % 8 = 0 →
      exec (.jr a) s = .next (s.finish (.jump (v.setWidth 16))) ∧
      exec (.jalr d a) s = .next ((pushed (s.setG d link)).finish (.jump (v.setWidth 16)))) ∧
    (v.toNat % 8 ≠ 0 →
      exec (.jr a) s = .next (s.finish (.trap 0x04 v 0)) ∧ exec (.jalr d a) s = .next (s.finish (.trap 0x04 v 0))) ∧
    (r.toNat % 8 = 0 → exec .ret s = .next ((s.onX (fun x => { x with ras := x.ras.tail })).finish (.jump (r.setWidth 16)))) ∧
    (r.toNat % 8 ≠ 0 → exec .ret s = .next (s.finish (.trap 0x04 r 0))) ∧
    (resident → v.toNat % 8 = 0 → exec (.fjmp a) s = .next (s.finish (.jump (v.setWidth 16)))) ∧
    (resident → v.toNat % 8 ≠ 0 → exec (.fjmp a) s = .next (s.finish (.trap 0x04 v 0))) ∧
    (¬resident → exec (.fjmp a) s = .next (s.finish (.trap 0x07 (BitVec.ofNat 64 (v.toNat % 65536)) 0))))

/-- R129, R131, R133: a loop that nests starts its level, with no trip its body is left out, and one that does not
nest, leaves IM or has a malformed step record traps. -/
def Obligations.LoopResults : Prop :=
  ∀ (s : State) (l : Fin 3) (n : BitVec 6) (c x : RegNo),
    let lvl : BitVec 2 := BitVec.ofNat 2 l.val
    let start := s.clause.toNat + 8
    let stop := start + 8 * (n.toNat + 1)
    let nests : Prop := stop ≤ 65536 ∧ ∀ k : Fin 3, s.core.x.loops[k].active = true → k < l ∧ stop ≤ s.core.x.loops[k].stop
    let marked := s.onX (fun y => y.mark (60 + l.val))
    let begins (rec : Word) : State := (marked.setLoop l ⟨true, start, stop, rec, 0, s.g c, []⟩).finish .next
    let skips : State := (marked.setLoop l { s.core.x.loops[l] with lc := 0 }).finish (.zeroTrip stop)
    let bad : State := s.finish (.trap 0x0B (BitVec.ofNat 64 l.val) 0)
    (nests → s.g c ≠ 0 → exec (.loop lvl c n) s = .next (begins 0)) ∧
    (nests → s.g c = 0 → exec (.loop lvl c n) s = .next skips) ∧
    (¬nests → exec (.loop lvl c n) s = .next bad) ∧
    (nests → (s.g x).toNat < 2 ^ 46 → s.g c ≠ 0 → exec (.loopx lvl c n x) s = .next (begins (s.g x))) ∧
    (nests → (s.g x).toNat < 2 ^ 46 → s.g c = 0 → exec (.loopx lvl c n x) s = .next skips) ∧
    ((¬nests ∨ 2 ^ 46 ≤ (s.g x).toNat) → exec (.loopx lvl c n x) s = .next bad) ∧
    exec (.loop 3 c n) s = s.illegal (.loop 3 c n) ∧ exec (.loopx 3 c n x) s = s.illegal (.loopx 3 c n x) ∧
    (∀ e, s.core.x.inPair = false → (∀ k : Fin 3, s.core.x.loops[k].active = true → s.core.x.loops[k].stop ≠ e) →
      s.finish (.zeroTrip e) = s.onX (fun y => { y with pc := BitVec.ofNat 16 e, wait := none }))

/-- R135, R137, R310: the cases in which `fuse` completes at once (a displaced core's among them) or after its 4,096 cycles, the gang that forms when every
core named waits at the same mask, the wait otherwise, and `split`.
R33, R40, R138, R140, R141: `yield` begins the next group; with no loop active and a mask that fits, a migration
request enters its handler after it and waiting work of higher priority parks the task. `park` leaves the core to its
next work and a continuation in transit to its cluster's queue. The fence of R154 has ended in each. -/
def Obligations.GangAndGroupResults : Prop :=
  (∀ (s : State) (a : RegNo), s.Numbered →
    let m := s.g a &&& 0xFFFFFFFFFFFF
    let me := localIndex s.core.id
    let alone : State := { s with core := { s.core with fuse := none } }
    let member (k : Nat) : Prop := ∃ c < 48, m.getLsbD c = true ∧ k = coreInCluster (clusterOf s.core.id) c
    let asks (k : Nat) : Prop := (s.coreAt k).fuse = some (m, false) ∧
      (s.coreAt k).displaced = false ∧ ∃ w, (s.coreAt k).x.wait = some w ∧ w.reason = .fuse ∧ w.cycles ≤ 4096
    let free : Prop := m.getLsbD me = true ∧ m ≠ BitVec.ofNat 64 (2 ^ me) ∧ s.core.gang = [] ∧ s.core.x.inHandler = false ∧
      s.core.displaced = false ∧
      (∀ w, s.core.x.wait = some w → w.reason = .fuse → w.cycles ≤ 4096) ∧ (∀ n, s.core.fuse ≠ some (n, true))
    (¬free → exec (.fuse a) s = .next (alone.finish .next)) ∧
    (free → (∀ k, member k → k ≠ s.core.id → asks k) → ∃ t : State, exec (.fuse a) s = .next (t.finish .next) ∧
      t.dev = s.dev ∧ t.agenda = s.agenda ∧ t.core = { s.core with gang := t.core.gang, fuse := none } ∧
      (∀ k, member k → ∀ j, j ∈ (t.coreAt k).gang ↔ member j) ∧
      (∀ k, member k → k ≠ s.core.id → t.coreAt k =
        { s.coreAt k with gang := (t.coreAt k).gang, fuse := some (m, true) }) ∧
      (∀ k, ¬member k → t.coreAt k = s.coreAt k)) ∧
    (free → ¬(∀ k, member k → k ≠ s.core.id → asks k) →
      exec (.fuse a) s = State.stay { s with core := { s.core with fuse := some (m, false) } } .fuse 0) ∧
    (∃ t : State, exec .split s = .next (t.finish .next) ∧ t.dev = s.dev ∧ t.agenda = s.agenda ∧
      (∀ k, t.coreAt k = if k ∈ s.core.gang then { s.coreAt k with gang := [] } else s.coreAt k))) ∧
  (∀ (s : State) (a : RegNo) (x : Ctx),
    let m := s.g a &&& 0x7FFFFFFFFFFFFFFE
    let scope := s.core.sw.fenceScope
    let next := (s.fenced scope).onX (fun e => { e with
      ctx := some { x with rel := x.pub, pub := x.pub + x.budget, groups := x.groups + 1 } })
    let b := match s.tcbOfCtx x with
      | some t => next.putTcb { t with groupRel := x.pub, pub := x.pub + x.budget }
      | none => next
    let until_ := if x.pub ≤ s.dev.now then b.finish .next
      else (b.finish .next).onX (fun e => { e with wait := some ⟨.yieldRel, BitVec.ofNat 64 x.pub, 0⟩ })
    let acts : Prop := maskSlots m ≤ 16 ∧ ∀ k : Fin 3, s.core.x.loops[k].active = false
    s.core.x.inHandler = false → s.core.x.ctx = some x → s.fenceWaits scope = false → s.core.gang = [] →
    (¬acts → exec (.yield a) s = .next until_) ∧
    (acts → s.core.csr.req = true → exec (.yield a) s = .next (State.finish (b.onX (fun e =>
      { e with mglive := m ||| 0x8000000000000000, reqSince := none })) (.trapAfter 0x18 s.core.csr.xmig))) ∧
    (acts → s.core.csr.req = false → s.outranked x.prio = false → exec (.yield a) s = .next until_) ∧
    (acts → s.core.csr.req = false → s.outranked x.prio = true → s.core.anyPort = false →
      exec (.yield a) s = .next (b.finishLeave (.boundary m))) ∧
    (acts → s.core.anyPort = false → s.core.eng.remote = [] → s.core.x.inPair = false →
      let u := s.drainAll.finish .next
      ∃ (t : State) (q : QRec) (k : Cont), exec (.park a) s = .next t ∧ t.dev.disp.recs = s.dev.disp.recs ++ [q] ∧
        q.place = 0 ∧ q.cluster = clusterOf s.core.id ∧ (q.part, q.node, q.wid) = (x.part, x.node, x.wid) ∧
        (q.prio, q.rel, q.since) = (x.prio, x.rel, s.dev.now) ∧ q.cont = some k ∧ k.ctx = x ∧ k.mask = m ∧ k.code = 0 ∧
        k.slots = u.core.liveSlots m ∧ k.pred = u.core.r.p ∧ k.ix = s.core.sw.ix ∧ k.fstat = u.core.allFlags ∧
        k.pc = u.core.x.pc ∧ t.core.x.run = .idle ∧ t.core.x.ctx = none ∧ t.core.x.mode = .user ∧ t.core.mat = Matrix.reset ∧
        t.core.r = (u.core.useBank false).r ∧ t.core.mem = u.core.mem ∧ t.core.csr.tip = false ∧ t.cores = s.cores ∧ t.dev.timed = s.dev.timed))

/-! ### Memory (majors 0x28 to 0x2A) -/

/-- R47: the paths, with their sizes; every other address takes a path fault wherever an access is checked. -/
def Obligations.PathTable : Prop :=
  (∀ (a : Word) (c : Core) (k : AKind) (n align : Nat) (base2 fe : Bool), pathOf a = none →
    accessTrap c k a n base2 fe = some (.trap 0x05 a 0) ∧ accessTrapAt c k a n align base2 fe = some (.trap 0x05 a 0) ∧
    spanTrap c k a n align base2 = some (.trap 0x05 a 0)) ∧
  ∀ (a : Word) (p : Path) (off : Nat), pathOf a = some (p, off) ↔
    off = a.toNat % 2 ^ 56 ∧ ∃ row ∈ ([
      (0x00, .im, 2 ^ 16), (0x01, .tcm, 2 ^ 16), (0x02, .spad, 12 * 2 ^ 20),
      (0x08, .tcmView 0, 2 ^ 18), (0x09, .tcmView 1, 2 ^ 18), (0x0A, .tcmView 2, 2 ^ 18), (0x0B, .tcmView 3, 2 ^ 18),
      (0x0C, .spadView 0, 48 * 2 ^ 20), (0x0D, .spadView 1, 48 * 2 ^ 20), (0x0E, .spadView 2, 48 * 2 ^ 20),
      (0x0F, .spadView 3, 48 * 2 ^ 20), (0x10, .tcmBf16, 2 ^ 17), (0x11, .spadBf16, 24 * 2 ^ 20),
      (0x20, .loft, 2 ^ 32), (0x40, .global, 2 ^ 48), (0x41, .globalRo, 2 ^ 48),
      (0x7F, .dev, 2 ^ 16)] : List (Nat × Path × Nat)),
      a.toNat / 2 ^ 56 = row.1 ∧ p = row.2.1 ∧ off < row.2.2

/-- R47, R48, R60, R145, R257: the traps of a scalar load or store, in the order in which they are checked. -/
def Obligations.AccessTraps : Prop :=
  ∀ (s : State) (n : Nat) (t b : RegNo) (i : BitVec 2) (e : BitVec 1) (o : BitVec 10) (load : Bool), n ∈ [1, 2, 4, 8] →
    let a := s.g b + o.signExtend 64 * BitVec.ofNat 64 n
    let ins := if load then loadOf n t b i e o else storeOf n t b i e o
    let traps (c v v2 : Nat) : Prop := exec ins s = .next (s.finish (.trap (BitVec.ofNat 8 c) (BitVec.ofNat 64 v) (BitVec.ofNat 64 v2)))
    (pathOf a = none → traps 0x05 a.toNat 0) ∧
    (∀ p off, pathOf a = some (p, off) →
      let refused : Prop := if load then p.isView = true ∧ n < 4
        else p.isView = true ∨ p = .im ∨ p = .globalRo ∨ (p = .dev ∧ n < 8 ∧
          (off < 0x8000 ∨ (0xD000 ≤ off ∧ off < 0xD0A0) ∨ (0xD100 ≤ off ∧ off < 0xD308)))
      let last := off + n - 1
      let held : Prop := s.core.csr.supEn = true ∧
        ((p = .im ∧ s.core.csr.ifr.toNat * 4096 ≤ last) ∨ (p = .tcm ∧ s.core.csr.tfr.toNat * 4096 ≤ last) ∨
        ((∃ k, p = .tcmView k) ∧ s.core.csr.tfr.toNat * 4096 ≤ last / 4) ∨
        (p = .tcmBf16 ∧ s.core.csr.tfr.toNat * 4096 ≤ last / 2))
      let secret : Prop := s.core.x.mode = .user ∧ (p = .dev ∨ held)
      let offStack : Prop := b = 2 ∧ s.core.sw.stkl ≠ 0 ∧
        (a.toNat < s.core.sw.stkb.toNat ∨ s.core.sw.stkl.toNat < a.toNat + n)
      (refused → traps 0x05 a.toNat 0) ∧
      (¬refused → secret → traps 0x03 a.toNat 0) ∧
      (¬refused → ¬secret → offStack → traps 0x06 a.toNat 0) ∧
      (¬refused → ¬secret → ¬offStack → a.toNat % n ≠ 0 → traps 0x04 a.toNat 0) ∧
      (¬refused → ¬secret → ¬offStack → a.toNat % n = 0 → i = 3 → p.hasFull = false → traps 0x05 a.toNat 1) ∧
      (accessTrap s.core (if load then .load else .store) a n (decide (b = 2)) (decide (i = 3)) = none ↔
        ¬refused ∧ ¬secret ∧ ¬offStack ∧ a.toNat % n = 0 ∧ (i = 3 → p.hasFull = true)))

/-- R49, R51, R53, R57, R142, R146, R282: a load on IM, TCM, the scratchpad or a view gives the bytes there, after the
core's own earlier accesses to its words; the scratchpad gives a deferred fault for an uncorrectable error; `at fe` it waits
for a word that is empty, the first of several (the model's choice, log entry 74). An ordinary scratchpad load reads at issue
what its banks may still perform later, or, behind an access of the core to its words that is not yet performed, stands
pending, to be performed word by word (the model's choice, log entry 17). -/
def Obligations.LocalLoads : Prop :=
  ∀ (s : State) (n : Nat) (t b : RegNo) (i : BitVec 2) (e : BitVec 1) (p : BitVec 3) (o : BitVec 10) (off : Nat),
    n ∈ [1, 2, 4, 8] →
    let a := s.g b + o.signExtend 64 * BitVec.ofNat 64 n
    let c := s.g b + o.signExtend 64 * 16
    let fits (k m : Nat) (x : Word) : Prop := accessTrap s.core .load x m (decide (b = 2)) (decide (i = 3)) = none ∧
      (k = 0 → i ≠ 3)
    let wide (m : Memory) : Word := if e = 1 ∧ n < 8 then BitVec.ofNat 64 (natOf (m.readN off n))
      else (BitVec.ofNat (8 * n) (natOf (m.readN off n))).signExtend 64
    let gives (u : State) (v : Word) : Prop := exec (loadOf n t b i e o) s = .next ((u.setG t v).finish .next)
    let full (u : State) (tcm : Bool) (m : Nat) : Prop := i = 3 → ∀ w, off / 4 ≤ w → w ≤ (off + m - 1) / 4 →
      w ∉ (if tcm then u.core.mem.tcmEmpty else u.spadEmptyOf (clusterOf s.core.id))
    let cl := clusterOf s.core.id
    let late (v : State) : State := if i = 3 then v else v.onEng (fun g => { g with
      loads := g.loads ++ [⟨.g t (decide (e = 1 ∧ n < 8)), a, n, s.core.x.handBank, wordsTouched off n, s.dev.tick⟩] })
    let spoilt : Prop := Config.spadEcc s.dev.tick off = true
    (∀ q k m, s.core.eng.pend = [] → s.core.eng.loads = [] → s.settle q k m = s) ∧
    (fits 0 n a → pathOf a = some (.im, off) → gives s (wide s.core.mem.im)) ∧
    (let u := s.settle .tcm off n;
      (fits 1 n a → pathOf a = some (.tcm, off) → full u true n → gives u (wide u.core.mem.tcm)) ∧
      (∀ w, fits 1 n a → pathOf a = some (.tcm, off) → i = 3 → off / 4 ≤ w → w ≤ (off + n - 1) / 4 →
        w ∈ u.core.mem.tcmEmpty → ∃ v, off / 4 ≤ v ∧ v ≤ w ∧ v ∈ u.core.mem.tcmEmpty ∧
          exec (loadOf n t b i e o) s = u.stay .fullEmpty (BitVec.ofNat 64 (2 ^ 56 + 4 * v)))) ∧
    (let u := s.settle .spad off n;
      fits 1 n a → pathOf a = some (.spad, off) → full u false n →
      (spoilt → exec (loadOf n t b i e o) s = .next ((s.defer 0x12 a).finish .next)) ∧
      (¬spoilt → (i = 3 ∨ s.owesWords .spad off n = false ∨ t ∈ s.core.loopRegs) → exec (loadOf n t b i e o) s =
        .next ((late (u.setG t (wide (u.spad cl)))).finish .next)) ∧
      (¬spoilt → i ≠ 3 → s.owesWords .spad off n = true → t ∉ s.core.loopRegs → ∃ (v : State) (q : List PendStore),
        exec (loadOf n t b i e o) s = .next (v.finish .next) ∧ v.dev = s.dev ∧ v.cores = s.cores ∧ v.core.mem = s.core.mem ∧
        v.core.r = s.core.r ∧ v.core.eng = { s.core.eng with pend := s.core.eng.pend ++ q } ∧
        q.map PendStore.words = (wordsTouched off n).map (fun w => [w]) ∧
        ∀ y : State, y.core.id = s.core.id → y.core.x.handBank = s.core.x.handBank →
          (q.foldl (fun y p => y.performStore cl p) y).g t = (if t = 0 then 0 else wide (y.spad cl)))) ∧
    (∀ k : Fin 4, n = 4 → fits 0 n a → pathOf a = some (.tcmView k, off) → s.core.tableBusy k.val = false →
      let u := s.settle (.tcmView k) off n
      let y := tabDecode u.core.eng.tabs[k] (u.core.mem.tcm.read (off / 4)).toNat
      y < 2 ^ 32 → gives u (if e = 1 then BitVec.ofNat 64 y else (BitVec.ofNat 32 y).signExtend 64)) ∧
    (∀ k : Fin 4, fits 0 n a → pathOf a = some (.tcmView k, off) → s.core.tableBusy k.val = true →
      exec (loadOf n t b i e o) s = s.stay .table 0) ∧
    (n = 4 → fits 0 n a → pathOf a = some (.tcmBf16, off) →
      let u := s.settle .tcmBf16 off n
      let y := natOf (u.core.mem.tcm.readN (off / 2) 2) * 65536
      gives u (if e = 1 then BitVec.ofNat 64 y else (BitVec.ofNat 32 y).signExtend 64)) ∧
    (let u := s.settle .tcm off 16;
      fits 1 16 c → pathOf c = some (.tcm, off) → full u true 16 → s.core.bound t = none →
      ∃ v : VReg, exec (.vld t b i p o) s = .next ((u.setVReg t v).finish .next) ∧ ∀ k < 16,
        lane 8 v k = if (s.p p).getLsbD k then u.core.mem.tcm.read (off + k) else lane 8 (u.core.r.readV t) k)

/-- R54, R69, R70, R142, R147: a load on loft or GLOBAL becomes an outstanding remote access that names the instant
it reads; an instant out of reach or below the horizon traps, and with 32 outstanding it waits. -/
def Obligations.TimedLoads : Prop :=
  ∀ (s : State) (n : Nat) (t b : RegNo) (i : BitVec 2) (e : BitVec 1) (p : BitVec 3) (o : BitVec 10) (q : Path) (off : Nat)
    (x : Ctx), n ∈ [1, 2, 4, 8, 16] → s.core.x.ctx = some x → (n = 16 → s.core.bound t = none) → (q = .loft ∨ q = .global) →
    let a := s.g b + o.signExtend 64 * BitVec.ofNat 64 n
    let ins := if n = 16 then Instr.vld t b i p o else loadOf n t b i e o
    let dst := if n = 16 then RDst.v t (s.p p) else RDst.g t (decide (e = 1 ∧ n < 8))
    let ix := s.core.sw.ix.toNat
    let far : Prop := i = 2 ∧ (s.dev.now + 2 ^ 31 < ix ∨ ix + 2 ^ 31 < s.dev.now)
    let old : Prop := i = 2 ∧ ix < s.core.horizon s
    let inst := if i = 2 then ix else if i = 1 ∨ x.nowOnly then s.dev.now else x.rel
    let start : RStat := if q = .global then .walk
      else if s.loftAllowed (some x.part) off n then .home off else .faulted 0x11
    let r : Remote := ⟨s.core.eng.nextTag, dst, a, n, some inst, start, s.clause, decide (s.core.x.mode = .supervisor),
      s.core.x.handBank, true, 0, s.gateShut s.core.id⟩
    accessTrap s.core .load a n (decide (b = 2)) (decide (i = 3)) = none → pathOf a = some (q, off) →
    (far → exec ins s = .next (s.finish (.trap 0x0E (BitVec.ofNat 64 ix) (BitVec.ofNat 64 s.dev.now)))) ∧
    (¬far → old → exec ins s = .next (s.finish (.trap 0x0D (BitVec.ofNat 64 ix) (BitVec.ofNat 64 (s.core.horizon s))))) ∧
    (¬far → ¬old → s.core.eng.remote.length < 32 → exec ins s = .next (State.finish (s.onEng (fun g =>
      { g with nextTag := g.nextTag + 1, remote := g.remote ++ [r] })) .next)) ∧
    (¬far → ¬old → 32 ≤ s.core.eng.remote.length → exec ins s = s.stay .remoteSlot 0)

/-- R57, R80, R83, R144, R146: a scalar or vector store on TCM or the scratchpad writes its bytes, those whose predicate bit
is 1, and nothing else; `at fe` it waits for loads from GLOBAL-RO and makes its words full. An ordinary store on TCM writes
at issue, after the core's accesses to its words that stand pending; one `at fe` behind other accesses, and every store on the
scratchpad, stands pending, and its banks have performed it by the core's next fence (the model's choice, log entry 17). A
store of the scratchpad that meets an uncorrectable error is not performed (R282). -/
def Obligations.LocalStores : Prop :=
  ∀ (s : State) (n : Nat) (t b : RegNo) (i : BitVec 2) (e : BitVec 1) (p : BitVec 3) (o : BitVec 10) (off : Nat),
    s.Sound → n ∈ [1, 2, 4, 8] →
    let cl := clusterOf s.core.id
    let waits : Prop := i = 3 ∧ s.core.untimedOut = true
    let good : Prop := Config.spadEcc s.dev.tick off = false
    let stores (ins : Instr) (m : Nat) (x : Word) (bs : List (Nat × Byte)) : Prop :=
      accessTrap s.core .store x m (decide (b = 2)) (decide (i = 3)) = none →
      let ws := (bs.map (fun y => (off + y.1) / 4)).dedup
      let put (k l : Memory) : Prop := (∀ y ∈ bs, l.read (off + y.1) = y.2) ∧ ∀ z, (∀ y ∈ bs, z ≠ off + y.1) → l.read z = k.read z
      let d := s.drainWords true ws
      let pends (tcm : Bool) (u : State) : Prop := ∃ q : List PendStore, exec ins s = .next (u.finish .next) ∧
        u = s.onEng (fun g => { g with pend := g.pend ++ q }) ∧
        (∀ y ∈ q, (y.tcm, y.setsFull, y.atomic, y.load, y.no) = (tcm, decide (i = 3), none, none, s.dev.tick) ∧ y.off / 4 ∈ ws) ∧
        ∀ z, z ∈ q.flatMap PendStore.bytes ↔ ∃ y ∈ bs, z = (off + y.1, y.2)
      (waits → (pathOf x = some (.tcm, off) ∨ pathOf x = some (.spad, off)) → exec ins s = s.stay .drain 0) ∧
      (i ≠ 3 → pathOf x = some (.tcm, off) → ∃ u : State, exec ins s = .next (u.finish .next) ∧
        u = { d with core := { d.core with
          mem := { d.core.mem with tcm := u.core.mem.tcm }, x := { d.core.x with touchTcm := u.core.x.touchTcm } } } ∧
        put d.core.mem.tcm u.core.mem.tcm) ∧
      (¬waits → i = 3 → pathOf x = some (.tcm, off) → s.core.eng.pend = [] → s.core.eng.loads = [] → ∃ u : State,
        exec ins s = .next (u.finish .next) ∧
        u = { s with core := { s.core with
          mem := { s.core.mem with tcm := u.core.mem.tcm, tcmEmpty := u.core.mem.tcmEmpty }
          x := { s.core.x with touchTcm := u.core.x.touchTcm } } } ∧
        put s.core.mem.tcm u.core.mem.tcm ∧ ∀ w, w ∈ u.core.mem.tcmEmpty ↔ w ∈ s.core.mem.tcmEmpty ∧ w ∉ ws) ∧
      (¬waits → i = 3 → pathOf x = some (.tcm, off) → ¬(s.core.eng.pend = [] ∧ s.core.eng.loads = []) → ∃ u, pends true u) ∧
      (¬waits → pathOf x = some (.spad, off) → (bs = [] ∨ good) → ∃ u, pends false u ∧
        put (s.drainAll.spad cl) (u.drainAll.spad cl) ∧ (∀ l, l ≠ cl → u.drainAll.spad l = s.drainAll.spad l) ∧
        ∀ w, w ∈ u.drainAll.spadEmptyOf cl ↔ w ∈ s.drainAll.spadEmptyOf cl ∧ ¬(i = 3 ∧ w ∈ ws)) ∧
      (¬waits → pathOf x = some (.spad, off) → bs ≠ [] → ¬good → exec ins s = .next ((s.defer 0x12 x).finish .next))
    (∀ q k m, s.core.eng.pend = [] → s.core.eng.loads = [] → s.drainWords q k = s ∧ s.settle .tcm m n = s.drainWords true (wordsTouched m n)) ∧
    stores (storeOf n t b i e o) n (s.g b + o.signExtend 64 * BitVec.ofNat 64 n)
      ((bytesOf n (s.g t).toNat).zipIdx.map (fun y => (y.2, y.1))) ∧
    (s.core.bound t = none → stores (.vst t b i p o) 16 (s.g b + o.signExtend 64 * 16)
      (((List.range 16).filter (fun k => (s.p p).getLsbD k)).map (fun k => (k, lane 8 (s.core.r.readV t) k))))

/-- R54, R63, R66, R69, R72, R144: a store on loft or GLOBAL leaves for its home with the task's key and one sequence
number; the instant it names; loft outside the partition's ranges gives a deferred fault and nothing leaves; nor does
anything of a vector store whose predicate is all zero, which takes a number. -/
def Obligations.TimedStores : Prop :=
  ∀ (s : State) (n : Nat) (t b : RegNo) (i : BitVec 2) (e : BitVec 1) (p : BitVec 3) (o : BitVec 10) (q : Path) (off : Nat)
    (x : Ctx), n ∈ [1, 2, 4, 8, 16] → s.core.x.ctx = some x → (n = 16 → s.core.bound t = none) →
    (q = .loft ∨ q = .global) →
    let empty : Prop := n = 16 ∧ s.p p = 0
    let a := s.g b + o.signExtend 64 * BitVec.ofNat 64 n
    let ins := if n = 16 then Instr.vst t b i p o else storeOf n t b i e o
    let ix := s.core.sw.ix.toNat
    let far : Prop := i = 2 ∧ (s.dev.now + 2 ^ 31 < ix ∨ ix + 2 ^ 31 < s.dev.now)
    let inst := if i = 1 then s.dev.now + 1 else if i = 2 then ix else x.pub
    let numbered := s.onX (fun y => { y with ctx := some { x with seq := min 0xFFFFFFFF (x.seq + 1) } })
    accessTrap s.core .store a n (decide (b = 2)) (decide (i = 3)) = none → pathOf a = some (q, off) → x.seq ≤ 0xFFFFFFFF →
    (far → exec ins s = .next (s.finish (.trap 0x0E (BitVec.ofNat 64 ix) (BitVec.ofNat 64 s.dev.now)))) ∧
    (¬far → empty → exec ins s = .next (numbered.finish .next)) ∧
    (¬far → ¬empty → q = .loft → s.loftAllowed (some x.part) off n = false →
      exec ins s = .next ((numbered.defer 0x11 a).finish .next)) ∧
    (¬far → ¬empty → (q = .loft → s.loftAllowed (some x.part) off n = true) → ∃ st : TStore,
      exec ins s = .next (State.finish (numbered.onTimed (fun m =>
        { m with flight := m.flight ++ [st], nextId := m.nextId + 1 })) .next) ∧
      (st.src, st.token, st.part, st.node, st.wid, st.seq) = (.task, x.token, x.part, x.node, x.wid, x.seq) ∧
      (st.inst, st.addr, st.clause, st.core) = (inst, a, s.clause, s.core.id) ∧
      st.drop = decide (e = 1 ∧ n ≠ 16) ∧ st.home = (if q = .loft then some off else none) ∧ st.atomic = none ∧
      (n ≠ 16 → st.data = (bytesOf n (s.g t).toNat).zipIdx.map (fun y => (y.2, y.1))) ∧
      (n = 16 → ∀ k y, (k, y) ∈ st.data ↔ k < 16 ∧ (s.p p).getLsbD k = true ∧ y = lane 8 (s.v t) k))

/-- R80, R150: an atomic on TCM gives its old value and leaves the new one at once, after the core's accesses to its words
that stand pending; one on the scratchpad when its bank performs it (log entry 17); R151: `afadd` raises its flags. `at fe`
is illegal. -/
def Obligations.LocalAtomics : Prop :=
  ∀ (s : State) (t b x : RegNo) (i : BitVec 2) (w : BitVec 1) (off : Nat), s.Sound →
    let n := if w = 1 then 8 else 4
    let a := s.g b
    let fits (n : Nat) : Prop := i ≠ 3 ∧ accessTrap s.core .atomic a n (decide (b = 2)) false = none
    let old (m : Memory) (n : Nat) : BitVec (8 * n) := BitVec.ofNat (8 * n) (natOf (m.readN off n))
    let cl := clusterOf s.core.id
    let good : Prop := Config.spadEcc s.dev.tick off = false
    let d := s.settle .tcm off n
    let d4 := s.settle .tcm off 4
    (∀ f ∈ atomicForms t b x i w,
      (fits n → pathOf a = some (.tcm, off) → ∃ u : State,
        let v := old d.core.mem.tcm n
        exec f.1 s = .next (State.finish (u.setG t (v.signExtend 64)) .next) ∧
        u = { d with core := { d.core with
          mem := { d.core.mem with tcm := u.core.mem.tcm }, x := { d.core.x with touchTcm := u.core.x.touchTcm } } } ∧
        d.core.mem.tcm.Written u.core.mem.tcm off
          (bytesOf n (f.2 (8 * n) v ((s.g x).setWidth (8 * n)) ((s.g t).setWidth (8 * n))).toNat)) ∧
      (fits n → pathOf a = some (.spad, off) → good → ∃ (u : State) (p : PendStore), exec f.1 s = .next (u.finish .next) ∧
        u.dev = s.dev ∧ u.cores = s.cores ∧ u.core.mem = s.core.mem ∧ u.core.r = s.core.r ∧
        u.core.eng.pend = s.core.eng.pend ++ [p] ∧ p.words = wordsTouched off n ∧
        ∀ v : State, v.Sound → v.core.x.handBank = s.core.x.handBank →
          let y := old (v.spad cl) n
          let r := v.performStore cl p
          r.g t = (if t = 0 then 0 else y.signExtend 64) ∧ (∀ l, l ≠ cl → r.spad l = v.spad l) ∧
          (v.spad cl).Written (r.spad cl) off
            (bytesOf n (f.2 (8 * n) y ((s.g x).setWidth (8 * n)) ((s.g t).setWidth (8 * n))).toNat)) ∧
      (fits n → pathOf a = some (.spad, off) → ¬good → exec f.1 s = .next ((s.defer 0x12 a).finish .next)) ∧
      (i = 3 → exec f.1 s = s.illegal f.1)) ∧
    (fits 4 → pathOf a = some (.spad, off) → good → ∃ (u : State) (p : PendStore),
      exec (.afadd t b x i) s = .next (u.finish .next) ∧ u.core.eng.pend = s.core.eng.pend ++ [p] ∧
      ∀ v : State, v.Sound → v.core.x.handBank = s.core.x.handBank →
        let y := old (v.spad cl) 4
        let r := roundF32 (fpAdd (f32 y.toNat) (f32 ((s.g x).toNat % 2 ^ 32)))
        (v.performStore cl p).g t = (if t = 0 then 0 else y.signExtend 64) ∧
        (v.performStore cl p).core.sw.fstat = v.core.sw.fstat ||| r.2 ∧
        (v.spad cl).Written ((v.performStore cl p).spad cl) off (bytesOf 4 r.1)) ∧
    (fits 4 → pathOf a = some (.tcm, off) → ∃ u : State,
      let v := old d4.core.mem.tcm 4
      let r := roundF32 (fpAdd (f32 v.toNat) (f32 ((s.g x).toNat % 2 ^ 32)))
      exec (.afadd t b x i) s = .next (((u.setG t (v.signExtend 64)).raise r.2).finish .next) ∧
      u = { d4 with core := { d4.core with
        mem := { d4.core.mem with tcm := u.core.mem.tcm }, x := { d4.core.x with touchTcm := u.core.x.touchTcm } } } ∧
      d4.core.mem.tcm.Written u.core.mem.tcm off (bytesOf 4 r.1))

/-- R69, R147, R150: an atomic on loft or GLOBAL leaves for its home as one store that carries its operation, and its
old value comes back as the reply of a remote access; on loft outside the partition's ranges nothing leaves, and the access
gives a deferred fault instead of its reply. -/
def Obligations.TimedAtomics : Prop :=
  ∀ (s : State) (t b x : RegNo) (i : BitVec 2) (w : BitVec 1) (q : Path) (off : Nat) (c : Ctx),
    s.core.x.ctx = some c → i ≠ 3 → (q = .loft ∨ q = .global) → c.seq ≤ 0xFFFFFFFF →
    let ix := s.core.sw.ix.toNat
    let far : Prop := i = 2 ∧ (s.dev.now + 2 ^ 31 < ix ∨ ix + 2 ^ 31 < s.dev.now)
    let inst := if i = 1 then s.dev.now + 1 else if i = 2 then ix else c.pub
    let sends (k : Nat) (ins : Instr) (n : Nat) (wide : Bool) : Prop :=
      accessTrap s.core .atomic (s.g b) n (decide (b = 2)) false = none → pathOf (s.g b) = some (q, off) →
      (far → exec ins s = .next (s.finish (.trap 0x0E (BitVec.ofNat 64 ix) (BitVec.ofNat 64 s.dev.now)))) ∧
      (¬far → 32 ≤ s.core.eng.remote.length → exec ins s = s.stay .remoteSlot 0) ∧
      (¬far → s.core.eng.remote.length < 32 → q = .loft → s.loftAllowed (some c.part) off n = false → ∃ r : Remote,
        exec ins s = .next (State.finish
          ((s.onX (fun y => { y with ctx := some { c with seq := min 0xFFFFFFFF (c.seq + 1) } })).onEng (fun g =>
            { g with nextTag := g.nextTag + 1, remote := g.remote ++ [r] })) .next) ∧
        (r.tag, r.dst, r.addr, r.width, r.inst, r.stat) =
          (s.core.eng.nextTag, .amo t wide, s.g b, n, some inst, .faulted 0x11)) ∧
      (¬far → s.core.eng.remote.length < 32 → (q = .loft → s.loftAllowed (some c.part) off n = true) →
        ∃ (st : TStore) (r : Remote), exec ins s = .next (State.finish
          (((s.onX (fun y => { y with ctx := some { c with seq := min 0xFFFFFFFF (c.seq + 1) } })).onEng (fun g =>
            { g with nextTag := g.nextTag + 1, remote := g.remote ++ [r] })).onTimed (fun m =>
              { m with flight := m.flight ++ [st], nextId := m.nextId + 1 })) .next) ∧
          (r.tag, r.dst, r.addr, r.width, r.inst, r.stat) =
            (s.core.eng.nextTag, .amo t wide, s.g b, n, some inst, .atomic) ∧
          st.atomic = some ⟨BitVec.ofNat 4 k, wide, s.g x, s.g t, s.core.id, s.core.eng.nextTag⟩ ∧
          (st.token, st.part, st.node, st.wid, st.seq, st.inst) = (c.token, c.part, c.node, c.wid, c.seq, inst) ∧
          st.home = (if q = .loft then some off else none))
    (∀ f ∈ (atomicForms t b x i w).zipIdx, sends f.2 f.1.1 (if w = 1 then 8 else 4) (decide (w = 1))) ∧
    sends 10 (.afadd t b x i) 4 false

/-- R82, R153, R155: `fence` performs the core's untimed accesses, waiting for its loads from GLOBAL-RO, and waits for its
copy writes inside a rectangle that reaches beyond the own cluster; one over an empty rectangle waits for nothing; `seti` sets
the instant register.
R114, R133, R156, R157, R174: what `rds` reads and what `wrs` writes, word by word. A supervisor's write of a loop counter
where no level was active at the trap also gives the counter that `xret` restores (the model's reading of R134 and R266, log
entry 15).
R158, R159: the quarantine values, and a store of one, which stays inside a profiling range. -/
def Obligations.FenceStatusAndQuarantine : Prop :=
  (∀ (s : State) (a : RegNo) (n : BitVec 10) (x : Ctx), s.core.x.ctx = some x →
    let sets (b : BitVec 2) (base : Nat) : Prop := exec (.seti a b n) s = .next (State.finish (s.onSw (fun w =>
      { w with ix := BitVec.ofNat 56 (base + (s.g a).toNat + n.toNat) })) .next)
    let r := rectOf (s.g a)
    sets 0 s.dev.now ∧ sets 1 x.rel ∧ sets 2 x.pub ∧ sets 3 s.core.sw.ix.toNat ∧
    (s.core.untimedOut = false → exec (.fence 0) s = .next (s.drainAll.finish .next)) ∧
    (s.core.untimedOut = true → exec (.fence 0) s = s.stay .drain 0 ∧
      (a ≠ 0 → r.empty = false → exec (.fence a) s = s.stay .drain 0)) ∧
    (a ≠ 0 → r.empty = true → exec (.fence a) s = .next (s.finish .next)) ∧
    (a ≠ 0 → r.empty = false → s.core.untimedOut = false → (∀ c ∈ s.core.eng.copies, c.blocks s.core.id r = false) →
      exec (.fence a) s = .next (s.drainAll.finish .next)) ∧
    (∀ c ∈ s.core.eng.copies, a ≠ 0 → r.beyond s.core.id = true → c.blocks s.core.id r = true →
      exec (.fence a) s = s.stay .drain 0) ∧
    s.drainAll.core.eng.pend = [] ∧ s.drainAll.core.eng.loads = []) ∧
  (∀ (s : State) (d a : RegNo) (x : Ctx), s.core.x.ctx = some x → s.core.flagsPending s.dev.timed = false →
    let v := s.g a
    let w := s.core.sw
    let reads (n : Nat) (v : Word) : Prop := exec (.rds d (BitVec.ofNat 12 n)) s = .next ((s.setG d v).finish .next)
    let writes (n : Nat) (f : StatusWords → StatusWords) : Prop :=
      exec (.wrs a (BitVec.ofNat 12 n)) s = .next ((s.onSw f).finish .next)
    let readOnly (n : Nat) : Prop := exec (.wrs a (BitVec.ofNat 12 n)) s = s.illegal (.wrs a (BitVec.ofNat 12 n))
    let neither (n : Nat) : Prop := readOnly n ∧ exec (.rds d (BitVec.ofNat 12 n)) s = s.illegal (.rds d (BitVec.ofNat 12 n))
    (reads 0x000 (BitVec.ofNat 64 (s.dev.now % 2 ^ 56)) ∧ reads 0x001 (BitVec.ofNat 64 (x.rel % 2 ^ 56)) ∧
      reads 0x002 (BitVec.ofNat 64 (x.pub % 2 ^ 56)) ∧ reads 0x004 (BitVec.ofNat 64 s.core.id) ∧
      reads 0x005 (BitVec.ofNat 64 (s.core.id / 768 / 6 * 96 + s.core.id % 768 / 8)) ∧
      reads 0x006 (BitVec.ofNat 64 (s.core.id / 768 / 54 * 8 + s.core.id % 768 / 96)) ∧
      reads 0x007 x.token ∧ reads 0x008 x.wid) ∧
    (∀ l, s.loadedFor x.part x.node = some l → ∀ k < 6, reads (0x009 + k) (BitVec.ofNat 64 (fieldOf l.tmpl.widths x.wid k))) ∧
    (∀ n ∈ [0x000, 0x001, 0x002, 0x004, 0x005, 0x006, 0x007, 0x008, 0x009, 0x00A, 0x00B, 0x00C, 0x00D, 0x00E], readOnly n) ∧
    (∀ n < 4096, (n = 0x00F ∨ (0x015 ≤ n ∧ n < 0x018) ∨ (0x01B ≤ n ∧ n < 0x020) ∨ (0x025 ≤ n ∧ n < 0x028) ∨ 0x02E < n) → neither n) ∧
    (reads 0x003 (w.ix.setWidth 64) ∧ writes 0x003 (fun w => { w with ix := v.setWidth 56 })) ∧
    (∀ k : Fin 4, reads (0x010 + k) w.mbox[k] ∧ writes (0x010 + k) (fun w => { w with mbox := w.mbox.set k v })) ∧
    (reads 0x014 (w.mboxf.setWidth 64) ∧ writes 0x014 (fun w => { w with mboxf := w.mboxf &&& ~~~(v.setWidth 4) })) ∧
    (∀ k : Fin 3, reads (0x018 + k) s.core.x.loops[k].lc ∧
      let u := (s.onX (fun y => y.mark (60 + k.val))).setLoop k { s.core.x.loops[k] with lc := v }
      exec (.wrs a (BitVec.ofNat 12 (0x018 + k))) s = .next (State.finish
        (if s.core.x.mode = .supervisor ∧ ∀ j : Fin 3, s.core.x.xLoops[j].active = false then
          u.onX (fun y => { y with xLoops := y.xLoops.set k { y.xLoops[k] with lc := v } }) else u) .next)) ∧
    (reads 0x020 (w.uepc.setWidth 64) ∧ writes 0x020 (fun w => { w with uepc := v.setWidth 16 &&& 0xFFFC })) ∧
    (reads 0x021 (w.ucause.setWidth 64) ∧ writes 0x021 (fun w => { w with ucause := v.setWidth 8 })) ∧
    (reads 0x022 w.uval ∧ writes 0x022 (fun w => { w with uval := v })) ∧
    (reads 0x023 (w.uvec.setWidth 64) ∧ writes 0x023 (fun w => { w with uvec := v.setWidth 16 &&& 0xFFFC })) ∧
    (reads 0x024 (BitVec.ofNat 64 (w.en.toNat + 65536 * w.pend.toNat)) ∧ writes 0x024 (fun w => { w with en := v.setWidth 6 })) ∧
    (reads 0x028 (w.fstat.setWidth 64) ∧ writes 0x028 (fun w => { w with fstat := v.setWidth 7 })) ∧
    (reads 0x029 w.late ∧ writes 0x029 (fun w => { w with late := v })) ∧
    (reads 0x02A w.tie ∧ writes 0x02A (fun w => { w with tie := v })) ∧
    (reads 0x02B w.stkb ∧ writes 0x02B (fun w => { w with stkb := v })) ∧
    (reads 0x02C w.stkl ∧ writes 0x02C (fun w => { w with stkl := v })) ∧
    (reads 0x02D (w.scope.setWidth 64) ∧ writes 0x02D (fun w => { w with scope := v.setWidth 37 })) ∧
    (reads 0x02E (BitVec.ofNat 64 (w.parkCycles.toNat + 2 ^ 62 * w.rscope.toNat)) ∧
      writes 0x02E (fun w => { w with parkCycles := v.setWidth 32, rscope := v.extractLsb' 62 2 }))) ∧
  (∀ (s : State) (q : BitVec 3) (a : RegNo) (o : BitVec 10), s.Sound →
    let v := s.core.r.q[q.toNat]'q.isLt
    let addr := s.g a + o.signExtend 64 * 8
    let samples (n : Nat) (v : Word) : Prop := exec (.qrd q (BitVec.ofNat 12 n)) s =
      .next (State.finish { s with core := { s.core with r := { s.core.r with q := s.core.r.q.set q.toNat v q.isLt } } } .next)
    let fits : Prop := accessTrap s.core .store addr 8 (decide (a = 2)) false = none
    let counted := if s.core.x.ctx.isNone then s.onX (fun x => { x with supIssue := x.supIssue + 1 }) else s
    samples 0 s.core.x.cycle ∧ samples 1 (BitVec.ofNat 64 s.core.phys) ∧ samples 2 (BitVec.ofNat 64 (s.core.phys / 8192)) ∧
    (∀ t, aget s.dev.disp.tjunc (clusterOf s.core.id) = some t → samples 3 (BitVec.ofInt 64 t)) ∧
    (∃ t, samples 3 t) ∧ (∃ t, samples 4 t) ∧ (∃ t, samples 5 t) ∧
    (∀ n, 6 ≤ n → n < 4096 → exec (.qrd q (BitVec.ofNat 12 n)) s = s.illegal (.qrd q (BitVec.ofNat 12 n))) ∧
    (fits → s.core.profiled addr = false → exec (.qst q a o) s = .next (s.finish (.trap 0x0C addr 0))) ∧
    (∀ off, fits → s.core.profiled addr = true → pathOf addr = some (.tcm, off) → ∃ u : State,
      let d := s.settle .tcm off 8
      exec (.qst q a o) s = .next (u.finish .next) ∧ d.core.mem.tcm.Written u.core.mem.tcm off (bytesOf 8 v.toNat) ∧
      u = { d with core := { d.core with
        mem := { d.core.mem with tcm := u.core.mem.tcm }, x := { d.core.x with touchTcm := u.core.x.touchTcm } } }) ∧
    (∀ off, fits → s.core.profiled addr = true → pathOf addr = some (.global, off) → ∃ st : TStore,
      exec (.qst q a o) s = .next (State.finish (counted.onTimed (fun m =>
        { m with flight := m.flight ++ [st], nextId := m.nextId + 1 })) .next) ∧
      (st.inst, st.seq, st.addr, st.qst, st.home) = (s.dev.now + 1, 0, addr, true, none) ∧
      st.data = (bytesOf 8 v.toNat).zipIdx.map (fun y => (y.2, y.1))))

/-! ### Copies, streams, code, tables and DEV (majors 0x2B to 0x2D) -/

/-- R58, R82, R160, R161, R163: what stops an `xcopy` at issue, in order, when it waits, and the copy that it starts. The
order of the checks and the copy of length 0, which takes a slot and is complete at once, are the model's reading (log entry
36). -/
def Obligations.CopyIssue : Prop :=
  ∀ (s : State) (d a b c : RegNo) (x : Ctx), s.core.x.ctx = some x →
    let ins := Instr.xcopy d a b c
    let dst := s.g a
    let src := s.g b
    let desc := s.g c
    let len := desc.toNat % 2 ^ 24
    let op := desc.toNat / 2 ^ 24 % 8
    let dcore := desc.toNat / 2 ^ 44 % 2 ^ 18
    let traps (n : Nat) (v : Word) : Prop := exec ins s = .next (s.finish (.trap (BitVec.ofNat 8 n) v 0))
    let bad : Prop := 4 < op ∨ desc.toNat / 2 ^ 29 % 2 ^ 15 ≠ 0 ∨ desc.getLsbD 63 = true
    let fromIm : Prop := ∃ o, pathOf src = some (.im, o)
    let srcOk : Prop := spanTrap s.core .load src len 4 (decide (b = 2)) = none
    let dstOk : Prop := spanTrap s.core .store dst len 4 (decide (a = 2)) = none
    let away : Prop := desc.getLsbD 62 = true ∧ ((∀ o, pathOf dst ≠ some (.tcm, o) ∧ pathOf dst ≠ some (.spad, o)) ∨
      165888 ≤ dcore ∨ s.clusterPart (clusterOf dcore) ≠ some x.part)
    let timed : Prop := ∃ p o, pathOf dst = some (p, o) ∧ p.isTimed = true
    let passes : Prop := ¬bad ∧ ¬fromIm ∧ srcOk ∧ dstOk ∧ ¬away ∧ len % 4 = 0 ∧ (op ≠ 0 → ¬timed ∧ x.preempt = false)
    (bad → traps 0x01 desc) ∧
    (¬bad → fromIm → traps 0x05 src) ∧
    (∀ f, ¬bad → ¬fromIm → spanTrap s.core .load src len 4 (decide (b = 2)) = some f → exec ins s = .next (s.finish f)) ∧
    (∀ f, ¬bad → ¬fromIm → srcOk → spanTrap s.core .store dst len 4 (decide (a = 2)) = some f → exec ins s = .next (s.finish f)) ∧
    (¬bad → ¬fromIm → srcOk → dstOk → away → traps 0x05 dst) ∧
    (¬bad → ¬fromIm → srcOk → dstOk → ¬away → len % 4 ≠ 0 → traps 0x04 (BitVec.ofNat 64 len)) ∧
    (¬bad → ¬fromIm → srcOk → dstOk → ¬away → len % 4 = 0 → op ≠ 0 → timed → traps 0x05 dst) ∧
    (¬bad → ¬fromIm → srcOk → dstOk → ¬away → len % 4 = 0 → op ≠ 0 → ¬timed → x.preempt = true → traps 0x14 desc) ∧
    let drains : Prop := s.core.untimedOut = true ∧ ∃ p o, pathOf src = some (p, o) ∧ p.isTimed = false
    (passes → (∀ k < 8, ∃ y ∈ s.core.eng.copies, y.tag % 8 = k) → exec ins s = s.stay .copySlot 0) ∧
    (∀ k < 8, passes → s.core.x.wait = none → s.stopPending s.core.id = false → (∀ y ∈ s.core.eng.copies, y.tag % 8 ≠ k) →
      drains → exec ins s = s.stay .drain 0) ∧
    (∀ k < 8, passes → ¬drains → s.core.x.wait = none → s.stopPending s.core.id = false → (∀ y ∈ s.core.eng.copies, y.tag % 8 ≠ k) →
      (∀ j < k, ∃ y ∈ s.core.eng.copies, y.tag % 8 = j) → ∃ (t : State) (y : Copy), exec ins s = .next t ∧
        let tag := 0x10000 + 8 * (x.copies % 8192) + k
        (y.tag, y.src, y.desc, y.todo, y.failed) = (tag, src, desc, List.range (len / 4), false) ∧ (y.flags, y.got, y.no) = (0, [], s.dev.tick) ∧
        y.readInst = (if x.nowOnly then s.dev.now else x.rel) ∧ (y.reader.token, y.reader.run) = (x.token, x.run) ∧
        (y.frame.addr, y.frame.inst, y.frame.seq, y.frame.drop) = (dst, x.pub, x.seq, false) ∧
        (∀ q, (timed → q = if x.seq < 0xFFFFFFFF then x.seq + 1 else x.seq) → (¬timed → q = x.seq) →
          desc.getLsbD 27 = false → len ≠ 0 → t = State.finish (((s.onX (fun z => { z with
            ctx := some { x with seq := q, copies := x.copies + 1 } })).onEng (fun g => { g with copyGrant := false, copies := g.copies ++ [y] })).setG d
            (BitVec.ofNat 64 tag)) .next) ∧
        (desc.getLsbD 27 = true → desc.getLsbD 62 = false → ∀ o, pathOf dst = some (.tcm, o) → ∀ w,
          w ∈ t.core.mem.tcmEmpty ↔ w ∈ (s.settleAt dst len).core.mem.tcmEmpty ∨ (o / 4 ≤ w ∧ w < (o + len) / 4)) ∧
        (len = 0 → t.core.eng.copies = s.core.eng.copies.filter (fun z => decide (z.tag ≠ tag))))

/-- R162, R243: what `xstat` and `xwait` say of the copies of the task. -/
def Obligations.CopyStatus : Prop :=
  ∀ (s : State) (d a : RegNo) (x : Ctx), s.core.x.ctx = some x →
    let v := s.g a
    let mine (y : Copy) : Prop := y ∈ s.core.eng.copies ∧ y.reader.run = x.run
    let named (y : Copy) : Prop := mine y ∧ BitVec.ofNat 64 y.tag = v
    ((v = 0 ∨ ∀ y, ¬named y) → exec (.xstat d a) s = .next ((s.setG d 0).finish .next)) ∧
    (v ≠ 0 → (∃ y, named y) → (∀ y, named y → y.failed = false) → exec (.xstat d a) s = .next ((s.setG d 1).finish .next)) ∧
    (v ≠ 0 → (∃ y, named y) → (∀ y, named y → y.failed = true) → exec (.xstat d a) s = s.stay .copy v) ∧
    ((a ≠ 0 ∧ v = 0) ∨ (v ≠ 0 ∧ ∀ y, ¬named y) → exec (.xwait a) s = .next (s.finish .next)) ∧
    (v ≠ 0 → (∃ y, named y) → exec (.xwait a) s = s.stay .copy v) ∧
    ((∀ y, ¬mine y) → exec (.xwait 0) s = .next (s.finish .next)) ∧
    ((∃ y, mine y) → exec (.xwait 0) s = s.stay .copy 0)

/-- R59, R165 to R167: binding a port, unbinding it, its status, and the traps of each. That the stack bounds the base of an
`sbind` is the model's choice (log entry 71), and that its stride is checked before the fault's value is known its reading (log
entry 35). -/
def Obligations.StreamResults : Prop :=
  ∀ (s : State) (i : Fin 4) (d a b : RegNo),
    let v : RegNo := BitVec.ofNat 5 (28 + i.val)
    let base := s.g a
    let desc := s.g b
    let stride : Word := (desc.extractLsb' 40 20).signExtend 64
    let unbound : Prop := s.core.eng.streams[i] = none
    let badPath : Prop := ∃ o, pathOf base = some (.im, o) ∨ pathOf base = some (.dev, o)
    let check := accessTrap s.core (if 2 ≤ i.val then .store else .load) base 16 (decide (a = 2)) false
    let bind := Instr.sbind v a b
    (¬unbound → exec bind s = .next (s.finish (.trap 0x0A (v.setWidth 64) 0))) ∧
    (unbound → badPath → exec bind s = .next (s.finish (.trap 0x05 base 0))) ∧
    (∀ f, unbound → ¬badPath → check = some f → exec bind s = .next (s.finish f)) ∧
    (unbound → ¬badPath → check = none → stride.toNat % 16 ≠ 0 → exec bind s = .next (s.finish (.trap 0x04 stride 0))) ∧
    (unbound → ¬badPath → check = none → stride.toNat % 16 = 0 → ∃ t : Stream,
      exec bind s = .next (State.finish { s with core := s.core.setStream i (some t) } .next) ∧
      (t.base, t.desc, t.taken, t.fetched, t.fifo, t.appends, t.saved) = (base, desc, 0, 0, [], [], s.core.r.readV v)) ∧
    (unbound → exec (.sunbind v) s = .next (s.finish .next) ∧ exec (.sstat d v) s = .next ((s.setG d 0).finish .next)) ∧
    (∀ t, s.core.eng.streams[i] = some t →
      exec (.sstat d v) s = .next ((s.setG d (BitVec.ofNat 64 (2 ^ 63 + (t.desc.toNat % 2 ^ 24 - t.taken)))).finish .next) ∧
      (s.appending i = true → exec (.sunbind v) s = s.stay .drain (v.setWidth 64)) ∧
      (s.appending i = false → ∃ u : State, exec (.sunbind v) s = .next (u.finish .next) ∧ u.core.eng.streams[i] = none ∧
        u.core.r = s.core.r.writeV v t.saved ∧ u = { s with core := { s.core with r := u.core.r, eng := u.core.eng } } ∧
        u.core.eng = { s.core.eng with streams := u.core.eng.streams } ∧
        ∀ k : Fin 4, k ≠ i → u.core.eng.streams[k] = s.core.eng.streams[k])) ∧
    (∀ r : RegNo, r.toNat < 28 → exec (.sbind r a b) s = s.illegal (.sbind r a b) ∧ exec (.sunbind r) s = s.illegal (.sunbind r) ∧
      exec (.sstat d r) s = s.illegal (.sstat d r)) ∧
    (∀ (t : Stream) (n : Nat), t.unit n = (let len := t.desc.toNat / 2 ^ 24 % 2 ^ 16
      if len = 0 then t.base + BitVec.ofNat 64 (16 * n)
      else t.base + (t.desc.extractLsb' 40 20).signExtend 64 * BitVec.ofNat 64 (n / len) + BitVec.ofNat 64 (n % len * 16)))

/-- R168 to R170, R257, R282: requests of code and tables, the code of a frame, the traps at issue, and the deferred fault
of a scratchpad source with an uncorrectable error. That the stack bounds the source of a `cfetch`, `dtld` or `segld` is the
model's choice (log entry 71), and what of the source is read at issue its reading (log entries 17 and 35). -/
def Obligations.CodeAndTables : Prop :=
  ∀ (s : State) (a d : RegNo) (f : Fin 16) (n : BitVec 8) (t : BitVec 2),
    let src := s.g a
    let fb : BitVec 4 := BitVec.ofNat 4 f.val
    let codePath (x : Word) : Prop := ∃ p o q, pathOf x = some (p, o) ∧ pathOf (x + 4095) = some (p, q) ∧
      (p = .loft ∨ p = .global ∨ p = .globalRo)
    let held : Prop := s.core.x.mode = .user ∧ s.core.csr.supEn = true ∧ s.core.csr.ifr.toNat ≤ f.val
    let fetch := Instr.cfetch a fb
    let code (k : Nat) : Prop := exec (.cstat d fb) s = .next ((s.setG d (BitVec.ofNat 64 k)).finish .next)
    let fr := s.core.mem.frames[f]
    (¬codePath src → exec fetch s = .next (s.finish (.trap 0x05 src 0))) ∧
    (codePath src → held → exec fetch s = .next (s.finish (.trap 0x03 (BitVec.ofNat 64 (f.val * 4096)) 0))) ∧
    (codePath src → ¬held → spanTrap s.core .load src 4096 64 (decide (a = 2)) = none →
      exec fetch s = .next (State.finish ((s.onMem (fun m =>
        { m with frames := m.frames.set f (.landing ⟨src, s.loadInstant 0, s.reader, none, []⟩) })).onX
        (fun x => { x with touchIm := if f.val < s.core.csr.ifr.toNat then x.touchIm ||| BitVec.ofNat 16 (2 ^ f.val) else x.touchIm })) .next)) ∧
    ((∃ g, fr = .resident g) → code 0) ∧ ((∃ r, fr = .landing r) → code 1) ∧ (fr = .failed → code 2) ∧ (fr = .empty → code 3) ∧
    (∀ v : BitVec 1, spanTrap s.core .load src 1024 4 (decide (a = 2)) = none → s.viewHeld src = false →
      (s.errorAt [src] 1024 = none →
        let u := (s.settleAt src 1024).drain (fun p => match p.load with
          | some l => l.usesTable t.toNat
          | none => false)
        exec (.dtld a v n t) s = .next (State.finish ((u.loadsDone (fun l => l.usesTable t.toNat)).onEng (fun e => { e with
          dtLoads := e.dtLoads ++
            [⟨t.toNat, if v = 1 then some n else none, src, s.loadInstant 0, u.captured src 1024, s.reader, s.clause⟩] })) .next)) ∧
      (s.errorAt [src] 1024 ≠ none → exec (.dtld a v n t) s = .next ((s.defer 0x12 src).finish .next))) ∧
    (∀ p o, pathOf src = some (p, o) → p = .tcm ∨ p = .spad ∨ p = .loft ∨ p = .global ∨ p = .globalRo →
      spanTrap s.core .load src 144 16 (decide (a = 2)) = none →
      (s.errorAt [src] 144 = none → let u := s.settleAt src 144
        exec (.segld a t) s = .next (State.finish (u.onEng (fun e => { e with segLoads := e.segLoads ++
          [⟨t.toNat, none, src, s.loadInstant 0, u.captured src 144, s.reader, s.clause⟩] })) .next)) ∧
      (s.errorAt [src] 144 ≠ none → exec (.segld a t) s = .next ((s.defer 0x12 src).finish .next))) ∧
    (∀ p o, pathOf src = some (p, o) → p.isView = true ∨ p = .im ∨ p = .dev →
      exec (.segld a t) s = .next (s.finish (.trap 0x05 src 0))) ∧
    (∀ p o, pathOf src = some (p, o) → p = .loft ∨ p = .global ∨ p = .globalRo → s.captured src 1024 = none) ∧
    (∀ o, pathOf src = some (.tcm, o) → s.captured src 1024 = some (s.core.mem.tcm.readN o 1024))

/-- R56, R265, R340: a load on GLOBAL-RO gives the cached line or starts a remote access; a load or store of the DEV
window reaches the matrix unit and the copy records of its core, and waits while the slot is LOADING. -/
def Obligations.DevAndReadOnly : Prop :=
  ∀ (s : State) (t b : RegNo) (i : BitVec 2) (o : BitVec 10) (off : Nat), i ≠ 3 →
    let a := s.g b + o.signExtend 64 * 8
    let fits (k : AKind) : Prop := accessTrap s.core k a 8 (decide (b = 2)) false = none
    let load := Instr.ldd t b i o
    let store := Instr.std t b i 0 o
    let gives (v : Word) : Prop := exec load s = .next ((s.setG t v).finish .next)
    let v := s.g t
    (fits .load → pathOf a = some (.globalRo, off) →
      (∀ bs, s.roHit off 8 = some bs → gives (BitVec.ofNat 64 (natOf bs))) ∧
      (s.roHit off 8 = none → s.core.eng.remote.length < 32 → exec load s = .next (State.finish (s.onEng (fun g => { g with
        nextTag := g.nextTag + 1
        remote := g.remote ++ [⟨g.nextTag, .g t false, a, 8, none, .walk, s.clause, decide (s.core.x.mode = .supervisor),
          s.core.x.handBank, s.core.x.ctx.isSome, 0, s.gateShut s.core.id⟩] })) .next)) ∧
      (s.roHit off 8 = none → 32 ≤ s.core.eng.remote.length → exec load s = s.stay .remoteSlot 0)) ∧
    (fits .load → pathOf a = some (.dev, off) →
      (∀ k : Fin 16, off = 0xD000 + 8 * k.val → let u := s.core.mat.slots[k]
        gives (BitVec.ofNat 64 (u.st.code + 4 * u.fmt.toNat + 256 * (u.kv % 256) + 65536 * blockCode u.blk))) ∧
      (∀ k : Fin 4, off = 0xD080 + 8 * k.val → gives (BitVec.ofNat 64 (match s.core.mat.accs[k].kind with
        | .z => 0
        | .f32 => 1
        | .s32 => 2))) ∧
      (∀ k : Fin 8, ∀ j < 8, off = 0xD100 + 64 * k.val + 8 * j → let r := s.core.eng.copyRecs[k]
        gives (match j with
          | 0 => r.dst
          | 1 => r.src
          | 2 => r.desc
          | 3 => BitVec.ofNat 64 ((if r.valid then 2 ^ 63 else 0) + r.tag % 2 ^ 17)
          | 4 => BitVec.ofNat 64 (r.seq % 2 ^ 32)
          | 5 => r.readInst
          | 6 => r.writeInst
          | _ => 0)) ∧
      (∀ k : Fin 16, s.core.mat.slots[k].st ≠ .loading → 0x8000 + 1024 * k.val ≤ off → off < 0x8400 + 1024 * k.val →
        gives (BitVec.ofNat 64 (natOf (s.core.mat.slots[k].data.readN (off - (0x8000 + 1024 * k.val)) 8)))) ∧
      (∀ k : Fin 16, s.core.mat.slots[k].st = .loading → 0x8000 + 1024 * k.val ≤ off → off < 0x8400 + 1024 * k.val →
        exec load s = s.stay .slot (BitVec.ofNat 64 k.val)) ∧
      (off < 0x8000 → let r := s.readReg (.core s.core.id) (shingleOf s.core.id) off
        exec load s = .next ((r.2.setG t r.1).finish .next))) ∧
    (fits .store → pathOf a = some (.dev, off) →
      (∀ k : Fin 16, s.core.mat.slots[k].st ≠ .loading → off = 0xD000 + 8 * k.val → ∃ u : Slot,
        exec store s = .next (State.finish (s.onMat (fun m => { m with slots := m.slots.set k u })) .next) ∧
        u.st = (if v.toNat % 4 = 0 then .free else if v.toNat % 4 = 1 then .claimed else .ready) ∧
        u.fmt = BitVec.ofNat 5 (v.toNat / 4) ∧ u.kv = v.toNat / 256 % 256 ∧ u.data = s.core.mat.slots[k].data ∧
        u.scales = s.core.mat.slots[k].scales) ∧
      (∀ k : Fin 4, off = 0xD080 + 8 * k.val → v.toNat % 4 ≠ 3 → ∃ u : Acc,
        exec store s = .next (State.finish (s.onMat (fun m => { m with accs := m.accs.set k u })) .next) ∧
        u.elems = s.core.mat.accs[k].elems ∧ u.kind = (if v.toNat % 4 = 0 then .z else if v.toNat % 4 = 1 then .f32 else .s32)) ∧
      (off = 0xD300 → v = 1 → s.core.reducing = true → exec store s = s.stay .copy 0) ∧
      (off = 0xD300 → v = 1 → s.core.reducing = false → ∃ u : State, exec store s = .next (u.finish .next) ∧
        u.core.eng.copies = s.core.eng.copies.filter (fun y => y.failed || decide (y.op ≠ 0)) ∧
        ((∀ y ∈ s.core.eng.copies, y.op = 0 → y.failed = false → y.todo ≠ []) → u = { s with core := { s.core with eng := { s.core.eng with
          copies := u.core.eng.copies, copyRecs := u.core.eng.copyRecs } } })) ∧
      (off = 0xD300 → v = 2 → ∃ u : State, exec store s = .next (u.finish .next) ∧ (∀ k : Fin 8, u.core.eng.copyRecs[k].valid = false) ∧
        u.core.eng.copies.map (fun y => y.tag) = s.core.eng.copies.map (fun y => y.tag) ++
          ((s.core.eng.copyRecs.toList.filter (fun r => r.valid)).map (fun r => r.tag))) ∧
      (off < 0x8000 → exec store s = .next ((s.writeReg (.core s.core.id) (shingleOf s.core.id) off v).finish .next)))

/-! ### The matrix unit (majors 0x2E and 0x2F) -/

/-- R191, R192, R194, R205, R207: claiming and releasing a slot, zeroing and transposing an accumulator. That a slot's data
bytes stay when it is claimed or released is the model's reading (log entry 9).
R195, R196, R207, R282: `mload` puts its slot in LOADING with the rows that the descriptor names; its checks in order,
and the deferred fault of a scratchpad row with an uncorrectable error. The order of the checks, all rows before the alignment
of base and stride, is the model's reading (log entry 57); that local rows are read at issue is its choice (log entry 17). -/
def Obligations.SlotAndLoadResults : Prop :=
  (∀ (s : State) (p : BitVec 4) (k : Fin 4),
    let n := s.core.slotIndex p
    let t := s.slot n
    let q : BitVec 4 := BitVec.ofNat 4 k.val
    let acc := s.core.mat.accs[k]
    let fault (ins : Instr) : Prop := exec ins s = .next (s.finish (.trap 0x08 (BitVec.ofNat 64 n.val) 0))
    ((∀ l : Fin 3, s.core.x.loops[l].active = true → s.core.x.loops[l].step.toNat / 2 ^ 42 % 16 = 0) → n.val = p.toNat) ∧
    (t.st = .free → exec (.mclaim p) s = .next (State.finish (s.setSlot n
      { t with st := .claimed, fmt := 0, kv := 0, blk := none, scales := [], absent := [] }) .next)) ∧
    (t.st ≠ .free → fault (.mclaim p)) ∧
    (t.st = .claimed ∨ t.st = .ready → exec (.mrel p) s = .next (State.finish (s.setSlot n { t with st := .free }) .next)) ∧
    (t.st = .loading → exec (.mrel p) s = s.stay .slot (BitVec.ofNat 64 n.val)) ∧
    (t.st = .free → fault (.mrel p)) ∧
    (∃ a : Acc, exec (.mzero q) s = .next ((s.setAcc k a).finish .next) ∧ a.kind = .z ∧ ∀ e < 256, a.elem e = 0) ∧
    (∃ a : Acc, exec (.mtr q) s = .next ((s.setAcc k a).finish .next) ∧ a.kind = acc.kind ∧
      ∀ i < 16, ∀ j < 16, a.elem (16 * i + j) = acc.elem (16 * j + i))) ∧
  (∀ (s : State) (p : BitVec 4) (g k : RegNo),
    let ins := Instr.mload p g k
    let n := s.core.slotIndex p
    let base := s.g g
    let desc := s.core.r.readG (g + 1)
    let eb := fmtBits k.toNat
    let whole := if eb < 4 then 128 else min 128 (512 / eb)
    let kv := if desc.toNat / 2 ^ 48 = 0 ∨ whole < desc.toNat / 2 ^ 48 then whole else desc.toNat / 2 ^ 48
    let tr := desc.getLsbD 47
    let stride : Word := (desc.setWidth 47).signExtend 64
    let row := if tr then 2 * eb else whole * eb / 8
    let bytes := if tr then row else (kv * eb + 7) / 8
    let rows := (List.range (if tr then kv else 16)).map (fun r => base + stride * BitVec.ofNat 64 r)
    let onPath : Prop := ∀ a ∈ rows, spanTrapOf s.core .load a row bytes 1 (decide (g = 2)) = none
    let traps (c : Nat) (v : Word) : Prop := exec ins s = .next (s.finish (.trap (BitVec.ofNat 8 c) v 0))
    let claimed : Prop := (s.slot n).st = .claimed
    let aligned : Prop := base.toNat % min 16 row = 0 ∧ stride.toNat % min 16 row = 0
    let held : Prop := s.fmtHeld k.toNat = true ∨ ∃ a ∈ rows, s.viewHeld a = true
    let v := rows.foldl (fun s a => s.settleAt a bytes) s
    (¬claimed → traps 0x08 (BitVec.ofNat 64 n.val)) ∧
    (claimed → ¬onPath → ∃ f, exec ins s = .next (s.finish f) ∧ ∃ a ∈ rows, spanTrapOf s.core .load a row bytes 1 (decide (g = 2)) = some f) ∧
    (claimed → onPath → base.toNat % min 16 row ≠ 0 → traps 0x04 base) ∧
    (claimed → onPath → base.toNat % min 16 row = 0 → stride.toNat % min 16 row ≠ 0 → traps 0x04 stride) ∧
    (claimed → onPath → aligned → held → exec ins s = s.stay .table (BitVec.ofNat 64 k.toNat)) ∧
    (∀ a, claimed → onPath → aligned → ¬held → s.errorAt rows bytes = some a → exec ins s = .next ((s.defer 0x12 a).finish .next)) ∧
    (claimed → onPath → aligned → ¬held → s.errorAt rows bytes = none →
      ∃ (u : State) (l : MLoad), exec ins s = .next (u.finish .next) ∧ l.old = s.slot n ∧
        (u.slot n).st = .loading ∧ (u.slot n).fmt = k ∧ (u.slot n).kv = kv ∧ (u.slot n).blk = none ∧
        (∀ m, m ≠ n → u.slot m = s.slot m) ∧ u.core.mat.accs = s.core.mat.accs ∧ u.core.mat.flags = s.core.mat.flags ∧
        u.core.mat.loads = s.core.mat.loads ++ [l] ∧ (l.slot, l.trans, l.fmt, l.kv) = (n.val, tr, k, kv) ∧
        l.inst = s.loadInstant 0 ∧ l.rows.map (fun r => (r.1, r.2.1)) = rows.zipIdx.map (fun r => (r.2, r.1)) ∧
        u.core.r = v.core.r ∧ u.core.mem = v.core.mem ∧ u.core.sw = v.core.sw))

/-- R101, R197, R198, R207: a dense multiply of READY slots, element by element for the integer pairs, for f32 and for
the unscaled 16-bit pairs, and the cases in which it waits or traps. -/
def Obligations.MatrixMultiplyResults : Prop :=
  ∀ (s : State) (k : Fin 4) (q r : BitVec 4) (c : BitVec 1),
    let p : BitVec 4 := BitVec.ofNat 4 k.val
    let ins := Instr.mma p q r c
    let nq := s.core.slotIndex q
    let ns := s.core.slotIndex r
    let a := s.slot nq
    let b := s.slot ns
    let fa := a.fmt.toNat
    let fb := b.fmt.toNat
    let acc := s.core.mat.accs[k]
    let tabs := s.core.eng.tabs
    let traps (c n m : Nat) : Prop := exec ins s = .next (s.finish (.trap (BitVec.ofNat 8 c) (BitVec.ofNat 64 n) (BitVec.ofNat 64 m)))
    let used (t : Slot) : Prop := t.st = .loading ∨ t.st = .ready
    let gives (kind : AccKind) (e : Nat → Nat → Nat × FpFlags) : Prop := ∃ z : Acc,
      exec ins s = .next (State.finish ((s.setAcc k z).onMat (fun m => { m with flags := m.flags ++
        [orFlags ((List.range 256).map (fun n => (e (n / 16) (n % 16)).2))] })) .next) ∧
      z.kind = kind ∧ ∀ i < 16, ∀ j < 16, z.elem (16 * i + j) = (e i j).1 % 2 ^ 32
    let start (i j : Nat) : Fp := if c = 1 then f32 (acc.elem (16 * i + j)) else .fin true 0 0
    let free : Prop := s.fmtHeld fa = false ∧ s.fmtHeld fb = false
    (¬used a → traps 0x08 nq.val 0) ∧
    (used a → ¬used b → traps 0x08 ns.val 0) ∧
    (used a → used b → pairKind fa fb = none → traps 0x08 nq.val 0) ∧
    (∀ x y, used a → used b → pairKind fa fb ≠ none → a.unscaled = false → b.unscaled = false → a.blk = some x → b.blk = some y →
      x ≠ y → traps 0x09 x y) ∧
    (used a → used b → pairKind fa fb = some true → a.blk = none → c = 1 → acc.kind = .f32 → traps 0x08 k.val 0) ∧
    (a.st = .loading → used b → pairKind fa fb = some true → a.blk = none → c = 0 → exec ins s = s.stay .slot (BitVec.ofNat 64 nq.val)) ∧
    (a.st = .ready → b.st = .ready → pairKind fa fb = some true → (c = 1 → acc.kind ≠ .f32) → a.blk = none → b.blk = none → free →
      gives .s32 (fun i j =>
        let z := ((List.range (fmtK fa)).map (fun m => (a.integer i m).1 * (b.integer j m).1)).sum +
          (if c = 1 then signedOf 32 (acc.elem (16 * i + j)) else 0)
        let nv := orFlags ((List.range (fmtK fa)).map (fun m => (a.integer i m).2 ||| (b.integer j m).2))
        (wrapInt 32 z, nv ||| (if z < -2147483648 ∨ 2147483647 < z then flagIO else 0)))) ∧
    (a.st = .ready → b.st = .ready → fa = 0 → fb = 0 → (c = 1 → acc.kind ≠ .s32) → a.blk = none → b.blk = none →
      gives .f32 (fun i j => let z := (List.range 16).foldl (fun (x : Fp × FpFlags) m =>
          let y := roundF32 (fpFma (a.real tabs i m) (b.real tabs j m) x.1)
          (f32 y.1, x.2 ||| y.2)) (start i j, 0)
        ((fpRound fmtF32 .rne z.1).1, z.2))) ∧
    (a.st = .ready → b.st = .ready → (fa = 1 ∨ fa = 2) → (fb = 1 ∨ fb = 2) → (c = 1 → acc.kind ≠ .s32) → a.blk = none →
      b.blk = none → gives .f32 (fun i j =>
        let root := (treeLevel^[5] ((List.range 32).map (fun m => fpMul (a.real tabs i m) (b.real tabs j m)))).headD (.fin false 0 0, 0)
        let z := roundF32 (fpAdd (start i j) root.1)
        (z.1, root.2 ||| z.2)))

/-- R197, R198, R200, R201: a sparse multiply whose descriptor and three arrays stand in readable TCM completes: it builds
slot S from the arrays, each column of each row with the value of its highest entry, and multiplies over the formed groups
alone, after the core's own synchronising stores to TCM. -/
def Obligations.SparseMultiplyResults : Prop :=
  ∀ (s : State) (k : Fin 4) (q r : BitVec 4) (g : RegNo) (x c : BitVec 1) (o f vals cidx rptr : Nat) (integer : Bool),
    let ins := Instr.mmas (BitVec.ofNat 4 k.val) q r g x c
    let nq := s.core.slotIndex q
    let ns := s.core.slotIndex r
    let a := s.slot nq
    let v := s.drain (fun y => y.tcm)
    let m := v.core.mem.tcm
    let eb := fmtBits f
    let kv := kvOf (s.core.r.readG (g + 1)) (fmtK f)
    let tcm (n : Nat) : Word := BitVec.ofNat 64 (2 ^ 56 + n)
    let readable (b n : Nat) : Prop := b + n ≤ 2 ^ 16 ∧ (n ≠ 0 → s.core.x.mode = .user → s.core.csr.supEn = true →
      b + n ≤ s.core.csr.tfr.toNat * 4096)
    let ptr (i : Nat) : Nat := natOf (m.readN (rptr + 2 * i) 2)
    let last := ((List.range kv).map (fun i => if ptr i < ptr (i + 1) then ptr (i + 1) else 0)).foldl max 0
    let code (i : Nat) : Nat := natOf (m.readN (vals + eb * i / 8) ((eb + 7) / 8)) / 2 ^ (eb * i % 8) % 2 ^ eb
    let entry (row col i : Nat) : Prop := ptr row ≤ i ∧ i < ptr (row + 1) ∧ (m.read (cidx + i)).toNat % 16 = col
    pathOf (s.g g) = some (.tcm, o) → readable o 32 → o % 32 = 0 →
    (g = 2 → s.core.sw.stkl ≠ 0 → s.core.sw.stkb.toNat ≤ (s.g g).toNat ∧ (s.g g).toNat + 32 ≤ s.core.sw.stkl.toNat) →
    a.st = .ready → (s.slot ns).st = .claimed → m.readN o 8 = bytesOf 8 f → f < 18 → m.readN (o + 8) 8 = bytesOf 8 (tcm rptr).toNat →
    m.readN (o + 16) 8 = bytesOf 8 (tcm cidx).toNat → m.readN (o + 24) 8 = bytesOf 8 (tcm vals).toNat →
    pairKind a.fmt.toNat f = some integer → a.unscaled = false → (c = 1 → kindAdmits s.core.mat.accs[k].kind integer = true) →
    readable rptr (2 * (fmtK f + 1)) → rptr % 2 = 0 → readable cidx last → cidx < 2 ^ 16 → readable vals ((last * eb + 7) / 8) →
    vals < 2 ^ 16 → vals % ((eb + 7) / 8) = 0 → s.fmtHeld a.fmt.toNat = false → s.fmtHeld f = false →
    ∃ (b : Slot) (formed : Nat → Bool),
      let z := multiply s.core.eng.tabs a b formed integer (decide (c = 1)) s.core.mat.accs[k]
      exec ins s = .next (State.finish (((v.setSlot ns b).setAcc k z.1).onMat (fun y => { y with flags := y.flags ++ [z.2] })) .next) ∧
      (b.st, b.fmt.toNat, b.kv, b.blk) = (.ready, f, kv, none) ∧
      (∀ n, formed n = true ↔ x = 1 ∨ ∃ row < kv, ∃ col i, entry row col i ∧ row / 8 = n / 8) ∧
      (∀ col < 16, ∀ row < kv, ((∀ i, ¬entry row col i) → b.valid col row = false) ∧
        ∀ i, entry row col i → (∀ j, entry row col j → j ≤ i) → b.valid col row = true ∧ b.code col row = code i)

/-- R95, R202: `mscale` binds the block scales a format needs, row by row; too few trap, a surplus sets SS. The scales are
read at issue, after the core's own accesses that stand pending (the model's choice, log entry 17). -/
def Obligations.ScaleResults : Prop :=
  ∀ (s : State) (q : BitVec 4) (g : RegNo) (l : Fin 3) (off : Nat),
    let ins := Instr.mscale q g (BitVec.ofNat 2 l.val)
    let nq := s.core.slotIndex q
    let t := s.slot nq
    let len := 8 * 2 ^ l.val
    let n := (s.core.r.readG (g + 1)).toNat % 65536
    let need := (t.kv + len - 1) / len
    let bindable : Prop := fmtScaled t.fmt.toNat = true ∧ (t.st = .loading ∨ t.st = .ready)
    let onPath : Prop := spanTrap s.core .load (s.g g) (16 * n) 1 (decide (g = 2)) = none
    let v := s.settle .tcm off (16 * n)
    pathOf (s.g g) = some (.tcm, off) →
    (¬bindable → exec ins s = .next (s.finish (.trap 0x08 (BitVec.ofNat 64 nq.val) 0))) ∧
    (bindable → n < need → exec ins s = .next (s.finish (.trap 0x09 (BitVec.ofNat 64 n) (BitVec.ofNat 64 need)))) ∧
    (∀ f, bindable → need ≤ n → spanTrap s.core .load (s.g g) (16 * n) 1 (decide (g = 2)) = some f → exec ins s = .next (s.finish f)) ∧
    (onPath → bindable → need ≤ n → t.st = .loading → exec ins s = s.stay .slot (BitVec.ofNat 64 nq.val)) ∧
    (onPath → bindable → need ≤ n → need ≤ 16 → t.st = .ready → ∃ u : Slot,
      exec ins s = .next (State.finish ((v.setSlot nq u).onMat (fun m => { m with flags := m.flags ++ [if need < n then flagSS else 0] })) .next) ∧
      u = { t with blk := some len, scales := u.scales } ∧
      ∀ r < 16, ∀ b < need, u.scales.read (16 * r + b) = v.core.mem.tcm.read (off + r * n + b))

/-- R99, R203, R204, R207: `mcvt` writes the converted elements into a claimed slot; `mstore` stores the packed tile, on a
timed path as pieces with one sequence number, or nothing of it where a piece is refused. -/
def Obligations.ConvertAndStoreResults : Prop :=
  ∀ (s : State) (k : Fin 4) (q : BitVec 4) (g f : RegNo) (r : BitVec 3) (off : Nat), s.Sound →
    let p : BitVec 4 := BitVec.ofNat 4 k.val
    let nq := s.core.slotIndex q
    let acc := s.core.mat.accs[k]
    let conv (r : Rnd) (n : Nat) : Nat × FpFlags := convertElem s.core.eng.tabs f.toNat r (acc.value n)
    let fl (r : Rnd) : FpFlags := orFlags ((List.range 256).map (fun n => (conv r n).2))
    let a := s.g g
    let eb := fmtBits f.toNat
    let codes : List Nat := (List.range 256).map (fun n => if f = 0 then acc.elem n else (conv .rne n).1)
    let bs := bytesOf (32 * eb) (packNat eb codes)
    let flags (u : State) (f : FpFlags) : State := u.onMat (fun m => { m with flags := m.flags ++ [f] })
    let fits : Prop := spanTrap s.core .store a (32 * eb) 16 (decide (g = 2)) = none
    let inst (x : Ctx) : Nat := if x.nowOnly then s.dev.now + 1 else x.pub
    (18 ≤ f.toNat → exec (.mcvt p q r f) s = s.illegal (.mcvt p q r f) ∧ exec (.mstore p g f) s = s.illegal (.mstore p g f)) ∧
    (f.toNat < 18 → (s.slot nq).st ≠ .claimed → exec (.mcvt p q r f) s = .next (s.finish (.trap 0x08 (BitVec.ofNat 64 nq.val) 0))) ∧
    (f.toNat < 18 → (s.slot nq).st = .claimed → s.fmtHeld f.toNat = false → ∃ u : Slot,
      exec (.mcvt p q r f) s = .next ((flags (s.setSlot nq u) (fl (rndOf r))).finish .next) ∧
      (u.st, u.fmt, u.kv, u.blk) = (.ready, f, 16, none) ∧
      ∀ i < 16, ∀ j < 16, u.code i j = (conv (rndOf r) (16 * i + j)).1 % 2 ^ eb) ∧
    (∀ t, f.toNat < 18 → spanTrap s.core .store a (32 * eb) 16 (decide (g = 2)) = some t → exec (.mstore p g f) s = .next (s.finish t)) ∧
    (f.toNat < 18 → fits → s.fmtHeld f.toNat = false → pathOf a = some (.tcm, off) → ∃ u : State,
      exec (.mstore p g f) s = .next ((flags u (if f = 0 then 0 else fl .rne)).finish .next) ∧
      let d := s.drainWords true (((List.range (32 * eb)).map (fun k => (off + k) / 4)).dedup)
      d.core.mem.tcm.Written u.core.mem.tcm off bs ∧ u = { d with core := { d.core with
        mem := { d.core.mem with tcm := u.core.mem.tcm }, x := { d.core.x with touchTcm := u.core.x.touchTcm } } }) ∧
    (∀ x c b, f.toNat < 18 → fits → s.fmtHeld f.toNat = false → pathOf a = some (.global, off) → s.core.x.ctx = some x → x.seq < 0xFFFFFFFF →
      s.pieceKeys .global a off (inst x) (List.range (2 * eb)) = .error (c, b) →
      exec (.mstore p g f) s = .next (State.finish ((s.onX (fun y => { y with ctx := some { x with seq := x.seq + 1 } })).defer c b) .next)) ∧
    (∀ x, f.toNat < 18 → fits → s.fmtHeld f.toNat = false → pathOf a = some (.global, off) → s.core.x.ctx = some x → x.seq < 0xFFFFFFFF →
      (∀ i < 2 * eb, ∃ n, s.walked (s.core.part s) (decide (s.core.x.mode = .user)) true (off + 16 * i) (inst x) = .ok n) →
      ∃ (u : State) (sent : List TStore), exec (.mstore p g f) s = .next ((flags u (if f = 0 then 0 else fl .rne)).finish .next) ∧
        u.core = { s.core with x := { s.core.x with ctx := some { x with seq := x.seq + 1 } } } ∧
        u.dev.timed.flight = s.dev.timed.flight ++ sent ∧ (∀ t ∈ sent, t.seq = x.seq ∧ t.token = x.token ∧ t.drop = false ∧
          t.inst = inst x) ∧
        sent.flatMap (fun t => t.data.map (fun b => (t.addr + BitVec.ofNat 64 b.1, b.2))) =
          bs.zipIdx.map (fun b => (a + BitVec.ofNat 64 b.2, b.1)))

/-! ### Tasks, messages and splices (majors 0x30 to 0x32) -/

/-- R214 to R219: publications and signals leave for the dispatcher that owns the node; `targ` reads the task's items;
`tret` frees the core and retires the task once everything it waits for is done. That the owner of a node which is not loaded
is the own shingle's dispatcher, and that `tret` waits for a deferred fault, are the model's choice (log entry 51). -/
def Obligations.TaskResults : Prop :=
  ∀ (s : State) (d a b : RegNo) (x : Ctx), s.core.x.ctx = some x → s.core.id < coreCount →
    let v := s.g a
    let node := (s.g d).toNat % 2 ^ 28
    let r := s.settleAt (s.g d) 64
    let bs := r.core.mem.tcm.readN ((s.g d).toNat % 2 ^ 56) 64
    let spawned := bs.take 12 ++ bytesOf 2 x.gen.toNat ++ bs.drop 14
    let leaves (u : State) (i : Instr) (node : Nat) (body : Body) : Prop :=
      ∃ owner, ((∀ l, s.loadedFor x.part node = some l → owner = l.owner) ∧
        (s.loadedFor x.part node = none → owner = shingleOf s.core.id)) ∧
      let m : Message := ⟨.c0, 8 * s.core.id, 2 ^ 32 + owner, Config.deviceId.toNat, .direct, body⟩
      let behind : Prop := ∃ y ∈ s.core.ni.staging, (y.2.cls, y.2.src, y.2.dst, y.2.device) = (m.cls, m.src, m.dst, m.device)
      let to_ (f : Fabric → Fabric) : Prop := exec i s = .next (State.finish (u.onDev (fun e => { e with fab := f e.fab })) .next)
      (behind → exec i s = .next (State.finish (u.onNi (fun n => { n with staging := n.staging ++ [(x.run, m)] })) .next)) ∧
      (¬behind → s.gateShut s.core.id = false → to_ (fun f => { f with msgs := f.msgs ++ [m] })) ∧
      (¬behind → s.gateShut s.core.id = true → to_ (fun f => { f with gate := f.gate ++ [m] }))
    let item (v : Word) : Prop := exec (.targ d a) s = .next ((s.setG d v).finish .next)
    (∀ f, s.tcmTrap .load (s.g d) 64 64 = some f → exec (.tspawn d) s = .next (s.finish f)) ∧
    (s.tcmTrap .load (s.g d) 64 64 = none →
      leaves r (.tspawn d) (bitsOf (natOf spawned) 91 64) (.taskRecord (some x.part) spawned none)) ∧
    leaves s (.tpub d a b) node (.publish x.part node v x.gen ((s.g b).toNat % 2 ^ 56) none 0) ∧
    leaves s (.tsig d a) node (.signal x.part node v x.gen x.pub false false) ∧
    (∀ l e y, v.toNat < 8 → s.nodeFor x.part x.node = some (l, e) → e.args[v.toNat]? = some y →
      item (argAddress l.tmpl.widths x.wid y)) ∧
    (v = 8 → (∀ o, x.inline = some o → item (BitVec.ofNat 64 (2 ^ 61 + o))) ∧ (x.inline = none → item 0)) ∧
    (v = 9 → item x.reply) ∧
    (v = 10 → item (if x.poison then 1 else 0)) ∧ (v = 11 → item (x.gen.setWidth 64)) ∧ (11 < v.toNat → item 0) ∧
    (s.core.x.inHandler = true → exec .tret s = s.illegal .tret) ∧
    (s.core.x.inHandler = false → ((∃ y ∈ s.core.eng.remote, y.ofCtx = true) ∨ s.fenceWaits s.core.sw.fenceScope = true ∨
      (∃ y ∈ s.core.eng.copies, y.reader.run = x.run) ∨ (∃ i, s.appending i = true) ∨ s.dropUnacked x.run = true ∨ (s.core.x.mode = .user ∧ s.core.x.deferred ≠ [])) →
      exec .tret s = s.stay .drain 0) ∧
    (s.core.x.inHandler = false → s.retireWaits = false → s.core.x.inPair = false → s.core.gang = [] → ∃ t : State,
      exec .tret s = .next t ∧ t.core.x.run = .idle ∧ t.core.x.ctx = none ∧ t.core.x.mode = .user ∧
      t.core.mat = Matrix.reset ∧ t.core.csr.tip = false ∧ (∀ i : Fin 4, t.core.eng.streams[i] = none) ∧
      t.core.mem = s.drainAll.core.mem ∧ t.cores = s.cores ∧ t.dev.timed = s.dev.timed ∧
      ∀ c, s.tcbOfCtx x = some c → ∃ z ∈ t.dev.disp.tcbs,
        (z.part, z.owner, z.node, z.slot, z.wid) = (c.part, c.owner, c.node, c.slot, c.wid) ∧
        (z.st, z.pub, z.poison, z.inline, z.reply) = (.retired, x.pub, x.poison, none, 0))

/-- R221 to R229: sending on a route, to a mailbox or as a task record; taking the record at the head of a queue into
TCM or into four vectors; binding and reading queues, routes and the stage. The values of the queue faults are the model's
reading (log entry 52, R261), and that the count of `qstat` takes in the records held for a seam its choice (log entry 84). -/
def Obligations.MessageResults : Prop :=
  ∀ (s : State) (d a b : RegNo) (q : Fin 8) (k : Fin 4), s.Sound →
    let c := s.g a
    let n := s.core.ni
    let len := c.toNat % 128
    let sent := s.settleAt (s.g d) (min 64 len)
    let bs := sent.core.mem.tcm.readN ((s.g d).toNat % 2 ^ 56) len
    let kind := c.toNat / 2 ^ 10 % 4
    let stages (i : Instr) (m : Message) (routes : Vector Route 4) : Prop :=
      exec i s = .next (State.finish (sent.onNi (fun n => { n with staging := n.staging ++ [(s.core.run, m)], routes := routes })) .next)
    let canSend : Prop := s.tcmTrap .load (s.g d) (min 64 len) 16 = none ∧ n.badControl c = false ∧ n.staging.length < 4
    let dest := c.toNat / 2 ^ 23
    let qu := n.queues[q]
    let qv : Word := BitVec.ofNat 64 q.val
    let off := (s.g a).toNat % 2 ^ 56
    let rest : Queue := { qu with recs := qu.recs.tail, heldSince := none, raised := false }
    let popped (u : State) : Prop := u.core.ni = { n with queues := n.queues.set q rest }
    let plain (r : Record) : Prop := qu.bound = true ∧ qu.recs.head? = some r ∧ r.kind ≠ 2 ∧ (qu.pipe = true → r.kind ≠ 1 ∧ r.kind ≠ 3) ∧
      qu.ringSrcs = []
    let bind (v : Word) (f : Ni → Ni) : Prop := s.g d = v → exec (.qbind d a b) s = .next ((s.onNi f).finish .next)
    (canSend → kind = 0 → ∀ e, n.routes[(c.toNat / 2 ^ 8 % 4) % 4]'(by omega) = e → ∀ ep, e.ep = some ep →
      ∃ m : Message, stages (.send d a) m (n.routes.set ((c.toNat / 2 ^ 8 % 4) % 4) { e with serial := e.serial + 1 } (by omega)) ∧
        (m.cls, m.dst, m.device) = (.c2, 8 * (ep / 8 % 2 ^ 18) + ep % 8, ep / 2 ^ 21 % 2 ^ 20) ∧
        ∃ r : Record, m.body = .record ep r ∧ r.payload = (bs ++ List.replicate 64 0).take 64 ∧
          (r.len, r.serial, r.kind, r.as) = (len, e.serial, 0, e.as)) ∧
    (canSend → kind = 1 → stages (.send d a) ⟨.c0, 8 * s.core.id, 8 * (dest / 8 % 2 ^ 18) + dest % 8, dest / 2 ^ 21 % 2 ^ 20, .direct,
      .mailbox (dest / 8 % 2 ^ 18) (c.toNat / 2 ^ 12 % 4) (BitVec.ofNat 64 (natOf bs))⟩ n.routes) ∧
    (canSend → kind = 2 → ∃ m : Message, stages (.send d a) m n.routes ∧ (m.cls, m.device) = (.c0, dest / 2 ^ 21 % 2 ^ 20) ∧
      ∃ w, m.body = .taskRecord none bs w) ∧
    (∀ f, s.tcmTrap .load (s.g d) (min 64 len) 16 = some f → exec (.send d a) s = .next (s.finish f)) ∧
    (s.tcmTrap .load (s.g d) (min 64 len) 16 = none → n.badControl c = true → exec (.send d a) s = .next (s.finish (.trap 0x15 c 0))) ∧
    (s.tcmTrap .load (s.g d) (min 64 len) 16 = none → n.badControl c = false → 4 ≤ n.staging.length →
      exec (.send d a) s = s.stay .staging 0) ∧
    (∀ r, s.g b = qv → s.tcmTrap .store (s.g a) 64 16 = none → plain r → r.payload.length = 64 → ∃ u : State,
      let t := s.settleAt (s.g a) 64
      exec (.recv d a b) s = .next (State.finish (u.setG d
        (BitVec.ofNat 64 (r.serial.toNat * 65536 + r.len % 128 * 32 + (if r.as then 8 else 0) + r.kind.toNat))) .next) ∧
      t.core.mem.tcm.Written u.core.mem.tcm off r.payload ∧ popped u ∧ u.core.r = t.core.r ∧ u.core.sw = t.core.sw ∧
      (∀ w, w ∈ u.core.mem.tcmEmpty ↔ w ∈ t.core.mem.tcmEmpty ∧ ¬(off / 4 ≤ w ∧ w ≤ (off + 63) / 4))) ∧
    (s.g b = qv → s.tcmTrap .store (s.g a) 64 16 = none → qu.bound = false → exec (.recv d a b) s = .next (s.finish (.trap 0x15 qv 0))) ∧
    (s.g b = qv → s.tcmTrap .store (s.g a) 64 16 = none → qu.bound = true → qu.recs = [] → qu.ringSrcs = [] → qu.mode ≠ 2 →
      exec (.recv d a b) s = s.stay .queue qv) ∧
    (∀ r, c = qv → d.toNat ≤ 28 → (∀ i : Fin 4, s.core.eng.streams[i] = none) → plain r → r.kind = 0 → r.payload.length = 64 →
      let sum (v w : Nat) : Nat × FpFlags :=
        roundF32 (fpAdd (f32 (lane 32 (s.core.r.readV (BitVec.ofNat 5 (d.toNat + v))) w).toNat) (f32 (natOf ((r.payload.drop (16 * v + 4 * w)).take 4))))
      ∃ u : State, exec (.recvadd d a) s = .next (u.finish .next) ∧ popped u ∧ u.core.r.g = s.core.r.g ∧ u.core.mem = s.core.mem ∧
        (∀ v < 4, ∀ w < 4, lane 32 (u.core.r.readV (BitVec.ofNat 5 (d.toNat + v))) w = BitVec.ofNat 32 (sum v w).1) ∧
        (∀ y : RegNo, (y.toNat < d.toNat ∨ d.toNat + 4 ≤ y.toNat) → u.core.r.readV y = s.core.r.readV y) ∧
        u.core.sw = { s.core.sw with fstat := s.core.sw.fstat ||| orFlags ((List.range 16).map (fun j => (sum (j / 4) (j % 4)).2)) }) ∧
    (∀ r, c = qv → d.toNat ≤ 28 → (∀ i : Fin 4, s.core.eng.streams[i] = none) → plain r → r.kind ≠ 0 →
      exec (.recvadd d a) s = .next (s.finish (.trap 0x15 c 0))) ∧
    (28 < d.toNat → exec (.recvadd d a) s = s.illegal (.recvadd d a)) ∧
    (∀ m < 3, ∀ pipe : Bool, ∀ cap ∈ 0 :: (List.range 11).map (fun i => 32 * 2 ^ i),
      let w : Word := BitVec.ofNat 64 (q.val + 16 * m + (if pipe then 64 else 0) + 256 * cap)
      (∀ f, cap ≠ 0 → spanTrap s.core .store (s.g a) (128 * cap) 128 false = some f → s.g d = w → exec (.qbind d a b) s = .next (s.finish f)) ∧
      (qu.ringSrcs = [] → (cap ≠ 0 → spanTrap s.core .store (s.g a) (128 * cap) 128 false = none) →
        bind w (fun n => { n with queues := n.queues.set q { qu with
          bound := true, mode := BitVec.ofNat 2 m, pipe := pipe, ring := s.g a, cap := cap, node := (s.g b).toNat % 2 ^ 28,
          gen := (s.g b).extractLsb' 32 16, arrivals := 0, ringHead := 0, ringTail := 0 } }))) ∧
    (qu.recs = [] → qu.held = [] → qu.ringSrcs = [] →
      bind (BitVec.ofNat 64 (q.val + 48)) (fun n => { n with queues := n.queues.set q Queue.unbound })) ∧
    ((∀ p, n.prep = some p → p.failed = true) → bind (BitVec.ofNat 64 (8 + k.val)) (fun n =>
      { n with routes := n.routes.set k ⟨if c.getLsbD 63 then some (c.toNat % 2 ^ 41) else none, 0, false⟩ })) ∧
    (∀ p, n.prep = some p → p.failed = false → s.g d = BitVec.ofNat 64 (8 + k.val) →
      exec (.qbind d a b) s = .next (s.finish (.trap 0x16 (BitVec.ofNat 64 p.queue) 0))) ∧
    bind 12 (fun n => { n with stage := c.setWidth 32 }) ∧
    (∀ v, s.g d = v → 2 ^ 24 ≤ v.toNat → v.toNat % 16 < 8 → v.extractLsb' 4 2 = 3 →
      exec (.qbind d a b) s = .next (s.finish (.trap 0x15 v 0))) ∧
    (∃ v : Word, exec (.qstat d a) s = .next ((s.setG d v).finish .next) ∧
      (c.toNat % 16 = 12 → v = n.stage.setWidth 64) ∧ (12 < c.toNat % 16 → v = 0) ∧
      (c.toNat % 16 = 8 + k.val → v = match n.routes[k].ep with
        | some e => BitVec.ofNat 64 (2 ^ 63 + e)
        | none => 0) ∧
      (c.toNat % 16 = q.val → v = BitVec.ofNat 64 ((if qu.bound then 2 ^ 63 else 0) + qu.mode.toNat * 2 ^ 61 + (if qu.pipe then 2 ^ 60 else 0) +
        (if qu.heldSince.isSome then 2 ^ 59 else 0) + qu.cap % 65536 * 65536 +
        min 65535 (qu.recs.length + qu.ringSrcs.length + qu.held.length))))

/-- R232 to R237, R247: a splice record goes out with its operation in byte 4; a preparation begins in the handler of
cause 2; a commit applies the edit whole, with a seam or a link, and a failure leaves every route and sends a nack on each; the
marker is popped from every input; each outside its place takes the splice fault. What `spl.cmt` finds after the watchdog, and
when the reasons are judged, are the model's reading (log entries 28 and 29). -/
def Obligations.SpliceResults : Prop :=
  ∀ (s : State) (d a b : RegNo),
    let c := s.g a
    let n := s.core.ni
    let v := s.g a
    let k := s.core.id
    let t := s.settleAt (s.g d) 64
    let sends (op : Nat) (i : Instr) : Prop :=
      (∀ f, s.tcmTrap .load (s.g d) 64 16 = some f → exec i s = .next (s.finish f)) ∧
      (s.tcmTrap .load (s.g d) 64 16 = none → (n.badControl c = true ∨ c.toNat % 128 ≠ 64 ∨ c.toNat / 2 ^ 10 % 4 ≠ 0) →
        exec i s = .next (s.finish (.trap 0x15 c 0))) ∧
      (s.tcmTrap .load (s.g d) 64 16 = none → n.badControl c = false → c.toNat % 128 = 64 → c.toNat / 2 ^ 10 % 4 = 0 →
        4 ≤ n.staging.length → exec i s = s.stay .staging 0) ∧
      (s.tcmTrap .load (s.g d) 64 16 = none → n.badControl c = false → c.toNat % 128 = 64 → c.toNat / 2 ^ 10 % 4 = 0 →
        n.staging.length < 4 → ∃ (u : State) (m : Message) (ep : Nat) (r : Record), exec i s = .next (u.finish .next) ∧
          u = t.onNi (fun n => { n with staging := n.staging ++ [(s.core.run, m)], routes := u.core.ni.routes }) ∧ m.body = .record ep r ∧
          (r.kind, r.len) = (1, 64) ∧ r.payload[4]? = some (BitVec.ofNat 8 op) ∧
          ∀ j < 64, j ≠ 4 → r.payload[j]? = some (t.core.mem.tcm.read ((s.g d).toNat % 2 ^ 56 + j)))
    let q : Fin 8 := ⟨v.toNat % 8, by omega⟩
    let asked (r : Record) : Prop := s.core.x.inHandler = true ∧ s.core.sw.ucause = 2 ∧ v = s.core.sw.uval ∧ v.toNat < 8 ∧
      (∀ p, n.prep = some p → p.failed = true) ∧ n.queues[q].raised = true ∧ n.queues[q].recs.head? = some r ∧ r.kind = 1
    sends 0 (.spliceIns d a) ∧ sends 1 (.spliceEli d a) ∧ sends 2 (.spliceReb d a) ∧
    ((∀ r, ¬asked r) → exec (.splPrep d a b) s = .next (s.finish (.trap 0x16 v 0))) ∧
    (∀ r f, asked r → s.tcmTrap .load (s.g b) (spliceSize r) 64 = some f → exec (.splPrep d a b) s = .next (s.finish f)) ∧
    (∀ r, asked r → s.tcmTrap .load (s.g b) (spliceSize r) 64 = none → ∃ (u : State) (p : Prep),
      exec (.splPrep d a b) s = .next (State.finish (u.setG d 0) .next) ∧ u.core.ni = { n with prep := some p } ∧
      (p.queue, p.record, p.block, p.failed, p.placed) = (v.toNat, r, s.g b, false, none) ∧
      (p.reason ≠ 0 → p.ready = true) ∧ u.core.r = s.core.r ∧ u.dev = s.dev ∧ u.cores = s.cores) ∧
    (n.prep = none → exec (.splCmt d) s = .next (s.finish (.trap 0x16 s.core.sw.uval 0)) ∧
      exec .splAbt s = .next (s.finish (.trap 0x16 s.core.sw.uval 0))) ∧
    (∀ p, n.prep = some p →
      let cleared (t : State) : State := t.onNi (fun n => { n with prep := none })
      (p.failed = true → exec (.splCmt d) s = .next (State.finish ((cleared s).setG d (BitVec.ofNat 64 p.reason)) .next) ∧
        exec .splAbt s = .next ((cleared s).finish .next)) ∧
      (p.failed = false → p.ready = false → exec (.splCmt d) s = s.stay .prep 0) ∧
      let serial := spliceSerial p.record
      let op := spliceOp p.record
      let marker (y : Queue) : Prop := y.bound = true ∧ y.pipe = true ∧ ∃ h rest, y.recs = h :: rest ∧ (h.kind = 1 ∨ h.kind = 3) ∧
        spliceSerial h = serial
      let popped (u : State) : Prop := (∀ j : Fin 8, n.queues[j].ringSrcs = []) → ∀ j : Fin 8, let y := n.queues[j]
        (marker y → u.core.ni.queues[j] = { y with recs := y.recs.tail, heldSince := none, raised := false }) ∧
        (¬marker y → u.core.ni.queues[j] = y)
      let posted (u : State) (m : Message) : Prop := m ∈ u.dev.fab.msgs ∨ m ∈ u.dev.fab.gate ∨ m ∈ u.core.ni.staging.map (fun y => y.2)
      let fails (reason : Nat) (i : Instr) (f : State → State) : Prop := let u := s.failSplice k p.record reason
        exec i s = .next ((f (cleared u)).finish .next) ∧
        (p.placed = none → popped u ∧ (∀ j : Fin 4, u.core.ni.routes[j].ep = n.routes[j].ep ∧ u.core.ni.routes[j].as = n.routes[j].as) ∧
          ∀ (j : Fin 4) (ep : Nat), n.routes[j].ep = some ep → (s.core.run, ⟨.c2, 4 * k + j.val, epMesh ep, epDevice ep, .direct,
            .record ep ⟨withReason p.record reason, 64, n.routes[j].serial, 3, n.routes[j].as, 4 * k + j.val⟩⟩) ∈ u.core.ni.staging)
      let commits (u : State) : Prop := exec (.splCmt d) s = .next (State.finish (u.setG d 0) .next) ∧ u.core.ni.prep = none ∧ popped u ∧
        u.core.r = s.core.r ∧ u.core.mem = s.core.mem
      let sound : Prop := p.failed = false ∧ p.ready = true ∧ p.reason = 0
      let part := s.splicePart k
      let code (c : Nat) : Bool := s.nodeResident c part (spliceNode p.record)
      (p.failed = false → p.ready = true → p.reason ≠ 0 → fails p.reason (.splCmt d) (fun u => u.setG d (BitVec.ofNat 64 p.reason))) ∧
      (sound → (op = 0 ∧ p.placed = none) → fails 1 (.splCmt d) (fun u => u.setG d 1)) ∧
      (sound → ((∃ c, op = 0 ∧ p.placed = some c ∧ code c = false) ∨ (2 ≤ op ∧ code k = false)) → fails 2 (.splCmt d) (fun u => u.setG d 2)) ∧
      (∀ c, sound → op = 0 → p.placed = some c → code c = true → Config.coreRev (s.coreAt c).phys ≠ Config.coreRev s.core.phys →
        fails 3 (.splCmt d) (fun u => u.setG d 3)) ∧
      (∀ c, sound → s.Numbered → op = 0 → p.placed = some c → c ≠ k → code c = true →
        Config.coreRev (s.coreAt c).phys = Config.coreRev s.core.phys → ∃ u, commits u ∧
          u.core.ni.routes = n.routes.set (0 : Fin 4) ⟨some (ownEndpoint c (spliceField p.record 23 16 % 8)), 0, false⟩ ∧
          (∀ ep, n.routes[0].ep = some ep →
            (s.core.run, ⟨.c2, 4 * k, epMesh ep, epDevice ep, .direct, .seam ep (4 * k)⟩) ∈ u.core.ni.staging) ∧
          (u.coreAt c).ni.routes = (s.coreAt c).ni.routes.set (0 : Fin 4) { (s.coreAt c).ni.routes[0] with as := true } ∧
          ∀ j, j ≠ c → j ≠ k → u.coreAt j = s.coreAt j) ∧
      (sound → op = 1 → ∃ u, commits u ∧ u.core.ni.routes = n.routes ∧ u.core.ni.eliding = some p ∧ u.cores = s.cores ∧
        (sourceDevice p.record.src = ownDevice → posted u ⟨.c0, 8 * k, 8 * sourceCore p.record.src, ownDevice, .direct,
          .link (p.record.src % 2 ^ 20) (ownEndpoint k p.queue) ((n.routes[0].ep).getD 0) (ownEndpoint k 0) serial.toNat
            (spliceReply p.record)⟩)) ∧
      (sound → 2 ≤ op → code k = true → ∃ u, commits u ∧ u.core.ni.routes = n.routes ∧
        u.core.ni.rebind = some (spliceNode p.record) ∧ u.cores = s.cores) ∧
      (p.failed = false → fails 6 .splAbt (fun u => u)))

/-! ### User-level interrupts, CSRs and the supervisor (R171 to R174, R253 to R263) -/

/-- R171 to R174: enabling, disabling, `trap`, entering the handler of the lowest enabled pending cause at a clause
boundary, and returning from it with the task's g12 to g19. -/
def Obligations.UserInterruptResults : Prop :=
  ∀ (s : State) (m : BitVec 6) (n : BitVec 12),
    exec (.uien m) s = .next (State.finish (s.onSw (fun w => { w with en := w.en ||| m })) .next) ∧
    exec (.uidis m) s = .next (State.finish (s.onSw (fun w => { w with en := w.en &&& ~~~m, pend := w.pend &&& ~~~m })) .next) ∧
    exec (.trap n) s = .next (s.finish (.trapAfter 0x20 (BitVec.ofNat 64 n.toNat))) ∧
    (s.core.x.inHandler = false → exec .uiret s = s.illegal .uiret) ∧
    (s.core.x.inHandler = true → s.core.ni.rebind = none → s.core.x.inPair = false → ∃ t : State, exec .uiret s = .next t ∧
      t.core.x.inHandler = false ∧ t.core.x.pc = s.core.sw.uepc ∧ t.core.x.loops = s.core.x.uLoops ∧ t.core.x.mode = s.core.x.mode ∧
      t.core.x.handBank = false ∧
      (s.core.x.handBank = true → ∀ i : Fin 8,
        t.core.r.g[12 + i.val]'(by omega) = s.core.r.bank[i] ∧ t.core.r.bank[i] = s.core.r.g[12 + i.val]'(by omega)) ∧
      (s.core.x.handBank = false → t.core.r = s.core.r) ∧
      (∀ i : Fin 32, i.val < 12 ∨ 20 ≤ i.val → t.core.r.g[i] = s.core.r.g[i]) ∧ t.core.r.v = s.core.r.v ∧ t.core.r.p = s.core.r.p ∧
      t.core.sw = s.core.sw ∧ t.core.mem = s.core.mem ∧ t.dev = s.dev ∧ t.cores = s.cores) ∧
    (∀ i : Fin 6, s.core.canTakeUser = true → s.core.canTakeFault = false → s.core.canTakeEvent = false →
      s.core.atBoundary = true → s.core.x.stopped = none → s.clockGated s.core.id = false → s.core.gang = [] →
      (s.core.sw.en &&& s.core.sw.pend).getLsbD i.val = true → (∀ j < i.val, (s.core.sw.en &&& s.core.sw.pend).getLsbD j = false) →
      ∃ t : State, exec .userInterruptEntry s = .next t ∧ t.core.x.inHandler = true ∧ t.core.x.pc = s.core.sw.uvec &&& 0xFFF8 ∧
        t.core.sw = { s.core.sw with
          uepc := s.core.x.pc, ucause := BitVec.ofNat 8 i.val, uval := s.core.sw.pendVal[i], pend := t.core.sw.pend } ∧
        (∀ j < 6, t.core.sw.pend.getLsbD j = (s.core.sw.pend.getLsbD j && decide (j ≠ i.val))) ∧ t.core.x.uLoops = s.core.x.loops ∧
        (∀ k : Fin 3, t.core.x.loops[k].active = false ∧ t.core.x.loops[k].lc = s.core.x.loops[k].lc) ∧
        t.core.x.handBank = true ∧ (s.core.x.handBank = true → t.core.r = s.core.r) ∧
        (s.core.x.handBank = false → ∀ k : Fin 8, t.core.r.g[12 + k.val]'(by omega) = s.core.r.bank[k] ∧
          t.core.r.bank[k] = s.core.r.g[12 + k.val]'(by omega)) ∧ t.core.mem = s.core.mem ∧ t.dev = s.dev) ∧
    ((s.core.canTakeUser = false ∨ s.core.canTakeFault = true ∨ s.core.canTakeEvent = true ∨ s.core.atBoundary = false ∨
      s.core.x.stopped ≠ none ∨ s.clockGated s.core.id = true) → exec .userInterruptEntry s = .next s)

/-- R115, R116, R253: in user mode every system instruction takes the privilege trap with its own word as the value
and changes nothing else; in supervisor mode an unassigned CSR number is illegal.
R253 to R260: what a CSR reads, what a write, a set and a clear do to each, in supervisor mode. That REQ written with no
context reads back clear is the model's reading of R312 (log entry 53). -/
def Obligations.PrivilegeAndCsrResults : Prop :=
  (∀ (s : State) (d : RegNo) (n : BitVec 12),
    let traps (i : Instr) : Prop := exec i s = .next (s.finish (.trap 0x03 ((s.wordAtIssue i).setWidth 64) 0))
    let reserved : Prop := (0x00A < n.toNat ∧ n.toNat < 0x010) ∨ (0x015 < n.toNat ∧ n.toNat < 0x020) ∨ 0x027 < n.toNat
    (s.core.x.mode = .user → traps (.csrr d n) ∧ traps (.csrw d n) ∧ traps (.csrs d n) ∧ traps (.csrc d n) ∧ traps .xret ∧ traps .wfi) ∧
    (s.core.x.mode = .supervisor → reserved → exec (.csrr d n) s = s.illegal (.csrr d n) ∧
      exec (.csrw d n) s = s.illegal (.csrw d n) ∧ exec (.csrs d n) s = s.illegal (.csrs d n) ∧ exec (.csrc d n) s = s.illegal (.csrc d n)) ∧
    (∀ i, s.illegal i = .next (s.finish (.trap 0x01 ((s.wordAtIssue i).setWidth 64) 0)))) ∧
  (∀ (s : State) (d a : RegNo), s.core.x.mode = .supervisor →
    let v := s.g a
    let x := s.core.csr
    let b (c : Prop) [Decidable c] (i : Nat) : Nat := if c then 2 ^ i else 0
    let num (n : Nat) : BitVec 12 := BitVec.ofNat 12 n
    let at_ (n : Nat) (old : Word) (f : Word → Csrs → Csrs) : Prop :=
      exec (.csrr d (num n)) s = .next ((s.setG d old).finish .next) ∧
      exec (.csrw a (num n)) s = .next ((s.onCsr (f v)).finish .next) ∧
      exec (.csrs a (num n)) s = .next ((s.onCsr (f (old ||| v))).finish .next) ∧
      exec (.csrc a (num n)) s = .next ((s.onCsr (f (old &&& ~~~v))).finish .next)
    exec (.csrr d 0) s = .next (State.finish (s.setG d (BitVec.ofNat 64 (b (x.me = true) 7 + b (x.sb = true) 6 + b (x.la = true) 5 +
      b (x.puh = true) 4 + b (x.pm = .supervisor) 3 + b (s.core.eng.remote.any Remote.ofCtx = true) 1 + b (x.tip = true) 0))) .next) ∧
    (∃ u : State, exec (.csrw a 0) s = .next (u.finish .next) ∧ u.core.csr = { x with
      me := v.getLsbD 7, puh := v.getLsbD 4, pm := if v.getLsbD 3 then .supervisor else .user, tip := v.getLsbD 0 } ∧
      u.core.x = { s.core.x with ev18 := s.core.x.ev18 || (v.getLsbD 7 && !x.me && x.req) }) ∧
    at_ 1 (x.xepc.setWidth 64) (fun v x => { x with xepc := v.setWidth 16 &&& 0xFFFC }) ∧
    at_ 2 (x.xcause.setWidth 64) (fun v x => { x with xcause := v.setWidth 8 }) ∧
    at_ 3 x.xval (fun v x => { x with xval := v }) ∧
    at_ 4 x.xval2 (fun v x => { x with xval2 := v }) ∧
    at_ 5 (x.xtvec.setWidth 64) (fun v x => { x with xtvec := v.setWidth 16 &&& 0xFFFC }) ∧
    at_ 6 x.xscratch (fun v x => { x with xscratch := v }) ∧
    exec (.csrr d 7) s = .next (State.finish (s.setG d
      (BitVec.ofNat 64 (b (x.req = true) 63 + 2 ^ 18 * x.why.toNat + x.target.toNat))) .next) ∧
    (∃ u : State, exec (.csrw a 7) s = .next (u.finish .next) ∧ u.core.csr = { x with
      req := v.getLsbD 63 && s.core.x.ctx.isSome, why := v.extractLsb' 18 2, target := v.extractLsb' 0 18 } ∧
      u.core.x.ev18 = (s.core.x.ev18 || (v.getLsbD 63 && s.core.x.ctx.isSome && !x.req && x.me))) ∧
    (v.toNat % 4 = 0 ∨ v.toNat % 4 = 3 → exec (.csrw a 8) s = .next (s.finish .next)) ∧
    (exec (.csrr d 9) s = .next ((s.setG d 0).finish .next) ∧ exec (.csrw a 9) s = .next ((s.endContext (v.setWidth 8)).finish .next)) ∧
    at_ 10 (BitVec.ofNat 64 (b (x.supEn = true) 8 + 16 * x.ifr.toNat + x.tfr.toNat))
      (fun v x => { x with supEn := v.getLsbD 8, ifr := v.extractLsb' 4 4, tfr := v.extractLsb' 0 4 }) ∧
    at_ 16 x.sstkb (fun v x => { x with sstkb := v }) ∧
    at_ 17 x.sstkl (fun v x => { x with sstkl := v }) ∧
    at_ 18 (BitVec.ofNat 64 (x.sParkCycles.toNat + 2 ^ 62 * x.sRscope.toNat))
      (fun v x => { x with sParkCycles := v.setWidth 32, sRscope := v.extractLsb' 62 2 }) ∧
    at_ 19 (x.sscope.setWidth 64) (fun v x => { x with sscope := v.setWidth 37 }) ∧
    at_ 20 (x.suvec.setWidth 64) (fun v x => { x with suvec := v.setWidth 16 &&& 0xFFFC }) ∧
    at_ 21 (x.suien.setWidth 64) (fun v x => { x with suien := v.setWidth 6 }) ∧
    (∀ k : Fin 8, at_ (32 + k.val) x.prof[k] (fun v x => { x with prof := x.prof.set k v })))

/-- R261, R262, R264, R266: what entering a trap saves and where it goes; a second trap stops the core's clock; `xret`
restores what the trap saved, and `wfi` waits for an event. That a nested trap's levels take the place of those saved, and that
`xret` to user mode with no context leaves the core without work, are the model's choice (log entries 82 and 15). -/
def Obligations.TrapEntryAndReturn : Prop :=
  ∀ (s : State) (code : BitVec 8) (v w : Word), s.core.x.inPair = false →
    let c := s.core
    let t := s.finish (.trap code v w)
    (c.csr.tip = false → c.gang = [] →
      t = { s with core := { c with csr := t.core.csr, x := t.core.x } } ∧
      t.core.csr = { c.csr with
        xepc := c.x.pc, xcause := code, xval := v, xval2 := w, pm := c.x.mode, puh := c.x.inHandler,
        la := c.x.loops[0].active || c.x.loops[1].active || c.x.loops[2].active, sb := t.core.csr.sb, tip := true } ∧
      (t.core.csr.sb = true ↔ ∃ i : Fin 4, c.eng.streams[i] ≠ none) ∧
      t.core.x = { c.x with mode := .supervisor, inHandler := false, pc := c.csr.xtvec &&& 0xFFF8, xLoops := c.x.loops,
                            loops := t.core.x.loops, wait := none } ∧
      (∀ k : Fin 3, t.core.x.loops[k] = { c.x.loops[k] with active := false, cap := [] })) ∧
    (c.csr.tip = true → t = s.onX (fun x => { x with stopped := some .doubleTrap, double := some (code, v, w), wait := none })) ∧
    (c.x.mode = .supervisor → c.x.ended = false → (c.x.ctx ≠ none ∨ c.csr.pm = .supervisor) → ∃ u : State,
      exec .xret s = .next u ∧ u = { s with core := { c with csr := u.core.csr, x := u.core.x } } ∧
      u.core.csr = { c.csr with tip := false } ∧
      u.core.x = { c.x with pc := c.csr.xepc, mode := c.csr.pm, inHandler := c.csr.puh, loops := c.x.xLoops, ras := [], wait := none }) ∧
    (c.x.mode = .supervisor → (c.x.ended = true ∨ (c.x.ctx = none ∧ c.csr.pm = .user)) → ∃ u : State, exec .xret s = .next u ∧ u.core.csr.tip = false ∧
      u.core.x.mode = .user ∧ u.core.x.run = .idle ∧ u.core.x.ctx = none) ∧
    (c.x.mode = .supervisor → c.x.ev18 = false → c.x.ev19 = none →
      (c.sw.mboxf = 0 → exec .wfi s = s.stay .event 0) ∧ (c.sw.mboxf ≠ 0 → exec .wfi s = .next (s.finish .next))) ∧
    (c.x.mode = .supervisor → c.x.ev18 = true → c.csr.tip = true → exec .wfi s = .next (s.finish .next))

/-! ### Timed memory, dispatch and the engines (the steps without a word) -/

/-- R7, R68, R73, R277: the instant boundary leaves the history as it was, makes the new instant visible (a byte of a
due plain store in the order of keys, every other byte as before), takes the due stores out of their homes, and
broadcasts the horizon. There is no boundary after instant 2^56 - 1 (log entry 63), and a TCB whose reclaim is due is EMPTY at the
latest when its instant ends (log entry 77): the model's choices. -/
def Obligations.InstantBoundaryResults : Prop :=
  ∀ (s : State), s.Sound →
    let next := s.dev.now + 1
    (next = 2 ^ 56 → exec .instantBoundary s = .next s) ∧
    (next < 2 ^ 56 →
    let due (e : TStore) : Prop := e ∈ s.dev.timed.tense ∧ e.vis = next
    ∃ t : State, exec .instantBoundary s = .next t ∧ t.dev.now = next ∧ t.core.r = s.core.r ∧ t.core.mem = s.core.mem ∧
      t.core.csr = s.core.csr ∧ t.dev.spads = s.dev.spads ∧ t.dev.timed.flight = s.dev.timed.flight ∧
      (s.dev.trans.moves = [] → t.dev.timed.tense = s.dev.timed.tense.filter (fun e => decide (e.vis ≠ next))) ∧
      t.dev.timed.lateReports = s.dev.timed.lateReports ∧ t.dev.timed.acks = s.dev.timed.acks ∧
      (∀ inst ≤ s.dev.now, t.dev.timed.visible inst = s.dev.timed.visible inst) ∧
      (s.dev.trans.moves = [] → (∀ e, due e → e.atomic = none) →
        (∀ k, (∀ e, due e → ownKey e.base = true → ∀ b, (k, b) ∉ e.bytesAt) →
          (t.dev.timed.visible next).read k = (s.dev.timed.visible next).read k) ∧
        (∀ e k b, due e → ownKey e.base = true → (k, b) ∈ e.bytesAt → (∀ y, (k, y) ∈ e.bytesAt → y = b) →
          (∀ f y, due f → ownKey f.base = true → (k, y) ∈ f.bytesAt → f ≠ e → f.key < e.key) →
          (t.dev.timed.visible next).read k = b)) ∧
      (s.quiesced = false → ∀ p q, s.partition p = some q → ∃ u, t.partition p = some u ∧ u.horizon = q.horizon1 ∧ q.horizon1 ≤ u.horizon1 ∧
        ((∀ z ∈ s.dev.disp.tcbs, z.part ≠ p) → u.horizon1 = max q.horizon1 s.dev.now) ∧
        (∀ z ∈ s.dev.disp.tcbs, z.part = p → z.st = .retired → z.pub + 256 ≤ q.horizon → ∃ y ∈ t.dev.disp.tcbs, y.st = .empty ∧
          (y.part, y.owner, y.node, y.slot, y.wid, y.gen) = (z.part, z.owner, z.node, z.slot, z.wid, z.gen))))

/-- R63, R65 to R68, R74, R76, R145, R147 to R149, R278, R327: what a home does with a store and a load, what reports and
replies do at a core, and how a purge runs. The model's choices are these: a report finds its task by the number of its start (log entry 18), a purge is confirmed
by the homes that hold an entry of the task, the homes of other parts together (log entry 22), refusals and errors of homes are
free values (log entry 23), and a home accepts by its room alone (log entry 24). -/
def Obligations.HomeResults : Prop :=
  ∀ (s : State) (n core tag : Nat),
    let m := s.dev.timed
    let now := s.dev.now
    (∀ e key, m.flight[n]? = some e → e.home = some key → e.atomic = none → s.dev.trans.moves = [] → e.fwd = none → e.gate = false →
      e.device = none → ownKey key = true → s.mayAccept e key = true → s.hostBehind e = false → s.queued (.store e.id) = false →
      Config.homeEcc s.dev.tick = false → ∃ u : Timed,
      exec (.homeStoreAccept n) s = .next (s.onTimed (fun _ => u)) ∧ u.flight = dropAt m.flight n ∧ u.versions = m.versions ∧
      (e.inst ≤ now → e.drop = true → u.tense = m.tense) ∧
      (e.inst ≤ now → e.drop = false → u.tense = m.tense ++ [{ e with accepted := now, vis := now + 1, late := true }]) ∧
      (now < e.inst → u.tense = m.tense ++ [{ e with accepted := now, vis := e.inst, late := false }] ∧ u.lateReports = m.lateReports) ∧
      (e.inst ≤ now → e.qst = false → (e.src = .task ∨ e.src = .supervisor) →
        u.lateReports = m.lateReports ++ [⟨e.core, e.run, e.addr, e.drop, e.clause⟩]) ∧
      ((e.src = .task ∨ e.src = .supervisor) → u.acks = m.acks ++ [⟨e.core, e.run, e.drop⟩])) ∧
    (∀ e, m.flight[n]? = some e → (e.home = none ∨ e.gate = true ∨ s.hostBehind e = true ∨ s.queued (.store e.id) = true ∨
        ∃ key, e.home = some key ∧ ownKey key = true ∧ s.mayAccept e key = false) →
      exec (.homeStoreAccept n) s = .next s) ∧
    (∀ e key, m.flight[n]? = some e → e.home = some key → e.gate = false → e.device = none → (e.src = .task ∨ e.src = .supervisor) →
      ownKey key = true → s.mayAccept e key = true → s.queued (.store e.id) = false → Config.homeEcc s.dev.tick = true →
      let u := s.onTimed (fun m => { m with flight := dropAt m.flight n })
      (∀ a, e.atomic = some a → exec (.homeStoreAccept n) s = .next (u.setRemote e.core a.tag (.faulted 0x12))) ∧
      (e.atomic = none → e.copy = none → exec (.homeStoreAccept n) s = .next (u.asCore e.core (fun u =>
        u.deferFor ⟨decide (e.src = .task), e.token, e.run, some e.part, e.sup⟩ ⟨0x12, e.addr, e.clause, none⟩)))) ∧
    (∀ r key t, s.remoteOf core tag = some r → r.stat = .home key → r.inst = some t → t ≤ now → r.gate = false → ownKey key = true →
      s.dev.trans.moves = [] → s.queued (.access core tag) = false → ∃ st, exec (.homeLoadRequest core tag) s = .next (s.setRemote core tag st) ∧
        (st = .faulted 0x12 ∨ st = .served ((m.visible t).readN key r.width) 0)) ∧
    (∀ r key t, s.remoteOf core tag = some r → r.stat = .home key → r.inst = some t → now < t →
      exec (.homeLoadRequest core tag) s = .next s) ∧
    (∀ key d, d < 2 ^ 20 → d ≠ ownDevice → key / 2 ^ 44 = d + 1 → s.dev.trans.moves = [] →
      (s.reachable d = true →
        (∀ e, m.flight[n]? = some e → e.home = some key → s.portReady d (if e.atomic.isSome then .c1 else .c2) = false →
          exec (.homeStoreAccept n) s = .next s) ∧
        (∀ r, s.remoteOf core tag = some r → r.stat = .home key → s.portReady d .c1 = false →
          exec (.homeLoadRequest core tag) s = .next s ∧ exec (.roCacheFill core tag) s = .next s)) ∧
      (s.reachable d = false →
        (∀ e a, m.flight[n]? = some e → e.home = some key → e.gate = false → e.device = none → (e.src = .task ∨ e.src = .supervisor) →
          s.queued (.store e.id) = false → e.atomic = some a → exec (.homeStoreAccept n) s =
            .next ((s.onTimed (fun m => { m with flight := dropAt m.flight n })).setRemote e.core a.tag (.faulted 0x11))) ∧
        (∀ r t, s.remoteOf core tag = some r → r.stat = .home key → r.inst = some t → t ≤ now → r.gate = false →
          s.queued (.access core tag) = false → exec (.homeLoadRequest core tag) s = .next (s.setRemote core tag (.faulted 0x11))))) ∧
    (∀ r key, s.remoteOf core tag = some r → r.stat = .home key → r.inst = none → r.gate = false → ownKey key = true → s.dev.trans.moves = [] →
      s.queued (.access core tag) = false → exec (.roCacheFill core tag) s = .next (s.setRemote core tag (.faulted 0x12)) ∨ ∃ u : State,
        let line := (m.visible now).readN (key / 64 * 64) 64
        exec (.roCacheFill core tag) s = .next (u.setRemote core tag (.served ((line.drop (key % 64)).take r.width) 0)) ∧
        u = s.onTimed (fun m => { m with ro := u.dev.timed.ro }) ∧
        u.dev.timed.ro.head? = some ((shingleOf core, key / 64), line)) ∧
    (∀ a, m.acks[n]? = some a → s.gated a.core = false → exec (.storeAck n) s = .next (s.onTimed (fun m => { m with acks := dropAt m.acks n }))) ∧
    (∀ r, m.lateReports[n]? = some r → s.gated r.core = false → s.Numbered → ∃ t : State, exec (.lateReport n) s = .next t ∧
      t.dev.timed.lateReports = dropAt m.lateReports n ∧ (t.coreAt r.core).sw.late = countUp (s.coreAt r.core).sw.late ∧
      (∀ x, (s.coreAt r.core).x.ctx = some x → x.run = r.run →
        (s.coreAt r.core).sw.en.getLsbD 1 = true → (t.coreAt r.core).sw.pend.getLsbD 1 = true) ∧
      (∀ k, s.coreOf r.run = some k → r.dropped = true →
        (t.coreAt k).x.deferred = (s.coreAt k).x.deferred ++ [⟨0x13, r.addr, r.clause, none⟩])) ∧
    (∀ r, m.tieReports[n]? = some r → s.gated r.core = false → s.Numbered → ∃ t : State, exec (.tieReport n) s = .next t ∧
      t.dev.timed.tieReports = dropAt m.tieReports n ∧ (t.coreAt r.core).sw.tie = countUp (s.coreAt r.core).sw.tie ∧
      (∀ x, (s.coreAt r.core).x.ctx = some x → x.run = r.run → (s.coreAt r.core).sw.en.getLsbD 5 = true →
        (t.coreAt r.core).sw.pend.getLsbD 5 = true)) ∧
    (∀ r, s.core.id < 165888 → s.remoteOf s.core.id tag = some r →
      ((r.answered = false ∨ s.replyGated s.core.id r = true ∨ s.holdsReplies s.core.id = true) → exec (.remoteReply s.core.id tag) s = .next s)) ∧
    (∀ r, s.replyGated s.core.id r = false → s.holdsReplies s.core.id = false → s.core.id < 165888 → s.remoteOf s.core.id tag = some r →
      let e := { s.core.eng with remote := s.core.eng.remote.filter (fun x => decide (x.tag ≠ r.tag)) }
      let u : State := { s with core := { s.core with eng := e } }
      (∀ bs f d z, r.stat = .served bs f → r.dst = .g d z →
        let v : Word := (if z then BitVec.ofNat 64 (natOf bs % 2 ^ (8 * r.width)) else (BitVec.ofNat (8 * r.width) (natOf bs)).signExtend 64) + r.stride
        (s.core.inUse r.hand d = true → exec (.remoteReply s.core.id tag) s = .next ((u.setG d v).raise f)) ∧
        (s.core.inUse r.hand d = false → exec (.remoteReply s.core.id tag) s = .next (State.raise { u with core := { u.core with
          r := { u.core.r with bank := u.core.r.bank.set ((d.toNat - 12) % 8) v (Nat.mod_lt _ (by decide)) } } } f))) ∧
      (∀ c, r.stat = .faulted c → r.stride = 0 → r.ofCtx = false → s.core.x.ctx.isSome = true →
        exec (.remoteReply s.core.id tag) s = .next u) ∧
      (∀ c, r.stat = .faulted c → r.stride = 0 → (r.ofCtx = true ∨ s.core.x.ctx = none) → exec (.remoteReply s.core.id tag) s = .next { u with core := { u.core with
        x := { u.core.x with deferred := u.core.x.deferred ++ [⟨c, r.addr, r.clause, none⟩] } } })) ∧
    (∀ p, m.purges[n]? = some p →
      let mine (e : TStore) : Prop := e.device = none ∧ e.src = .task ∧ e.token = p.token ∧ e.part = p.part
      ((∃ e ∈ m.flight, mine e) → exec (.taskPurgeSend n) s = .next s) ∧
      ((∀ e ∈ m.flight, ¬mine e) → ∃ t : State, exec (.taskPurgeSend n) s = .next t ∧
        t.dev.timed = { m with purges := setAt m.purges n { p with sent := true } } ∧ t.core = s.core ∧ t.cores = s.cores ∧
        ((∀ e ∈ m.tense, mine e → ownKey e.base = true) → t.dev.fab = s.dev.fab)) ∧
      (p.sent = true → ∃ t : State, exec (.purgeApply n tag) s = .next t ∧ t = s.onTimed (fun m => { m with tense := t.dev.timed.tense }) ∧
        (∀ e, e ∈ t.dev.timed.tense ↔ e ∈ m.tense ∧ ¬(mine e ∧ (homeOf e.base).getD tag = tag))) ∧
      (p.sent = false → exec (.purgeApply n tag) s = .next s ∧ exec (.faultPolicyApply n) s = .next s) ∧
      (p.sent = true → s.quiesced = true → exec (.faultPolicyApply n) s = .next s) ∧
      (p.sent = true → s.quiesced = false → (∀ e ∈ m.tense, ¬mine e) → p.cause = 0 →
        exec (.faultPolicyApply n) s = .next (s.onTimed (fun m => { m with purges := dropAt m.purges n }))) ∧
      (∀ z l d, p.sent = true → s.quiesced = false → (∀ e ∈ m.tense, ¬mine e) → p.cause ≠ 0 → p.cause ≠ 0x19 → s.tcbOf p.part p.node p.wid = some z →
        z.part = p.part → s.nodeFor p.part z.node = some (l, d) → d.policy = .hold → z.relPending = false → z.abortPending = false →
        ∃ t : State, exec (.faultPolicyApply n) s = .next t ∧ t.dev.timed.purges = dropAt m.purges n ∧
          ∃ y ∈ t.dev.disp.tcbs, (y.part, y.node, y.wid, y.gen) = (z.part, z.node, z.wid, z.gen) ∧ y.st = .held))

/-- R213, R270, R273 to R276, R36, R40, R43, R135: what an owner does with a publication and a signal, how records move
through the ready queues to a core, and how waits of cores end. An instant whose reclaims have begun is ending (log entry 77); a
near record's clock stands still while the core it names could take it (log entry 20): the model's choices. -/
def Obligations.DispatchResults : Prop :=
  ∀ (s : State) (n core : Nat), s.Numbered → s.quiesced = false →
    let d := s.dev.disp
    (∀ m part node wid gen nb inline reply l e z, s.arriving n = some m → m.body = .publish part node wid gen nb inline reply →
      s.heldFirst m.body = false → s.nodeFor part node = some (l, e) → s.findSlot l node wid = .found z → z.gen = gen →
      z.st = .armed → z.published = false → 0 < (z.count + BitVec.ofNat 32 e.deps).toInt →
      exec (.publish n) s = .next ((s.takeMsg n).putTcb { z with
        count := z.count + BitVec.ofNat 32 e.deps, published := true, notBefore := nb, inline := inline, reply := reply, st := .waiting })) ∧
    (∀ m part node wid gen pub poison l e z, s.arriving n = some m → m.body = .signal part node wid gen pub poison false →
      s.heldFirst m.body = false → s.nodeFor part node = some (l, e) → s.findSlot l node wid = .found z → z.gen = gen →
      (z.st = .armed ∨ z.st = .waiting) → (z.published = true → z.count ≠ 0 ∧ z.count ≠ 1) →
      exec (.signal n) s = .next ((s.takeMsg n).putTcb { z with
        count := z.count - 1, sigmax := max z.sigmax pub, poison := z.poison || poison })) ∧
    (∀ m part node wid gen pub poison l e z, s.arriving n = some m → m.body = .signal part node wid gen pub poison false →
      s.heldFirst m.body = false → s.nodeFor part node = some (l, e) → s.findSlot l node wid = .found z → z.gen = gen →
      z.st = .waiting → z.published = true → z.count = 1 → z.abort = false → z.inline = none → z.part = part → ∃ t : State,
        let rel := max (max z.sigmax pub) (max z.notBefore (s.dev.now + 1))
        exec (.signal n) s = .next t ∧
        (∃ y ∈ t.dev.disp.tcbs, (y.part, y.node, y.wid, y.st, y.count) = (z.part, z.node, z.wid, .ready, 0) ∧
          (y.rel, y.pub, y.sigmax) = (rel, rel + e.budget, max z.sigmax pub)) ∧
        ∃ r, t.dev.disp.recs = d.recs ++ [r] ∧ (r.place, r.part, r.node, r.wid, r.prio, r.rel) = (0, z.part, z.node, z.wid, e.prio, rel) ∧
          r.cont = none) ∧
    (s.arriving n = none → exec (.publish n) s = .next s ∧ exec (.signal n) s = .next s) ∧
    (∀ h, d.heldMsgs[n]? = some h → s.heldDue h = true → (∀ x ∈ d.heldMsgs.take n, x.body.identity ≠ h.body.identity) →
      exec (.heldGenerationApply n) s = .next ((s.onDisp (fun d => { d with heldMsgs := dropAt d.heldMsgs n })).applyRecord h.body)) ∧
    (∀ z q, d.tcbs[n]? = some z → s.partition z.part = some q → z.st = .retired → z.pub + 256 ≤ q.horizon →
      s.dev.now + 1 < 2 ^ 56 → ∃ y : Tcb, exec (.tcbReclaim n) s =
        .next ((s.onDisp (fun d => { d with tcbs := setAt d.tcbs n y })).onDev (fun d => { d with ending := true })) ∧ y.st = .empty ∧ y.slot = z.slot ∧ y.gen = z.gen) ∧
    (∀ z q, d.tcbs[n]? = some z → s.partition z.part = some q → (z.st ≠ .retired ∨ q.horizon < z.pub + 256 ∨ 2 ^ 56 ≤ s.dev.now + 1) →
      exec (.tcbReclaim n) s = .next s) ∧
    (∀ r, d.recs[n]? = some r →
      let put (r : QRec) : Result := .next (s.onDisp (fun d => { d with recs := setAt d.recs n r }))
      (r.place = 0 → s.mayEnter r = true → s.queueCount r.cluster r.prio < 128 →
        exec (.clusterRecordArrival n) s = put { r with place := 1, since := s.dev.now }) ∧
      (r.place = 0 → s.mayEnter r = true → 128 ≤ s.queueCount r.cluster r.prio → s.overflowCount (clusterShingle r.cluster) r.prio < 4096 →
        exec (.clusterRecordArrival n) s = put { r with place := 2, since := s.dev.now }) ∧
      (r.place = 2 → s.queueCount r.cluster r.prio < 128 → (∀ x ∈ d.recs, x.place = 2 → x.cluster = r.cluster → x.prio = r.prio → x.before r = false) →
        exec (.overflowReturn n) s = put { r with place := 1 }) ∧
      (r.place ≠ 0 → r.rel ≤ s.dev.now → r.cont = none → exec (.priorityAging n) s =
        put { r with aged := max r.aged (min 3 (r.prio + (s.dev.now - max r.since r.rel) / 256)) }) ∧
      (∀ k t, r.near = some k → r.headSince = some t → r.place = 1 → t + s.hintSpan r.part ≤ s.dev.now →
        let open_ : Prop := s.coreIdle k = true ∧ s.clusterPart (clusterOf k) = some r.part
        (¬open_ → exec (.nearHintExpiry n) s = put { r with expired := true }) ∧ (open_ → exec (.nearHintExpiry n) s = .next s))) ∧
    (∀ r i z l e f bs uid, core < 165888 → s.coreIdle core = true → s.ageAll.recordFor core = some (r, i) → r.cont = none →
      s.tcbOf r.part r.node r.wid = some z → s.nodeFor r.part r.node = some (l, e) → l.segment e.seg = some (f, bs, uid) →
      (s.coreAt core).mem.frame f = .resident (some uid) → ∃ t : State, exec (.takeRecord core) s = .next t ∧
        let c := t.coreAt core
        let csr := (s.coreAt core).csr
        c.x.run = .running ∧ c.x.mode = .user ∧ c.x.pc = BitVec.ofNat 16 (f * 4096 + e.entry.toNat) ∧
        (∃ x, c.x.ctx = some x ∧ (x.token, x.part, x.node, x.wid, x.gen) = (z.token, z.part, z.node, z.wid, z.gen) ∧
          (x.rel, x.pub, x.budget, x.prio, x.seq) = (z.rel, z.pub, e.budget, e.prio, 0)) ∧
        (∀ r, c.r.readG r = 0 ∧ c.r.readV r = 0) ∧ (c.sw.stkb, c.sw.stkl, c.sw.uvec, c.sw.en) = (csr.sstkb, csr.sstkl, csr.suvec, csr.suien) ∧
        c.mat = Matrix.reset) ∧
    (s.coreIdle core = false → exec (.takeRecord core) s = .next s) ∧
    (s.runs s.core.id = true → exec (.autoPark s.core.id) s = .next s.parkWaiting) ∧
    (∀ w x code, s.runs s.core.id = true → s.core.x.wait = some w → w.reason.code = some code → s.core.x.ctx = some x →
      s.core.x.mode = .user → s.core.x.inHandler = false → s.core.gang = [] → s.core.sw.parkCycles ≠ 0 →
      maskSlots (cleanMask s.core.automaticMask) ≤ 16 → s.core.x.writtenHigh = false → s.core.highPending = false →
      (∀ k : Fin 3, s.core.x.loops[k].active = false) → (∀ i : Fin 16, s.core.mat.slots[i].st = .free) →
      (∀ i : Fin 4, s.core.eng.streams[i] = none) → (∃ r ∈ d.recs, r.place = 1 ∧ r.cluster = clusterOf s.core.id ∧ s.eligible r = true) →
      (w.reason = .remote ∨ s.core.sw.parkCycles.toNat ≤ w.cycles) → ∃ (t : State) (q : QRec) (c : Cont),
        exec (.autoPark s.core.id) s = .next t ∧ t.core.x.run = .idle ∧ t.core.x.ctx = none ∧ t.core.x.mode = .user ∧
        t.core.mat = Matrix.reset ∧ t.cores = s.cores ∧ t.dev.disp.recs = d.recs ++ [q] ∧ q.cont = some c ∧
        (q.place, q.cluster, q.part, q.node, q.wid, q.prio, q.rel) = (0, clusterOf s.core.id, x.part, x.node, x.wid, x.prio, x.rel) ∧
        (c.ctx, c.code, c.obj, c.pc, c.core, c.mask) = (x, code, w.obj, s.core.x.pc, s.core.id, cleanMask s.core.automaticMask) ∧
        (c.pred, c.ix, c.remote) = (s.core.r.p, s.core.sw.ix, s.core.eng.remote.filter (fun r => r.ofCtx)) ∧
        ((∀ p ∈ s.core.eng.pend, p.atomic = none ∧ p.load = none) → t.core.mem = s.core.mem ∧ c.slots = s.core.liveSlots c.mask)) ∧
    (∀ w x, (s.coreAt core).x.wait = some w → (s.coreAt core).x.ctx = some x → w.reason = .yieldRel → s.runs core = true →
      (x.rel ≤ s.dev.now → exec (.yieldResume core) s = .next (s.onCore core (fun c => { c with x := { c.x with wait := none } }))) ∧
      (s.dev.now < x.rel → exec (.yieldResume core) s = .next s)) ∧
    (∀ w, (s.coreAt core).x.wait = some w → w.reason = .fullEmpty → s.runs core = true → core ∈ (s.coreAt core).gang →
      (4096 < w.cycles → ∃ t : State, exec (.gangWaitSplit core) s = .next t ∧ (t.coreAt core).gang = [] ∧
        ∀ k ∈ (s.coreAt core).gang, core ∉ (t.coreAt k).gang) ∧
      (w.cycles ≤ 4096 → exec (.gangWaitSplit core) s = .next s)) ∧
    (∀ w m, (s.coreAt core).x.wait = some w → w.reason = .fuse → (s.coreAt core).fuse = some (m, false) → s.runs core = true →
      (4096 < w.cycles → exec (.fuseTimeout core) s = .next (s.onCore core (fun c => { c with fuse := some (m, true) }))) ∧
      (w.cycles ≤ 4096 → exec (.fuseTimeout core) s = .next s))

/-- R59, R80, R161, R162, R166, R168 to R170, R195, R98: each step of the engines of the acting core, whose clock runs. The
model's choices are these: a scratchpad load that is still late takes its words one by one, and a copy's untimed access comes after
its core's earlier accesses (log entry 17); a port's unit is read as of the instant of its arrival (log entry 35); the clauses of
a code request land one at a time, none twice (log entry 37); an atomic raises its flags as it is performed (log entry 62). -/
def Obligations.EngineResults : Prop :=
  (∀ (s : State) (n : Nat), s.Sound → s.runs s.core.id = true →
    let k := s.core.id
    let e := s.core.eng
    let m := s.core.mat
    (∀ w, s.core.x.wait = some w → w.reason = .copySlot → (∃ i < 8, ∀ y ∈ e.copies, y.tag % 8 ≠ i) → s.stopPending k = false →
      exec (.copyAccept k) s = .next (s.onEng (fun e => { e with copyGrant := true }))) ∧
    (∀ y, e.copies.find? (fun x => decide (x.tag = n)) = some y → y.failed = false → y.todo = [] → s.copyInFlight y = false →
      ∃ t : State, exec (.copyComplete k n) s = .next t ∧ t.core.eng.copies = e.copies.filter (fun x => decide (x.tag ≠ n)) ∧
        (∀ x, s.core.x.ctx = some x → y.reader.task = true → x.run = y.reader.run → t.core.sw.fstat = s.core.sw.fstat ||| y.flags ∧
          (y.desc.getLsbD 28 = true → s.core.sw.en.getLsbD 0 = true → t.core.sw.pend.getLsbD 0 = true ∧ t.core.sw.pendVal[0] = BitVec.ofNat 64 n))) ∧
    (∀ y, e.copies.find? (fun x => decide (x.tag = n)) = some y → (y.failed = true ∨ y.todo ≠ [] ∨ s.copyInFlight y = true) →
      exec (.copyComplete k n) s = .next s) ∧
    (∀ r, n < 16 → s.core.mem.frame n = .landing r → r.seg = none → s.queued (.fetch k n) = false →
      let read (i : Nat) : Got := s.engineReadN r.reader (r.addr + BitVec.ofNat 64 (8 * i)) r.inst 8
      ((∀ i < 512, i ∈ r.landed ∨ ∀ c, read i ≠ .fault c) → (∃ i < 512, i ∉ r.landed ∧ read i = .wait) →
        exec (.codeFetchComplete k n none) s = .next s) ∧
      ((∃ i < 512, i ∉ r.landed ∧ ∃ c, read i = .fault c) →
        exec (.codeFetchComplete k n none) s = .next (s.onMem (fun m => m.setFrame n .failed))) ∧
      (∀ bs : Nat → List Byte, (∀ i < 512, i ∉ r.landed → read i = .bytes (bs i) ∧ (bs i).length = 8) → ∃ t : State,
        exec (.codeFetchComplete k n none) s = .next t ∧
        (∀ i < 512, ∀ j (h : j < (bs i).length), i ∉ r.landed → t.core.mem.im.read (4096 * n + 8 * i + j) = (bs i)[j]) ∧
        (∀ i < 512, ∀ j < 8, i ∈ r.landed → t.core.mem.im.read (4096 * n + 8 * i + j) = s.core.mem.im.read (4096 * n + 8 * i + j)) ∧
        (∀ a, a < 4096 * n ∨ 4096 * (n + 1) ≤ a → t.core.mem.im.read a = s.core.mem.im.read a) ∧
        t.core.mem.frame n = .resident none ∧ t.core.mem.tcm = s.core.mem.tcm ∧ t.core.r = s.core.r) ∧
      (∀ i bs, i < 512 → s.gateShut k = false → i ∉ r.landed → read i = .bytes bs → bs.length = 8 → ∃ t : State,
        exec (.codeFetchComplete k n (some i)) s = .next t ∧ s.core.mem.im.Written t.core.mem.im (4096 * n + 8 * i) bs ∧
        t.core.mem.frame n = .landing { r with landed := r.landed ++ [i] } ∧ t.core.mem.tcm = s.core.mem.tcm ∧ t.core.r = s.core.r) ∧
      (∀ i ∈ r.landed, exec (.codeFetchComplete k n (some i)) s = .next s)) ∧
    (∀ l rest, e.dtLoads = l :: rest → l.table < 4 → (∀ bs, l.data = some bs → ∃ t : DecTab,
      exec (.dtldComplete k) s = .next (s.onEng (fun e => { e with dtLoads := rest, tabs := e.tabs.set (l.table % 4) t })) ∧ t.nan = l.nan ∧
        ∀ i < 256, (aget t.entries i).getD 0 = BitVec.ofNat 32 (natOf ((bs.drop (4 * i)).take 4)))) ∧
    (∀ l rest, e.segLoads = l :: rest → l.table < 4 → (∀ bs, l.data = some bs → ∃ t : Memory,
      exec (.segldComplete k) s = .next (s.onEng (fun e => { e with segLoads := rest, segs := e.segs.set (l.table % 4) t })) ∧
        ∀ i (h : i < bs.length), t.read i = bs[i])) ∧
    (e.dtLoads = [] → exec (.dtldComplete k) s = .next s) ∧ (e.segLoads = [] → exec (.segldComplete k) s = .next s) ∧
    (∀ l (i : Fin 16), m.loads.find? (fun x => decide (x.slot = i.val)) = some l → (∀ r ∈ l.rows, ∃ bs, r.2.2 = some bs) → ∃ u : Slot,
      exec (.mloadLand k i.val) s = .next (s.onMat (fun m => { m with
        loads := m.loads.filter (fun x => decide (x.slot ≠ i.val)), slots := m.slots.set i u })) ∧
      (u.st, u.fmt, u.kv, u.blk) = (.ready, l.fmt, l.kv, none) ∧
      (l.trans = false → l.kv ≤ fmtK l.fmt.toNat → (∀ j (h : j < l.rows.length), (l.rows[j]).1 = j) → l.rows.length = 16 →
        ∀ a < 16, ∀ b < l.kv, ∀ bs, (l.rows[a]?).map (fun r => r.2.2) = some (some bs) →
          u.code a b = natOf bs / 2 ^ (fmtBits l.fmt.toNat * b) % 2 ^ fmtBits l.fmt.toNat)) ∧
    (∀ p, e.pend[n]? = some p → (∃ q ∈ e.pend.take n, (p.setsFull = true ∧ q.no < p.no) ∨ (q.tcm = p.tcm ∧ ∃ w ∈ p.words, w ∈ q.words)) →
      exec (.bankAccessPerformed k (.store n)) s = .next s) ∧
    (∀ p, e.pend[n]? = some p → p.atomic = none → p.load = none → p.tcm = false → (∀ q ∈ e.pend.take n, p.waitsFor q = false) → ∃ t : State,
      exec (.bankAccessPerformed k (.store n)) s = .next t ∧
      t.core = { s.core with eng := { e with pend := dropAt e.pend n, loads := t.core.eng.loads } } ∧ (e.loads = [] → t.core.eng.loads = []) ∧
      t.spad (clusterOf k) = (s.spad (clusterOf k)).writeAll p.bytes ∧ (∀ c, c ≠ clusterOf k → t.spad c = s.spad c) ∧
      (∀ w, w ∈ t.spadEmptyOf (clusterOf k) ↔ w ∈ s.spadEmptyOf (clusterOf k) ∧ ¬(p.setsFull = true ∧ w = p.off / 4))) ∧
    (∀ p, e.pend[n]? = some p → p.atomic = none → p.load = none → p.tcm = true → (∀ q ∈ e.pend.take n, p.waitsFor q = false) → ∃ t : State,
      exec (.bankAccessPerformed k (.store n)) s = .next t ∧ t.dev = s.dev ∧ t.core.r = s.core.r ∧ t.core.eng.pend = dropAt e.pend n ∧
      t.core.mem.tcm = s.core.mem.tcm.writeAll p.bytes ∧ t.core.mem.im = s.core.mem.im ∧
      (∀ w, w ∈ t.core.mem.tcmEmpty ↔ w ∈ s.core.mem.tcmEmpty ∧ ¬(p.setsFull = true ∧ w = p.off / 4))) ∧
    (∀ p a, e.pend[n]? = some p → p.atomic = some a → (∀ q ∈ e.pend.take n, p.waitsFor q = false) → s.core.inUse a.hand a.dst = true →
      let size := if a.op.wide then 8 else 4
      let old := (s.spad (clusterOf k)).readN p.off size
      let new := atomicOp (8 * size) a.op (natOf old)
      ∃ t : State, exec (.bankAccessPerformed k (.store n)) s = .next t ∧
        t.spad (clusterOf k) = (s.spad (clusterOf k)).writeAll (atOffsets p.off (bytesOf size new.1)) ∧
        (a.dst ≠ 0 → t.g a.dst = (BitVec.ofNat (8 * size) (natOf old)).signExtend 64 + a.stride) ∧ (∀ y, y ≠ a.dst → t.g y = s.g y) ∧
        t.core.sw.fstat = s.core.sw.fstat ||| new.2 ∧ t.core.eng.pend = dropAt e.pend n ∧ t.core.mem = s.core.mem) ∧
    (∀ l r z off, e.loads[n]? = some l → l.dst = .g r z → pathOf l.addr = some (.spad, off) →
      let left (w : Nat) : List LateLoad := (setAt e.loads n { l with todo := l.todo.filter (fun x => decide (x ≠ w)) }).filter
        (fun l => !l.todo.isEmpty)
      let u (w : Nat) : State := s.onEng (fun e => { e with loads := left w })
      let v := scalarValue l.width z ((s.spad (clusterOf k)).readN off l.width)
      (off / 4 ∈ l.todo → 0 < l.width → off % 4 + l.width ≤ 4 → s.core.inUse l.hand r = true →
        exec (.bankAccessPerformed k (.load n (off / 4))) s = .next ((u (off / 4)).setG r v)) ∧
      (off / 4 ∈ l.todo → 0 < l.width → off % 4 + l.width ≤ 4 → s.core.inUse l.hand r = false →
        exec (.bankAccessPerformed k (.load n (off / 4))) s = .next { u (off / 4) with core := { (u (off / 4)).core with
          r := { s.core.r with bank := s.core.r.bank.set ((r.toNat - 12) % 8) v (Nat.mod_lt _ (by decide)) } } }) ∧
      (∀ j < 2, off / 4 + j ∈ l.todo → l.width = 8 → off % 4 = 0 → s.core.inUse l.hand r = true → r ≠ 0 → ∃ v : Word,
        exec (.bankAccessPerformed k (.load n (off / 4 + j))) s = .next ((u (off / 4 + j)).setG r v) ∧
        v.extractLsb' (32 * j) 32 = BitVec.ofNat 32 (natOf ((s.spad (clusterOf k)).readN (off + 4 * j) 4)) ∧
        v.extractLsb' (32 * (1 - j)) 32 = (s.g r).extractLsb' (32 * (1 - j)) 32) ∧
      (∀ w, w ∉ l.todo → exec (.bankAccessPerformed k (.load n w)) s = .next s)) ∧
    (∀ y w bs, e.copies.find? (fun x => decide (x.tag = n)) = some y → y.failed = false → w ∈ y.todo → e.pend = [] → e.loads = [] →
      bs.length = 4 → s.engineRead y.reader (y.src + BitVec.ofNat 64 (4 * w)) y.readInst 4 = .bytes bs →
      (y.got = [] → ∃ t : State, exec (.bankAccessPerformed k (.copyRead n w)) s = .next t ∧ t.core.mem = s.core.mem ∧
        t.core.eng.copies = e.copies.map (fun x => if x.tag = n then { y with got := [(w, bs)] } else x))) ∧
    (∀ y w off bs, e.copies.find? (fun x => decide (x.tag = n)) = some y → y.failed = false → w ∈ y.todo → y.op = 0 → y.desc.getLsbD 62 = false →
      e.pend = [] → e.loads = [] → bs.length = 4 → pathOf y.frame.addr = some (.tcm, off) → off % 4 = 0 →
      (y.got = [(w, bs)] ∨ (y.got = [] ∧ s.engineRead y.reader (y.src + BitVec.ofNat 64 (4 * w)) y.readInst 4 = .bytes bs)) →
      ∃ t : State, exec (.bankAccessPerformed k (.copyWord n w)) s = .next t ∧
        s.core.mem.tcm.Written t.core.mem.tcm (off + 4 * w) bs ∧ (∀ z, z ∈ t.core.mem.tcmEmpty ↔ z ∈ s.core.mem.tcmEmpty ∧ z ≠ off / 4 + w) ∧
        ∃ z ∈ t.core.eng.copies, z.tag = n ∧ ∀ i, i ∈ z.todo ↔ i ∈ y.todo ∧ i ≠ w) ∧
    (∀ (i : Fin 4) t u j rest off, e.streams[i] = some t → t.appends = (j, u) :: rest → pathOf (t.unit j) = some (.tcm, off) → ∃ z : State,
      exec (.bankAccessPerformed k (.append i.val)) s = .next z ∧ z.core.eng.streams[i] = some { t with appends := rest } ∧
      (∀ b < 16, z.core.mem.tcm.read (off + b) = lane 8 u b) ∧ (∀ a, a < off ∨ off + 16 ≤ a → z.core.mem.tcm.read a = s.core.mem.tcm.read a)) ∧
    (∀ (i : Fin 4) t bs, i.val < 2 → e.streams[i] = some t → t.fetched < t.count → t.fifo.length < t.depth →
      accessTrap s.core .load (t.unit t.fetched) 16 false false = none →
      s.engineRead t.reader (t.unit t.fetched) (s.loadInstant 0) 16 = .bytes bs →
      let u : Stream := { t with fetched := t.fetched + 1, fifo := t.fifo ++ [(BitVec.ofNat 128 (natOf bs), none)] }
      ∃ z : State, exec (.streamDataArrival k i.val) s = .next z ∧ z.core = s.core.setStream i (some u) ∧ z.cores = s.cores ∧
        z.dev.disp = s.dev.disp) ∧
    (∀ f fs, m.flags = f :: fs → exec (.matrixInstructionDone k) s = .next ((s.onMat (fun m => { m with flags := fs })).raise f)) ∧
    (m.flags = [] → exec (.matrixInstructionDone k) s = .next s)) ∧
  (∀ (s : State) (j n : Nat) (b : BankRef) (f : Option Nat), s.Sound →
    ∀ e ∈ [Instr.copyAccept j, .copyComplete j n, .codeFetchComplete j n f, .dtldComplete j, .segldComplete j, .mloadLand j n,
      .bankAccessPerformed j b, .streamDataArrival j n, .matrixInstructionDone j, .autoPark j],
    (s.runs j = false → exec e s = .next s) ∧
    (s.runs j = true → ∀ u, exec e (s.actAs j) = .next u → exec e s = .next (u.actAs s.core.id)))

/-- R157, R221, R222, R225, R232 to R236, R246 to R249, R265, R267, R327: what reaches an NI and leaves it, how splices
end, and what the supervisor's buffer, copy and context controls do. The model's choices are these: a splice's hold, its watchdog
and its preparation (log entries 28, 29), what an AS record waits for (log entry 30), and the words that a reinjection sets at
its start (log entry 66). -/
def Obligations.NetworkEventResults : Prop :=
  ∀ (s : State) (n core : Nat) (q : Fin 8) (r : Record) (v : Word), s.Sound → core < 165888 → s.core.id < 165888 →
    let f := s.dev.fab
    let c := s.coreAt core
    let qu := c.ni.queues[q]
    let rest := dropAt f.msgs n
    let own := Config.deviceId.toNat
    let arrives (b : Body) : Prop := ∃ m, s.arriving n = some m ∧ m.body = b
    let here (ep : Nat) : Prop := ep / 8 % 2 ^ 18 = core ∧ ep % 8 = q.val
    let queueOf (t : State) : Queue := (t.coreAt core).ni.queues[q]
    let later (i : Instr) : Prop := exec i s = .next s
    let calm (k : Nat) : Prop := (s.coreAt k).ni.staging = [] ∧ ∀ j, s.gateShut j = false
    (s.arriving n = none → later (.recordArrival n) ∧ later (.mailboxWrite n) ∧ later (.seamArrival n) ∧ later (.seamSeenReport n) ∧
      later (.spliceLink n) ∧ later (.linkAck n)) ∧
    (∀ ep, here ep → arrives (.record ep r) →
      (qu.bound = false → later (.recordArrival n)) ∧
      (qu.bound = true → s.imageOn core ≠ none → ∃ t : State, exec (.recordArrival n) s = .next t ∧ queueOf t = qu ∧ t.dev.fab.msgs = rest) ∧
      (qu.bound = true → s.imageOn core = none → (qu.pipe = false ∨ (r.kind ≠ 1 ∧ r.kind ≠ 3)) → qu.mode ≠ 1 → r.kind ≠ 5 → qu.ringSrcs = [] →
        (qu.recs.length + qu.held.length < 32 → r.as = false → ∃ t : State, exec (.recordArrival n) s = .next t ∧
          queueOf t = { qu with recs := qu.recs ++ [r], seamSrcs := (queueOf t).seamSrcs } ∧ t.dev.fab.msgs = rest ∧
          (qu.recs = [] → c.sw.en.getLsbD 4 = true → (t.coreAt core).sw.pend.getLsbD 4 = true)) ∧
        (qu.recs.length + qu.held.length < 32 → r.as = true → r.src ∉ qu.seamSrcs → qu.keptSeam = none → ∃ t : State,
          exec (.recordArrival n) s = .next t ∧ queueOf t = { qu with held := qu.held ++ [r] } ∧ t.dev.fab.msgs = rest) ∧
        (32 ≤ qu.recs.length + qu.held.length → qu.cap = 0 → later (.recordArrival n)))) ∧
    (∀ w : Fin 4, arrives (.mailbox core w.val v) → ∃ t : State, exec (.mailboxWrite n) s = .next t ∧ t.dev.fab.msgs = rest ∧
      (t.coreAt core).sw.mbox = c.sw.mbox.set w v ∧ (t.coreAt core).sw.mboxf.getLsbD w.val = true ∧
      (c.sw.en.getLsbD 3 = true → (t.coreAt core).sw.pend.getLsbD 3 = true ∧ (t.coreAt core).sw.pendVal[3] = BitVec.ofNat 64 w.val)) ∧
    (∀ t w, qu.recs.head? = some r → (r.kind = 1 ∨ r.kind = 3) → qu.bound = true → qu.pipe = true → qu.heldSince = some (t, w) →
      (∀ j : Fin 8, j ≠ q → c.ni.queues[j].heldSince = none) →
      (s.dev.now < t + w → later (.spliceWatchdogExpiry core q.val)) ∧
      (t + w ≤ s.dev.now → c.ni.prep = none → qu.ringSrcs = [] → ∃ u : State, exec (.spliceWatchdogExpiry core q.val) s = .next u ∧
        (queueOf u).recs = qu.recs.tail ∧ (u.coreAt core).ni.dropped = c.ni.dropped ++ [spliceSerial r] ∧
        ∀ (i : Fin 4) e, c.ni.routes[i].ep = some e → ∃ m ∈ (u.coreAt core).ni.staging, ∃ y : Record, m.2.body = .record e y ∧
          y.kind = 3 ∧ y.payload = setAt r.payload 5 (BitVec.ofNat 8 (spliceField r 5 5 % 16 + 4 * 16)))) ∧
    (∀ p, c.ni.prep = some p → s.quiesced = false →
      let part := s.splicePart core
      let prepared (p' : Prep) : Prop := ∃ t : State, exec (.splicePrepEnd core) s = .next t ∧ (t.coreAt core).ni.prep = some p' ∧ t.dev = s.dev
      ((p.ready = true ∨ p.failed = true) → later (.splicePrepEnd core)) ∧
      (p.ready = false → p.failed = false → spliceOp p.record = 0 → p.placed = none → s.insertCore part p.record = none →
        prepared { p with ready := true, reason := 1 }) ∧
      (∀ j, p.ready = false → p.failed = false → spliceOp p.record = 0 → p.placed = some j →
        ((∃ k w, s.coreOf p.run = some k ∧ (s.coreAt k).x.wait = some w ∧ w.reason = .queue) ∨
          (s.coreOf p.run = none ∧ ∃ q ∈ s.dev.disp.recs, ∃ x, q.cont = some x ∧ x.ctx.run = p.run ∧ x.code = 4)) →
        prepared { p with ready := true }) ∧
      (∀ k l d i g, p.ready = false → p.failed = false → spliceOp p.record = 0 → p.placed = none → s.insertCore part p.record = some k →
        s.nodeFor part (spliceNode p.record) = some (l, d) → l.segment d.seg = some g →
        s.findSlot l (spliceNode p.record) (BitVec.ofNat 64 (spliceSerial p.record).toNat) = .take i →
        ((s.coreAt k).ni.queue (insertQueue p.record)).ringSrcs = [] →
        ∃ (t : State) (x : Ctx), exec (.splicePrepEnd core) s = .next t ∧ (t.coreAt k).x.ctx = some x ∧ (x.part, x.node) = (l.part, spliceNode p.record) ∧
          (x.rel, x.pub, x.wid) = (s.dev.now + 1, s.dev.now + 1 + d.budget, BitVec.ofNat 64 (spliceSerial p.record).toNat) ∧
          (t.coreAt k).ni.stage = BitVec.ofNat 32 (spliceField p.record 35 32)) ∧
      (∀ fr uid, p.ready = false → p.failed = false → spliceOp p.record ≠ 0 → s.nodeFrame part (spliceNode p.record) = some (fr, uid) →
        c.mem.frame fr = .resident (some uid) → prepared { p with ready := true })) ∧
    (∀ ep src, here ep → arrives (.seam ep src) → qu.bound = true → s.imageOn core = none →
      ((∀ p, c.ni.eliding = some p → p.queue ≠ q.val) →
        (qu.held = [] → qu.ringSrcs = [] → ∃ t : State, exec (.seamArrival n) s = .next t ∧ queueOf t = { qu with keptSeam := some src } ∧ t.dev.fab.msgs = rest) ∧
        (qu.held = [r] → r.kind ≠ 5 → qu.mode ≠ 1 → qu.ringSrcs = [] → qu.recs.length < 32 → r.src < 2 ^ 20 → calm core → ∃ t : State, exec (.seamArrival n) s = .next t ∧
          queueOf t = { qu with held := [], recs := qu.recs ++ [r], seamSrcs := r.src :: qu.seamSrcs } ∧
          ∃ m ∈ t.dev.fab.msgs, (m.dst, m.device) = (8 * (r.src / 4), own) ∧ ∃ y : Record, m.body = .seamSeen r.src y ∧ y.kind = 5 ∧
            y.payload.take 16 = bytesOf 8 4 ++ bytesOf 8 (own * 2 ^ 21 + 8 * core + q.val))) ∧
      (∀ p, c.ni.eliding = some p → p.queue = q.val → qu.ringSrcs = [] → qu.recs.length + qu.held.length < 32 → ∃ t : State,
        exec (.seamArrival n) s = .next t ∧ queueOf t = { qu with recs := qu.recs ++ [⟨[], 0, 0, 2, false, src⟩] } ∧
        (t.coreAt core).sw = c.sw ∧ t.dev.fab.msgs = rest)) ∧
    (∀ i : Fin 4,
      let rt := c.ni.routes[i]
      (∀ y, arrives (.seamSeen (4 * core + i.val) y) → ∃ t : State, exec (.seamSeenReport n) s = .next t ∧ t.dev.fab.msgs = rest ∧
        t.coreAt core = { c with ni := { c.ni with routes := c.ni.routes.set i { rt with as := false } } }) ∧
      (∀ old new k serial reply, arrives (.link (4 * core + i.val) old new k serial reply) → k / 2 ^ 21 % 2 ^ 20 = own → calm core →
        ∃ t : State, exec (.spliceLink n) s = .next t ∧
        t.dev.fab.msgs = rest ++ [⟨.c0, 8 * core, 8 * (k / 8 % 2 ^ 18) + k % 8, own, .direct, .linkAck k serial reply⟩] ∧
        (rt.ep = some old → t.coreAt core = { c with ni := { c.ni with
          routes := c.ni.routes.set i ⟨some new, 0, true⟩
          staging := c.ni.staging ++
            [(c.run, ⟨.c2, 4 * core + i.val, 8 * (old / 8 % 2 ^ 18) + old % 8, old / 2 ^ 21 % 2 ^ 20, .direct, .seam old (4 * core + i.val)⟩)] } }) ∧
        (rt.ep ≠ some old → t.coreAt core = c))) ∧
    (∀ k serial reply, arrives (.linkAck k serial reply) → reply / 2 ^ 21 % 2 ^ 20 = own → calm (k / 8 % 2 ^ 18) → ∃ (t : State) (y : Record), exec (.linkAck n) s = .next t ∧
      t.dev.fab.msgs = rest ++ [⟨.c0, 8 * (k / 8 % 2 ^ 18), 8 * (reply / 8 % 2 ^ 18) + reply % 8, own, .direct, .record reply y⟩] ∧
      (y.kind, y.len) = (5, 64) ∧ y.payload.take 16 = bytesOf 8 2 ++ bytesOf 8 serial) ∧
    (∀ run m, c.ni.staging[n]? = some (run, m) → (∀ j, s.gateShut j = false) → (∀ x ∈ c.ni.staging.take n, x.2.sameLane m = false) →
      let sent (t : State) : Prop := exec (.stagedMessageSent core n) s = .next t ∧ (t.coreAt core).ni = { c.ni with staging := dropAt c.ni.staging n }
      (m.device = own → ∃ t : State, sent t ∧ t.dev.fab.msgs = f.msgs ++ [m]) ∧
      (m.device ≠ own → s.reachable m.device = true → s.portReady m.device m.cls = true → f.gate = [] → ∃ t : State, sent t ∧ t.dev.fab.sent = f.sent ++ [(m.device, m)]) ∧
      (m.device ≠ own → s.reachable m.device = true → s.portReady m.device m.cls = false → later (.stagedMessageSent core n)) ∧
      (m.device ≠ own → s.reachable m.device = false → ∃ (t : State) (d : Deferred), sent t ∧ t.dev.fab = s.dev.fab ∧ d.cause = 0x11 ∧
        (∀ k, run ≠ 0 → s.coreOf run = some k → (t.coreAt k).x = { (s.coreAt k).x with deferred := (s.coreAt k).x.deferred ++ [d] }) ∧
        (run = 0 → (t.coreAt core).x = if c.x.ctx = none then { c.x with deferred := c.x.deferred ++ [d] } else c.x))) ∧
    (c.ni.staging[n]? = none → later (.stagedMessageSent core n)) ∧
    (let x := s.core.csr
     let w := v &&& 0xFFFFFFFFFFFFFFFC
     let a := x.nisCmd &&& 0xFFFFFFFFFFFFFF80
     let records := natOf (((s.niRead s.core.id a 256).drop 168).take 8) % 65536
     let finished : Instr := .xnisCommandDone s.core.id
     (x.nisBusy = true → later (.xnisSpill v) ∧ later (.xnisReinject v)) ∧ (x.nisBusy = false → later finished) ∧
     (x.nisBusy = false →
       let bad : Result := .next (s.onCsr (fun x => { x with nisErr := true, nisBusy := false, nisCount := 0 }))
       (nisPath w (256 + 128 * s.core.ni.spilled.length) = false → exec (.xnisSpill v) s = bad) ∧
       (nisPath w 256 = false → exec (.xnisReinject v) s = bad)) ∧
     (∀ off, x.nisBusy = false → nisPath w (256 + 128 * s.core.ni.spilled.length) = true → pathOf w = some (.tcm, off) → ∃ t : State, exec (.xnisSpill v) s = .next t ∧
       s.core.mem.tcm.Written t.core.mem.tcm off s.core.ni.spillBytes ∧
       (∀ j : Fin 8, (t.core.ni.queues[j].bound, t.core.ni.queues[j].recs, t.core.ni.queues[j].held) = (false, [], [])) ∧
       t.core.ni.routes = s.core.ni.routes ∧ t.core.ni.stage = s.core.ni.stage ∧ t.core.r = s.core.r ∧
       t.core.csr = { x with nisBusy := true, nisCmd := w ||| 1, nisErr := false, nisCount := BitVec.ofNat 16 s.core.ni.spilled.length }) ∧
     (x.nisBusy = false → nisPath w 256 = true → ∃ t : State, exec (.xnisReinject v) s = .next t ∧
       t = { s with core := { s.core with csr := t.core.csr, r := t.core.r, sw := t.core.sw } } ∧
       t.core.csr = { x with nisBusy := true, nisCmd := w ||| 2, nisErr := false } ∧ t.core.r = { s.core.r with q := Vector.replicate 8 0 } ∧
       t.core.sw = { s.core.sw with stkb := x.sstkb, stkl := x.sstkl, rscope := x.sRscope, parkCycles := x.sParkCycles,
                                    scope := x.sscope, uvec := x.suvec, en := x.suien, pend := 0 }) ∧
     (s.core.x.stopped ≠ none → later finished) ∧
     (x.nisBusy = true → s.core.x.stopped = none → x.nisCmd.toNat % 4 = 1 → exec finished s = .next (s.onCsr (fun x => { x with nisBusy := false }))) ∧
     (x.nisBusy = true → x.nisCmd.toNat % 4 ≠ 1 → s.niVisible s.core.id a 256 = false → later finished) ∧
     (x.nisBusy = true → x.nisCmd.toNat % 4 ≠ 1 → s.niVisible s.core.id a 256 = true → nisPath a (256 + 128 * records) = false →
       s.core.x.stopped = none → exec finished s = .next (s.onCsr (fun x => { x with nisErr := true, nisBusy := false, nisCount := 0 }))) ∧
     (x.nisBusy = true → x.nisCmd.toNat % 4 ≠ 1 → s.niVisible s.core.id a 256 = true → nisPath a (256 + 128 * records) = true →
       s.niVisible s.core.id a (256 + 128 * records) = true → s.core.x.stopped = none →
       ∃ t : State, exec finished s = .next t ∧ t = { s with core := { s.core with ni := t.core.ni, csr := t.core.csr } } ∧
         t.core.csr = { x with nisBusy := false, nisCount := BitVec.ofNat 16 records } ∧
         t.core.ni.stage = BitVec.ofNat 32 (natOf (((s.niRead s.core.id a (256 + 128 * records)).drop 160).take 8)))) ∧
    (s.core.x.ctx = none → later (.xtendWrite v)) ∧
    (∀ x, s.core.x.ctx = some x → ∃ t : State, exec (.xtendWrite v) s = .next t ∧ t.core.x.ctx = none ∧ t.core.x.ended = true ∧
      t.core.eng.remote = (s.core.eng.remote.filter (fun r => r.sup)).map (fun r => { r with ofCtx := false }) ∧ t.core.mat = Matrix.reset ∧ t.dev.timed = { s.dev.timed with purges := s.dev.timed.purges ++
        [⟨x.token, s.core.id, x.part, x.tcbNode, x.wid, v.setWidth 8, decide (0 < x.groups), false⟩] }) ∧
    (let e := s.core.eng
     ((∃ y ∈ e.copies, y.failed = false ∧ y.op ≠ 0) → later .copySquash) ∧
     (∀ y, e.copies = [y] → y.failed = false → y.op = 0 → y.todo = [] → s.copyInFlight y = false → ∃ t : State,
       exec .copySquash s = .next t ∧ t.core.eng.copies = [] ∧ t.core.eng.copyRecs = e.copyRecs) ∧
     ((∀ y ∈ e.copies, y.op = 0 ∧ (y.failed = true ∨ y.todo ≠ [])) → ∃ g : Engines, exec .copySquash s = .next (s.onEng (fun _ => g)) ∧ g = { e with copies := e.copies.filter (fun y => y.failed), copyRecs := g.copyRecs } ∧
       ∀ y ∈ e.copies, y.failed = false → (∀ z ∈ e.copies, z.tag % 8 = y.tag % 8 → z = y) → ∃ z ∈ g.copyRecs,
         (z.valid, z.tag, z.src, z.dst, z.desc) = (true, y.tag, y.src, y.frame.addr, y.desc)) ∧
     (∃ (g : Engines) (t : State), exec .copyReissue s = .next t ∧ t.core.eng = g ∧ g = { e with copies := g.copies, copyRecs := g.copyRecs } ∧
       t.core.r = s.core.r ∧ t.core.mem.tcm = s.core.mem.tcm ∧
       ((∀ j : Fin 8, e.copyRecs[j].valid = true → e.copyRecs[j].desc.getLsbD 27 = false) → t = s.onEng (fun _ => g)) ∧
       (∀ j : Fin 8, g.copyRecs[j] = { e.copyRecs[j] with valid := false }) ∧ (∀ y ∈ e.copies, y ∈ g.copies) ∧
       ∀ j : Fin 8, e.copyRecs[j].valid = true → ∃ y ∈ g.copies, (y.tag, y.src, y.desc) = (e.copyRecs[j].tag, e.copyRecs[j].src, e.copyRecs[j].desc)))

/-- R286, R291, R326 to R330: what a port does with flits, how ports go down and come up, how the route table is rewritten,
what an inbound request is answered, how beacons and the lock behave, and an arbiter's counters. The model's choices are these:
route bytes 64 to 254 name no port and a beacon's numbers (log entry 47), what a window admits (log entry 48), an arbiter binds what
waits there (log entry 55), the high bits of a write of IPERIOD (log entry 64), and what a nack says of the flits before it (log
entry 79). -/
def Obligations.FabricResults : Prop :=
  ∀ (s : State) (p : Nat) (seq : BitVec 12) (ok : Bool),
    let f := s.dev.fab
    let q := s.port p
    let sh := if p < 32 then p / 4 else 24 + (p - 32) / 4
    let reg (u : State) (off : Nat) : Word := u.shReg sh (off + 0x100 * (p % 4)) 0
    let raised (u : State) (v : Nat) : Prop := v ∈ u.dev.out.msix
    let alone (u : State) : Prop := ∀ k, k ≠ p → u.port k = s.port k
    let later (i : Instr) : Prop := exec i s = .next s
    (q.up = true → p < 64 →
      (∀ cs : List Cls, ok = true → seq = q.expect → f.gate = [] → ∃ u : State, exec (.flitReceive p seq ⟨ok, none, none, cs⟩) s = .next u ∧
        u.port p = { q with expect := q.expect + 1, told := some (.ack seq), credit := (u.port p).credit } ∧
        (∀ c : Cls, (u.port p).credit[c.index] = q.credit[c.index] + cs.count c) ∧ alone u ∧ u.dev.regs = s.dev.regs) ∧
      (∀ m ep r, ok = true → seq = q.expect → m.body = .record ep r → (∀ j, s.gateShut j = false) → f.gate = [] → ∃ u : State,
        exec (.flitReceive p seq ⟨ok, some m, none, []⟩) s = .next u ∧
        u.port p = { q with expect := q.expect + 1, told := some (.ack seq), returned := (u.port p).returned } ∧
        (∀ c : Cls, (u.port p).returned[c.index] = q.returned[c.index] + if c = m.cls then 1 else 0) ∧ alone u ∧
        u.dev.fab.msgs = f.msgs ++ [{ m with
          src := 2 ^ 42 + m.device * 2 ^ 21 + m.src % 2 ^ 21, device := Config.deviceId.toNat, via := .direct,
          body := .record ep { r with src := (m.device + 1) * 2 ^ 20 + r.src % 2 ^ 20 } }]) ∧
      (∀ m, ok = true → seq ≠ q.expect → f.gate = [] → ∃ u : State, exec (.flitReceive p seq ⟨ok, m, none, []⟩) s = .next u ∧
        u.port p = { q with told := some (.ack (q.expect - 1)) } ∧ alone u ∧ u.dev.fab.msgs = f.msgs) ∧
      (∀ m y cs, ok = false → ∃ u : State, exec (.flitReceive p seq ⟨ok, m, y, cs⟩) s = .next u ∧ reg u 0x5008 = reg s 0x5008 + 1 ∧
        u.port p = { q with told := some (.nack q.expect) } ∧ alone u ∧ u.dev.fab.msgs = f.msgs) ∧
      (∀ l1 e l2, q.replay = l1 ++ e :: l2 → (∀ x ∈ l1, x.1 ≠ e.1) → f.gate = [] → ok = true → seq ≠ q.expect →
        let told (y : LinkReply) : Instr := .flitReceive p seq ⟨ok, none, some y, []⟩
        let tries : Nat := if l1 = [] then q.replays + 1 else 1
        let back := some (LinkReply.ack (q.expect - 1))
        (∃ u : State, exec (told (.ack e.1)) s = .next u ∧ u.port p = { q with replay := l2, replays := 0, told := back } ∧ alone u) ∧
        (tries ≤ 8 → ∃ u : State, exec (told (.nack e.1)) s = .next u ∧ u.port p = { q with replay := e :: l2, replays := tries, told := back } ∧
          reg u 0x5008 = reg s 0x5008 + 1 ∧ alone u) ∧
        (8 < tries → ∃ u : State, exec (told (.nack e.1)) s = .next u ∧ u.port p = { q with up := false, replays := 8, told := back } ∧
          reg u 0x5010 = reg s 0x5010 + 1 ∧ raised u 3 ∧ alone u)) ∧
      (∃ u : State, exec (.portDown p) s = .next u ∧ u.port p = { q with up := false, replays := 8 } ∧ alone u ∧
        reg u 0x5010 = reg s 0x5010 + 1 ∧ reg u 0x5008 = reg s 0x5008 + BitVec.ofNat 64 (8 - q.replays) ∧ raised u 3) ∧
      (∀ l, later (.purlinPortUp p l))) ∧
    (q.up = false → p < 64 → (∀ m y cs, later (.flitReceive p seq ⟨ok, m, y, cs⟩)) ∧ later (.portDown p) ∧
      ∀ l, ∃ u : State, exec (.purlinPortUp p l) s = .next u ∧ raised u 3 ∧
        (f.gate = [] → u.port p = { q with up := true, lanes := l, expect := 0, replays := 0, told := none, credit := (u.port p).credit } ∧
          (∀ c : Cls, (u.port p).credit[c.index] = Config.linkCredit p c.index.val) ∧ alone u) ∧
        (∀ m, f.gate = [m] → (∀ j, s.gateShut j = false) → m.device ≠ Config.deviceId.toNat → egressAllows m.device = true →
          s.routeOf m.device = some p → q.replay.length < 512 → 0 < Config.linkCredit p m.cls.index.val → u.dev.fab.gate = [] ∧ u.dev.fab.sent = f.sent ++ [(m.device, m)] ∧
          (u.port p).up = true ∧ (u.port p).replay = q.replay ++ [(q.sendSeq, m)])) ∧
    (∀ d, ∃ u : State, exec (.portReroute d p) s = .next u ∧
      ((s.dev.timed.visible s.dev.now).wf = true → (p < 64 → u.routeOf d = some p) ∧ (64 ≤ p → u.routeOf d = none) ∧
        ∀ e, e % 2 ^ 20 ≠ d % 2 ^ 20 → u.routeOf e = s.routeOf e) ∧
      (∀ o, s.routeOf d = some o → o ≠ p → p < 64 → (s.port o).up = false → f.gate = [] → ∃ moved : List (BitVec 12 × Message),
        moved.map Prod.snd = ((s.port o).replay.map Prod.snd).filter (fun m => m.device = d) ∧ (u.port p).replay = q.replay ++ moved ∧
        (u.port o).replay = (s.port o).replay.filter (fun e => e.2.device ≠ d))) ∧
    (let at_ : Nat := 2 ^ 42 + (s.shReg 0 0x5800 0).toNat % 2 ^ 42 / 4096 * 4096
     ∀ d, d < 2 ^ 20 → s.routeOf d = (let b := ((s.dev.timed.visible s.dev.now).read (at_ + d)).toNat; if b < 64 then some b else none)) ∧
    (∀ r : FabricReq,
      let reply (bs : List Byte) (c : BitVec 8) : Message := ⟨.c1, 2 ^ 33, 8 * r.core, r.src, .direct, .answer r.core r.tag bs c⟩
      let answer (bs : List Byte) (c : BitVec 8) : Prop := exec (.fabricInboundRequest r) s = .next (s.route (reply bs c))
      let inst : Nat := match r.op with
        | .load _ t => t.getD s.dev.now
        | _ => r.inst
      let sends (e : TStore) (part key : Nat) : Prop := exec (.fabricInboundRequest r) s = .next (s.onTimed (fun m =>
          { m with flight := m.flight ++ [e], nextId := m.nextId + 1 })) ∧
        (e.src, e.device, e.core, e.token) = (r.kind, some r.src, r.core, r.token) ∧
        (e.part, e.node, e.wid, e.seq, e.inst, e.home) = (part, r.node, r.wid, r.seq, r.inst, some key)
      (∀ bs c, r.src ≠ Config.deviceId.toNat → egressAllows r.src = true →
        (∀ o, s.routeOf r.src = some o → s.portReady r.src .c1 = true → f.gate = [] → (s.route (reply bs c)).dev.fab.sent = f.sent ++ [(r.src, reply bs c)]) ∧
        (s.reachable r.src = true → s.portReady r.src .c1 = false → (s.route (reply bs c)).dev.fab.gate = f.gate ++ [reply bs c]) ∧
        (s.routeOf r.src = none → f.gate = [] → s.route (reply bs c) = s)) ∧
      (r.op = .purge → ∃ u v : State, exec (.fabricInboundRequest r) s = .next u ∧ u = v.route (reply [] 0) ∧
        v = s.onTimed (fun m => { m with tense := v.dev.timed.tense }) ∧
        ∀ e, e ∈ v.dev.timed.tense ↔ e ∈ s.dev.timed.tense ∧ ¬(e.device = some r.src ∧ e.src = .task ∧ e.token = r.token)) ∧
      (r.op ≠ .purge → s.windowFor r = none → answer [] 0x11) ∧
      (∀ part w c, r.op ≠ .purge → s.windowFor r = some (part, w) →
        s.walked (some part) (decide (r.kind = .task)) r.write r.va inst = .error c → answer [] c) ∧
      (∀ part w key, s.windowFor r = some (part, w) → s.walked (some part) (decide (r.kind = .task)) r.write r.va inst = .ok key →
        (ownKey key = false → r.op ≠ .purge → answer [] 0x11) ∧
        (∀ bs drop, ownKey key = true → r.op = .store bs drop → ∃ e : TStore, sends e part key ∧
          (e.drop, e.data.map Prod.snd, e.atomic) = (drop, bs, none)) ∧
        (∀ fn wide x y, ownKey key = true → r.op = .atomic fn wide x y → ∃ e : TStore, sends e part key ∧
          e.atomic = some ⟨fn, wide, x, y, r.core, r.tag⟩) ∧
        (∀ n t, ownKey key = true → r.op = .load n t → s.dev.now < inst → later (.fabricInboundRequest r)) ∧
        (∀ n t, ownKey key = true → r.op = .load n t → inst ≤ s.dev.now → s.dev.trans.moves = [] →
          answer ((s.dev.timed.visible inst).readN key n) 0 ∨ answer [] 0x12))) ∧
    (let master := (s.shReg 0 0x6010 0).getLsbD 0
     let period := (s.shReg 0 0x6000 128).toNat % 8192
     let upstream := (s.shReg 0 0x6010 0).toNat / 256 % 64
     let locked (u : State) : Bool := (u.shReg 0 0x6028 0).getLsbD 63
     let changed (u : State) : Prop := locked u ≠ locked s → raised u 4
     let beacon (t per k : Nat) (phase : Int) : Nat × Message := (2 ^ 20 + k, ⟨.c0, k, k, 2 ^ 20 + k, .direct, .beacon t per phase⟩)
     let forwarded (u : State) (t per : Nat) : Prop := (∀ m ∈ f.sent, m ∈ u.dev.fab.sent) ∧
       ∀ k < 64, (s.shReg 0 0x6018 0).getLsbD k = true → (s.port k).ready .c0 = true → beacon t per k u.dev.out.phase ∈ u.dev.fab.sent
     (∀ t per off, (master = true ∨ p ≠ upstream) → later (.timeBeacon p t per off)) ∧
     (∀ t per off, master = false → p = upstream → ∃ u : State, exec (.timeBeacon p t per off) s = .next u ∧ u.dev.missed = 0 ∧
       u.dev.now = s.dev.now ∧ changed u ∧ forwarded u t per ∧ (per ≠ period → locked u = false ∧ u.dev.out.phase = s.dev.out.phase) ∧
       (per = period → (u.shReg 0 0x6028 0).extractLsb' 0 32 = off ∧ u.dev.out.phase = s.dev.out.phase + Config.slew off ∧
         (locked u = true ↔ t + Config.linkDelay p = s.dev.now ∧ -8000 ≤ off.toInt ∧ off.toInt ≤ 8000))) ∧
     (master = true → s.dev.now % 64 = 0 → ∃ u : State, exec .beaconSend s = .next u ∧ forwarded u s.dev.now period) ∧
     ((master = false ∨ s.dev.now % 64 ≠ 0) → later .beaconSend) ∧
     (16 ≤ s.dev.missed → ∃ u : State, exec .lockLoss s = .next u ∧ locked u = false ∧ changed u ∧ u.dev.now = s.dev.now) ∧
     (s.dev.missed < 16 → later .lockLoss) ∧
     (∀ v : Word, let refused : Prop := v.toNat < 32 ∨ 4096 < v.toNat ∨ ∃ z ∈ s.dev.disp.tcbs, z.st.live = true
       ∃ u : State, exec (.iperiodWrite v) s = .next u ∧ u.shReg 0 0x6000 128 = s.shReg 0 0x6000 128 ∧
         ((u.shReg 0 0x6028 0).getLsbD 62 = true ↔ refused) ∧ (refused → u.dev.iperiodNext = s.dev.iperiodNext) ∧
         (¬refused → u.dev.iperiodNext = some (v.setWidth 13)))) ∧
    (∀ waiting : List FlightRef,
      let a := s.arbiterFor ⟨p, waiting⟩
      let waits (t : Nat) : Prop := ∃ w ∈ a.waiting, w.tier = t
      ∃ c : Arbiter, exec (.starvationGrant ⟨p, waiting⟩) s =
        .next (s.onDev (fun d => { d with fab := { d.fab with starve := aset d.fab.starve p c } })) ∧
      let starved1 : Prop := 64 ≤ a.tier1 ∧ waits 1
      let starved2 : Prop := 64 ≤ a.tier2 ∧ waits 2
      let grants (t : Nat) : Prop := (∃ l1 w l2, a.waiting = l1 ++ w :: l2 ∧ w.tier = t ∧ (∀ x ∈ l1, x.tier ≠ t) ∧ c.waiting = l1 ++ l2) ∧
        (t = 1 ∨ ¬waits 1 → c.tier1 = 0) ∧
        (t = 2 ∨ ¬waits 2 → c.tier2 = 0) ∧ (t = 0 → waits 1 → c.tier1 = min 64 (a.tier1 + 1)) ∧
        (t < 2 → waits 2 → c.tier2 = min 64 (a.tier2 + 1)) ∧ (t = 2 → waits 1 → c.tier1 = a.tier1)
      (starved1 → grants 1) ∧ (¬starved1 → starved2 → grants 2) ∧ (¬starved1 → ¬starved2 → waits 0 → grants 0) ∧
      (¬starved2 → ¬waits 0 → waits 1 → grants 1) ∧ (¬waits 0 → ¬waits 1 → waits 2 → grants 2)) ∧
    (∀ n m, f.msgs[n]? = some m →
      (aget f.starve p = none → s.queued (.message m) = false → (s.arbiterFor ⟨p, [.message n]⟩) = ⟨0, 0, [.message m]⟩) ∧
      (∀ a, (p, a) ∈ f.starve → .message m ∈ a.waiting → s.arriving n = none))

/-- R79, R288 to R296: what a walk of the table comes to, what the mapping commands change, and how a page moves from its
old home to its new one. The model's choices are these: a moving page's bytes are carried at the boundary (log entry 25), the
order of the reasons of a command and what makes it busy (log entry 38), and frames cleared as of every instant (log entry 39). -/
def Obligations.TranslationResults : Prop :=
  ∀ (s : State) (n core part : Nat) (q : Partition) (v : Word), s.Sound → s.partition part = some q →
    let t := s.dev.trans
    let tm := s.dev.timed
    let now := s.dev.now
    let root := q.cfg.root * 2 ^ 17
    let word (a : Nat) : Nat := natOf (t.ptab.readN a 8)
    let later (i : Instr) : Prop := exec i s = .next s
    let counted (u : State) (c : List PageCount) : State := u.onDev (fun d => { d with trans := { d.trans with counts := c } })
    let cleared (u : State) (frame frames : Nat) : Prop :=
      ∀ inst a, 2 ^ 42 + frame * 65536 ≤ a → a < 2 ^ 42 + (frame + frames) * 65536 → (u.dev.timed.visible inst).read a = 0
    (∀ (task write : Bool) (va inst : Nat), t.busy = [] → t.moves = [] →
      let w0 := word (root + 8 * (va / 2 ^ 34 % 2 ^ 14))
      let w1 := word (w0 % 2 ^ 30 * 4096 + 8 * (va / 2 ^ 25 % 2 ^ 9))
      let w2 := word (w1 % 2 ^ 30 * 4096 + 8 * (va / 2 ^ 16 % 2 ^ 9))
      let table (w : Nat) : Prop := w / 2 ^ 61 = 4 ∧ w / 2 ^ 30 % 2 ^ 29 = 0
      let leaf (w : Nat) : Prop := w / 2 ^ 61 = 5 ∧ w / 2 ^ 26 % 2 ^ 33 = 0
      let comes (r : Except (BitVec 8) Nat) : Prop := s.translate (some part) task write va inst = r
      let mapped (w page : Nat) : Prop :=
        comes (if w / 2 ^ 59 % 2 = 1 ∧ task = true then .error 0x11 else if write = true ∧ w / 2 ^ 60 % 2 = 0 then .error 0x11
          else .ok (2 ^ 42 + ((w % 2 ^ 26 + va % page / 65536) * 65536 + va % 65536)))
      (leaf w0 → mapped w0 (2 ^ 34)) ∧ (table w0 → leaf w1 → mapped w1 (2 ^ 25)) ∧ (table w0 → table w1 → leaf w2 → mapped w2 65536) ∧
      (w0 / 2 ^ 63 = 0 → comes (.error 0x10)) ∧ (table w0 → w1 / 2 ^ 63 = 0 → comes (.error 0x10)) ∧
      (table w0 → table w1 → (w2 / 2 ^ 63 = 0 ∨ w2 / 2 ^ 61 = 4 ∨ w2 / 2 ^ 61 = 7) → comes (.error 0x10))) ∧
    (∀ r path va, s.remoteOf core n = some r → pathOf r.addr = some (path, va) →
      let came := s.translate ((s.coreAt core).part s) (!r.sup) false va (r.inst.getD now)
      (r.stat = .walk → r.gate = false → ∃ (st : RStat) (c : List PageCount), exec (.pageWalk (.load core n)) s = .next (counted (s.setRemote core n st) c) ∧
        (st = .faulted 0x12 ∨ (∃ key, came = .ok key ∧ st = .home key) ∨ ∃ c, came = .error c ∧ st = .faulted c)) ∧
      ((r.stat ≠ .walk ∨ r.gate = true) → later (.pageWalk (.load core n)))) ∧
    (∀ e path va, tm.flight[n]? = some e → pathOf e.addr = some (path, va) →
      let came := s.translate (some e.part) (!e.sup) true va e.inst
      ((e.home ≠ none ∨ e.gate = true) → later (.pageWalk (.store n))) ∧
      (e.home = none → e.gate = false → (∃ (key : Nat) (c : List PageCount), came = .ok key ∧ exec (.pageWalk (.store n)) s =
          .next (counted (s.onTimed (fun m => { m with flight := setAt m.flight n { e with home := some key } })) c)) ∨
        ∃ (u : State) (c : BitVec 8), exec (.pageWalk (.store n)) s = .next u ∧ u.dev.timed = { tm with flight := dropAt tm.flight n } ∧
          (c = 0x12 ∨ came = .error c) ∧
          (∀ x, e.device = none → e.atomic = none → e.copy = none → e.src = .task → e.core = s.core.id → e.core < 165888 → s.core.x.ctx = some x → x.run = e.run →
            u.core.x.deferred = s.core.x.deferred ++ [⟨c, e.addr, e.clause, none⟩]))) ∧
    (tm.flight[n]? = none → later (.pageWalk (.store n))) ∧
    (core < 165888 → (s.coreAt core).part s = some part →
      let sh := core / 768 / 54 * 8 + core % 768 / 96
      let va := (s.shReg sh 0x3000 0).toNat
      let x := (s.shReg sh 0x3008 0).toNat
      let lvl := v.toNat / 4 % 4
      let status (i : Instr) (off reason : Nat) : Prop := exec i s = .next (s.setShReg sh off (BitVec.ofNat 64 (2 ^ 62 + reason)))
      let map : Instr := .tmcmdMap (.core core) n v
      let unmap : Instr := .tmcmdUnmap (.core core) n v
      let move : Instr := .pmcmdMove (.core core) n v
      (v.toNat % 4 ≠ 1 → later map) ∧ (v.toNat % 4 ≠ 2 → later unmap) ∧ (v ≠ 1 → later move) ∧
      (v.toNat % 4 = 1 → (∃ b ∈ t.busy, b.shingle = sh) → status map 0x3018 1) ∧
      (v.toNat % 4 = 2 → (∃ b ∈ t.busy, b.shingle = sh) → status unmap 0x3018 1) ∧
      (v.toNat % 4 = 1 → (∀ b ∈ t.busy, b.shingle ≠ sh) → (lvl = 3 ∨ 32 ≤ v.toNat) → status map 0x3018 8) ∧
      (v.toNat % 4 = 1 → (∀ b ∈ t.busy, b.shingle ≠ sh) → lvl = 2 → v.toNat < 32 → (2 ^ 48 ≤ va ∨ va % 65536 ≠ 0) → status map 0x3018 2) ∧
      (∀ r, v.toNat % 4 = 1 → s.mapReason (some part) sh v = some r → status map 0x3018 r) ∧
      (∀ r, v.toNat % 4 = 2 → s.mapReason (some part) sh v = some r → status unmap 0x3018 r) ∧
      (∀ tab, s.mapReason (some part) sh v = none → t.tableAt root va lvl = some tab →
        let a := tab + 8 * ptIndex lvl va
        let busy := t.busy ++ [⟨sh, a, t.ptab.readN a 8⟩]
        (v.toNat % 4 = 1 → ∃ u : State, exec map s = .next u ∧ u.dev.trans.busy = busy ∧ u.dev.trans.moves = t.moves ∧
          natOf (u.dev.trans.ptab.readN a 8) = x ∧ u.core = s.core ∧ u.dev.disp = s.dev.disp ∧
          (x / 2 ^ 61 % 4 = 0 → tab + 0x20000 ≤ x % 2 ^ 30 * 4096 ∨ x % 2 ^ 30 * 4096 + 4096 ≤ tab →
            ∀ i < 4096, u.dev.trans.ptab.read (x % 2 ^ 30 * 4096 + i) = 0) ∧
          (v.getLsbD 4 = true → x / 2 ^ 61 % 4 = 1 → cleared u (x % 2 ^ 26) (pageSize lvl / 65536)) ∧
          (v.getLsbD 4 = false → u.dev.timed = tm)) ∧
        (v.toNat % 4 = 2 → ∃ u : State, exec unmap s = .next u ∧ u.dev.trans.busy = busy ∧
          natOf (u.dev.trans.ptab.readN a 8) = word a % 2 ^ 63 ∧ (∀ b, b < a ∨ a + 8 ≤ b → u.dev.trans.ptab.read b = t.ptab.read b) ∧
          u.dev.timed = tm)) ∧
      (∃ u : State, exec (.tmCommandComplete n) s = .next u ∧ u = s.onDev (fun d => { d with trans := u.dev.trans }) ∧
        u.dev.trans = { t with busy := u.dev.trans.busy } ∧ ∀ b, b ∈ u.dev.trans.busy ↔ b ∈ t.busy ∧ b.shingle ≠ n) ∧
      (let va := (s.shReg sh 0x3040 0).toNat
       let frame := (s.shReg sh 0x3048 0).toNat
       let inst := (s.shReg sh 0x3050 0).toNat
       (v = 1 → s.moveBusy sh = true → status move 0x3060 1) ∧
       (∀ r, v = 1 → s.moveBusy sh = false → s.moveReason (some part) va frame inst = some r → status move 0x3060 r) ∧
       (v = 1 → s.moveBusy sh = false → s.moveReason (some part) va frame inst = none → ∃ (u : State) (m : Move), exec move s = .next u ∧
         u.dev.trans = { t with moves := t.moves ++ [m] } ∧ u.dev.timed = tm ∧ (m.part, m.va, m.newFrame, m.inst, m.since) = (part, va, frame, inst, now) ∧
         (m.shingle, m.handed, m.applied) = (sh, false, false)))) ∧
    (∀ va frame inst, va < 2 ^ 64 → inst < 2 ^ 56 →
      let i : Instr := .dispenserHomeMove part va frame inst
      let named (u : State) (sh : Nat) : Prop := ((u.shReg sh 0x3040 0).toNat, (u.shReg sh 0x3048 0).toNat, (u.shReg sh 0x3050 0).toNat) = (va, frame, inst)
      ((s.mostlyFrom part va = none ∨ 50331648 ≤ frame ∨ s.mostlyFrom part va ≠ some (frame % 2048 / 64)) → later i) ∧
      (∀ sh, s.mostlyFrom part va = some sh → frame < 50331648 → frame % 2048 / 64 = sh →
        (∀ r, (if s.moveBusy sh then some 1 else s.moveReason (some part) va frame inst) = some r → ∃ u : State, exec i s = .next u ∧
          named u sh ∧ u.shReg sh 0x3060 0 = BitVec.ofNat 64 (2 ^ 62 + r) ∧ u.dev.trans = t ∧ u.dev.timed = tm) ∧
        (s.moveBusy sh = false → s.moveReason (some part) va frame inst = none → ∃ (u : State) (m : Move), exec i s = .next u ∧ named u sh ∧
          u.dev.trans = { t with moves := t.moves ++ [m] } ∧ u.dev.timed = tm ∧
          (m.shingle, m.part, m.va, m.newFrame, m.inst, m.since, m.handed, m.applied) = (sh, part, va, frame, inst, now, false, false)))) ∧
    (∀ m, t.moves[n]? = some m →
      let becomes (i : Instr) (m : Move) : Prop := exec i s = .next (s.onDev (fun d => { d with trans := { t with moves := setAt t.moves n m } }))
      (m.inst ≤ now → becomes (.homeHandover n) { m with handed := true }) ∧ (now < m.inst → later (.homeHandover n)) ∧
      (m.handed = true → s.queued (.move m.part m.va) = false → becomes (.handoverApply n) { m with applied := true }) ∧
      ((m.handed = false ∨ s.queued (.move m.part m.va) = true) → later (.handoverApply n)) ∧
      (m.part = part → (m.applied = false ∨ q.horizon < m.inst ∨ s.oldServes m = true) → later (.moveComplete n)) ∧
      (m.part = part → m.applied = true → m.inst ≤ q.horizon → s.oldServes m = false → m.newFrame < 2 ^ 26 → ∃ u : State, exec (.moveComplete n) s = .next u ∧
        u.dev.trans.moves = dropAt t.moves n ∧
        natOf (u.dev.trans.ptab.readN m.entryAddr 8) = word m.entryAddr / 2 ^ 26 * 2 ^ 26 + m.newFrame ∧ cleared u m.oldFrame 1)) ∧
    (∀ m, t.moves = [m] → m.inst = now + 1 → now + 1 < 2 ^ 56 → tm.tense = [] → ∃ u : State, exec .instantBoundary s = .next u ∧ ∀ i < 65536,
      (u.dev.timed.visible m.inst).read (2 ^ 42 + (m.newFrame * 65536 + i)) = (tm.visible now).read (2 ^ 42 + (m.oldFrame * 65536 + i)))

/-- R264, R282 to R284, R300, R301, R331: transitions of a voltage domain, droops and errors, double traps, withholding
of clusters with the requests to kernels on them, and the thermal trip. The model's choices are these: withholding and its
requests come at each evaluation (log entry 21), what a gate holds and a write that waits (log entry 40), and what a reload of the
supervisor restores (log entry 76). -/
def Obligations.PowerResults : Prop :=
  ∀ (s : State) (core part cl sh d : Nat) (v : Word) (image : SupImage), s.Sound → core < 165888 →
    let c := s.coreAt core
    let later (i : Instr) : Prop := exec i s = .next s
    let own := core / 768 / 54 * 8 + core % 768 / 96
    let recovered (i : Instr) (cause : BitVec 8) : Prop := ∃ u : State, exec i s = .next u ∧ u.dev.now = s.dev.now ∧
      (let k := u.coreAt core
       k.x.ctx = none ∧ k.x.run = .idle ∧ k.x.mode = .user ∧ k.x.stopped = none ∧ k.mat = Matrix.reset ∧
       (image.csrs = [] → k.csr = Csrs.reset) ∧
       ∀ a bs, image.im = [(a, bs)] → a + bs.length ≤ 65536 → c.mem.im.Written k.mem.im a bs ∧
         ∀ f < 16, a < (f + 1) * 4096 → f * 4096 < a + bs.length → k.mem.frame f = .resident none) ∧
      (∀ x, c.x.ctx = some x → ∃ p ∈ u.dev.timed.purges, (p.token, p.core, p.part, p.cause) = (x.token, core, x.part, cause))
    (∀ k, c.part s = some part → s.domainOn own part = some k →
      let z := s.domain own k
      let f := v.toNat % 128
      let becomes (z : VoltDomain) : Prop := ∃ u : State, exec (.vdreqWrite (.core core) sh v) s = .next u ∧ u.domain own k = z ∧
        u.core = s.core ∧ ∀ a b, (a, b) ≠ (own, k) → u.domain a b = s.domain a b
      ((f < 24 ∨ 70 < f) → becomes { z with refused := true }) ∧
      (24 ≤ f → f ≤ 70 → z.phase = 0 → becomes { z with phase := 1, since := s.dev.now, goal := f, req := f, refused := false }) ∧
      (24 ≤ f → f ≤ 70 → z.phase ≠ 0 → becomes { z with waiting := some f, req := f, refused := false })) ∧
    (c.part s = some part → s.domainOn own part = none → later (.vdreqWrite (.core core) sh v)) ∧
    (let z := s.domain sh d
     let becomes (i : Instr) (z : VoltDomain) : Prop := ∃ u : State, exec i s = .next u ∧ u.domain sh d = z ∧ u.core = s.core ∧ u.dev.timed = s.dev.timed
     (z.phase = 1 → s.crossing sh d = false → becomes (.vdDrainDone sh d) { z with phase := 2 }) ∧
     ((z.phase ≠ 1 ∨ s.crossing sh d = true) → later (.vdDrainDone sh d)) ∧
     let opens (z : VoltDomain) : Prop := ∃ u : State, exec (.vdSwitchDone sh d) s = .next u ∧ u.domain sh d = z ∧ u.core.r = s.core.r ∧
       u.core.x = s.core.x ∧ u.core.mem = s.core.mem ∧ u.dev.timed.versions = s.dev.timed.versions ∧
       (∀ e ∈ u.dev.timed.flight, s.inDomain sh d e.core = true → e.gate = false) ∧
       (∀ r ∈ u.core.eng.remote, s.inDomain sh d s.core.id = true → r.gate = false)
     (z.phase = 2 → z.waiting = none → opens { z with phase := 0, code := z.goal }) ∧
     (∀ f, z.phase = 2 → z.waiting = some f → opens { z with phase := 1, since := s.dev.now, code := z.goal, goal := f, waiting := none }) ∧
     (z.phase ≠ 2 → later (.vdSwitchDone sh d))) ∧
    (∀ sup : List Nat, clusterOf core = cl →
      let w : BitVec 16 := (aget s.dev.disp.windows cl).getD 0 + 1
      (∃ u : State, exec (.droopDetect cl [] ⟨sup, image⟩) s = .next u ∧ aget u.dev.disp.windows cl = some w ∧ u.core = s.core ∧ u.cores = s.cores) ∧
      (c.x.stopped = none → core ∉ sup → c.x.mode = .user → ∃ u : State, exec (.droopDetect cl [core] ⟨sup, image⟩) s = .next u ∧
        aget u.dev.disp.windows cl = some w ∧ u.coreAt core = { c with x := { c.x with ev19 := some (w.setWidth 64) } }) ∧
      (c.x.stopped = none → (core ∈ sup ∨ c.x.mode = .supervisor) → recovered (.droopDetect cl [core] ⟨sup, image⟩) 0x19)) ∧
    (∀ (array : BitVec 8) (sup : List Nat), c.x.stopped = none →
      (core ∉ sup → c.x.mode = .user → ∃ u : State, exec (.coreArrayError core array ⟨sup, image⟩) s = .next u ∧ u.dev = s.dev ∧
        u.coreAt core = { c with x := { c.x with ev19 := some (0x8000000000000000 ||| array.setWidth 64) } }) ∧
      ((core ∈ sup ∨ c.x.mode = .supervisor) → recovered (.coreArrayError core array ⟨sup, image⟩) 0x19)) ∧
    (c.x.stopped = some .doubleTrap → recovered (.doubleTrapRecovery ⟨core, image⟩) 0x1A) ∧
    (c.x.stopped ≠ some .doubleTrap → later (.doubleTrapRecovery ⟨core, image⟩)) ∧
    (∀ (tj : Int) (pw : Nat),
      let di := s.dev.disp
      let set : Int := (s.shReg (clusterShingle cl) 0x818 1520).toNat
      let budget := max 1 ((s.shReg (clusterShingle cl) (0x900 + 8 * (cl / 96 % 9 * 12 + cl % 96 % 12)) 6076).toNat % 65536)
      let noted (u : State) : Prop := aget u.dev.disp.tjunc cl = some tj ∧ aget u.dev.disp.power cl = some pw ∧ u.dev.timed = s.dev.timed ∧
        (∀ k, k ≠ cl → (k ∈ u.dev.disp.hot ↔ k ∈ di.hot) ∧ (k ∈ u.dev.disp.drawing ↔ k ∈ di.drawing))
      (∃ u : State, exec (.clusterWithhold cl tj pw) s = .next u ∧ noted u ∧ (cl ∈ u.dev.disp.hot ↔ cl ∈ di.hot ∨ set ≤ tj) ∧
        (cl ∈ u.dev.disp.drawing ↔ cl ∈ di.drawing ∨ budget < pw) ∧
        (∀ x l, u.isWithheld cl = true → clusterOf core = cl → c.x.ctx = some x → 0 < x.groups → c.csr.req = false → c.x.stopped = none →
          u.kernelTarget core x = some l → (u.coreAt core).csr = { c.csr with
            req := true, why := if cl ∈ u.dev.disp.hot then 0 else 1, target := BitVec.ofNat 18 l })) ∧
      (∃ u : State, exec (.clusterUnwithhold cl tj pw) s = .next u ∧ noted u ∧ u.core = s.core ∧ u.cores = s.cores ∧
        (cl ∈ u.dev.disp.hot ↔ cl ∈ di.hot ∧ set - 48 ≤ tj) ∧ (cl ∈ u.dev.disp.drawing ↔ cl ∈ di.drawing ∧ 95 * budget ≤ 100 * pw))) ∧
    (∀ tj : Int, sh < 32 →
      (1680 ≤ tj → ∃ u : State, exec (.thermalTrip sh tj) s = .next u ∧ u.shReg sh 0x808 0 = 1 ∧ u.shReg sh 0x800 0 = BitVec.ofInt 64 tj ∧
        2 ∈ u.dev.out.msix ∧ u.dev.timed = s.dev.timed ∧ u.core.r = s.core.r ∧ u.core.mem = s.core.mem ∧ u.core.x.pc = s.core.x.pc ∧
        (shingleOf s.core.id = sh → s.core.id < 165888 → u.core.gang = [] ∧
          ∀ y ∈ u.core.eng.copies, y.failed = true ∨ y.op ≠ 0 ∨ (y.todo = List.range (y.len / 4) ∧ y.got = []))) ∧
      (tj < 1680 → later (.thermalTrip sh tj)) ∧
      (tj < 1520 → ∃ u : State, exec (.triprstWrite sh tj) s = .next u ∧ u.shReg sh 0x808 0 = 0 ∧ u.shReg sh 0x800 0 = BitVec.ofInt 64 tj ∧
        u.core.r = s.core.r ∧ u.dev.timed = s.dev.timed ∧ (s.shReg sh 0x808 0 = 0 → u.core = s.core)) ∧
      (1520 ≤ tj → later (.triprstWrite sh tj)))

/-- R298, R331, R333 to R337: the phases of a firmware update and how they end, reconfiguration, loss of power, and
bring-up. The model's choices are these: what the checks of firmware and boot find is an operand of the step, phase by phase (log
entry 61), and what blocks a reconfiguration (log entry 45). -/
def Obligations.FirmwareResults : Prop :=
  ∀ (s : State) (sig ver fmt locked : Bool) (version : BitVec 32) (sh controller instant : Nat) (ok : List Bool) (slot1 : Bool) (config : List Byte),
    let o := s.dev.out
    let status (u : State) : Nat := (u.shReg 0 0x7018 0).toNat
    let phase := status s % 16
    let later (i : Instr) : Prop := exec i s = .next s
    let update : Instr := .fwUpdate sig ver fmt version
    let goes (i : Instr) (value : Nat) (vector1 : Bool) (f : Outside → Outside) : Prop := ∃ u : State, exec i s = .next u ∧ status u = value ∧
      (vector1 = true → 1 ∈ u.dev.out.msix) ∧ { u.dev.out with msix := o.msix } = f o ∧ u.core = s.core ∧ u.dev.timed = s.dev.timed ∧ u.dev.disp = s.dev.disp
    let calm : Prop := ∀ t ∈ s.dev.disp.tcbs, t.st = .held → t.relPending = false ∧ t.abortPending = false
    let ends (i : Instr) (phase reason : Nat) (f : Outside → Outside) : Prop :=
      (∃ u : State, exec i s = .next u ∧ status u = phase + 256 * reason ∧ 1 ∈ u.dev.out.msix) ∧ (calm → goes i (phase + 256 * reason) true f)
    ((phase = 0 ∨ 6 ≤ phase) → goes update 1 false id) ∧ (phase = 1 → goes update 2 false id) ∧
    (phase = 2 →
      (sig = false → ends update 7 2 id) ∧ (sig = true → ver = false → ends update 7 3 id) ∧
      (sig = true → ver = true → fmt = false → ends update 7 4 id) ∧
      (sig = true → ver = true → fmt = true → goes update 3 false (fun o => { o with fwNewVersion := version }))) ∧
    (phase = 3 → goes update 4 false (fun o => { o with measured := o.measured ++ [o.fwNewVersion] })) ∧
    (phase = 4 → goes update 5 false id) ∧ (phase = 5 → later update) ∧
    (phase = 5 → ends .fwHeartbeat 6 0 (fun o => { o with fwSlot := !o.fwSlot, fwVersion := o.fwNewVersion })) ∧
    (phase ≠ 5 → later .fwHeartbeat ∧ later .fwHeartbeatTimeout) ∧
    (phase = 5 → ends .fwHeartbeatTimeout 8 5 (fun o => { o with measured := o.measured ++ [o.fwVersion] })) ∧
    (sh < 32 →
      let bs := (s.dev.timed.visible s.dev.now).readN (2 ^ 42 + (s.shReg sh 0x7008 0).toNat) (3456 + 64 * 128)
      let blocked : Prop := configRefused bs = true ∨ ∃ p ∈ s.changedParts bs, s.partLive p = true
      (1 ≤ phase → phase ≤ 5 → goes (.fwReconfigure sh) (phase + 256) false id) ∧
      ((phase = 0 ∨ 6 ≤ phase) → blocked → ends (.fwReconfigure sh) 7 4 id) ∧
      ((phase = 0 ∨ 6 ≤ phase) → ¬blocked → calm → ∃ u : State, exec (.fwReconfigure sh) s = .next u ∧ status u = 6 ∧ 1 ∈ u.dev.out.msix ∧
        u.dev.disp.clusters = configClusters bs ∧ u.dev.disp.tcbs = s.dev.disp.tcbs ∧ u.dev.timed = s.dev.timed ∧
        ∀ k p, (k, p) ∈ u.dev.disp.clusters → ∃ q, u.partition p = some q ∧ q.cfg = (configEntry bs p).1)) ∧
    (32 ≤ sh → later (.fwReconfigure sh)) ∧
    (∃ u : State, exec .powerLoss s = .next u ∧ u.dev.out.powered = false ∧ u.dev.out.bust = 0 ∧ u.core = Core.reset 0 ∧ u.cores = [] ∧
      u.dev.timed = Device.reset.timed ∧ u.dev.disp = Device.reset.disp ∧ u.dev.img = Device.reset.img ∧ u.dev.regs = [] ∧ u.dev.spads = []) ∧
    (let boot : BootConfig := ⟨config, controller, slot1, version, instant⟩
     (o.powered = true → later (.powerOn ok locked boot)) ∧
     (o.powered = false → ∃ u : State, exec (.powerOn ok locked boot) s = .next u ∧ u.core = Core.reset 0 ∧ u.cores = [] ∧
       u.dev.now = (if locked then instant % 2 ^ 56 else 0) ∧
       u.dev.timed = Device.reset.timed ∧ u.dev.out.powered = true ∧ u.dev.out.controller = controller % 32 ∧
       (u.dev.out.fwVersion, u.dev.out.measured) = (version, [version]) ∧ (u.dev.out.fwSlot = true ↔ ok[1]? = some false) ∧
       (let fails (i : Nat) : Prop := (ok[i - 1]? = some false ∧ (i = 2 → slot1 = false)) ∨ (i = 6 ∧ configRefused config = true)
        (∀ i ∈ [1, 2, 3, 4, 6], fails i → (∀ j ∈ [1, 2, 3, 4, 6], j < i → ¬fails j) → u.dev.out.bust = BitVec.ofNat 64 (i + 256 * i)) ∧
        ((∀ i ∈ [1, 2, 3, 4, 6], ¬fails i) → u.dev.out.bust = 7 ∧ 0 ∈ u.dev.out.msix ∧ u.dev.disp.clusters = configClusters config ∧
          (locked = true ↔ (u.shReg 0 0x6028 0).getLsbD 63 = true) ∧ (locked = false → 4 ∈ u.dev.out.msix)))))

/-- R256, R302 to R314: migration requests and their deadline, the stop, image and restore of a core, the move of a context,
and the traffic of a swap. The model's choices are these: the flops of an image, and a deadline as a stop and a restore
of kinds 4 and 5 (log entry 41), what a command waits for and what a move and a swap carry (log entry 42), the firmware's image
area (log entry 43), REQ without a context (log entry 53), and the fields of an image's NI section (log entry 67). -/
def Obligations.ImageResults : Prop :=
  ∀ (s : State) (n core part sh : Nat) (v : Word), s.Sound → core < 165888 →
    let c := s.coreAt core
    let im := s.dev.img
    let own := core / 768 / 54 * 8 + core % 768 / 96
    let later (i : Instr) : Prop := exec i s = .next s
    let status (i : Instr) (off reason : Nat) : Prop := exec i s = .next (s.setShReg own off (BitVec.ofNat 64 (2 ^ 62 + reason)))
    let started (i : Instr) (cmd : ImgCmd) : Prop := ∃ u : State, exec i s = .next u ∧ u.dev.img.cmds = im.cmds ++ [cmd] ∧ u.dev.img.images = im.images ∧
      u.dev.timed = s.dev.timed ∧ u.dev.disp = s.dev.disp ∧ ∀ k, (u.coreAt k).r = (s.coreAt k).r ∧ (u.coreAt k).mem = (s.coreAt k).mem
    let cmdOf (op : Nat) (y : ImgCmd) : Prop := im.cmds.find? (fun y => decide (y.shingle = sh ∧ y.op = op)) = some y
    let noCmd (op : Nat) : Prop := ∀ y ∈ im.cmds, ¬(y.shingle = sh ∧ y.op = op)
    let stopCmd (y : ImgCmd) : Prop := cmdOf 1 y ∨ (noCmd 1 ∧ cmdOf 4 y)
    let restoreCmd (y : ImgCmd) : Prop := cmdOf 2 y ∨ (noCmd 2 ∧ cmdOf 5 y)
    let gone (u : State) : Prop := ∀ y, y ∈ u.dev.img.cmds ↔ y ∈ im.cmds ∧ y.shingle ≠ sh
    (∃ u : State, exec (.xmigRidgeWrite core v) s = .next u ∧ u.dev = s.dev ∧ (u.coreAt core).csr = { c.csr with
      req := v.getLsbD 63 && c.x.ctx.isSome, why := v.extractLsb' 18 2, target := v.extractLsb' 0 18 } ∧
      (u.coreAt core).x.ev18 = (c.x.ev18 || (v.getLsbD 63 && c.x.ctx.isSome && !c.csr.req && c.csr.me)) ∧ (u.coreAt core).mem = c.mem) ∧
    (let limit := max 1 ((s.shReg own 0x4020 1024).toNat % 65536)
     let due := ∃ t, c.x.reqSince = some t ∧ t + limit ≤ s.dev.now ∧ c.x.stopped = none ∧ s.imageBusy own = false
     (¬due → later (.migrationDeadline core)) ∧
     (s.firmwareArea core = none → later (.migrationDeadline core)) ∧
     (∀ area, s.firmwareArea core = some area →
       (due → started (.migrationDeadline core) ⟨own, 4, core, c.csr.target.toNat, 2, area, area + 0x80000⟩) ∧
       area + 2 ^ 20 ≤ 50331648 * 65536 ∧ ∀ e ∈ s.dev.disp.parts, let q := e.2.cfg
         (q.dfb < q.dfl → area + 2 ^ 20 ≤ q.dfb * 65536 ∨ q.dfl * 65536 ≤ area) ∧
         (0 < q.sps → area + 2 ^ 20 ≤ q.spf * 65536 ∨ (q.spf + 512 * q.sps) * 65536 ≤ area))) ∧
    (c.part s = some part →
      let w : Writer := .supervisor core (some part)
      let k := (s.shReg own 0x4108 0).toNat % 2 ^ 18
      let base := (s.shReg own 0x4100 0).toNat
      let ctx := (s.shReg own 0x4120 0).toNat
      let stop : Instr := .sccmdStop (.core core) n v
      let restore : Instr := .sccmdRestore (.core core) n v
      let move : Instr := .mgcmdMove (.core core) n v
      let from_ := s.headerField base 209 192
      (v.toNat % 4 ≠ 1 → later stop) ∧ (v.toNat % 4 ≠ 2 → later restore) ∧
      (s.imageBusy own = true → (v.toNat % 4 = 1 → status stop 0x4118 1) ∧ (v.toNat % 4 = 2 → status restore 0x4118 1) ∧ status move 0x4018 1) ∧
      (v.toNat % 4 = 1 → s.imageBusy own = false → (v.toNat / 256 % 256 = 0 ∨ 3 < v.toNat / 256 % 256) → status stop 0x4118 9) ∧
      (v.toNat % 4 = 1 → s.imageBusy own = false → v.toNat / 256 % 256 = 1 → base % 4096 ≠ 0 → status stop 0x4118 8) ∧
      (v.toNat % 4 = 2 → s.imageBusy own = false → base % 4096 ≠ 0 → status restore 0x4118 8) ∧
      (∀ r, v.toNat % 4 = 1 → s.stopReason w own v = some r → status stop 0x4118 r) ∧
      (∀ r, v.toNat % 4 = 2 → s.restoreReason w own = some r → status restore 0x4118 r) ∧
      (∀ r, s.moveCoreReason w own (v.toNat % 2 ^ 18) = some r → status move 0x4018 r) ∧
      (v.toNat % 4 = 1 → s.stopReason w own v = none → started stop ⟨own, 1, k, 0, v.extractLsb' 8 8, base, ctx⟩) ∧
      (v.toNat % 4 = 2 → s.restoreReason w own = none → from_ = k → started restore ⟨own, 2, k, k, 0, base, ctx⟩) ∧
      (v.toNat % 4 = 2 → s.restoreReason w own = none → from_ ≠ k → ∃ u : State, exec restore s = .next u ∧
        u.dev.img.cmds = im.cmds ++ [⟨own, 2, from_, k, 0, base, ctx⟩] ∧ (u.coreAt from_).phys = (s.coreAt k).phys ∧
        (u.coreAt k).phys = (s.coreAt from_).phys ∧ (u.coreAt from_).sw.mbox = (s.coreAt from_).sw.mbox ∧
        (u.coreAt k).ni = (s.coreAt k).ni ∧ ∃ x ∈ u.dev.img.swaps, (x.a, x.b, x.c0Held, x.c2Held) = (from_, k, true, true)) ∧
      (s.moveCoreReason w own (v.toNat % 2 ^ 18) = none → started move ⟨own, 3, core, v.toNat % 2 ^ 18, 0, 0, 0⟩)) ∧
    (noCmd 1 → noCmd 4 → later (.coreStop sh) ∧ later (.imageStreamDone sh)) ∧ (noCmd 2 → noCmd 5 → later (.restoreDone sh)) ∧
    (noCmd 3 → later (.mgcmdDone sh)) ∧
    (∀ y, stopCmd y → y.core < 165888 →
      let a := s.coreAt y.core
      let due := a.x.stopped = none ∧ a.reducing = false
      (¬due → later (.coreStop sh)) ∧
      (due → a.eng.pend = [] → (∀ z ∈ a.eng.copies, z.failed = true ∨ z.todo ≠ []) → ∃ u : State, exec (.coreStop sh) s = .next u ∧
        (let k := u.coreAt y.core
         k.x.stopped = some (.image y.why) ∧ k.r = a.r ∧ k.mem = a.mem ∧ k.x.pc = a.x.pc ∧ k.x.ctx = a.x.ctx ∧ k.gang = [] ∧
         k.eng.remote = a.eng.remote ∧ (∀ z, z ∈ k.eng.copies ↔ z ∈ a.eng.copies ∧ z.failed = true) ∧ k.ni = a.ni) ∧
        u.dev.timed.tense = s.dev.timed.tense ∧ u.dev.timed.flight = s.dev.timed.flight ∧
        (∀ x z, a.x.ctx = some x → s.tcbOfCtx x = some z → { z with st := .parked } ∈ u.dev.disp.tcbs) ∧
        ∃ i ∈ u.dev.img.images, (i.base, i.ctxbuf, i.lcore, i.reason, i.inst) = (y.base, y.ctxbuf, y.core, y.why, s.dev.now) ∧
          (i.streamed, i.valid, i.log) = (false, true, []) ∧ i.core.r = a.r ∧ i.core.mem = a.mem ∧
          i.token = (match a.x.ctx with | some x => x.token | none => 0)) ∧
      (s.imageOn y.core = none → later (.imageStreamDone sh)) ∧
      (∀ i, s.imageOn y.core = some i → i.streamed = true → later (.imageStreamDone sh)) ∧
      (∀ i, s.imageOn y.core = some i → i.streamed = false → ∃ u : State, exec (.imageStreamDone sh) s = .next u ∧
        (y.op = 1 → gone u ∧ u.imageOn y.core = some { i with streamed := true } ∧ u.core = s.core) ∧
        (y.op = 4 →
          let l := y.target
          let b := s.coreAt l
          let held : Prop := gone u ∧ (u.coreAt y.core).phys = a.phys ∧ (u.coreAt y.core).x.stopped = a.x.stopped ∧ u.dev.img.swaps = im.swaps
          let goesOn : Prop := (∀ z, z ∈ u.dev.img.cmds ↔ z = { y with op := 5 } ∨ (z ∈ im.cmds ∧ z.shingle ≠ sh)) ∧
            (u.coreAt y.core).x.stopped = a.x.stopped ∧ (l = y.core → (u.coreAt y.core).phys = a.phys ∧ u.dev.img.swaps = im.swaps) ∧
            (l ≠ y.core → (u.coreAt y.core).phys = b.phys ∧ (u.coreAt l).phys = a.phys ∧ (u.coreAt l).x.ctx = none ∧ (u.coreAt l).x.run = .idle)
          (held ∨ goesOn) ∧
          ((165888 ≤ l ∨ l / 768 / 54 * 8 + l % 768 / 96 ≠ sh ∨ (l ≠ y.core ∧ (b.x.run ≠ .idle ∨ b.x.ctx ≠ none ∨ b.x.stopped ≠ none))) → held)) ∧
        (i.base + 64 ≤ i.ctxbuf →
          let at_ (off k : Nat) : Nat := natOf ((u.dev.timed.visible s.dev.now).readN (2 ^ 42 + i.base + off) k)
          at_ 0 8 = i.token.toNat ∧ at_ 8 8 = i.maphash.toNat ∧ at_ 16 8 = i.inst % 2 ^ 56 + i.reason.toNat * 2 ^ 56 ∧
          at_ 24 8 = i.lcore % 2 ^ 18 + i.srev % 2 ^ 32 * 2 ^ 32 ∧ at_ 32 8 = 1 + 460 * 2 ^ 32 ∧ at_ 40 8 = i.ctxbuf % 2 ^ 64))) ∧
    (∀ y, restoreCmd y → y.core < 165888 →
      (s.imageFor y.base y.core = none → ∃ u : State, exec (.restoreDone sh) s = .next u ∧ gone u ∧ u.core = s.core ∧ u.cores = s.cores) ∧
      (∀ i, s.imageFor y.base y.core = some i → ∃ u : State, exec (.restoreDone sh) s = .next u ∧ gone u ∧
        (let k := u.coreAt y.core
         let live := s.coreAt y.core
         let dram (off : Nat) : Byte := (s.dev.timed.visible s.dev.now).read (2 ^ 42 + y.base + off)
         k.r = i.core.r ∧ k.x.pc = i.core.x.pc ∧ k.x.stopped = none ∧ k.x.ctx = i.core.x.ctx ∧ k.x.ras = [] ∧ k.gang = [] ∧
         k.ni = s.restoredNi i y.base y.ctxbuf y.core ∧
         (s.imageOn y.core = some i → k.ni.staging = live.ni.staging ∧
           (∀ j : Fin 8, live.ni.queues[j] ≠ i.core.ni.queues[j] → k.ni.queues[j] = live.ni.queues[j]) ∧
           (∀ j : Fin 4, live.ni.routes[j] ≠ i.core.ni.routes[j] → k.ni.routes[j] = live.ni.routes[j]) ∧
           k.ni.stage = if live.ni.stage = i.core.ni.stage then
             BitVec.ofNat 32 (natOf ((s.dev.timed.visible s.dev.now).readN (2 ^ 42 + y.base + 0x4A0) 8)) else live.ni.stage) ∧
         k.phys = live.phys ∧ k.eng.remote = live.eng.remote ∧ k.x.deferred = live.x.deferred ∧
         (k.sw.late, k.sw.tie, k.sw.pend) = (live.sw.late, live.sw.tie, live.sw.pend) ∧ k.sw.mbox = live.sw.mbox ∧
         (k.csr.req = (i.core.csr.req && decide (i.reason ≠ 2))) ∧ (∀ j : Fin 4, k.eng.streams[j] = i.core.eng.streams[j]) ∧
         (∀ o < 0x10000, k.mem.im.read o = dram (0xE000 + o) ∧ k.mem.tcm.read o = dram (0x1E000 + o)) ∧
         (∀ o < 0x40000, (u.spad (clusterOf y.core)).read (localIndex y.core * 0x40000 + o) = dram (0x2E000 + o)) ∧
         ∀ (j : Fin 16), ∀ o < 1024, k.mat.slots[j].data.read o = dram (0x6E000 + 1024 * j.val + o)) ∧
        u.dev.fab.msgs = i.log.map (fun m => { m with via := .logged }) ++ s.dev.fab.msgs ∧
        ∀ z ∈ u.dev.img.images, z.lcore = y.core → z.valid = false ∧ z.log = [])) ∧
    (∀ y, cmdOf 3 y → y.core ≠ y.target → y.core < 165888 →
      let a := s.coreAt y.core
      let b := s.coreAt y.target
      let loading := ∃ j : Fin 16, a.mat.slots[j].st = .loading
      (loading → later (.mgcmdDone sh)) ∧
      (¬loading → a.eng.pend = [] → ∃ u : State, exec (.mgcmdDone sh) s = .next u ∧ gone u ∧
        (let k := u.coreAt y.core
         let l := u.coreAt y.target
         k.phys = b.phys ∧ k.ni = a.ni ∧ k.x.ctx = a.x.ctx ∧ k.csr.req = false ∧ k.csr.why = a.csr.why ∧ k.csr.target = a.csr.target ∧
         k.x.ev18 = true ∧ k.x.arrived = true ∧ k.r.q = Vector.replicate 8 0 ∧ k.x.deferred = a.x.deferred ∧ (k.sw.stkb, k.sw.stkl, k.sw.pend) = (b.csr.sstkb, b.csr.sstkl, 0) ∧ k.x.touchTcm = a.x.touchTcm ∧ k.x.touchIm = a.x.touchIm ∧
         (∀ p < 16, (a.x.touchTcm.getLsbD p = true ∧ p < a.csr.tfr.toNat) ∨ p = a.csr.tfr.toNat → ∀ i < 4096,
           k.mem.tcm.read (p * 4096 + i) = a.mem.tcm.read (p * 4096 + i)) ∧
         (∀ p < 16, a.x.touchIm.getLsbD p = true → p < a.csr.ifr.toNat → ∀ i < 4096, k.mem.im.read (p * 4096 + i) = a.mem.im.read (p * 4096 + i)) ∧
         l.phys = a.phys ∧ l.ni = b.ni ∧ l.x.ctx = none ∧ l.x.ended = true ∧ l.csr.req = false) ∧
        (∃ x ∈ u.dev.img.swaps, (x.a, x.b) = (y.core, y.target)) ∧ u.dev.timed = s.dev.timed ∧ u.dev.disp = s.dev.disp)) ∧
    (let msgs := s.dev.fab.msgs
     (∀ m, msgs[n]? = some m →
       let first := ∀ x ∈ msgs.take n, x.via = .former → x.cls = m.cls → x.dst / 8 = m.dst / 8 → False
       (m.via = .former → first → exec (.stragglerForward n) s =
         .next (s.onDev (fun d => { d with fab := { d.fab with msgs := setAt msgs n { m with via := .forwarded } } }))) ∧
       ((m.via ≠ .former ∨ ¬first) → later (.stragglerForward n))) ∧
     (msgs[n]? = none → later (.stragglerForward n)) ∧
     (∀ w, im.swaps[n]? = some w →
       let of_ (m : Message) : Prop := m.dst < 2 ^ 32 ∧ (m.dst / 8 = w.a ∨ m.dst / 8 = w.b)
       let swaps (i : Instr) (l : List SwapRec) : Prop := exec i s = .next (s.onDev (fun d => { d with img := { d.img with swaps := l } }))
       let former := ∃ m ∈ msgs, m.via = .former ∧ of_ m
       let forwarded (k : Cls) := ∃ m ∈ msgs, m.via = .forwarded ∧ m.cls = k ∧ of_ m
       (former → later (.drainMarkerSend n)) ∧
       (¬former → swaps (.drainMarkerSend n) (setAt im.swaps n { w with acked := true, sentMarkers := true })) ∧
       ((w.sentMarkers = false ∨ forwarded .c0) → later (.drainMarker n false)) ∧
       ((w.sentMarkers = false ∨ forwarded .c2) → later (.drainMarker n true)) ∧
       (w.sentMarkers = true → ¬forwarded .c0 → w.c2Held = true → swaps (.drainMarker n false) (setAt im.swaps n { w with c0Held := false })) ∧
       (w.sentMarkers = true → ¬forwarded .c2 → w.c0Held = false → swaps (.drainMarker n true) (dropAt im.swaps n))) ∧
     (im.swaps[n]? = none → later (.drainMarkerSend n) ∧ later (.drainMarker n false) ∧ later (.drainMarker n true)))

/-- R278, R280, R281, R285, R292, R320, R332, R340: the commands of a partition's owner, its digests, and writes of device
registers by a core's supervisor. The model's choices: the parameters of a digest's CRC (log entry 10), the bits of a register
word that no rule lists (69), and a command that waits for a purge or for an update's end, and what is ignored meanwhile (77). -/
def Obligations.RegisterResults : Prop :=
  ∀ (s : State) (core part n off : Nat) (q : Partition) (v : Word) (bs : List Byte), s.Sound → core < 165888 →
    (s.coreAt core).part s = some part → s.partition part = some q →
    let src : RegSrc := .core core
    let own := core / 768 / 54 * 8 + core % 768 / 96
    let di := s.dev.disp
    let later (i : Instr) : Prop := exec i s = .next s
    let partOf (u : State) (f : Partition → Prop) : Prop := ∃ y, u.partition part = some y ∧ f y
    let same (a b : Tcb) : Prop := (a.part, a.owner, a.slot, a.node, a.wid, a.gen) = (b.part, b.owner, b.slot, b.node, b.wid, b.gen)
    let purging (z : Tcb) : Prop := ∃ p ∈ s.dev.timed.purges, p.part = part ∧ (p.node, p.wid, p.token) = (z.node, z.wid, v) ∧ p.cause ≠ 0
    let bare := ∀ z ∈ di.tcbs, z.part = part → z.token = v → z.st ≠ .held
    let ignored (i : Instr) : Prop := ∃ u : State, exec i s = .next u ∧ u.dev.disp.tcbs = di.tcbs ∧ u.dev.disp.recs = di.recs ∧
      partOf u (fun y => y.reg 0x2028 = (q.reg 0x2028 &&& 2) ||| 1)
    let taken (u : State) : Prop := partOf u (fun y => y.reg 0x2028 = q.reg 0x2028 &&& 2)
    let marked (i : Instr) (z y : Tcb) : Prop := ∃ u : State, exec i s = .next u ∧ taken u ∧ u.dev.disp.recs = di.recs ∧ same y z ∧
      y.st = z.st ∧ y ∈ u.dev.disp.tcbs
    (bare → (∀ z ∈ di.tcbs, z.part = part → z.token = v → z.st ≠ .empty → ¬purging z) →
      ignored (.drelWrite src v) ∧ ignored (.dabortWrite src v)) ∧
    (∀ z, s.heldByToken part v = some z →
      (∀ l d, z.relPending = false → z.abortPending = false → s.quiesced = false → s.nodeFor part z.node = some (l, d) →
        (∃ u : State, exec (.drelWrite src v) s = .next u ∧ taken u ∧
          (∃ y ∈ u.dev.disp.tcbs, same y z ∧ (y.st, y.rel, y.pub) = (.ready, z.rel, s.dev.now + d.budget)) ∧
          ∃ r, u.dev.disp.recs = di.recs ++ [r] ∧ (r.part, r.node, r.wid, r.prio, r.rel, r.cont) = (part, z.node, z.wid, d.prio, z.rel, none)) ∧
        (∃ u : State, exec (.dabortWrite src v) s = .next u ∧ taken u ∧ u.dev.disp.recs = di.recs ∧
          (∃ y ∈ u.dev.disp.tcbs, same y z ∧ (y.st, y.poison, y.pub) = (.retired, true, z.pub)) ∧
          ∀ r ∈ d.succs, ∀ w, succWid l.tmpl.widths z.wid r = some w →
            ∃ m ∈ u.dev.fab.msgs, m.body = .signal part r.node w z.gen z.pub true true)) ∧
      (z.relPending = false → z.abortPending = false → s.quiesced = true →
        marked (.drelWrite src v) z { z with relPending := true } ∧ marked (.dabortWrite src v) z { z with abortPending := true }) ∧
      (z.relPending = true ∨ z.abortPending = true → ignored (.drelWrite src v) ∧ ignored (.dabortWrite src v))) ∧
    (∀ z, bare → s.purgedByToken part v = some z → purging z ∧
      marked (.drelWrite src v) z { z with relPending := true } ∧ marked (.dabortWrite src v) z { z with abortPending := true }) ∧
    (let waiting (z : Tcb) : Prop := z ∈ di.tcbs ∧ z.part = part ∧ z.st = .held ∧ z.heldRead = false
     ((∀ z, ¬waiting z) → later (.dheldRead src)) ∧
     (∀ z, waiting z → (∀ y, waiting y → y ≠ z → z.heldOrder < y.heldOrder) → ∃ u : State, exec (.dheldRead src) s = .next u ∧
       { z with heldRead := true } ∈ u.dev.disp.tcbs ∧ (s.readReg src own 0x2010).1 = z.token)) ∧
    (q.digest = true → later (.digestStart src v)) ∧
    (q.digest = false → s.digestRefused q v.toNat = true → ∃ u : State, exec (.digestStart src v) s = .next u ∧
      partOf u (fun y => y.reg 0x2098 = 0x4000000000000000 ∧ y.digest = false)) ∧
    ((v.toNat < q.horizon ∨ s.dev.now < v.toNat) → s.digestRefused q v.toNat = true) ∧
    (q.digest = false → s.digestRefused q v.toNat = false → ∃ u : State, exec (.digestStart src v) s = .next u ∧
      partOf u (fun y => y.reg 0x2090 = v ∧ y.digest = true)) ∧
    (q.digest = false → later (.digestDone part)) ∧
    (∀ b k, q.digest = true → q.reg 0x2080 = BitVec.ofNat 64 (0x20 * 2 ^ 56 + 64 * b) → q.reg 0x2088 = BitVec.ofNat 64 (0x20 * 2 ^ 56 + 64 * (b + k)) →
      64 * (b + k) ≤ 2 ^ 32 → (∀ i < 8, (q.reg (0x2108 + 16 * i)).toNat ≤ (q.reg (0x2100 + 16 * i)).toNat) → ∃ u : State,
        exec (.digestDone part) s = .next u ∧ partOf u (fun y => y.digest = false ∧ y.reg 0x20A0 = (List.range k).foldl (fun (d : Word) i =>
          d + crc64 (bytesOf 8 (0x20 * 2 ^ 56 + 64 * (b + i)) ++ (s.dev.timed.visible (q.reg 0x2090).toNat).readN (64 * (b + i)) 64)) 0)) ∧
    (0x2100 ≤ off → off < 0x2180 → off % 8 = 0 → ∃ u : State, exec (.exclusionWrite src off v) s = .next u ∧
      partOf u (fun y => y.reg off = v ∧ y.reg 0x2028 = q.reg 0x2028 &&& 1)) ∧
    ((off < 0x2100 ∨ 0x2180 ≤ off ∨ off % 8 ≠ 0) → later (.exclusionWrite src off v)) ∧
    (let wr (o : Nat) (bs : List Byte) : Instr := .registerWrite src n o bs
     let sets (i : Instr) (o : Nat) (x : Word) : Prop := ∃ u : State, exec i s = .next u ∧ u.shReg own o 0 = x ∧
       (∀ o' < 0x10000, o' ≠ o → u.shReg own o' 0 = s.shReg own o' 0) ∧ u.core = s.core ∧ u.dev.timed = s.dev.timed
     ((bs.length ≠ 8 ∧ bs.length ≠ 16) → later (wr off bs)) ∧
     (bs.length = 8 → off % 8 = 0 → (off < 0x800 ∨ off = 0x818 ∨ 0x8000 ≤ off) → later (wr off bs)) ∧
     (∀ o ∈ [0x3000, 0x3008, 0x3040, 0x4100, 0x4120, 0x7008], bs.length = 8 → sets (wr o bs) o (BitVec.ofNat 64 (natOf bs))) ∧
     (bs.length = 8 → sets (wr 0x3048 bs) 0x3048 (BitVec.ofNat 64 (natOf bs % 2 ^ 26)) ∧ sets (wr 0x4108 bs) 0x4108 (BitVec.ofNat 64 (natOf bs % 2 ^ 18)) ∧
       sets (wr 0x3050 bs) 0x3050 (BitVec.ofNat 64 (natOf bs % 2 ^ 56))) ∧
     (bs.length = 16 → ∃ u : State, exec (wr 0x3000 bs) s = .next u ∧ u.shReg own 0x3000 0 = BitVec.ofNat 64 (natOf (bs.take 8)) ∧
       u.shReg own 0x3008 0 = BitVec.ofNat 64 (natOf (bs.drop 8))) ∧
     (n < 32 → own < 32 → n = own ∨ n = s.dev.out.controller → bs.length = 8 → 960 ≤ natOf bs → natOf bs ≤ 1600 → ∃ u : State,
       exec (.registerWrite (.firmware n) own 0x818 bs) s = .next u ∧ u.shReg own 0x818 1520 = BitVec.ofNat 64 (natOf bs)) ∧
     (n ≠ own → n ≠ s.dev.out.controller → later (.registerWrite (.firmware n) own off bs)) ∧
     (s.barsUp = true → own < 32 → bs.length = 1 ∨ bs.length = 2 ∨ bs.length = 4 → ∃ u : State,
       exec (.registerWrite (.host 0) own off bs) s = .next u ∧ u.shReg 0 0x1080 0 = countUp (s.shReg 0 0x1080 0) ∧ u.core = s.core))

/-- R218, R220, R317 to R322, R336, R342: what the host's writes and copies do, and what the loader places. The model's
choices: when a copy's lines are translated and read (log entry 44), and what the loader chooses and when its bytes are there
(46). -/
def Obligations.HostResults : Prop :=
  ∀ (s : State) (port off part : Nat) (bs : List Byte), s.Sound → port < 2 →
    let o := s.dev.out
    let now := s.dev.now
    let up := o.powered = true ∧ o.bust = 7
    let later (i : Instr) : Prop := exec i s = .next s
    let dropped (i : Instr) : Prop := ∃ u : State, exec i s = .next u ∧ u.shReg 0 0x1080 0 = countUp (s.shReg 0 0x1080 0) ∧
      u.dev.fab = s.dev.fab ∧ u.dev.disp = s.dev.disp ∧ u.core = s.core
    let posts (i : Instr) (dst : Nat) (b : Body) : Prop := exec i s = .next (s.onDev (fun d => { d with fab := { d.fab with
      msgs := d.fab.msgs ++ [⟨.c0, 8 * (0x3FFF0 + port), dst, Config.deviceId.toNat, .direct, b⟩] } }))
    (¬up → later (.hostEnqueueWrite port off bs) ∧ later (.hostMailboxWrite port off bs) ∧ later (.hostCopyToModule port) ∧
      later (.hostCopyToHost port)) ∧
    (up → (bs.length ≠ 64 ∨ off % 64 ≠ 0) → dropped (.hostEnqueueWrite port off bs)) ∧
    (up → (∀ l ∈ s.dev.disp.loaded, l.tmpl.id ≠ off / 64) → dropped (.hostEnqueueWrite port off bs)) ∧
    (∀ l, up → bs.length = 64 → off % 64 = 0 → off < 2 ^ 22 → s.dev.disp.loaded.find? (fun l => decide (l.tmpl.id = off / 64)) = some l →
      posts (.hostEnqueueWrite port off bs) (2 ^ 32 + l.owner) (.taskRecord none bs (some (off / 64)))) ∧
    (up → (bs.length ≠ 8 ∨ off % 8 ≠ 0 ∨ 165888 ≤ off / 32) → dropped (.hostMailboxWrite port off bs)) ∧
    (up → bs.length = 8 → off % 8 = 0 → off / 32 < 165888 → s.gateShut (off / 32) = false →
      posts (.hostMailboxWrite port off bs) (8 * (off / 32)) (.mailbox (off / 32) (off / 8 % 4) (BitVec.ofNat 64 (natOf bs)))) ∧
    (∀ k (i : Fin 4), k < 165888 → s.hostMailboxRead (32 * k + 8 * i.val) 8 = bytesOf 8 ((s.coreAt k).sw.mbox[i]).toNat) ∧
    (let reg (u : State) (r : Nat) : Word := u.shReg 0 (r + 0x40 * port) 0
     let h := (reg s 0x1000).toNat
     let m := reg s 0x1008
     let len := (reg s 0x1010).toNat
     let hdi := (reg s 0x1018).toNat % 2 ^ 56
     let loft := m.toNat % 2 ^ 56
     let busy := ∃ c ∈ o.hostCopies, c.port = port
     let started (i : Instr) (c : HostCopy) (u : State) : Prop := exec i s = .next u ∧ u.dev.out.hostCopies = o.hostCopies ++ [c] ∧ reg u 0x1028 = 0 ∧ u.core = s.core
     let good := h % 64 = 0 ∧ m.toNat % 64 = 0 ∧ len % 64 = 0 ∧ len ≤ 2 ^ 24 ∧ pathOf m = some (.loft, loft) ∧
       ∀ i < len / 64, s.loftAllowed (some (s.hostPart port)) (loft + 64 * i) 64 = true
     let lines := (List.range (len / 64)).map (fun i => loft + 64 * i)
     (busy → later (.hostCopyToModule port) ∧ later (.hostCopyToHost port)) ∧
     (up → ¬busy → (h % 64 ≠ 0 ∨ m.toNat % 64 ≠ 0 ∨ len % 64 ≠ 0 ∨ 2 ^ 24 < len) →
       (∃ u, started (.hostCopyToModule port) ⟨port, false, if hdi = 0 then now + 1 else hdi, h, m, [], some (0, 1)⟩ u ∧ u.dev.timed = s.dev.timed) ∧
       (∃ u, started (.hostCopyToHost port) ⟨port, true, if hdi = 0 then now else hdi, h, m, [], some (0, 1)⟩ u ∧ u.dev.timed = s.dev.timed)) ∧
     (up → ¬busy → good → 64 * (len / 64) + loft ≤ 2 ^ 32 →
       (∃ u, started (.hostCopyToHost port) ⟨port, true, if hdi = 0 then now else hdi, h, m, lines, none⟩ u ∧ u.dev.timed = s.dev.timed) ∧
       (∃ (u : State) (new : List TStore), started (.hostCopyToModule port) ⟨port, false, if hdi = 0 then now + 1 else hdi, h, m, lines, none⟩ u ∧
         u.dev.timed.flight = s.dev.timed.flight ++ new ∧ new.length = len / 64 ∧ u.dev.timed.versions = s.dev.timed.versions ∧
         reg u 0x1038 = reg s 0x1038 + BitVec.ofNat 64 (len / 64) ∧
         ∀ i (hi : i < new.length), ((new[i]).src, (new[i]).node, (new[i]).wid, (new[i]).home) =
             (.host, port, reg s 0x1038 + BitVec.ofNat 64 i, some (loft + 64 * i)) ∧
           (new[i]).inst = (if hdi = 0 then now + 1 else hdi) ∧ (new[i]).data.map Prod.fst = List.range 64)) ∧
     (¬busy → later (.hostCopyDone port)) ∧
     (∀ c, o.hostCopies.find? (fun c => decide (c.port = port)) = some c →
       let sending := ∃ t ∈ s.dev.timed.flight, t.src = .host ∧ t.device = none ∧ t.node = port
       let early := c.toHost = true ∧ (now < c.inst ∨ ∃ k ∈ c.keys, s.homeWaits k = true)
       let ecc := Config.homeEcc s.dev.tick
       (sending ∨ early → later (.hostCopyDone port)) ∧
       (¬sending → ¬early → ∃ u : State, exec (.hostCopyDone port) s = .next u ∧
         (∀ y, y ∈ u.dev.out.hostCopies ↔ y ∈ o.hostCopies ∧ y.port ≠ port) ∧ 5 + port ∈ u.dev.out.msix ∧
         (c.toHost = false ∨ ecc = false ∧ (∀ k ∈ c.keys, ownKey k = true) → (c.fail = none → reg u 0x1028 = 0) ∧
           ∀ a k, c.fail = some (a, k) → reg u 0x1028 = BitVec.ofNat 64 (2 ^ 62 + a * 256 + k)) ∧
         (c.toHost = false → u.dev.out.hostOut = o.hostOut) ∧
         (c.toHost = true → ecc = true → (∀ k ∈ c.keys, ownKey k = true) → c.keys ≠ [] →
           reg u 0x1028 = BitVec.ofNat 64 (2 ^ 62 + 0x12) ∧ u.dev.out.hostOut = o.hostOut ++ [(port, c.host, [])]) ∧
         (c.toHost = true → ecc = false → (∀ k ∈ c.keys, ownKey k = true) →
           u.dev.out.hostOut = o.hostOut ++ [(port, c.host, c.keys.flatMap (fun k => (s.dev.timed.visible c.inst).readN k 64))])))) ∧
    (∀ (img : Image) (ch : LoadChoice),
      let load : Instr := .imageLoad part img ch
      (s.partition part = none → later load) ∧ (s.loadRejected part img ch = true → later load) ∧
      ((∃ b ∈ img.queues, s.bindLoaded b = none) → later load) ∧
      (∀ q, s.partition part = some q → s.loadRejected part img ch = false → (∀ b ∈ img.queues, (s.bindLoaded b).isSome = true) → ∃ u : State, exec load s = .next u ∧
        (∃ ls : List Loaded, u.dev.disp.loaded = s.dev.disp.loaded ++ ls ∧ ls.map (fun l => l.tmpl) = img.templates ∧
          ls.map (fun l => (l.owner, l.slotBits, l.spread)) = ch.templates.map (fun t => (t.owner, t.slotBits, t.spread)) ∧
          ∀ l ∈ ls, l.part = part ∧
            l.frames.map (fun f => f.2.2) = (img.segs.filter (fun g => decide (g.kind = .code))).map (fun g => g.bytes) ∧
            ∀ f ∈ l.frames, f.2.1 = s.framesUsed part + f.1) ∧
        u.framesUsed part = s.framesUsed part + (img.segs.filter (fun g => decide (g.kind = .code))).length ∧
        u.dev.disp.placement = aset s.dev.disp.placement part ch.placement ∧
        (∃ gs : List Staged, u.dev.disp.staged = s.dev.disp.staged ++ gs ∧
          gs.map (fun g => (g.kind, g.off, g.bytes)) = (img.segs.filter (fun g => decide (g.kind = .tcm ∨ g.kind = .spad))).map
            (fun g => (g.kind, g.addr, g.bytes)) ∧ ∀ g ∈ gs, g.done = []) ∧
        (∀ g, img.segs = [g] → g.kind = .loft → (u.dev.timed.visible now).readN (g.addr % 2 ^ 56) g.bytes.length = g.bytes) ∧
        (∀ g f, img.segs = [g] → g.kind = .global → ch.frames.head? = some f → g.addr % 65536 + g.bytes.length ≤ 65536 →
          (u.dev.timed.visible now).readN (2 ^ 42 + f * 65536 + g.addr % 65536) g.bytes.length = g.bytes) ∧
        (∀ b (k : Fin 8), img.queues = [b] → b.queue = k.val → (s.coreAt b.core).ni.queues[k].ringSrcs = [] →
          (u.coreAt b.core).ni.queues[k] = { (s.coreAt b.core).ni.queues[k] with
            bound := true, mode := b.mode, pipe := false, ring := b.ring, cap := b.cap, node := b.node, gen := b.gen, arrivals := 0,
            ringHead := 0, ringTail := 0 })))

/-! ### Words, steps and the whole machine -/

/-- R108 to R116: words of every major that the spec writes out decode to the instructions it gives for them, and the
words it calls illegal are refused (the tables of R116, R123, R128, R146, R152, R164, R174, R190, R206 and the words
that the rules of the single instructions give). -/
def Obligations.DecodedWords : Prop :=
  (∀ e ∈ ([(0x00531C00, .add 5 6 7 0), (0x00531C01, .add 5 6 7 1), (0x00531D02, .sel 5 6 7 2), (0x02507FFF, .addi 5 0 0x7FFF),
    (0x0A52C003, .srai 5 5 3), (0x0C500004, .movi 5 4), (0x0E500001, .movs 5 1), (0x10531C30, .div 5 6 7 0),
    (0x12530000, .clz 5 6 0), (0x12531C60, .bext 5 6 7 0)] : List (IWord × Instr)), decode e.1 = .ok e.2) ∧
  (∀ e ∈ ([(0x20429832, .vadds 4 5 6 0 1), (0x22308842, .vcmplt 3 1 2 0 2), (0x2431A544, .vfmax 3 3 9 2 2),
    (0x26110C8C, .vmac 1 2 3 4 1), (0x28428041, .vsplat 4 5 0 2), (0x2871A042, .vext 7 3 8 2), (0x28729864, .vzip 7 5 6 0 3),
    (0x2A818041, .vfredadd 8 3 0 2), (0x2A808846, .vdot8 8 1 2 0 2), (0x2C518800, .vcvt 5 3 1 0 0 0),
    (0x2E718801, .venc 7 3 0 2 0 0), (0x2E410D00, .vdec 4 2 0 3 1), (0x2E415400, .vdec 4 2 1 5 0),
    (0x2E308102, .segev 3 1 1)] : List (IWord × Instr)), decode e.1 = .ok e.2) ∧
  (∀ e ∈ ([(0x404E0FFD, .bne 7 0 0xFFD), (0x41820004, .bpany 1 4), (0x410A600A, .bltn 5 6 10), (0x42100008, .jal 1 8),
    (0x44149000, .jalr 1 9), (0x44002000, .ret), (0x4404B000, .fjmp 9), (0x461C3000, .loop 0 7 3), (0x48048000, .fuse 9),
    (0x48001000, .split), (0x4804A000, .yield 9), (0x4804B000, .park 9)] : List (IWord × Instr)), decode e.1 = .ok e.2) ∧
  (∀ e ∈ ([(0x4A7AB000, .ldw 7 21 1 0 0), (0x4A530C03, .ldh 5 6 0 1 3), (0x4C5A5400, .stw 5 20 2 1 0), (0x4C5303FF, .stb 5 6 0 0 0x3FF),
    (0x4E220000, .vld 2 4 0 0 0), (0x50328801, .vst 3 5 0 2 1), (0x527A1500, .aadd 7 20 5 1 0), (0x520A1850, .afadd 0 20 6 0),
    (0x527A14C8, .acas 7 20 5 0 1), (0x54000000, .fence 0), (0x54702029, .rds 7 0x029), (0x5402B003, .wrs 5 3),
    (0x567A56C0, .xcopy 7 20 21 22), (0x56838001, .xstat 8 7), (0x56700002, .xwait 7), (0x59C29800, .sbind 28 5 6),
    (0x59E00001, .sunbind 30), (0x587E0002, .sstat 7 28)] : List (IWord × Instr)), decode e.1 = .ok e.2) ∧
  (∀ e ∈ ([(0x5C400000, .mclaim 2), (0x5C400020, .mrel 2), (0x5C400541, .mload 2 5 1), (0x5C000A60, .mstore 0 10 0),
    (0x5C600080, .mzero 3), (0x5E024001, .mma 0 1 2 1), (0x5E002820, .mmas 0 0 1 8 0 0), (0x5E204822, .mmas 1 0 2 8 1 0),
    (0x5E060A41, .mscale 3 10 1), (0x5E280161, .mcvt 1 4 1 1), (0x5E400080, .mtr 2)] : List (IWord × Instr)), decode e.1 = .ok e.2) ∧
  (∀ e ∈ ([(0x60900000, .tspawn 9), (0x60531C01, .tpub 5 6 7), (0x60530002, .tsig 5 6), (0x60000003, .tret), (0x60460004, .targ 4 12),
    (0x62530000, .send 5 6), (0x627A1801, .recv 7 20 6), (0x62430002, .recvadd 4 6), (0x62531C03, .qbind 5 6 7), (0x62848004, .qstat 8 9),
    (0x64530000, .spliceIns 5 6), (0x64530020, .spliceEli 5 6), (0x64530040, .spliceReb 5 6), (0x64742401, .splPrep 7 8 9),
    (0x64700002, .splCmt 7), (0x66000000, .uiret), (0x66001003, .uien 3), (0x66003005, .trap 5), (0x68500002, .csrr 5 2),
    (0x68029001, .csrw 5 1), (0x6802A000, .csrs 5 0), (0x68033000, .csrc 6 0), (0x68004000, .xret), (0x68005000, .wfi)] :
      List (IWord × Instr)), decode e.1 = .ok e.2) ∧
  ∀ w ∈ ([0x5402B000, 0x00000110, 0x24110C00, 0x2C110850, 0x4A4A1C00] : List IWord), ∀ i, decode w ≠ .ok i

/-- R40, R103 to R107, R115, R147: a step of a core that is ready to issue runs the instruction that the word at its
program counter decodes to, on the machine as the issue finds it; a word that waits for a pending register leaves the
word where it is; a word that is no instruction takes its trap; a paired clause runs its two words, the second on the
registers from before the first, and leaves nothing where either traps. An issue counts core cycles and advances the
model's free values (log entry 3). -/
def Obligations.StepRunsWord : Prop :=
  (∀ (s : State), s.Ready →
    let w0 := clauseWord0 s.nextClauseWord
    let w1 := clauseWord1 s.nextClauseWord
    let u := s.issuing
    let one (w : IWord) : Prop :=
      (∀ i, decode w = .ok i → u.failsCheck i = true ∨ u.core.pendingFor i = none → step s = exec i (u.loadsUsed i)) ∧
      (∀ i m, decode w = .ok i → u.failsCheck i = false → u.core.pendingFor i = some m → step s = .next (u.stayPending m)) ∧
      (∀ e, decode w = .error e → step s = exec (.illegalWordIssue (.illegalWord w)) u)
    (s.core.eng.loads = [] → (∀ p ∈ s.core.eng.pend, p.atomic = none) → ∀ i, u.loadsUsed i = u) ∧
    ((∀ k : Fin 3, s.core.x.loops[k].active = false) →
      s.nextClauseWord = natOf (s.core.mem.im.readN s.clause.toNat 8) ∧
        u = s.tickCore.onX (fun x => { x with fresh := false })) ∧
    (s.core.x.pc.getLsbD 2 = false → w0.getLsbD 31 = true → one w0) ∧
    (s.core.x.pc.getLsbD 2 = true → w1.getLsbD 31 = false → one w1) ∧
    (s.core.x.pc.getLsbD 2 = true → w1.getLsbD 31 = true → step s = exec (.illegalWordIssue (.illegalWord w1)) u) ∧
    (s.core.x.pc.getLsbD 2 = false → w0.getLsbD 31 = false →
      ((isAClass w0 = true ∨ isAClass w1 = false) → step s = exec (.illegalWordIssue (.illegalClause w0 w1)) u) ∧
      (∀ m a, isAClass w0 = false → isAClass w1 = true → decode w0 = .ok m → decode w1 = .ok a →
        (sameDest m a = true → step s = exec (.illegalWordIssue (.illegalClause w0 w1)) u) ∧
        (sameDest m a = false → (u.failsCheck m = true ∨ u.core.pendingFor m = none ∧ u.core.pendingFor a = none) → w1.getLsbD 31 = false →
          let p := if u.failsCheck m then u else (u.loadsUsed m).loadsUsed a
          ∀ sm, exec m (p.onX (fun x => { x with inPair := true, flow := .next })) = .next sm →
            (∀ c v v2, sm.core.x.flow = .trap c v v2 → step s = .next (p.enterTrap c v v2 p.core.x.pc)) ∧
            ((∀ c v v2, sm.core.x.flow ≠ .trap c v v2) → ∀ sa, exec a (sm.forWord1 p) = .next sa →
              (∀ c v v2, sa.core.x.flow = .trap c v v2 → step s = .next (p.enterTrap c v v2 p.core.x.pc)) ∧
              ((∀ c v v2, sa.core.x.flow ≠ .trap c v v2) → sm.core.x.flow = .stay →
                step s = .next (sm.onX (fun x => { x with inPair := false })).parkAtOnce) ∧
              (sm.core.x.flow ≠ .stay → sa.core.x.flow = .next → step s = .next (sm.joinPair a sa))))))) ∧
  (∀ (s : State) (i : Instr) (rest : List Act), s.agenda = .event i :: rest → s.dev.out.powered = true → s.dev.out.bust = 7 →
    s.dev.ending = false → fromAgenda i = true → step s = exec i ({ s with agenda := rest } : State).tickDev) ∧
  (∀ (s : State) (k : Nat), s.agenda = [.issue k] → s.dev.out.powered = true → s.dev.out.bust = 7 → s.dev.ending = false →
    k < 165888 → step s = step (({ s with agenda := [] } : State).actAs k)) ∧
  (∀ (s : State), s.agenda = [] → s.dev.out.powered = false → step s = .fault .noPower) ∧
  (∀ (s : State), s.agenda = [] → s.dev.out.powered = true → s.dev.out.bust ≠ 7 → step s = .fault .halted)

/-- R105, R115, R116, R239, R243, R260, R261, R263: what the traps of R115 hold, what is taken between clauses and in
which order, and where it goes. The order of event 0x18 before 0x19, and the idle core that takes an event, are the model's
choice (log entry 32). -/
def Obligations.BoundaryResults : Prop :=
  (∀ (s : State) (w w0 w1 : IWord) (a : BitVec 16),
    exec (.illegalWordIssue (.illegalClause w0 w1)) s = .next (s.finish (.trap 0x02 (w1 ++ w0) 0)) ∧
    exec (.illegalWordIssue (.illegalWord w)) s = .next (s.finish (.trap 0x01 (w.setWidth 64) 0)) ∧
    exec (.illegalWordIssue (.privilegedFetch a)) s = .next (s.finish (.trap 0x03 (a.setWidth 64) 0))) ∧
  (∀ (s : State), s.core.x.pc.getLsbD 2 = false → s.core.fuse = none → s.core.x.run = .running → s.core.csr.tip = false →
    s.core.x.stopped = none → s.clockGated s.core.id = false →
    let c := s.core
    (c.x.mode = .user → ∀ d rest, c.x.deferred = d :: rest → s.boundary = some .deferredFaultTake ∧
      ∃ u : State, exec .deferredFaultTake s = .next (u.enterTrap d.cause d.addr (d.clause.setWidth 64) c.x.pc) ∧ u.core.x.deferred = rest ∧
        (∀ y, y ∈ u.core.eng.copies ↔ y ∈ c.eng.copies ∧ ¬(y.failed = true ∧ d.copy = some y.tag))) ∧
    ((c.x.mode = .supervisor ∨ c.x.deferred = []) → c.inWfi = false → (c.x.mode = .user ∨ c.x.ctx = none ∨ c.x.arrived = true) →
      (c.x.ev18 = true → s.boundary = some .systemEventTake ∧ ∃ u : State,
        exec .systemEventTake s = .next (u.enterTrap 0x18 c.csr.xmig 0 c.x.pc) ∧ u.core.x.ev18 = false ∧ u.core.csr = c.csr) ∧
      (∀ v, c.x.ev18 = false → c.x.ev19 = some v → s.boundary = some .systemEventTake ∧ ∃ u : State,
        exec .systemEventTake s = .next (u.enterTrap 0x19 v 0 c.x.pc) ∧ u.core.x.ev19 = none ∧ u.core.csr = c.csr)) ∧
    (c.x.mode = .supervisor → c.x.ctx ≠ none → c.inWfi = false → c.x.arrived = false → s.boundary = none) ∧
    (c.x.mode = .user → c.x.deferred = [] → c.x.ev18 = false → c.x.ev19 = none → c.x.inHandler = false → ∀ n : Fin 6,
      c.sw.en.getLsbD n.val = true → c.sw.pend.getLsbD n.val = true →
      (∀ m : Fin 6, m.val < n.val → c.sw.en.getLsbD m.val = false ∨ c.sw.pend.getLsbD m.val = false) →
      s.boundary = some .userInterruptEntry ∧ exec .userInterruptEntry s = .next (s.enterHandler n)) ∧
    (c.x.mode = .user → c.x.inHandler = true → c.x.deferred = [] → c.x.ev18 = false → c.x.ev19 = none → s.boundary = none)) ∧
  (∀ (s : State), s.core.csr.tip = true →
    exec .deferredFaultTake s = .next s ∧ exec .systemEventTake s = .next s) ∧
  (∀ (s : State), s.core.x.pc.getLsbD 2 = true → s.core.x.wait = none → s.core.x.fresh = false →
    s.core.x.run = .running → s.boundary = none) ∧
  (∀ (s : State) (i : Instr), s.agenda = [] → s.dev.out.powered = true → s.dev.out.bust = 7 → s.core.x.run = .running →
    s.core.x.stopped = none → s.clockGated s.core.id = false → s.core.gang = [] → s.dev.ending = false → s.boundary = some i →
      step s = exec i s.tickCore) ∧
  (∀ (s : State), s.agenda = [] → s.dev.out.powered = true → s.dev.out.bust = 7 → s.core.x.run = .idle → s.core.x.stopped = none →
    s.clockGated s.core.id = false → s.core.fuse = none → s.dev.ending = false → (s.core.canTakeEvent = true → step s = exec .systemEventTake s.tickCore) ∧
      (s.core.canTakeEvent = false → step s = .next s))

/-- R2, R57, R191, R192, R253 to R255: what reset leaves. A register the spec gives no reset
value holds zero (log entry 1), the machine stands past a bring-up with no partition configured (log entry 6), PM is 1
(log entry 12), no decode or segment table holds anything but zeros, and the invariant of `SoundKept` holds. -/
def Obligations.ResetValues : Prop :=
  let s := State.reset
  let c := s.core
  c.x.pc = 0xF000 ∧ c.x.mode = .supervisor ∧ c.csr.tip = false ∧ c.csr.xtvec = 0xF000 ∧ c.x.ctx = none ∧ c.x.run = .running ∧
  c.x.inHandler = false ∧ (∀ k : Fin 3, c.x.loops[k].active = false) ∧ c.x.deferred = [] ∧ c.x.ev18 = false ∧ c.x.ev19 = none ∧
  (∀ r, c.r.readG r = 0) ∧ (∀ r, c.r.readV r = 0) ∧
  (∀ k : Fin 16, c.mem.frames[k] = .empty ∧ c.mat.slots[k].st = .free) ∧ (∀ k : Fin 4, c.mat.accs[k].kind = .z ∧ c.eng.streams[k] = none) ∧
  (∀ k : Fin 4, c.eng.tabs[k].entries = [] ∧ c.eng.tabs[k].nan = none ∧ ∀ a, c.eng.segs[k].read a = 0) ∧
  (∀ k : Fin 8, c.ni.queues[k].bound = false) ∧ (∀ a, c.mem.im.read a = 0 ∧ c.mem.tcm.read a = 0 ∧ a ∉ c.mem.tcmEmpty) ∧
  (∀ k, s.coreAt k = Core.reset k) ∧ s.dev.now = 0 ∧ s.dev.disp.recs = [] ∧ s.dev.disp.tcbs = [] ∧ (∀ p, s.partition p = none) ∧ s.Sound

/-- The invariant that every step keeps, whatever the state it starts from: cores stand under their own numbers (R2),
every memory keeps the canonical form (log entry 2), and the history of instants stands in order with nothing of an
instant to come (R7, R68). -/
def Obligations.SoundKept : Prop :=
  ∀ (s t : State), s.Sound → step s = .next t → t.Sound

/-- R108 to R113: every well-formed instruction is what its own word decodes to, with every operand at every value the
encoding admits; a word that decodes decodes to a well-formed instruction, whose word it is but for the clause bit. -/
def Obligations.EncodeDecode : Prop :=
  (∀ i : Instr, wellFormed i = true → decode (encode i) = .ok i ∧ (encode i).getLsbD 31 = false) ∧
  (∀ (w : IWord) (i : Instr), decode w = .ok i → wellFormed i = true ∧ encode i = w &&& 0x7FFFFFFF)
end

