-- ==== Sys2Proof/Laws/Memory.lean ====
section
/-! SUPPORT. Byte memories: a read after a write, and the canonical form, which every operation keeps. -/

namespace Sys2Proof.Machine

/-! ### The canonical form -/

theorem Memory.wfFrom_mono {m : Memory} {lo hi : Nat} (h : lo ≤ hi) (w : Memory.wfFrom hi m = true) :
    Memory.wfFrom lo m = true := by
  cases m with
  | nil => rfl
  | cons c m =>
    simp only [Memory.wfFrom, Bool.and_eq_true, decide_eq_true_eq] at w ⊢
    exact ⟨⟨by omega, w.1.2⟩, w.2⟩

theorem Memory.wf_of_wfFrom {m : Memory} {lo : Nat} (w : Memory.wfFrom lo m = true) : m.wf = true :=
  Memory.wfFrom_mono (Nat.zero_le lo) w

theorem Memory.wfFrom_write (m : Memory) (lo a : Nat) (b : Byte) (h : lo ≤ a) (w : Memory.wfFrom lo m = true) :
    Memory.wfFrom lo (m.write a b) = true := by
  induction m generalizing lo with
  | nil =>
    unfold Memory.write
    split
    · rfl
    · rename_i hb
      simp only [Memory.wfFrom, Bool.and_eq_true, decide_eq_true_eq]
      exact ⟨⟨h, hb⟩, trivial⟩
  | cons c m ih =>
    simp only [Memory.wfFrom, Bool.and_eq_true, decide_eq_true_eq] at w
    unfold Memory.write
    split
    · split
      · simp only [Memory.wfFrom, Bool.and_eq_true, decide_eq_true_eq]; exact w
      · simp only [Memory.wfFrom, Bool.and_eq_true, decide_eq_true_eq]
        exact ⟨⟨h, by assumption⟩, ⟨by omega, w.1.2⟩, w.2⟩
    · split
      · split
        · exact Memory.wfFrom_mono (by omega) w.2
        · simp only [Memory.wfFrom, Bool.and_eq_true, decide_eq_true_eq]
          exact ⟨⟨w.1.1, by assumption⟩, w.2⟩
      · simp only [Memory.wfFrom, Bool.and_eq_true, decide_eq_true_eq]
        exact ⟨w.1, ih (c.1 + 1) (by omega) w.2⟩

/-- A write keeps the canonical form. -/
theorem Memory.wf_write {m : Memory} (a : Nat) (b : Byte) (w : m.wf = true) : (m.write a b).wf = true :=
  Memory.wfFrom_write m 0 a b (Nat.zero_le a) w

/-- A write of several bytes keeps the canonical form. -/
theorem Memory.wf_writeN {m : Memory} (a : Nat) (bs : List Byte) (w : m.wf = true) : (m.writeN a bs).wf = true := by
  induction bs generalizing m a with
  | nil => exact w
  | cons b bs ih => exact ih (a + 1) (Memory.wf_write a b w)

/-- A write of listed bytes keeps the canonical form. -/
theorem Memory.wf_writeAll {m : Memory} (bs : List (Nat × Byte)) (w : m.wf = true) : (m.writeAll bs).wf = true := by
  induction bs generalizing m with
  | nil => exact w
  | cons b bs ih => exact ih (Memory.wf_write b.1 b.2 w)

theorem Memory.wfFrom_filter (m : Memory) (lo : Nat) (p : Nat × Byte → Bool) (w : Memory.wfFrom lo m = true) :
    Memory.wfFrom lo (m.filter p) = true := by
  induction m generalizing lo with
  | nil => rfl
  | cons c m ih =>
    simp only [Memory.wfFrom, Bool.and_eq_true, decide_eq_true_eq] at w
    rw [List.filter_cons]
    split
    · simp only [Memory.wfFrom, Bool.and_eq_true, decide_eq_true_eq]
      exact ⟨w.1, ih _ w.2⟩
    · exact Memory.wfFrom_mono (by omega) (ih _ w.2)

/-- Bytes struck out of a memory leave it canonical. -/
theorem Memory.wf_filter {m : Memory} (p : Nat × Byte → Bool) (w : m.wf = true) : Memory.wf (m.filter p) = true :=
  Memory.wfFrom_filter m 0 p w

/-- The empty memory is canonical. -/
theorem Memory.wf_nil : Memory.wf [] = true := rfl

/-! ### Reads after writes -/

theorem Memory.read_below {m : Memory} {lo k : Nat} (w : Memory.wfFrom lo m = true) (h : k < lo) : m.read k = 0 := by
  cases m with
  | nil => rfl
  | cons c m =>
    simp only [Memory.wfFrom, Bool.and_eq_true, decide_eq_true_eq] at w
    unfold Memory.read
    rw [if_neg (by omega), if_pos (by omega)]

theorem Memory.read_write_from (m : Memory) (lo a k : Nat) (b : Byte) (w : Memory.wfFrom lo m = true) :
    (m.write a b).read k = if k = a then b else m.read k := by
  induction m generalizing lo with
  | nil =>
    unfold Memory.write
    by_cases hb : b = 0
    · rw [if_pos hb, hb]
      by_cases hk : k = a <;> simp [Memory.read, hk]
    · rw [if_neg hb]
      by_cases hk : k = a <;> simp [Memory.read, hk]
  | cons c m ih =>
    obtain ⟨c1, c2⟩ := c
    simp only [Memory.wfFrom, Bool.and_eq_true, decide_eq_true_eq] at w
    have hlow : ∀ j, j < c1 + 1 → Memory.read m j = 0 := fun j hj => Memory.read_below w.2 hj
    simp only [Memory.write]
    by_cases h1 : a < c1
    · rw [if_pos h1]
      by_cases hb : b = 0
      · rw [if_pos hb]
        by_cases hk : k = a
        · rw [if_pos hk]; simp only [Memory.read]
          rw [if_neg (by omega), if_pos (by omega), hb]
        · rw [if_neg hk]
      · rw [if_neg hb]
        by_cases hk : k = a
        · rw [if_pos hk]; simp only [Memory.read]; rw [if_pos hk]
        · rw [if_neg hk, Memory.read, if_neg hk]
          by_cases h2 : k < a
          · rw [if_pos h2, Memory.read, if_neg (by omega), if_pos (by omega)]
          · rw [if_neg h2]
    · rw [if_neg h1]
      by_cases h2 : a = c1
      · rw [if_pos h2]
        by_cases hb : b = 0
        · rw [if_pos hb]
          by_cases hk : k = a
          · rw [if_pos hk, hlow k (by omega), hb]
          · rw [if_neg hk, Memory.read, if_neg (by omega)]
            by_cases h3 : k < c1
            · rw [if_pos h3, hlow k (by omega)]
            · rw [if_neg h3]
        · rw [if_neg hb]
          by_cases hk : k = a
          · rw [if_pos hk, Memory.read, if_pos (by omega)]
          · rw [if_neg hk, Memory.read, if_neg (by omega)]
            conv => rhs; rw [Memory.read, if_neg (by omega)]
      · rw [if_neg h2, Memory.read]
        by_cases hk : k = c1
        · rw [if_pos hk, if_neg (by omega), Memory.read, if_pos hk]
        · rw [if_neg hk]
          by_cases h3 : k < c1
          · rw [if_pos h3, if_neg (by omega), Memory.read, if_neg hk, if_pos h3]
          · rw [if_neg h3, ih (c1 + 1) w.2, Memory.read, if_neg hk, if_neg h3]

/-- A read after a write: the byte written there, every other byte as before. -/
theorem Memory.read_write {m : Memory} (a k : Nat) (b : Byte) (w : m.wf = true) :
    (m.write a b).read k = if k = a then b else m.read k := Memory.read_write_from m 0 a k b w

/-- Bytes beside those written read as before. -/
theorem Memory.read_writeN_out {m : Memory} (a k : Nat) (bs : List Byte) (w : m.wf = true)
    (h : k < a ∨ a + bs.length ≤ k) : (m.writeN a bs).read k = m.read k := by
  induction bs generalizing m a with
  | nil => rfl
  | cons b bs ih =>
    simp only [List.length_cons] at h
    rw [Memory.writeN, ih (a + 1) (Memory.wf_write a b w) (by omega), Memory.read_write a k b w, if_neg (by omega)]

/-- Bytes written read as written. -/
theorem Memory.read_writeN_in {m : Memory} (a k : Nat) (bs : List Byte) (w : m.wf = true) (h : k < bs.length) :
    (m.writeN a bs).read (a + k) = bs[k] := by
  induction bs generalizing m a k with
  | nil => simp at h
  | cons b bs ih =>
    rw [Memory.writeN]
    cases k with
    | zero =>
      rw [Memory.read_writeN_out (a + 1) (a + 0) bs (Memory.wf_write a b w) (by omega), Memory.read_write a (a + 0) b w,
        if_pos (by omega)]
      rfl
    | succ k =>
      have := ih (a + 1) k (Memory.wf_write a b w) (by simpa using h)
      rw [show a + (k + 1) = a + 1 + k by omega, this]
      rfl

theorem Memory.read_writeAll_out {m : Memory} (k : Nat) (bs : List (Nat × Byte)) (w : m.wf = true)
    (h : ∀ b, (k, b) ∉ bs) : (m.writeAll bs).read k = m.read k := by
  induction bs generalizing m with
  | nil => rfl
  | cons c bs ih =>
    obtain ⟨c1, c2⟩ := c
    rw [Memory.writeAll, ih (Memory.wf_write c1 c2 w) (fun b hb => h b (List.mem_cons_of_mem _ hb)),
      Memory.read_write c1 k c2 w, if_neg]
    intro hk
    exact h c2 (hk ▸ List.mem_cons_self)

theorem Memory.read_writeAll_in {m : Memory} (k : Nat) (b : Byte) (bs : List (Nat × Byte)) (w : m.wf = true)
    (h : (k, b) ∈ bs) (one : ∀ c, (k, c) ∈ bs → c = b) : (m.writeAll bs).read k = b := by
  induction bs generalizing m with
  | nil => cases h
  | cons d bs ih =>
    obtain ⟨d1, d2⟩ := d
    rw [Memory.writeAll]
    by_cases hin : ∃ c, (k, c) ∈ bs
    · obtain ⟨c, hc⟩ := hin
      have hcb : c = b := one c (List.mem_cons_of_mem _ hc)
      exact ih (Memory.wf_write d1 d2 w) (hcb ▸ hc) (fun c hc => one c (List.mem_cons_of_mem _ hc))
    · have hd : (k, b) = (d1, d2) := by
        rcases List.mem_cons.mp h with h | h
        · exact h
        · exact absurd ⟨b, h⟩ hin
      have h1 : k = d1 := congrArg Prod.fst hd
      have h2 : b = d2 := congrArg Prod.snd hd
      rw [Memory.read_writeAll_out k bs (Memory.wf_write d1 d2 w) (fun c hc => hin ⟨c, hc⟩), Memory.read_write d1 k d2 w,
        if_pos h1, h2]

/-! ### Reads of several bytes -/

@[simp] theorem Memory.readN_length (m : Memory) (a n : Nat) : (m.readN a n).length = n := by
  induction n generalizing a with
  | zero => rfl
  | succ n ih => simp [Memory.readN, ih]

theorem Memory.readN_get (m : Memory) (a n k : Nat) (h : k < n) :
    (m.readN a n)[k]'(by simpa using h) = m.read (a + k) := by
  induction n generalizing a k with
  | zero => omega
  | succ n ih =>
    cases k with
    | zero => rfl
    | succ k => simpa [Memory.readN, Nat.add_assoc, Nat.add_comm 1 k] using ih (a + 1) k (by omega)

/-- What a write of several bytes leaves, read back whole. -/
theorem Memory.readN_writeN {m : Memory} (a : Nat) (bs : List Byte) (w : m.wf = true) :
    (m.writeN a bs).readN a bs.length = bs := by
  refine List.ext_getElem (by simp) (fun k h1 h2 => ?_)
  rw [Memory.readN_get _ a bs.length k h2, Memory.read_writeN_in a k bs w h2]

/-- Several bytes beside those written read as before. -/
theorem Memory.readN_writeN_out {m : Memory} (a c n : Nat) (bs : List Byte) (w : m.wf = true)
    (h : c + n ≤ a ∨ a + bs.length ≤ c) : (m.writeN a bs).readN c n = m.readN c n := by
  refine List.ext_getElem (by simp) (fun k h1 h2 => ?_)
  have hk : k < n := by simpa using h2
  rw [Memory.readN_get _ c n k hk, Memory.readN_get _ c n k hk, Memory.read_writeN_out a (c + k) bs w (by omega)]

/-! ### Bytes and numbers -/

@[simp] theorem bytesOf_length (n v : Nat) : (bytesOf n v).length = n := by
  induction n generalizing v with
  | zero => rfl
  | succ n ih => simp [bytesOf, ih]

theorem natOf_bytesOf (n v : Nat) : natOf (bytesOf n v) = v % 256 ^ n := by
  induction n generalizing v with
  | zero => simp [bytesOf, natOf, Nat.mod_one]
  | succ n ih =>
    rw [bytesOf, natOf, ih, BitVec.toNat_ofNat, show (2 : Nat) ^ 8 = 256 from rfl, Nat.pow_succ', Nat.mod_mul]

theorem natOf_lt (bs : List Byte) : natOf bs < 256 ^ bs.length := by
  induction bs with
  | nil => simp [natOf]
  | cons b bs ih =>
    have := b.isLt
    rw [natOf, List.length_cons, Nat.pow_succ']
    omega

theorem bytesOf_natOf (bs : List Byte) : bytesOf bs.length (natOf bs) = bs := by
  induction bs with
  | nil => rfl
  | cons b bs ih =>
    have hb := b.isLt
    have h1 : (b.toNat + 256 * natOf bs) / 256 = natOf bs := by omega
    rw [List.length_cons, natOf, bytesOf, h1, ih]
    congr 1
    apply BitVec.eq_of_toNat_eq
    rw [BitVec.toNat_ofNat]
    omega

/-! ### Tables by number -/

theorem aget_aset {α : Type} (t : Assoc α) (a b : Nat) (x : α) :
    aget (aset t a x) b = if b = a then some x else aget t b := by
  induction t with
  | nil => by_cases h : b = a <;> simp [aset, aget, h]
  | cons c t ih =>
    obtain ⟨c1, c2⟩ := c
    simp only [aset]
    by_cases h1 : a < c1
    · rw [if_pos h1]
      by_cases hb : b = a
      · rw [if_pos hb, aget, if_pos hb]
      · rw [if_neg hb, aget, if_neg hb]
        by_cases h2 : b < a
        · rw [if_pos h2, aget, if_neg (by omega), if_pos (by omega)]
        · rw [if_neg h2]
    · rw [if_neg h1]
      by_cases h2 : a = c1
      · rw [if_pos h2]
        by_cases hb : b = a
        · rw [if_pos hb, aget, if_pos (by omega)]
        · rw [if_neg hb, aget, if_neg (by omega)]
          conv => rhs; rw [aget, if_neg (by omega)]
      · rw [if_neg h2, aget, aget, ih]
        by_cases hb : b = a
        · rw [if_neg (by omega), if_neg (by omega)]; simp [hb]
        · simp [hb]

theorem mem_aset {α : Type} {t : Assoc α} {a : Nat} {x : α} {e : Nat × α} (h : e ∈ aset t a x) : e = (a, x) ∨ e ∈ t := by
  induction t with
  | nil => simpa [aset] using h
  | cons c t ih =>
    obtain ⟨c1, c2⟩ := c
    simp only [aset] at h
    split at h
    · simpa using h
    · split at h
      · rcases List.mem_cons.mp h with h | h
        · left; rw [h]; simp [*]
        · exact .inr (List.mem_cons_of_mem _ h)
      · rcases List.mem_cons.mp h with h | h
        · exact .inr (h ▸ List.mem_cons_self)
        · rcases ih h with h | h
          · exact .inl h
          · exact .inr (List.mem_cons_of_mem _ h)

theorem mem_adel {α : Type} {t : Assoc α} {a : Nat} {e : Nat × α} (h : e ∈ adel t a) : e ∈ t := by
  induction t with
  | nil => exact h
  | cons c t ih =>
    obtain ⟨c1, c2⟩ := c
    simp only [adel] at h
    split at h
    · exact h
    · split at h
      · exact List.mem_cons_of_mem _ h
      · rcases List.mem_cons.mp h with h | h
        · exact h ▸ List.mem_cons_self
        · exact List.mem_cons_of_mem _ (ih h)

theorem mem_of_aget {α : Type} {t : Assoc α} {a : Nat} {x : α} (h : aget t a = some x) : (a, x) ∈ t := by
  induction t with
  | nil => simp [aget] at h
  | cons c t ih =>
    obtain ⟨c1, c2⟩ := c
    simp only [aget] at h
    split at h
    · rename_i h1
      have : c2 = x := by simpa using h
      rw [h1, this]; exact List.mem_cons_self
    · split at h
      · cases h
      · exact List.mem_cons_of_mem _ (ih h)

end Sys2Proof.Machine
end

