-- ==== Sys2Proof/Laws/Regs.lean ====
section
/-! SUPPORT. Registers read back what was written; the numbers that the bit instructions count. -/

namespace Sys2Proof.Machine

/-! ### Register files (R14, R15) -/

@[simp] theorem Regs.readG_zero (x : Regs) : x.readG 0 = 0 := rfl

@[simp] theorem Regs.writeG_zero (x : Regs) (v : Word) : x.writeG 0 v = x := rfl

theorem Regs.readG_writeG (x : Regs) (r d : RegNo) (v : Word) :
    (x.writeG d v).readG r = if r = d ∧ d ≠ 0 then v else x.readG r := by
  by_cases hd : d = 0
  · simp [Regs.writeG, hd]
  · by_cases hr : r = 0
    · have : r ≠ d := fun h => hd (h ▸ hr)
      simp [Regs.readG, hr]
      intro h; exact absurd h.symm hd
    · simp only [Regs.readG, Regs.writeG, if_neg hd, if_neg hr, Vector.getElem_set]
      by_cases h : r = d
      · simp only [h, true_and, if_true]; rw [if_pos hd]
      · have : d.toNat ≠ r.toNat := fun e => h (BitVec.eq_of_toNat_eq e.symm)
        simp [h, this]

theorem Regs.readV_writeV (x : Regs) (r d : RegNo) (v : VReg) :
    (x.writeV d v).readV r = if r = d then v else x.readV r := by
  simp only [Regs.readV, Regs.writeV, Vector.getElem_set]
  by_cases h : r = d
  · simp [h]
  · have : d.toNat ≠ r.toNat := fun e => h (BitVec.eq_of_toNat_eq e.symm)
    simp [h, this]

@[simp] theorem Regs.readP_zero (x : Regs) : x.readP 0 = BitVec.allOnes 16 := rfl

@[simp] theorem Regs.writeP_zero (x : Regs) (v : BitVec 16) : x.writeP 0 v = x := rfl

theorem Regs.readP_writeP (x : Regs) (r d : BitVec 3) (v : BitVec 16) :
    (x.writeP d v).readP r = if r = d ∧ d ≠ 0 then v else x.readP r := by
  by_cases hd : d = 0
  · simp [Regs.writeP, hd]
  · by_cases hr : r = 0
    · simp [Regs.readP, hr]
      intro h; exact absurd h.symm hd
    · simp only [Regs.readP, Regs.writeP, if_neg hd, if_neg hr, Vector.getElem_set]
      by_cases h : r = d
      · simp only [h, true_and, if_true]; rw [if_pos hd]
      · have : d.toNat ≠ r.toNat := fun e => h (BitVec.eq_of_toNat_eq e.symm)
        simp [h, this]

/-- A write of g0 changes nothing at all. -/
@[simp] theorem State.setG_zero (s : State) (v : Word) : s.setG 0 v = s := rfl

/-- A write of p0 changes nothing at all. -/
@[simp] theorem State.setP_zero (s : State) (v : BitVec 16) : s.setP 0 v = s := rfl

/-- What a write of a g register leaves in each of them. -/
theorem State.g_setG (s : State) (r d : RegNo) (v : Word) :
    (s.setG d v).g r = if r = d ∧ d ≠ 0 then v else s.g r := by
  by_cases hd : d = 0
  · simp [State.setG, Core.writeG, hd]
  · simp only [State.g, State.setG, Core.writeG, if_neg hd, Regs.readG_writeG]

/-! ### Arithmetic of the scalar instructions -/

theorem shAmt_word (y : Word) : shAmt y = y.toNat % 64 := rfl

theorem shAmt_low (y : Word) : shAmt (y.setWidth 32) = y.toNat % 32 := by simp [shAmt]

theorem mul_eq_ofInt {n : Nat} (x y : BitVec n) : x * y = BitVec.ofInt n (x.toInt * y.toInt) := by
  rw [BitVec.ofInt_mul]; simp

theorem sdiv_eq_ofInt {n : Nat} (x y : BitVec n) : x.sdiv y = BitVec.ofInt n (x.toInt.tdiv y.toInt) := by
  apply BitVec.eq_of_toInt_eq
  simp [BitVec.toInt_sdiv]

theorem srem_eq_ofInt {n : Nat} (x y : BitVec n) : x.srem y = BitVec.ofInt n (x.toInt.tmod y.toInt) := by
  rw [← BitVec.toInt_srem, BitVec.ofInt_toInt]

theorem udiv_eq_ofNat {n : Nat} (x y : BitVec n) : x / y = BitVec.ofNat n (x.toNat / y.toNat) := by
  apply BitVec.eq_of_toNat_eq
  simp only [BitVec.toNat_udiv, BitVec.toNat_ofNat]
  exact (Nat.mod_eq_of_lt (Nat.lt_of_le_of_lt (Nat.div_le_self _ _) x.isLt)).symm

theorem umod_eq_ofNat {n : Nat} (x y : BitVec n) : x % y = BitVec.ofNat n (x.toNat % y.toNat) := by
  apply BitVec.eq_of_toNat_eq
  simp only [BitVec.toNat_umod, BitVec.toNat_ofNat]
  exact (Nat.mod_eq_of_lt (Nat.lt_of_le_of_lt (Nat.mod_le _ _) x.isLt)).symm

/-! ### Counts of bits (R122) -/

theorem clzNat_zero (n : Nat) : clzNat n 0 = n := by
  induction n with
  | zero => rfl
  | succ n ih => simp [clzNat, ih]

theorem clzNat_log (n x : Nat) (h : x < 2 ^ n) (hx : x ≠ 0) : clzNat n x = n - 1 - Nat.log2 x := by
  induction n with
  | zero => simp at h; omega
  | succ n ih =>
    simp only [clzNat]
    split
    · rename_i h1
      have h2 : 2 ^ n ≤ x := by
        by_contra hc
        have : x / 2 ^ n = 0 := Nat.div_eq_of_lt (by omega)
        simp [this] at h1
      have : Nat.log2 x = n := (Nat.log2_eq_iff hx).mpr ⟨h2, h⟩
      omega
    · rename_i h1
      have hlt : x < 2 ^ n := by
        by_contra hc
        have h2 : x / 2 ^ n = 1 := by
          have : x < 2 * 2 ^ n := by rw [Nat.pow_succ] at h; omega
          rw [Nat.div_eq_iff (by positivity)]; omega
        simp [h2] at h1
      have hl : Nat.log2 x < n := (Nat.log2_lt hx).2 hlt
      rw [ih hlt]; omega

theorem ctzNat_spec (n x : Nat) : ctzNat n x ≤ n ∧ (∀ i < ctzNat n x, x.testBit i = false) ∧
    (ctzNat n x < n → x.testBit (ctzNat n x) = true) := by
  induction n generalizing x with
  | zero => simp [ctzNat]
  | succ n ih =>
    simp only [ctzNat]
    split
    · rename_i h; simp [h, Nat.testBit_zero]
    · rename_i h
      obtain ⟨h1, h2, h3⟩ := ih (x / 2)
      refine ⟨by omega, ?_, ?_⟩
      · intro i hi
        cases i with
        | zero => simp [Nat.testBit_zero]; omega
        | succ i => rw [Nat.testBit_succ]; exact h2 i (by omega)
      · intro hlt
        rw [Nat.testBit_succ]; exact h3 (by omega)

theorem popNat_count (n x : Nat) : popNat n x = (List.range n).countP (fun i => x.testBit i) := by
  induction n generalizing x with
  | zero => simp [popNat]
  | succ n ih =>
    rw [List.range_succ_eq_map, List.countP_cons, List.countP_map]
    simp only [popNat, ih]
    have : (List.countP ((fun i => x.testBit i) ∘ Nat.succ) (List.range n)) =
        List.countP (fun i => (x / 2).testBit i) (List.range n) := by
      congr 1; funext i; simp [Nat.testBit_succ]
    rw [this, Nat.testBit_zero]
    rcases Nat.mod_two_eq_zero_or_one x with h | h <;> simp [h]; omega

theorem revNat_testBit (n x i : Nat) : (revNat n x).testBit i = (decide (i < n) && x.testBit (n - 1 - i)) := by
  induction n generalizing x i with
  | zero => simp [revNat]
  | succ n ih =>
    have hlt : revNat n (x / 2) < 2 ^ n := by
      apply Nat.lt_pow_two_of_testBit
      intro j hj; rw [ih]; simp; omega
    simp only [revNat]
    rw [Nat.mul_comm, Nat.testBit_two_pow_mul_add _ hlt]
    split
    · rename_i h
      rw [ih]
      have : n + 1 - 1 - i = (n - 1 - i) + 1 := by omega
      have hi : i < n + 1 := by omega
      rw [this, Nat.testBit_succ]; simp [h, hi]
    · rename_i h
      by_cases h2 : i = n
      · subst h2
        have : (x % 2).testBit 0 = x.testBit 0 := by simp [Nat.testBit_zero]
        simp [this]
      · have : (x % 2).testBit (i - n) = false := by
          apply Nat.testBit_lt_two_pow
          calc x % 2 < 2 := Nat.mod_lt _ (by decide)
            _ = 2 ^ 1 := rfl
            _ ≤ 2 ^ (i - n) := Nat.pow_le_pow_right (by decide) (by omega)
        have hi : ¬i < n + 1 := by omega
        rw [this]; simp [hi]

end Sys2Proof.Machine
end

