-- ==== Sys2Proof/Laws/State.lean ====
section
/-! SUPPORT. What each named update of the state leaves in each field, true by unfolding. -/

namespace Sys2Proof.Machine

/-! ### `onX` -/

@[simp] theorem State.onX_id (s : State) (f : ExecState → ExecState) : (s.onX f).core.id = s.core.id := rfl
@[simp] theorem State.onX_phys (s : State) (f : ExecState → ExecState) : (s.onX f).core.phys = s.core.phys := rfl
@[simp] theorem State.onX_r (s : State) (f : ExecState → ExecState) : (s.onX f).core.r = s.core.r := rfl
@[simp] theorem State.onX_sw (s : State) (f : ExecState → ExecState) : (s.onX f).core.sw = s.core.sw := rfl
@[simp] theorem State.onX_csr (s : State) (f : ExecState → ExecState) : (s.onX f).core.csr = s.core.csr := rfl
@[simp] theorem State.onX_x (s : State) (f : ExecState → ExecState) : (s.onX f).core.x = f s.core.x := rfl
@[simp] theorem State.onX_mem (s : State) (f : ExecState → ExecState) : (s.onX f).core.mem = s.core.mem := rfl
@[simp] theorem State.onX_eng (s : State) (f : ExecState → ExecState) : (s.onX f).core.eng = s.core.eng := rfl
@[simp] theorem State.onX_mat (s : State) (f : ExecState → ExecState) : (s.onX f).core.mat = s.core.mat := rfl
@[simp] theorem State.onX_ni (s : State) (f : ExecState → ExecState) : (s.onX f).core.ni = s.core.ni := rfl
@[simp] theorem State.onX_gang (s : State) (f : ExecState → ExecState) : (s.onX f).core.gang = s.core.gang := rfl
@[simp] theorem State.onX_fuse (s : State) (f : ExecState → ExecState) : (s.onX f).core.fuse = s.core.fuse := rfl
@[simp] theorem State.onX_cores (s : State) (f : ExecState → ExecState) : (s.onX f).cores = s.cores := rfl
@[simp] theorem State.onX_dev (s : State) (f : ExecState → ExecState) : (s.onX f).dev = s.dev := rfl
@[simp] theorem State.onX_agenda (s : State) (f : ExecState → ExecState) : (s.onX f).agenda = s.agenda := rfl

/-! ### `onEng` -/

@[simp] theorem State.onEng_id (s : State) (f : Engines → Engines) : (s.onEng f).core.id = s.core.id := rfl
@[simp] theorem State.onEng_phys (s : State) (f : Engines → Engines) : (s.onEng f).core.phys = s.core.phys := rfl
@[simp] theorem State.onEng_r (s : State) (f : Engines → Engines) : (s.onEng f).core.r = s.core.r := rfl
@[simp] theorem State.onEng_sw (s : State) (f : Engines → Engines) : (s.onEng f).core.sw = s.core.sw := rfl
@[simp] theorem State.onEng_csr (s : State) (f : Engines → Engines) : (s.onEng f).core.csr = s.core.csr := rfl
@[simp] theorem State.onEng_x (s : State) (f : Engines → Engines) : (s.onEng f).core.x = s.core.x := rfl
@[simp] theorem State.onEng_mem (s : State) (f : Engines → Engines) : (s.onEng f).core.mem = s.core.mem := rfl
@[simp] theorem State.onEng_eng (s : State) (f : Engines → Engines) : (s.onEng f).core.eng = f s.core.eng := rfl
@[simp] theorem State.onEng_mat (s : State) (f : Engines → Engines) : (s.onEng f).core.mat = s.core.mat := rfl
@[simp] theorem State.onEng_ni (s : State) (f : Engines → Engines) : (s.onEng f).core.ni = s.core.ni := rfl
@[simp] theorem State.onEng_gang (s : State) (f : Engines → Engines) : (s.onEng f).core.gang = s.core.gang := rfl
@[simp] theorem State.onEng_fuse (s : State) (f : Engines → Engines) : (s.onEng f).core.fuse = s.core.fuse := rfl
@[simp] theorem State.onEng_cores (s : State) (f : Engines → Engines) : (s.onEng f).cores = s.cores := rfl
@[simp] theorem State.onEng_dev (s : State) (f : Engines → Engines) : (s.onEng f).dev = s.dev := rfl
@[simp] theorem State.onEng_agenda (s : State) (f : Engines → Engines) : (s.onEng f).agenda = s.agenda := rfl

/-! ### `onSw` -/

@[simp] theorem State.onSw_id (s : State) (f : StatusWords → StatusWords) : (s.onSw f).core.id = s.core.id := rfl
@[simp] theorem State.onSw_phys (s : State) (f : StatusWords → StatusWords) : (s.onSw f).core.phys = s.core.phys := rfl
@[simp] theorem State.onSw_r (s : State) (f : StatusWords → StatusWords) : (s.onSw f).core.r = s.core.r := rfl
@[simp] theorem State.onSw_sw (s : State) (f : StatusWords → StatusWords) : (s.onSw f).core.sw = f s.core.sw := rfl
@[simp] theorem State.onSw_csr (s : State) (f : StatusWords → StatusWords) : (s.onSw f).core.csr = s.core.csr := rfl
@[simp] theorem State.onSw_x (s : State) (f : StatusWords → StatusWords) : (s.onSw f).core.x = s.core.x := rfl
@[simp] theorem State.onSw_mem (s : State) (f : StatusWords → StatusWords) : (s.onSw f).core.mem = s.core.mem := rfl
@[simp] theorem State.onSw_eng (s : State) (f : StatusWords → StatusWords) : (s.onSw f).core.eng = s.core.eng := rfl
@[simp] theorem State.onSw_mat (s : State) (f : StatusWords → StatusWords) : (s.onSw f).core.mat = s.core.mat := rfl
@[simp] theorem State.onSw_ni (s : State) (f : StatusWords → StatusWords) : (s.onSw f).core.ni = s.core.ni := rfl
@[simp] theorem State.onSw_gang (s : State) (f : StatusWords → StatusWords) : (s.onSw f).core.gang = s.core.gang := rfl
@[simp] theorem State.onSw_fuse (s : State) (f : StatusWords → StatusWords) : (s.onSw f).core.fuse = s.core.fuse := rfl
@[simp] theorem State.onSw_cores (s : State) (f : StatusWords → StatusWords) : (s.onSw f).cores = s.cores := rfl
@[simp] theorem State.onSw_dev (s : State) (f : StatusWords → StatusWords) : (s.onSw f).dev = s.dev := rfl
@[simp] theorem State.onSw_agenda (s : State) (f : StatusWords → StatusWords) : (s.onSw f).agenda = s.agenda := rfl

/-! ### `onCsr` -/

@[simp] theorem State.onCsr_id (s : State) (f : Csrs → Csrs) : (s.onCsr f).core.id = s.core.id := rfl
@[simp] theorem State.onCsr_phys (s : State) (f : Csrs → Csrs) : (s.onCsr f).core.phys = s.core.phys := rfl
@[simp] theorem State.onCsr_r (s : State) (f : Csrs → Csrs) : (s.onCsr f).core.r = s.core.r := rfl
@[simp] theorem State.onCsr_sw (s : State) (f : Csrs → Csrs) : (s.onCsr f).core.sw = s.core.sw := rfl
@[simp] theorem State.onCsr_csr (s : State) (f : Csrs → Csrs) : (s.onCsr f).core.csr = f s.core.csr := rfl
@[simp] theorem State.onCsr_x (s : State) (f : Csrs → Csrs) : (s.onCsr f).core.x = s.core.x := rfl
@[simp] theorem State.onCsr_mem (s : State) (f : Csrs → Csrs) : (s.onCsr f).core.mem = s.core.mem := rfl
@[simp] theorem State.onCsr_eng (s : State) (f : Csrs → Csrs) : (s.onCsr f).core.eng = s.core.eng := rfl
@[simp] theorem State.onCsr_mat (s : State) (f : Csrs → Csrs) : (s.onCsr f).core.mat = s.core.mat := rfl
@[simp] theorem State.onCsr_ni (s : State) (f : Csrs → Csrs) : (s.onCsr f).core.ni = s.core.ni := rfl
@[simp] theorem State.onCsr_gang (s : State) (f : Csrs → Csrs) : (s.onCsr f).core.gang = s.core.gang := rfl
@[simp] theorem State.onCsr_fuse (s : State) (f : Csrs → Csrs) : (s.onCsr f).core.fuse = s.core.fuse := rfl
@[simp] theorem State.onCsr_cores (s : State) (f : Csrs → Csrs) : (s.onCsr f).cores = s.cores := rfl
@[simp] theorem State.onCsr_dev (s : State) (f : Csrs → Csrs) : (s.onCsr f).dev = s.dev := rfl
@[simp] theorem State.onCsr_agenda (s : State) (f : Csrs → Csrs) : (s.onCsr f).agenda = s.agenda := rfl

/-! ### `onMat` -/

@[simp] theorem State.onMat_id (s : State) (f : Matrix → Matrix) : (s.onMat f).core.id = s.core.id := rfl
@[simp] theorem State.onMat_phys (s : State) (f : Matrix → Matrix) : (s.onMat f).core.phys = s.core.phys := rfl
@[simp] theorem State.onMat_r (s : State) (f : Matrix → Matrix) : (s.onMat f).core.r = s.core.r := rfl
@[simp] theorem State.onMat_sw (s : State) (f : Matrix → Matrix) : (s.onMat f).core.sw = s.core.sw := rfl
@[simp] theorem State.onMat_csr (s : State) (f : Matrix → Matrix) : (s.onMat f).core.csr = s.core.csr := rfl
@[simp] theorem State.onMat_x (s : State) (f : Matrix → Matrix) : (s.onMat f).core.x = s.core.x := rfl
@[simp] theorem State.onMat_mem (s : State) (f : Matrix → Matrix) : (s.onMat f).core.mem = s.core.mem := rfl
@[simp] theorem State.onMat_eng (s : State) (f : Matrix → Matrix) : (s.onMat f).core.eng = s.core.eng := rfl
@[simp] theorem State.onMat_mat (s : State) (f : Matrix → Matrix) : (s.onMat f).core.mat = f s.core.mat := rfl
@[simp] theorem State.onMat_ni (s : State) (f : Matrix → Matrix) : (s.onMat f).core.ni = s.core.ni := rfl
@[simp] theorem State.onMat_gang (s : State) (f : Matrix → Matrix) : (s.onMat f).core.gang = s.core.gang := rfl
@[simp] theorem State.onMat_fuse (s : State) (f : Matrix → Matrix) : (s.onMat f).core.fuse = s.core.fuse := rfl
@[simp] theorem State.onMat_cores (s : State) (f : Matrix → Matrix) : (s.onMat f).cores = s.cores := rfl
@[simp] theorem State.onMat_dev (s : State) (f : Matrix → Matrix) : (s.onMat f).dev = s.dev := rfl
@[simp] theorem State.onMat_agenda (s : State) (f : Matrix → Matrix) : (s.onMat f).agenda = s.agenda := rfl

/-! ### `onMem` -/

@[simp] theorem State.onMem_id (s : State) (f : CoreMem → CoreMem) : (s.onMem f).core.id = s.core.id := rfl
@[simp] theorem State.onMem_phys (s : State) (f : CoreMem → CoreMem) : (s.onMem f).core.phys = s.core.phys := rfl
@[simp] theorem State.onMem_r (s : State) (f : CoreMem → CoreMem) : (s.onMem f).core.r = s.core.r := rfl
@[simp] theorem State.onMem_sw (s : State) (f : CoreMem → CoreMem) : (s.onMem f).core.sw = s.core.sw := rfl
@[simp] theorem State.onMem_csr (s : State) (f : CoreMem → CoreMem) : (s.onMem f).core.csr = s.core.csr := rfl
@[simp] theorem State.onMem_x (s : State) (f : CoreMem → CoreMem) : (s.onMem f).core.x = s.core.x := rfl
@[simp] theorem State.onMem_mem (s : State) (f : CoreMem → CoreMem) : (s.onMem f).core.mem = f s.core.mem := rfl
@[simp] theorem State.onMem_eng (s : State) (f : CoreMem → CoreMem) : (s.onMem f).core.eng = s.core.eng := rfl
@[simp] theorem State.onMem_mat (s : State) (f : CoreMem → CoreMem) : (s.onMem f).core.mat = s.core.mat := rfl
@[simp] theorem State.onMem_ni (s : State) (f : CoreMem → CoreMem) : (s.onMem f).core.ni = s.core.ni := rfl
@[simp] theorem State.onMem_gang (s : State) (f : CoreMem → CoreMem) : (s.onMem f).core.gang = s.core.gang := rfl
@[simp] theorem State.onMem_fuse (s : State) (f : CoreMem → CoreMem) : (s.onMem f).core.fuse = s.core.fuse := rfl
@[simp] theorem State.onMem_cores (s : State) (f : CoreMem → CoreMem) : (s.onMem f).cores = s.cores := rfl
@[simp] theorem State.onMem_dev (s : State) (f : CoreMem → CoreMem) : (s.onMem f).dev = s.dev := rfl
@[simp] theorem State.onMem_agenda (s : State) (f : CoreMem → CoreMem) : (s.onMem f).agenda = s.agenda := rfl

/-! ### `onNi` -/

@[simp] theorem State.onNi_id (s : State) (f : Ni → Ni) : (s.onNi f).core.id = s.core.id := rfl
@[simp] theorem State.onNi_phys (s : State) (f : Ni → Ni) : (s.onNi f).core.phys = s.core.phys := rfl
@[simp] theorem State.onNi_r (s : State) (f : Ni → Ni) : (s.onNi f).core.r = s.core.r := rfl
@[simp] theorem State.onNi_sw (s : State) (f : Ni → Ni) : (s.onNi f).core.sw = s.core.sw := rfl
@[simp] theorem State.onNi_csr (s : State) (f : Ni → Ni) : (s.onNi f).core.csr = s.core.csr := rfl
@[simp] theorem State.onNi_x (s : State) (f : Ni → Ni) : (s.onNi f).core.x = s.core.x := rfl
@[simp] theorem State.onNi_mem (s : State) (f : Ni → Ni) : (s.onNi f).core.mem = s.core.mem := rfl
@[simp] theorem State.onNi_eng (s : State) (f : Ni → Ni) : (s.onNi f).core.eng = s.core.eng := rfl
@[simp] theorem State.onNi_mat (s : State) (f : Ni → Ni) : (s.onNi f).core.mat = s.core.mat := rfl
@[simp] theorem State.onNi_ni (s : State) (f : Ni → Ni) : (s.onNi f).core.ni = f s.core.ni := rfl
@[simp] theorem State.onNi_gang (s : State) (f : Ni → Ni) : (s.onNi f).core.gang = s.core.gang := rfl
@[simp] theorem State.onNi_fuse (s : State) (f : Ni → Ni) : (s.onNi f).core.fuse = s.core.fuse := rfl
@[simp] theorem State.onNi_cores (s : State) (f : Ni → Ni) : (s.onNi f).cores = s.cores := rfl
@[simp] theorem State.onNi_dev (s : State) (f : Ni → Ni) : (s.onNi f).dev = s.dev := rfl
@[simp] theorem State.onNi_agenda (s : State) (f : Ni → Ni) : (s.onNi f).agenda = s.agenda := rfl

/-! ### `onTimed` -/

@[simp] theorem State.onTimed_core (s : State) (f : Timed → Timed) : (s.onTimed f).core = s.core := rfl
@[simp] theorem State.onTimed_cores (s : State) (f : Timed → Timed) : (s.onTimed f).cores = s.cores := rfl
@[simp] theorem State.onTimed_agenda (s : State) (f : Timed → Timed) : (s.onTimed f).agenda = s.agenda := rfl
@[simp] theorem State.onTimed_now (s : State) (f : Timed → Timed) : (s.onTimed f).dev.now = s.dev.now := rfl
@[simp] theorem State.onTimed_iperiodNext (s : State) (f : Timed → Timed) : (s.onTimed f).dev.iperiodNext = s.dev.iperiodNext := rfl
@[simp] theorem State.onTimed_missed (s : State) (f : Timed → Timed) : (s.onTimed f).dev.missed = s.dev.missed := rfl
@[simp] theorem State.onTimed_tick (s : State) (f : Timed → Timed) : (s.onTimed f).dev.tick = s.dev.tick := rfl
@[simp] theorem State.onTimed_ending (s : State) (f : Timed → Timed) : (s.onTimed f).dev.ending = s.dev.ending := rfl
@[simp] theorem State.onTimed_regs (s : State) (f : Timed → Timed) : (s.onTimed f).dev.regs = s.dev.regs := rfl
@[simp] theorem State.onTimed_spads (s : State) (f : Timed → Timed) : (s.onTimed f).dev.spads = s.dev.spads := rfl
@[simp] theorem State.onTimed_spadEmpty (s : State) (f : Timed → Timed) : (s.onTimed f).dev.spadEmpty = s.dev.spadEmpty := rfl
@[simp] theorem State.onTimed_timed (s : State) (f : Timed → Timed) : (s.onTimed f).dev.timed = f s.dev.timed := rfl
@[simp] theorem State.onTimed_trans (s : State) (f : Timed → Timed) : (s.onTimed f).dev.trans = s.dev.trans := rfl
@[simp] theorem State.onTimed_disp (s : State) (f : Timed → Timed) : (s.onTimed f).dev.disp = s.dev.disp := rfl
@[simp] theorem State.onTimed_fab (s : State) (f : Timed → Timed) : (s.onTimed f).dev.fab = s.dev.fab := rfl
@[simp] theorem State.onTimed_img (s : State) (f : Timed → Timed) : (s.onTimed f).dev.img = s.dev.img := rfl
@[simp] theorem State.onTimed_out (s : State) (f : Timed → Timed) : (s.onTimed f).dev.out = s.dev.out := rfl

/-! ### `onDisp` -/

@[simp] theorem State.onDisp_core (s : State) (f : Dispatch → Dispatch) : (s.onDisp f).core = s.core := rfl
@[simp] theorem State.onDisp_cores (s : State) (f : Dispatch → Dispatch) : (s.onDisp f).cores = s.cores := rfl
@[simp] theorem State.onDisp_agenda (s : State) (f : Dispatch → Dispatch) : (s.onDisp f).agenda = s.agenda := rfl
@[simp] theorem State.onDisp_now (s : State) (f : Dispatch → Dispatch) : (s.onDisp f).dev.now = s.dev.now := rfl
@[simp] theorem State.onDisp_iperiodNext (s : State) (f : Dispatch → Dispatch) : (s.onDisp f).dev.iperiodNext = s.dev.iperiodNext := rfl
@[simp] theorem State.onDisp_missed (s : State) (f : Dispatch → Dispatch) : (s.onDisp f).dev.missed = s.dev.missed := rfl
@[simp] theorem State.onDisp_tick (s : State) (f : Dispatch → Dispatch) : (s.onDisp f).dev.tick = s.dev.tick := rfl
@[simp] theorem State.onDisp_ending (s : State) (f : Dispatch → Dispatch) : (s.onDisp f).dev.ending = s.dev.ending := rfl
@[simp] theorem State.onDisp_regs (s : State) (f : Dispatch → Dispatch) : (s.onDisp f).dev.regs = s.dev.regs := rfl
@[simp] theorem State.onDisp_spads (s : State) (f : Dispatch → Dispatch) : (s.onDisp f).dev.spads = s.dev.spads := rfl
@[simp] theorem State.onDisp_spadEmpty (s : State) (f : Dispatch → Dispatch) : (s.onDisp f).dev.spadEmpty = s.dev.spadEmpty := rfl
@[simp] theorem State.onDisp_timed (s : State) (f : Dispatch → Dispatch) : (s.onDisp f).dev.timed = s.dev.timed := rfl
@[simp] theorem State.onDisp_trans (s : State) (f : Dispatch → Dispatch) : (s.onDisp f).dev.trans = s.dev.trans := rfl
@[simp] theorem State.onDisp_disp (s : State) (f : Dispatch → Dispatch) : (s.onDisp f).dev.disp = f s.dev.disp := rfl
@[simp] theorem State.onDisp_fab (s : State) (f : Dispatch → Dispatch) : (s.onDisp f).dev.fab = s.dev.fab := rfl
@[simp] theorem State.onDisp_img (s : State) (f : Dispatch → Dispatch) : (s.onDisp f).dev.img = s.dev.img := rfl
@[simp] theorem State.onDisp_out (s : State) (f : Dispatch → Dispatch) : (s.onDisp f).dev.out = s.dev.out := rfl

/-! ### `onDev`, `tickDev` and `tickCore` -/

@[simp] theorem State.onDev_core (s : State) (f : Device → Device) : (s.onDev f).core = s.core := rfl
@[simp] theorem State.tickDev_core (s : State) : s.tickDev.core = s.core := rfl
@[simp] theorem State.onDev_cores (s : State) (f : Device → Device) : (s.onDev f).cores = s.cores := rfl
@[simp] theorem State.tickDev_cores (s : State) : s.tickDev.cores = s.cores := rfl
@[simp] theorem State.onDev_agenda (s : State) (f : Device → Device) : (s.onDev f).agenda = s.agenda := rfl
@[simp] theorem State.tickDev_agenda (s : State) : s.tickDev.agenda = s.agenda := rfl
@[simp] theorem State.onDev_dev (s : State) (f : Device → Device) : (s.onDev f).dev = f s.dev := rfl
@[simp] theorem State.tickDev_now (s : State) : s.tickDev.dev.now = s.dev.now := rfl
@[simp] theorem State.tickCore_now (s : State) : s.tickCore.dev.now = s.dev.now := rfl
@[simp] theorem State.tickDev_iperiodNext (s : State) : s.tickDev.dev.iperiodNext = s.dev.iperiodNext := rfl
@[simp] theorem State.tickCore_iperiodNext (s : State) : s.tickCore.dev.iperiodNext = s.dev.iperiodNext := rfl
@[simp] theorem State.tickDev_missed (s : State) : s.tickDev.dev.missed = s.dev.missed := rfl
@[simp] theorem State.tickCore_missed (s : State) : s.tickCore.dev.missed = s.dev.missed := rfl
@[simp] theorem State.tickDev_ending (s : State) : s.tickDev.dev.ending = s.dev.ending := rfl
@[simp] theorem State.tickCore_ending (s : State) : s.tickCore.dev.ending = s.dev.ending := rfl
@[simp] theorem State.tickDev_regs (s : State) : s.tickDev.dev.regs = s.dev.regs := rfl
@[simp] theorem State.tickCore_regs (s : State) : s.tickCore.dev.regs = s.dev.regs := rfl
@[simp] theorem State.tickDev_spads (s : State) : s.tickDev.dev.spads = s.dev.spads := rfl
@[simp] theorem State.tickCore_spads (s : State) : s.tickCore.dev.spads = s.dev.spads := rfl
@[simp] theorem State.tickDev_spadEmpty (s : State) : s.tickDev.dev.spadEmpty = s.dev.spadEmpty := rfl
@[simp] theorem State.tickCore_spadEmpty (s : State) : s.tickCore.dev.spadEmpty = s.dev.spadEmpty := rfl
@[simp] theorem State.tickDev_timed (s : State) : s.tickDev.dev.timed = s.dev.timed := rfl
@[simp] theorem State.tickCore_timed (s : State) : s.tickCore.dev.timed = s.dev.timed := rfl
@[simp] theorem State.tickDev_trans (s : State) : s.tickDev.dev.trans = s.dev.trans := rfl
@[simp] theorem State.tickCore_trans (s : State) : s.tickCore.dev.trans = s.dev.trans := rfl
@[simp] theorem State.tickDev_disp (s : State) : s.tickDev.dev.disp = s.dev.disp := rfl
@[simp] theorem State.tickCore_disp (s : State) : s.tickCore.dev.disp = s.dev.disp := rfl
@[simp] theorem State.tickDev_fab (s : State) : s.tickDev.dev.fab = s.dev.fab := rfl
@[simp] theorem State.tickCore_fab (s : State) : s.tickCore.dev.fab = s.dev.fab := rfl
@[simp] theorem State.tickDev_img (s : State) : s.tickDev.dev.img = s.dev.img := rfl
@[simp] theorem State.tickCore_img (s : State) : s.tickCore.dev.img = s.dev.img := rfl
@[simp] theorem State.tickDev_out (s : State) : s.tickDev.dev.out = s.dev.out := rfl
@[simp] theorem State.tickCore_out (s : State) : s.tickCore.dev.out = s.dev.out := rfl
@[simp] theorem State.tickCore_id (s : State) : s.tickCore.core.id = s.core.id := rfl
@[simp] theorem State.tickCore_phys (s : State) : s.tickCore.core.phys = s.core.phys := rfl
@[simp] theorem State.tickCore_r (s : State) : s.tickCore.core.r = s.core.r := rfl
@[simp] theorem State.tickCore_sw (s : State) : s.tickCore.core.sw = s.core.sw := rfl
@[simp] theorem State.tickCore_csr (s : State) : s.tickCore.core.csr = s.core.csr := rfl
@[simp] theorem State.tickCore_mem (s : State) : s.tickCore.core.mem = s.core.mem := rfl
@[simp] theorem State.tickCore_eng (s : State) : s.tickCore.core.eng = s.core.eng := rfl
@[simp] theorem State.tickCore_mat (s : State) : s.tickCore.core.mat = s.core.mat := rfl
@[simp] theorem State.tickCore_ni (s : State) : s.tickCore.core.ni = s.core.ni := rfl
@[simp] theorem State.tickCore_gang (s : State) : s.tickCore.core.gang = s.core.gang := rfl
@[simp] theorem State.tickCore_fuse (s : State) : s.tickCore.core.fuse = s.core.fuse := rfl
@[simp] theorem State.tickCore_cores (s : State) : s.tickCore.cores = s.cores := rfl
@[simp] theorem State.tickCore_agenda (s : State) : s.tickCore.agenda = s.agenda := rfl

/-! ### Registers and flags -/

@[simp] theorem State.raise_id (s : State) (f : FpFlags) : (s.raise f).core.id = s.core.id := rfl
@[simp] theorem State.raise_phys (s : State) (f : FpFlags) : (s.raise f).core.phys = s.core.phys := rfl
@[simp] theorem State.raise_r (s : State) (f : FpFlags) : (s.raise f).core.r = s.core.r := rfl
@[simp] theorem State.raise_sw (s : State) (f : FpFlags) : (s.raise f).core.sw = { s.core.sw with fstat := s.core.sw.fstat ||| f } := rfl
@[simp] theorem State.raise_csr (s : State) (f : FpFlags) : (s.raise f).core.csr = s.core.csr := rfl
@[simp] theorem State.raise_x (s : State) (f : FpFlags) : (s.raise f).core.x = s.core.x := rfl
@[simp] theorem State.raise_mem (s : State) (f : FpFlags) : (s.raise f).core.mem = s.core.mem := rfl
@[simp] theorem State.raise_eng (s : State) (f : FpFlags) : (s.raise f).core.eng = s.core.eng := rfl
@[simp] theorem State.raise_mat (s : State) (f : FpFlags) : (s.raise f).core.mat = s.core.mat := rfl
@[simp] theorem State.raise_ni (s : State) (f : FpFlags) : (s.raise f).core.ni = s.core.ni := rfl
@[simp] theorem State.raise_gang (s : State) (f : FpFlags) : (s.raise f).core.gang = s.core.gang := rfl
@[simp] theorem State.raise_fuse (s : State) (f : FpFlags) : (s.raise f).core.fuse = s.core.fuse := rfl
@[simp] theorem State.raise_cores (s : State) (f : FpFlags) : (s.raise f).cores = s.cores := rfl
@[simp] theorem State.raise_dev (s : State) (f : FpFlags) : (s.raise f).dev = s.dev := rfl
@[simp] theorem State.raise_agenda (s : State) (f : FpFlags) : (s.raise f).agenda = s.agenda := rfl
@[simp] theorem State.setVReg_id (s : State) (d : RegNo) (v : VReg) : (s.setVReg d v).core.id = s.core.id := rfl
@[simp] theorem State.setG_id (s : State) (d : RegNo) (v : Word) : (s.setG d v).core.id = s.core.id := by
  unfold State.setG Core.writeG; split <;> rfl
@[simp] theorem State.setP_id (s : State) (d : BitVec 3) (v : BitVec 16) : (s.setP d v).core.id = s.core.id := rfl
@[simp] theorem State.setVReg_phys (s : State) (d : RegNo) (v : VReg) : (s.setVReg d v).core.phys = s.core.phys := rfl
@[simp] theorem State.setG_phys (s : State) (d : RegNo) (v : Word) : (s.setG d v).core.phys = s.core.phys := by
  unfold State.setG Core.writeG; split <;> rfl
@[simp] theorem State.setP_phys (s : State) (d : BitVec 3) (v : BitVec 16) : (s.setP d v).core.phys = s.core.phys := rfl
@[simp] theorem State.setVReg_sw (s : State) (d : RegNo) (v : VReg) : (s.setVReg d v).core.sw = s.core.sw := rfl
@[simp] theorem State.setG_sw (s : State) (d : RegNo) (v : Word) : (s.setG d v).core.sw = s.core.sw := by
  unfold State.setG Core.writeG; split <;> rfl
@[simp] theorem State.setP_sw (s : State) (d : BitVec 3) (v : BitVec 16) : (s.setP d v).core.sw = s.core.sw := rfl
@[simp] theorem State.setVReg_csr (s : State) (d : RegNo) (v : VReg) : (s.setVReg d v).core.csr = s.core.csr := rfl
@[simp] theorem State.setG_csr (s : State) (d : RegNo) (v : Word) : (s.setG d v).core.csr = s.core.csr := by
  unfold State.setG Core.writeG; split <;> rfl
@[simp] theorem State.setP_csr (s : State) (d : BitVec 3) (v : BitVec 16) : (s.setP d v).core.csr = s.core.csr := rfl
@[simp] theorem State.setVReg_mem (s : State) (d : RegNo) (v : VReg) : (s.setVReg d v).core.mem = s.core.mem := rfl
@[simp] theorem State.setG_mem (s : State) (d : RegNo) (v : Word) : (s.setG d v).core.mem = s.core.mem := by
  unfold State.setG Core.writeG; split <;> rfl
@[simp] theorem State.setP_mem (s : State) (d : BitVec 3) (v : BitVec 16) : (s.setP d v).core.mem = s.core.mem := rfl
@[simp] theorem State.setVReg_eng (s : State) (d : RegNo) (v : VReg) : (s.setVReg d v).core.eng = s.core.eng := rfl
@[simp] theorem State.setG_eng (s : State) (d : RegNo) (v : Word) : (s.setG d v).core.eng = s.core.eng := by
  unfold State.setG Core.writeG; split <;> rfl
@[simp] theorem State.setP_eng (s : State) (d : BitVec 3) (v : BitVec 16) : (s.setP d v).core.eng = s.core.eng := rfl
@[simp] theorem State.setVReg_mat (s : State) (d : RegNo) (v : VReg) : (s.setVReg d v).core.mat = s.core.mat := rfl
@[simp] theorem State.setG_mat (s : State) (d : RegNo) (v : Word) : (s.setG d v).core.mat = s.core.mat := by
  unfold State.setG Core.writeG; split <;> rfl
@[simp] theorem State.setP_mat (s : State) (d : BitVec 3) (v : BitVec 16) : (s.setP d v).core.mat = s.core.mat := rfl
@[simp] theorem State.setVReg_ni (s : State) (d : RegNo) (v : VReg) : (s.setVReg d v).core.ni = s.core.ni := rfl
@[simp] theorem State.setG_ni (s : State) (d : RegNo) (v : Word) : (s.setG d v).core.ni = s.core.ni := by
  unfold State.setG Core.writeG; split <;> rfl
@[simp] theorem State.setP_ni (s : State) (d : BitVec 3) (v : BitVec 16) : (s.setP d v).core.ni = s.core.ni := rfl
@[simp] theorem State.setVReg_gang (s : State) (d : RegNo) (v : VReg) : (s.setVReg d v).core.gang = s.core.gang := rfl
@[simp] theorem State.setG_gang (s : State) (d : RegNo) (v : Word) : (s.setG d v).core.gang = s.core.gang := by
  unfold State.setG Core.writeG; split <;> rfl
@[simp] theorem State.setP_gang (s : State) (d : BitVec 3) (v : BitVec 16) : (s.setP d v).core.gang = s.core.gang := rfl
@[simp] theorem State.setVReg_fuse (s : State) (d : RegNo) (v : VReg) : (s.setVReg d v).core.fuse = s.core.fuse := rfl
@[simp] theorem State.setG_fuse (s : State) (d : RegNo) (v : Word) : (s.setG d v).core.fuse = s.core.fuse := by
  unfold State.setG Core.writeG; split <;> rfl
@[simp] theorem State.setP_fuse (s : State) (d : BitVec 3) (v : BitVec 16) : (s.setP d v).core.fuse = s.core.fuse := rfl
@[simp] theorem State.setVReg_cores (s : State) (d : RegNo) (v : VReg) : (s.setVReg d v).cores = s.cores := rfl
@[simp] theorem State.setG_cores (s : State) (d : RegNo) (v : Word) : (s.setG d v).cores = s.cores := rfl
@[simp] theorem State.setP_cores (s : State) (d : BitVec 3) (v : BitVec 16) : (s.setP d v).cores = s.cores := rfl
@[simp] theorem State.setVReg_dev (s : State) (d : RegNo) (v : VReg) : (s.setVReg d v).dev = s.dev := rfl
@[simp] theorem State.setG_dev (s : State) (d : RegNo) (v : Word) : (s.setG d v).dev = s.dev := rfl
@[simp] theorem State.setP_dev (s : State) (d : BitVec 3) (v : BitVec 16) : (s.setP d v).dev = s.dev := rfl
@[simp] theorem State.setVReg_agenda (s : State) (d : RegNo) (v : VReg) : (s.setVReg d v).agenda = s.agenda := rfl
@[simp] theorem State.setG_agenda (s : State) (d : RegNo) (v : Word) : (s.setG d v).agenda = s.agenda := rfl
@[simp] theorem State.setP_agenda (s : State) (d : BitVec 3) (v : BitVec 16) : (s.setP d v).agenda = s.agenda := rfl

end Sys2Proof.Machine
end

