-- ==== Sys2Proof/Laws/Ops.lean ====
section
/-! SUPPORT. What each shared operation can do, stated once: how an instruction ends, traps, loops, which core a change
reaches, and the conditions under which a step is an issue. -/

namespace Sys2Proof.Machine

/-! ### Only the registers and the execution state -/

theorem State.OnlyRegs.refl (s : State) : s.OnlyRegs s := ⟨rfl, rfl, List.Sublist.refl _⟩

theorem State.OnlyRegs.trans {s t u : State} (h : s.OnlyRegs t) (k : t.OnlyRegs u) : s.OnlyRegs u := by
  obtain ⟨h1, h2, h3⟩ := h
  obtain ⟨k1, k2, k3⟩ := k
  refine ⟨?_, k2.trans h2, k3.trans h3⟩
  rw [k1, h1]

theorem State.onX_onlyRegs (s : State) (f : ExecState → ExecState) : s.OnlyRegs (s.onX f) :=
  ⟨rfl, rfl, List.Sublist.refl _⟩

theorem State.setG_onlyRegs (s : State) (d : RegNo) (v : Word) : s.OnlyRegs (s.setG d v) := by
  unfold State.OnlyRegs State.setG Core.writeG
  split <;> exact ⟨rfl, rfl, List.Sublist.refl _⟩

theorem State.setVReg_onlyRegs (s : State) (d : RegNo) (v : VReg) : s.OnlyRegs (s.setVReg d v) :=
  ⟨rfl, rfl, List.Sublist.refl _⟩

theorem State.setP_onlyRegs (s : State) (d : BitVec 3) (v : BitVec 16) : s.OnlyRegs (s.setP d v) :=
  ⟨rfl, rfl, List.Sublist.refl _⟩

/-- A change of the engines that leaves them as they were but for strides owed and late loads. -/
theorem State.onEng_onlyRegs (s : State) (f : Engines → Engines) (h : (f s.core.eng).unowed = s.core.eng.unowed)
    (l : (f s.core.eng).loads.Sublist s.core.eng.loads) : s.OnlyRegs (s.onEng f) := ⟨rfl, h, l⟩

/-- A change of each entry of a list that an erasure does not see. -/
theorem map_unowed {α : Type} (f g : α → α) (h : ∀ x, f (g x) = f x) (xs : List α) : (xs.map g).map f = xs.map f := by
  rw [List.map_map]
  exact List.map_congr_left (fun x _ => h x)

theorem State.stride_onlyRegs (s : State) (r : RegNo) (v : Word) : s.OnlyRegs (s.stride r v) := by
  unfold State.stride
  split
  · refine State.onEng_onlyRegs s _ ?_ (List.Sublist.refl _)
    unfold Engines.unowed
    congr 1
    exact map_unowed _ _ (fun m => by split <;> rfl) _
  · split
    · refine State.onEng_onlyRegs s _ ?_ (List.Sublist.refl _)
      unfold Engines.unowed
      congr 1
      refine map_unowed _ _ (fun p => ?_) _
      split
      · cases p with | mk a b c d e g h => cases e <;> rfl
      · rfl
    · split
      · exact (State.onEng_onlyRegs s (fun e => { e with loads := e.loads.filter _ }) rfl List.filter_sublist).trans
          (State.setG_onlyRegs _ _ _)
      · exact State.setG_onlyRegs _ _ _

theorem State.advance_onlyRegs (s : State) (w : Word) : s.OnlyRegs (s.advance w) :=
  (State.stride_onlyRegs s _ _).trans (State.stride_onlyRegs _ _ _)

theorem endOfBodyFrom_onlyRegs (ls : List (Fin 3)) (e : Nat) (s : State) : s.OnlyRegs (endOfBodyFrom ls e s) := by
  induction ls generalizing s with
  | nil => exact State.onX_onlyRegs s (fun x => { x with pc := BitVec.ofNat 16 (e % 65536) })
  | cons l ls ih =>
    simp only [endOfBodyFrom]
    split
    · split
      · exact ((State.advance_onlyRegs s _).trans (State.onX_onlyRegs _ _)).trans (ih _)
      · exact ((State.advance_onlyRegs s _).trans (State.onX_onlyRegs _ _)).trans (State.onX_onlyRegs _ _)
    · exact ih s

theorem State.advancePc_onlyRegs (s : State) : s.OnlyRegs s.advancePc := by
  unfold State.advancePc
  split
  · exact State.onX_onlyRegs s _
  · exact endOfBodyFrom_onlyRegs _ _ s

/-- An instruction that retires changes no more than registers and the place where the core stands. -/
theorem State.finish_next_onlyRegs (s : State) : s.OnlyRegs (s.finish .next) := by
  unfold State.finish
  split
  · exact State.onX_onlyRegs s _
  · exact (State.onX_onlyRegs s _).trans (State.advancePc_onlyRegs _)

/-- A jump changes no more than the place where the core stands. -/
theorem State.finish_jump_onlyRegs (s : State) (t : BitVec 16) : s.OnlyRegs (s.finish (.jump t)) := by
  unfold State.finish
  split <;> exact ⟨rfl, rfl, List.Sublist.refl _⟩

/-! ### The end of a word -/

theorem State.finish_inPair {s : State} (f : Flow) (h : s.core.x.inPair = true) :
    s.finish f = s.onX (fun x => { x with flow := f }) := by
  unfold State.finish
  rw [if_pos h]

theorem State.finish_alone {s : State} (f : Flow) (h : s.core.x.inPair = false) : s.finish f = s.applyFlow f := by
  unfold State.finish
  rw [if_neg (by rw [h]; decide)]

/-- Word0 of a fragment clause: word1 follows. -/
theorem State.finish_word0 {s : State} (h : s.core.x.inPair = false) (p : s.core.x.pc.getLsbD 2 = false) :
    s.finish .next = s.onX (fun x => { x with pc := x.pc + 4, wait := none }) := by
  rw [State.finish_alone _ h]
  have c : (!(s.onX (fun x => { x with wait := none })).core.x.inPair &&
      !(s.onX (fun x => { x with wait := none })).core.x.pc.getLsbD 2) = true := by
    show (!s.core.x.inPair && !s.core.x.pc.getLsbD 2) = true
    rw [h, p]; rfl
  unfold State.applyFlow State.advancePc
  rw [if_pos c]
  rfl

/-- No active level ends its body here: only the program counter moves. -/
theorem endOfBodyFrom_none (ls : List (Fin 3)) (e : Nat) (s : State)
    (h : ∀ l ∈ ls, s.core.x.loops[l].active = true → s.core.x.loops[l].stop ≠ e) :
    endOfBodyFrom ls e s = s.setPc (e % 65536) := by
  induction ls generalizing s with
  | nil => rfl
  | cons l ls ih =>
    rw [endOfBodyFrom]
    have hl := h l List.mem_cons_self
    split
    · rename_i hc
      rw [Bool.and_eq_true, decide_eq_true_eq] at hc
      exact absurd hc.2 (hl hc.1)
    · exact ih s (fun k hk => h k (List.mem_cons_of_mem _ hk))

theorem State.finish_jump {s : State} (t : BitVec 16) (h : s.core.x.inPair = false) :
    s.finish (.jump t) = s.onX (fun x => { x with pc := t, wait := none, loops := cancelLoops x.loops t.toNat }) := by
  rw [State.finish_alone _ h]
  rfl

/-- A trap is entered where the word stands. -/
theorem State.finish_trap {s : State} (c : BitVec 8) (v w : Word) (h : s.core.x.inPair = false) :
    s.finish (.trap c v w) = s.enterTrap c v w s.core.x.pc := State.finish_alone _ h

/-! ### Traps -/

/-- A second trap stops the core's clock and keeps the first (R264). -/
theorem State.enterTrap_double {s : State} (c : BitVec 8) (v w : Word) (e : BitVec 16) (h : s.core.csr.tip = true) :
    s.enterTrap c v w e = s.onX (fun x => { x with stopped := some .doubleTrap, double := some (c, v, w), wait := none }) := by
  unfold State.enterTrap
  rw [if_pos h]

/-- A first trap of a core in no gang: the CSRs it writes, the mode and the address it goes to (R262). -/
theorem State.enterTrap_first {s : State} (c : BitVec 8) (v w : Word) (e : BitVec 16) (h : s.core.csr.tip = false)
    (g : s.core.gang = []) :
    s.enterTrap c v w e = { s with core := { s.core with
      csr := { s.core.csr with
        xepc := e, xcause := c, xval := v, xval2 := w, pm := s.core.x.mode, puh := s.core.x.inHandler,
        la := anyLoop s.core.x.loops, sb := s.core.anyPort, tip := true }
      x := { s.core.x with
        inHandler := false, xLoops := s.core.x.loops, loops := suspendLoops s.core.x.loops, mode := .supervisor,
        pc := s.core.csr.xtvec &&& 0xFFF8, wait := none } } } := by
  unfold State.enterTrap State.leaveGang
  rw [if_neg (by rw [h]; decide), if_pos g]

/-! ### Which core a change reaches -/

@[simp] theorem State.coreAt_self (s : State) : s.coreAt s.core.id = s.core := by
  unfold State.coreAt
  rw [if_pos rfl]

@[simp] theorem State.actAs_self (s : State) : s.actAs s.core.id = s := by
  unfold State.actAs
  rw [if_pos rfl]

/-- The core put back is the one that stands under its number; every other core is as it was. -/
theorem State.coreAt_putCore (s : State) (c : Core) (k : Nat) :
    (s.putCore c).coreAt k = if k = c.id then c else s.coreAt k := by
  unfold State.putCore
  by_cases h : c.id = s.core.id
  · rw [if_pos h]
    by_cases hk : k = c.id
    · rw [if_pos hk]; unfold State.coreAt; rw [if_pos hk]
    · rw [if_neg hk]; unfold State.coreAt
      rw [if_neg hk, if_neg (fun e => hk (e.trans h.symm))]
  · rw [if_neg h]
    unfold State.coreAt
    by_cases hk : k = c.id
    · simp only [aget_aset]
      rw [if_pos hk, if_neg (fun e => h (hk.symm.trans e)), if_pos hk]
      rfl
    · simp only [aget_aset]
      rw [if_neg hk, if_neg hk]

theorem State.onCore_same {s : State} (k : Nat) (f : Core → Core) (h : (f (s.coreAt k)).id = k) :
    (s.onCore k f).coreAt k = f (s.coreAt k) := by
  unfold State.onCore
  rw [State.coreAt_putCore, if_pos h.symm]

theorem State.onCore_other {s : State} (k j : Nat) (f : Core → Core) (h : (f (s.coreAt k)).id = k) (d : j ≠ k) :
    (s.onCore k f).coreAt j = s.coreAt j := by
  unfold State.onCore
  rw [State.coreAt_putCore, if_neg (fun e => d (e.trans h))]

theorem State.putCore_dev (s : State) (c : Core) : (s.putCore c).dev = s.dev := by
  unfold State.putCore
  split <;> rfl

theorem State.onCore_dev (s : State) (k : Nat) (f : Core → Core) : (s.onCore k f).dev = s.dev := State.putCore_dev s _

theorem State.actAs_dev (s : State) (k : Nat) : (s.actAs k).dev = s.dev := by
  unfold State.actAs
  split <;> rfl

theorem State.actAs_core (s : State) (k : Nat) : (s.actAs k).core = s.coreAt k := by
  unfold State.actAs
  split
  · rename_i h; rw [h, State.coreAt_self]
  · rfl

/-! ### Steps -/

/-- With power and past bring-up, a step is what is next in the machine that runs. -/
theorem stepState_act {s : State} (p : s.dev.out.powered = true) (u : s.dev.out.bust = 7) : stepState s = s.act := by
  unfold stepState
  split
  · rfl
  · simp [p, u]

/-- An empty agenda leaves the acting core's own issue, but at the end of an instant. -/
theorem State.act_nil {s : State} (h : s.agenda = []) (e : s.dev.ending = false) : s.act = s.issue := by
  unfold State.act
  rw [h]
  simp [e]

/-- What is taken at a boundary does not hang on the count of the issue. -/
theorem State.tickCore_boundary (s : State) : s.tickCore.boundary = s.boundary := by
  simp only [State.boundary, State.tickCore, Core.atBoundary, Core.canTakeFault, Core.canTakeEvent, Core.canTakeUser, Core.inWfi,
    Core.awaitsCode, Core.waitsAtIssue, State.clockGated]
  rfl

/-- A ready core issues the clause at its program counter. -/
theorem State.Ready.issue {s : State} (h : s.Ready) : stepState s = s.issuing.issueClause s.nextClauseWord := by
  rw [stepState_act h.powered h.up, State.act_nil h.agenda h.within]
  have w : s.wakes = false := by simp [State.wakes, h.running]
  have c : s.canIssue s.core = true := by simp [State.canIssue, h.running, h.clock.1, h.clock.2]
  have b : s.tickCore.boundary = none := s.tickCore_boundary.trans h.first
  have r : s.tickCore.core.beforeRel s.tickCore.dev.now = false := h.begun
  have m : ¬(s.tickCore.core.x.mode = .user ∧ reserved s.tickCore.core .im s.tickCore.clause.toNat 8 = true) :=
    fun e => absurd (h.allowed e.1) (by have := e.2; simp_all [State.tickCore, State.clause, reserved])
  simp only [State.issue, w, c, h.alone, State.issueAlone, b, r]
  simp only [Bool.false_eq_true, if_false, Bool.not_true, true_or, if_true]
  rw [if_neg m]
  rfl

end Sys2Proof.Machine
end

