-- ==== Sys2Proof/Laws/PerInstr.lean ====
section
/-! SUPPORT. For every instruction: the word of a well-formed one decodes to it (R108 to R113). -/

/-- The word of a well-formed instruction decodes to it. -/
def Sys2Proof.Laws.RoundTrip.Statement (i : Sys2Proof.Instr) : Prop :=
  Sys2Proof.wellFormed i = true → Sys2Proof.decode (Sys2Proof.encode i) = .ok i

section RoundTrip

open Sys2Proof Sys2Proof.Laws.RoundTrip

/-! ### Fields of a number -/

theorem Sys2Proof.bf_eq {n lo k : Nat} {x : BitVec k} (h : n / 2 ^ lo % 2 ^ k = x.toNat) : bf n lo k = x :=
  BitVec.eq_of_toNat_eq (by rw [bf, BitVec.toNat_ofNat, h])

theorem Sys2Proof.field_div {n a k v m : Nat} (h : n / a = v + k * m) (hv : v < k) : n / (a * k) = m := by
  rw [← Nat.div_div_eq_div_mul, h, Nat.add_mul_div_left v m (by omega), Nat.div_eq_of_lt hv, Nat.zero_add]

theorem Sys2Proof.field_mod {n a k v m : Nat} (h : n / a = v + k * m) (hv : v < k) : n / a % k = v := by
  rw [h, Nat.add_mul_mod_self_left, Nat.mod_eq_of_lt hv]

theorem Sys2Proof.field_top {n a k v : Nat} (h : n / a = v) (hv : v < k) : n / a % k = v := by
  rw [h, Nat.mod_eq_of_lt hv]

theorem Sys2Proof.field_lt {n v : Nat} (h : n / 33554432 = v) (hv : v < 64) : n < 2147483648 := by omega

theorem Sys2Proof.decode_encode {i : Instr} (b : encodeNat i < 2147483648) (f : decodeFields (encodeNat i) = .ok i)
    (w : wellFormed i = true) : decode (encode i) = .ok i := by
  have h : (encode i).toNat = encodeNat i := by rw [encode, BitVec.toNat_ofNat]; omega
  rw [decode, h, f]
  simp [w]

/-! ### The fields of each layout -/

set_option Elab.async false

theorem Sys2Proof.fields1 (n : Nat) (x0 : BitVec 5) (x1 : BitVec 5) (x2 : BitVec 5) (x3 : BitVec 1) (c2 c1 c0 B : Nat) (h : c2 < 8 ∧ c1 < 64 ∧ c0 < 64)
    (hB : B = 0 + 2 * (c2 + 8 * (c1 + 64 * (0 + 32 * (0 + 32 * (0 + 32 * (c0)))))))
    (hn : n = B + x0.toNat * 1048576 + x1.toNat * 32768 + x2.toNat * 1024 + x3.toNat) :
    n < 2147483648 ∧ n / 33554432 % 64 = c0 ∧ n / 16 % 64 = c1 ∧ n / 2 % 8 = c2 ∧ bf n 20 5 = x0 ∧ bf n 15 5 = x1 ∧ bf n 10 5 = x2 ∧ bf n 0 1 = x3 := by
  obtain ⟨hc2, hc1, hc0⟩ := h
  have e : n = x3.toNat + 2 * (c2 + 8 * (c1 + 64 * (x2.toNat + 32 * (x1.toNat + 32 * (x0.toNat + 32 * (c0)))))) := by omega
  have d0 : n / 1 = _ := (Nat.div_one n).trans e
  have d1 : n / 2 = _ := field_div d0 x3.isLt
  have d2 : n / 16 = _ := field_div d1 hc2
  have d3 : n / 1024 = _ := field_div d2 hc1
  have d4 : n / 32768 = _ := field_div d3 x2.isLt
  have d5 : n / 1048576 = _ := field_div d4 x1.isLt
  have d6 : n / 33554432 = _ := field_div d5 x0.isLt
  exact ⟨field_lt d6 hc0, (field_top d6 hc0),
    (field_mod d2 hc1),
    (field_mod d1 hc2),
    bf_eq (field_mod d5 x0.isLt),
    bf_eq (field_mod d4 x1.isLt),
    bf_eq (field_mod d3 x2.isLt),
    bf_eq (field_mod d0 x3.isLt)⟩

theorem Sys2Proof.fields2 (n : Nat) (x0 : BitVec 5) (x1 : BitVec 5) (x2 : BitVec 5) (x3 : BitVec 3) (c2 c1 c0 B : Nat) (h : c2 < 2 ∧ c1 < 64 ∧ c0 < 64)
    (hB : B = 0 + 8 * (c2 + 2 * (c1 + 64 * (0 + 32 * (0 + 32 * (0 + 32 * (c0)))))))
    (hn : n = B + x0.toNat * 1048576 + x1.toNat * 32768 + x2.toNat * 1024 + x3.toNat) :
    n < 2147483648 ∧ n / 33554432 % 64 = c0 ∧ n / 16 % 64 = c1 ∧ n / 8 % 2 = c2 ∧ bf n 20 5 = x0 ∧ bf n 15 5 = x1 ∧ bf n 10 5 = x2 ∧ bf n 0 3 = x3 := by
  obtain ⟨hc2, hc1, hc0⟩ := h
  have e : n = x3.toNat + 8 * (c2 + 2 * (c1 + 64 * (x2.toNat + 32 * (x1.toNat + 32 * (x0.toNat + 32 * (c0)))))) := by omega
  have d0 : n / 1 = _ := (Nat.div_one n).trans e
  have d1 : n / 8 = _ := field_div d0 x3.isLt
  have d2 : n / 16 = _ := field_div d1 hc2
  have d3 : n / 1024 = _ := field_div d2 hc1
  have d4 : n / 32768 = _ := field_div d3 x2.isLt
  have d5 : n / 1048576 = _ := field_div d4 x1.isLt
  have d6 : n / 33554432 = _ := field_div d5 x0.isLt
  exact ⟨field_lt d6 hc0, (field_top d6 hc0),
    (field_mod d2 hc1),
    (field_mod d1 hc2),
    bf_eq (field_mod d5 x0.isLt),
    bf_eq (field_mod d4 x1.isLt),
    bf_eq (field_mod d3 x2.isLt),
    bf_eq (field_mod d0 x3.isLt)⟩

theorem Sys2Proof.fields3 (n : Nat) (x0 : BitVec 5) (x1 : BitVec 5) (x2 : BitVec 15) (c0 B : Nat) (h : c0 < 64)
    (hB : B = 0 + 32768 * (0 + 32 * (0 + 32 * (c0))))
    (hn : n = B + x0.toNat * 1048576 + x1.toNat * 32768 + x2.toNat) :
    n < 2147483648 ∧ n / 33554432 % 64 = c0 ∧ bf n 20 5 = x0 ∧ bf n 15 5 = x1 ∧ bf n 0 15 = x2 := by
  have hc0 := h
  have e : n = x2.toNat + 32768 * (x1.toNat + 32 * (x0.toNat + 32 * (c0))) := by omega
  have d0 : n / 1 = _ := (Nat.div_one n).trans e
  have d1 : n / 32768 = _ := field_div d0 x2.isLt
  have d2 : n / 1048576 = _ := field_div d1 x1.isLt
  have d3 : n / 33554432 = _ := field_div d2 x0.isLt
  exact ⟨field_lt d3 hc0, (field_top d3 hc0),
    bf_eq (field_mod d2 x0.isLt),
    bf_eq (field_mod d1 x1.isLt),
    bf_eq (field_mod d0 x2.isLt)⟩

theorem Sys2Proof.fields4 (n : Nat) (x0 : BitVec 5) (x1 : BitVec 5) (x2 : BitVec 6) (c2 c1 c0 B : Nat) (h : c2 < 128 ∧ c1 < 4 ∧ c0 < 64)
    (hB : B = 0 + 64 * (c2 + 128 * (c1 + 4 * (0 + 32 * (0 + 32 * (c0))))))
    (hn : n = B + x0.toNat * 1048576 + x1.toNat * 32768 + x2.toNat) :
    n < 2147483648 ∧ n / 33554432 % 64 = c0 ∧ n / 8192 % 4 = c1 ∧ n / 64 % 128 = c2 ∧ bf n 20 5 = x0 ∧ bf n 15 5 = x1 ∧ bf n 0 6 = x2 := by
  obtain ⟨hc2, hc1, hc0⟩ := h
  have e : n = x2.toNat + 64 * (c2 + 128 * (c1 + 4 * (x1.toNat + 32 * (x0.toNat + 32 * (c0))))) := by omega
  have d0 : n / 1 = _ := (Nat.div_one n).trans e
  have d1 : n / 64 = _ := field_div d0 x2.isLt
  have d2 : n / 8192 = _ := field_div d1 hc2
  have d3 : n / 32768 = _ := field_div d2 hc1
  have d4 : n / 1048576 = _ := field_div d3 x1.isLt
  have d5 : n / 33554432 = _ := field_div d4 x0.isLt
  exact ⟨field_lt d5 hc0, (field_top d5 hc0),
    (field_mod d2 hc1),
    (field_mod d1 hc2),
    bf_eq (field_mod d4 x0.isLt),
    bf_eq (field_mod d3 x1.isLt),
    bf_eq (field_mod d0 x2.isLt)⟩

theorem Sys2Proof.fields5 (n : Nat) (x0 : BitVec 5) (x1 : BitVec 20) (c0 B : Nat) (h : c0 < 64)
    (hB : B = 0 + 1048576 * (0 + 32 * (c0)))
    (hn : n = B + x0.toNat * 1048576 + x1.toNat) :
    n < 2147483648 ∧ n / 33554432 % 64 = c0 ∧ bf n 20 5 = x0 ∧ bf n 0 20 = x1 := by
  have hc0 := h
  have e : n = x1.toNat + 1048576 * (x0.toNat + 32 * (c0)) := by omega
  have d0 : n / 1 = _ := (Nat.div_one n).trans e
  have d1 : n / 1048576 = _ := field_div d0 x1.isLt
  have d2 : n / 33554432 = _ := field_div d1 x0.isLt
  exact ⟨field_lt d2 hc0, (field_top d2 hc0),
    bf_eq (field_mod d1 x0.isLt),
    bf_eq (field_mod d0 x1.isLt)⟩

theorem Sys2Proof.fields6 (n : Nat) (x0 : BitVec 5) (x1 : BitVec 5) (x2 : BitVec 1) (c2 c1 c3 c0 B : Nat) (h : c2 < 8 ∧ c1 < 64 ∧ c3 < 32 ∧ c0 < 64)
    (hB : B = 0 + 2 * (c2 + 8 * (c1 + 64 * (c3 + 32 * (0 + 32 * (0 + 32 * (c0)))))))
    (hn : n = B + x0.toNat * 1048576 + x1.toNat * 32768 + x2.toNat) :
    n < 2147483648 ∧ n / 33554432 % 64 = c0 ∧ n / 16 % 64 = c1 ∧ n / 2 % 8 = c2 ∧ n / 1024 % 32 = c3 ∧ bf n 20 5 = x0 ∧ bf n 15 5 = x1 ∧ bf n 0 1 = x2 := by
  obtain ⟨hc2, hc1, hc3, hc0⟩ := h
  have e : n = x2.toNat + 2 * (c2 + 8 * (c1 + 64 * (c3 + 32 * (x1.toNat + 32 * (x0.toNat + 32 * (c0)))))) := by omega
  have d0 : n / 1 = _ := (Nat.div_one n).trans e
  have d1 : n / 2 = _ := field_div d0 x2.isLt
  have d2 : n / 16 = _ := field_div d1 hc2
  have d3 : n / 1024 = _ := field_div d2 hc1
  have d4 : n / 32768 = _ := field_div d3 hc3
  have d5 : n / 1048576 = _ := field_div d4 x1.isLt
  have d6 : n / 33554432 = _ := field_div d5 x0.isLt
  exact ⟨field_lt d6 hc0, (field_top d6 hc0),
    (field_mod d2 hc1),
    (field_mod d1 hc2),
    (field_mod d3 hc3),
    bf_eq (field_mod d5 x0.isLt),
    bf_eq (field_mod d4 x1.isLt),
    bf_eq (field_mod d0 x2.isLt)⟩

theorem Sys2Proof.fields7 (n : Nat) (x0 : BitVec 5) (x1 : BitVec 5) (x2 : BitVec 5) (x3 : BitVec 3) (x4 : BitVec 2) (c1 c0 B : Nat) (h : c1 < 32 ∧ c0 < 64)
    (hB : B = c1 + 32 * (0 + 4 * (0 + 8 * (0 + 32 * (0 + 32 * (0 + 32 * (c0)))))))
    (hn : n = B + x0.toNat * 1048576 + x1.toNat * 32768 + x2.toNat * 1024 + x3.toNat * 128 + x4.toNat * 32) :
    n < 2147483648 ∧ n / 33554432 % 64 = c0 ∧ n % 32 = c1 ∧ bf n 20 5 = x0 ∧ bf n 15 5 = x1 ∧ bf n 10 5 = x2 ∧ bf n 7 3 = x3 ∧ bf n 5 2 = x4 := by
  obtain ⟨hc1, hc0⟩ := h
  have e : n = c1 + 32 * (x4.toNat + 4 * (x3.toNat + 8 * (x2.toNat + 32 * (x1.toNat + 32 * (x0.toNat + 32 * (c0)))))) := by omega
  have d0 : n / 1 = _ := (Nat.div_one n).trans e
  have d1 : n / 32 = _ := field_div d0 hc1
  have d2 : n / 128 = _ := field_div d1 x4.isLt
  have d3 : n / 1024 = _ := field_div d2 x3.isLt
  have d4 : n / 32768 = _ := field_div d3 x2.isLt
  have d5 : n / 1048576 = _ := field_div d4 x1.isLt
  have d6 : n / 33554432 = _ := field_div d5 x0.isLt
  exact ⟨field_lt d6 hc0, (field_top d6 hc0),
    ((congrArg (· % 32) (Nat.div_one n)).symm.trans (field_mod d0 hc1)),
    bf_eq (field_mod d5 x0.isLt),
    bf_eq (field_mod d4 x1.isLt),
    bf_eq (field_mod d3 x2.isLt),
    bf_eq (field_mod d2 x3.isLt),
    bf_eq (field_mod d1 x4.isLt)⟩

theorem Sys2Proof.fields8 (n : Nat) (x0 : BitVec 5) (x1 : BitVec 5) (x2 : BitVec 3) (x3 : BitVec 2) (c1 c2 c0 B : Nat) (h : c1 < 32 ∧ c2 < 32 ∧ c0 < 64)
    (hB : B = c1 + 32 * (0 + 4 * (0 + 8 * (c2 + 32 * (0 + 32 * (0 + 32 * (c0)))))))
    (hn : n = B + x0.toNat * 1048576 + x1.toNat * 32768 + x2.toNat * 128 + x3.toNat * 32) :
    n < 2147483648 ∧ n / 33554432 % 64 = c0 ∧ n % 32 = c1 ∧ n / 1024 % 32 = c2 ∧ bf n 20 5 = x0 ∧ bf n 15 5 = x1 ∧ bf n 7 3 = x2 ∧ bf n 5 2 = x3 := by
  obtain ⟨hc1, hc2, hc0⟩ := h
  have e : n = c1 + 32 * (x3.toNat + 4 * (x2.toNat + 8 * (c2 + 32 * (x1.toNat + 32 * (x0.toNat + 32 * (c0)))))) := by omega
  have d0 : n / 1 = _ := (Nat.div_one n).trans e
  have d1 : n / 32 = _ := field_div d0 hc1
  have d2 : n / 128 = _ := field_div d1 x3.isLt
  have d3 : n / 1024 = _ := field_div d2 x2.isLt
  have d4 : n / 32768 = _ := field_div d3 hc2
  have d5 : n / 1048576 = _ := field_div d4 x1.isLt
  have d6 : n / 33554432 = _ := field_div d5 x0.isLt
  exact ⟨field_lt d6 hc0, (field_top d6 hc0),
    ((congrArg (· % 32) (Nat.div_one n)).symm.trans (field_mod d0 hc1)),
    (field_mod d3 hc2),
    bf_eq (field_mod d5 x0.isLt),
    bf_eq (field_mod d4 x1.isLt),
    bf_eq (field_mod d2 x2.isLt),
    bf_eq (field_mod d1 x3.isLt)⟩

theorem Sys2Proof.fields9 (n : Nat) (x0 : BitVec 3) (x1 : BitVec 5) (x2 : BitVec 5) (x3 : BitVec 3) (x4 : BitVec 2) (c1 c2 c0 B : Nat) (h : c1 < 32 ∧ c2 < 4 ∧ c0 < 64)
    (hB : B = c1 + 32 * (0 + 4 * (0 + 8 * (0 + 32 * (0 + 32 * (0 + 8 * (c2 + 4 * (c0))))))))
    (hn : n = B + x0.toNat * 1048576 + x1.toNat * 32768 + x2.toNat * 1024 + x3.toNat * 128 + x4.toNat * 32) :
    n < 2147483648 ∧ n / 33554432 % 64 = c0 ∧ n % 32 = c1 ∧ n / 8388608 % 4 = c2 ∧ bf n 20 3 = x0 ∧ bf n 15 5 = x1 ∧ bf n 10 5 = x2 ∧ bf n 7 3 = x3 ∧ bf n 5 2 = x4 := by
  obtain ⟨hc1, hc2, hc0⟩ := h
  have e : n = c1 + 32 * (x4.toNat + 4 * (x3.toNat + 8 * (x2.toNat + 32 * (x1.toNat + 32 * (x0.toNat + 8 * (c2 + 4 * (c0))))))) := by omega
  have d0 : n / 1 = _ := (Nat.div_one n).trans e
  have d1 : n / 32 = _ := field_div d0 hc1
  have d2 : n / 128 = _ := field_div d1 x4.isLt
  have d3 : n / 1024 = _ := field_div d2 x3.isLt
  have d4 : n / 32768 = _ := field_div d3 x2.isLt
  have d5 : n / 1048576 = _ := field_div d4 x1.isLt
  have d6 : n / 8388608 = _ := field_div d5 x0.isLt
  have d7 : n / 33554432 = _ := field_div d6 hc2
  exact ⟨field_lt d7 hc0, (field_top d7 hc0),
    ((congrArg (· % 32) (Nat.div_one n)).symm.trans (field_mod d0 hc1)),
    (field_mod d6 hc2),
    bf_eq (field_mod d5 x0.isLt),
    bf_eq (field_mod d4 x1.isLt),
    bf_eq (field_mod d3 x2.isLt),
    bf_eq (field_mod d2 x3.isLt),
    bf_eq (field_mod d1 x4.isLt)⟩

theorem Sys2Proof.fields10 (n : Nat) (x0 : BitVec 5) (x1 : BitVec 5) (x2 : BitVec 5) (x3 : BitVec 5) (x4 : BitVec 2) (c1 c0 B : Nat) (h : c1 < 8 ∧ c0 < 64)
    (hB : B = c1 + 8 * (0 + 4 * (0 + 32 * (0 + 32 * (0 + 32 * (0 + 32 * (c0)))))))
    (hn : n = B + x0.toNat * 1048576 + x1.toNat * 32768 + x2.toNat * 1024 + x3.toNat * 32 + x4.toNat * 8) :
    n < 2147483648 ∧ n / 33554432 % 64 = c0 ∧ n % 8 = c1 ∧ bf n 20 5 = x0 ∧ bf n 15 5 = x1 ∧ bf n 10 5 = x2 ∧ bf n 5 5 = x3 ∧ bf n 3 2 = x4 := by
  obtain ⟨hc1, hc0⟩ := h
  have e : n = c1 + 8 * (x4.toNat + 4 * (x3.toNat + 32 * (x2.toNat + 32 * (x1.toNat + 32 * (x0.toNat + 32 * (c0)))))) := by omega
  have d0 : n / 1 = _ := (Nat.div_one n).trans e
  have d1 : n / 8 = _ := field_div d0 hc1
  have d2 : n / 32 = _ := field_div d1 x4.isLt
  have d3 : n / 1024 = _ := field_div d2 x3.isLt
  have d4 : n / 32768 = _ := field_div d3 x2.isLt
  have d5 : n / 1048576 = _ := field_div d4 x1.isLt
  have d6 : n / 33554432 = _ := field_div d5 x0.isLt
  exact ⟨field_lt d6 hc0, (field_top d6 hc0),
    ((congrArg (· % 8) (Nat.div_one n)).symm.trans (field_mod d0 hc1)),
    bf_eq (field_mod d5 x0.isLt),
    bf_eq (field_mod d4 x1.isLt),
    bf_eq (field_mod d3 x2.isLt),
    bf_eq (field_mod d2 x3.isLt),
    bf_eq (field_mod d1 x4.isLt)⟩

theorem Sys2Proof.fields11 (n : Nat) (x0 : BitVec 5) (x1 : BitVec 5) (x2 : BitVec 5) (x3 : BitVec 2) (c1 c2 c0 B : Nat) (h : c1 < 32 ∧ c2 < 8 ∧ c0 < 64)
    (hB : B = c1 + 32 * (0 + 4 * (c2 + 8 * (0 + 32 * (0 + 32 * (0 + 32 * (c0)))))))
    (hn : n = B + x0.toNat * 1048576 + x1.toNat * 32768 + x2.toNat * 1024 + x3.toNat * 32) :
    n < 2147483648 ∧ n / 33554432 % 64 = c0 ∧ n % 32 = c1 ∧ n / 128 % 8 = c2 ∧ bf n 20 5 = x0 ∧ bf n 15 5 = x1 ∧ bf n 10 5 = x2 ∧ bf n 5 2 = x3 := by
  obtain ⟨hc1, hc2, hc0⟩ := h
  have e : n = c1 + 32 * (x3.toNat + 4 * (c2 + 8 * (x2.toNat + 32 * (x1.toNat + 32 * (x0.toNat + 32 * (c0)))))) := by omega
  have d0 : n / 1 = _ := (Nat.div_one n).trans e
  have d1 : n / 32 = _ := field_div d0 hc1
  have d2 : n / 128 = _ := field_div d1 x3.isLt
  have d3 : n / 1024 = _ := field_div d2 hc2
  have d4 : n / 32768 = _ := field_div d3 x2.isLt
  have d5 : n / 1048576 = _ := field_div d4 x1.isLt
  have d6 : n / 33554432 = _ := field_div d5 x0.isLt
  exact ⟨field_lt d6 hc0, (field_top d6 hc0),
    ((congrArg (· % 32) (Nat.div_one n)).symm.trans (field_mod d0 hc1)),
    (field_mod d2 hc2),
    bf_eq (field_mod d5 x0.isLt),
    bf_eq (field_mod d4 x1.isLt),
    bf_eq (field_mod d3 x2.isLt),
    bf_eq (field_mod d1 x3.isLt)⟩

theorem Sys2Proof.fields12 (n : Nat) (x0 : BitVec 5) (x1 : BitVec 5) (x2 : BitVec 4) (x3 : BitVec 4) (x4 : BitVec 3) (x5 : BitVec 3) (c1 c0 B : Nat) (h : c1 < 2 ∧ c0 < 64)
    (hB : B = c1 + 2 * (0 + 8 * (0 + 8 * (0 + 16 * (0 + 16 * (0 + 32 * (0 + 32 * (c0))))))))
    (hn : n = B + x0.toNat * 1048576 + x1.toNat * 32768 + x2.toNat * 2048 + x3.toNat * 128 + x4.toNat * 16 + x5.toNat * 2) :
    n < 2147483648 ∧ n / 33554432 % 64 = c0 ∧ n % 2 = c1 ∧ bf n 20 5 = x0 ∧ bf n 15 5 = x1 ∧ bf n 11 4 = x2 ∧ bf n 7 4 = x3 ∧ bf n 4 3 = x4 ∧ bf n 1 3 = x5 := by
  obtain ⟨hc1, hc0⟩ := h
  have e : n = c1 + 2 * (x5.toNat + 8 * (x4.toNat + 8 * (x3.toNat + 16 * (x2.toNat + 16 * (x1.toNat + 32 * (x0.toNat + 32 * (c0))))))) := by omega
  have d0 : n / 1 = _ := (Nat.div_one n).trans e
  have d1 : n / 2 = _ := field_div d0 hc1
  have d2 : n / 16 = _ := field_div d1 x5.isLt
  have d3 : n / 128 = _ := field_div d2 x4.isLt
  have d4 : n / 2048 = _ := field_div d3 x3.isLt
  have d5 : n / 32768 = _ := field_div d4 x2.isLt
  have d6 : n / 1048576 = _ := field_div d5 x1.isLt
  have d7 : n / 33554432 = _ := field_div d6 x0.isLt
  exact ⟨field_lt d7 hc0, (field_top d7 hc0),
    ((congrArg (· % 2) (Nat.div_one n)).symm.trans (field_mod d0 hc1)),
    bf_eq (field_mod d6 x0.isLt),
    bf_eq (field_mod d5 x1.isLt),
    bf_eq (field_mod d4 x2.isLt),
    bf_eq (field_mod d3 x3.isLt),
    bf_eq (field_mod d2 x4.isLt),
    bf_eq (field_mod d1 x5.isLt)⟩

theorem Sys2Proof.fields13 (n : Nat) (x0 : BitVec 5) (x1 : BitVec 5) (x2 : BitVec 1) (x3 : BitVec 3) (x4 : BitVec 2) (c1 c2 c3 c0 B : Nat) (h : c1 < 32 ∧ c2 < 8 ∧ c3 < 2 ∧ c0 < 64)
    (hB : B = c1 + 32 * (c2 + 8 * (0 + 4 * (0 + 8 * (c3 + 2 * (0 + 2 * (0 + 32 * (0 + 32 * (c0)))))))))
    (hn : n = B + x0.toNat * 1048576 + x1.toNat * 32768 + x2.toNat * 16384 + x3.toNat * 1024 + x4.toNat * 256) :
    n < 2147483648 ∧ n / 33554432 % 64 = c0 ∧ n % 32 = c1 ∧ n / 32 % 8 = c2 ∧ n / 8192 % 2 = c3 ∧ bf n 20 5 = x0 ∧ bf n 15 5 = x1 ∧ bf n 14 1 = x2 ∧ bf n 10 3 = x3 ∧ bf n 8 2 = x4 := by
  obtain ⟨hc1, hc2, hc3, hc0⟩ := h
  have e : n = c1 + 32 * (c2 + 8 * (x4.toNat + 4 * (x3.toNat + 8 * (c3 + 2 * (x2.toNat + 2 * (x1.toNat + 32 * (x0.toNat + 32 * (c0)))))))) := by omega
  have d0 : n / 1 = _ := (Nat.div_one n).trans e
  have d1 : n / 32 = _ := field_div d0 hc1
  have d2 : n / 256 = _ := field_div d1 hc2
  have d3 : n / 1024 = _ := field_div d2 x4.isLt
  have d4 : n / 8192 = _ := field_div d3 x3.isLt
  have d5 : n / 16384 = _ := field_div d4 hc3
  have d6 : n / 32768 = _ := field_div d5 x2.isLt
  have d7 : n / 1048576 = _ := field_div d6 x1.isLt
  have d8 : n / 33554432 = _ := field_div d7 x0.isLt
  exact ⟨field_lt d8 hc0, (field_top d8 hc0),
    ((congrArg (· % 32) (Nat.div_one n)).symm.trans (field_mod d0 hc1)),
    (field_mod d1 hc2),
    (field_mod d4 hc3),
    bf_eq (field_mod d7 x0.isLt),
    bf_eq (field_mod d6 x1.isLt),
    bf_eq (field_mod d5 x2.isLt),
    bf_eq (field_mod d3 x3.isLt),
    bf_eq (field_mod d2 x4.isLt)⟩

theorem Sys2Proof.fields14 (n : Nat) (x0 : BitVec 5) (x1 : BitVec 5) (x2 : BitVec 1) (x3 : BitVec 3) (x4 : BitVec 2) (x5 : BitVec 3) (c1 c2 c0 B : Nat) (h : c1 < 32 ∧ c2 < 2 ∧ c0 < 64)
    (hB : B = c1 + 32 * (0 + 8 * (0 + 4 * (0 + 8 * (c2 + 2 * (0 + 2 * (0 + 32 * (0 + 32 * (c0)))))))))
    (hn : n = B + x0.toNat * 1048576 + x1.toNat * 32768 + x2.toNat * 16384 + x3.toNat * 1024 + x4.toNat * 256 + x5.toNat * 32) :
    n < 2147483648 ∧ n / 33554432 % 64 = c0 ∧ n % 32 = c1 ∧ n / 8192 % 2 = c2 ∧ bf n 20 5 = x0 ∧ bf n 15 5 = x1 ∧ bf n 14 1 = x2 ∧ bf n 10 3 = x3 ∧ bf n 8 2 = x4 ∧ bf n 5 3 = x5 := by
  obtain ⟨hc1, hc2, hc0⟩ := h
  have e : n = c1 + 32 * (x5.toNat + 8 * (x4.toNat + 4 * (x3.toNat + 8 * (c2 + 2 * (x2.toNat + 2 * (x1.toNat + 32 * (x0.toNat + 32 * (c0)))))))) := by omega
  have d0 : n / 1 = _ := (Nat.div_one n).trans e
  have d1 : n / 32 = _ := field_div d0 hc1
  have d2 : n / 256 = _ := field_div d1 x5.isLt
  have d3 : n / 1024 = _ := field_div d2 x4.isLt
  have d4 : n / 8192 = _ := field_div d3 x3.isLt
  have d5 : n / 16384 = _ := field_div d4 hc2
  have d6 : n / 32768 = _ := field_div d5 x2.isLt
  have d7 : n / 1048576 = _ := field_div d6 x1.isLt
  have d8 : n / 33554432 = _ := field_div d7 x0.isLt
  exact ⟨field_lt d8 hc0, (field_top d8 hc0),
    ((congrArg (· % 32) (Nat.div_one n)).symm.trans (field_mod d0 hc1)),
    (field_mod d4 hc2),
    bf_eq (field_mod d7 x0.isLt),
    bf_eq (field_mod d6 x1.isLt),
    bf_eq (field_mod d5 x2.isLt),
    bf_eq (field_mod d3 x3.isLt),
    bf_eq (field_mod d2 x4.isLt),
    bf_eq (field_mod d1 x5.isLt)⟩

theorem Sys2Proof.fields15 (n : Nat) (x0 : BitVec 5) (x1 : BitVec 5) (x2 : BitVec 2) (c1 c2 c3 c0 B : Nat) (h : c1 < 32 ∧ c2 < 8 ∧ c3 < 32 ∧ c0 < 64)
    (hB : B = c1 + 32 * (c2 + 8 * (0 + 4 * (c3 + 32 * (0 + 32 * (0 + 32 * (c0)))))))
    (hn : n = B + x0.toNat * 1048576 + x1.toNat * 32768 + x2.toNat * 256) :
    n < 2147483648 ∧ n / 33554432 % 64 = c0 ∧ n % 32 = c1 ∧ n / 32 % 8 = c2 ∧ n / 1024 % 32 = c3 ∧ bf n 20 5 = x0 ∧ bf n 15 5 = x1 ∧ bf n 8 2 = x2 := by
  obtain ⟨hc1, hc2, hc3, hc0⟩ := h
  have e : n = c1 + 32 * (c2 + 8 * (x2.toNat + 4 * (c3 + 32 * (x1.toNat + 32 * (x0.toNat + 32 * (c0)))))) := by omega
  have d0 : n / 1 = _ := (Nat.div_one n).trans e
  have d1 : n / 32 = _ := field_div d0 hc1
  have d2 : n / 256 = _ := field_div d1 hc2
  have d3 : n / 1024 = _ := field_div d2 x2.isLt
  have d4 : n / 32768 = _ := field_div d3 hc3
  have d5 : n / 1048576 = _ := field_div d4 x1.isLt
  have d6 : n / 33554432 = _ := field_div d5 x0.isLt
  exact ⟨field_lt d6 hc0, (field_top d6 hc0),
    ((congrArg (· % 32) (Nat.div_one n)).symm.trans (field_mod d0 hc1)),
    (field_mod d1 hc2),
    (field_mod d3 hc3),
    bf_eq (field_mod d5 x0.isLt),
    bf_eq (field_mod d4 x1.isLt),
    bf_eq (field_mod d2 x2.isLt)⟩

theorem Sys2Proof.fields16 (n : Nat) (x0 : BitVec 5) (x1 : BitVec 5) (x2 : BitVec 12) (c1 c0 B : Nat) (h : c1 < 8 ∧ c0 < 64)
    (hB : B = 0 + 4096 * (0 + 32 * (0 + 32 * (c1 + 8 * (c0)))))
    (hn : n = B + x0.toNat * 131072 + x1.toNat * 4096 + x2.toNat) :
    n < 2147483648 ∧ n / 33554432 % 64 = c0 ∧ n / 4194304 % 8 = c1 ∧ bf n 17 5 = x0 ∧ bf n 12 5 = x1 ∧ bf n 0 12 = x2 := by
  obtain ⟨hc1, hc0⟩ := h
  have e : n = x2.toNat + 4096 * (x1.toNat + 32 * (x0.toNat + 32 * (c1 + 8 * (c0)))) := by omega
  have d0 : n / 1 = _ := (Nat.div_one n).trans e
  have d1 : n / 4096 = _ := field_div d0 x2.isLt
  have d2 : n / 131072 = _ := field_div d1 x1.isLt
  have d3 : n / 4194304 = _ := field_div d2 x0.isLt
  have d4 : n / 33554432 = _ := field_div d3 hc1
  exact ⟨field_lt d4 hc0, (field_top d4 hc0),
    (field_mod d3 hc1),
    bf_eq (field_mod d2 x0.isLt),
    bf_eq (field_mod d1 x1.isLt),
    bf_eq (field_mod d0 x2.isLt)⟩

theorem Sys2Proof.fields17 (n : Nat) (x0 : BitVec 5) (x1 : BitVec 12) (c2 c1 c0 B : Nat) (h : c2 < 32 ∧ c1 < 8 ∧ c0 < 64)
    (hB : B = 0 + 4096 * (c2 + 32 * (0 + 32 * (c1 + 8 * (c0)))))
    (hn : n = B + x0.toNat * 131072 + x1.toNat) :
    n < 2147483648 ∧ n / 33554432 % 64 = c0 ∧ n / 4194304 % 8 = c1 ∧ n / 4096 % 32 = c2 ∧ bf n 17 5 = x0 ∧ bf n 0 12 = x1 := by
  obtain ⟨hc2, hc1, hc0⟩ := h
  have e : n = x1.toNat + 4096 * (c2 + 32 * (x0.toNat + 32 * (c1 + 8 * (c0)))) := by omega
  have d0 : n / 1 = _ := (Nat.div_one n).trans e
  have d1 : n / 4096 = _ := field_div d0 x1.isLt
  have d2 : n / 131072 = _ := field_div d1 hc2
  have d3 : n / 4194304 = _ := field_div d2 x0.isLt
  have d4 : n / 33554432 = _ := field_div d3 hc1
  exact ⟨field_lt d4 hc0, (field_top d4 hc0),
    (field_mod d3 hc1),
    (field_mod d1 hc2),
    bf_eq (field_mod d2 x0.isLt),
    bf_eq (field_mod d0 x1.isLt)⟩

theorem Sys2Proof.fields18 (n : Nat) (x0 : BitVec 20) (c1 c0 B : Nat) (h : c1 < 32 ∧ c0 < 64)
    (hB : B = 0 + 1048576 * (c1 + 32 * (c0)))
    (hn : n = B + x0.toNat) :
    n < 2147483648 ∧ n / 33554432 % 64 = c0 ∧ n / 1048576 % 32 = c1 ∧ bf n 0 20 = x0 := by
  obtain ⟨hc1, hc0⟩ := h
  have e : n = x0.toNat + 1048576 * (c1 + 32 * (c0)) := by omega
  have d0 : n / 1 = _ := (Nat.div_one n).trans e
  have d1 : n / 1048576 = _ := field_div d0 x0.isLt
  have d2 : n / 33554432 = _ := field_div d1 hc1
  exact ⟨field_lt d2 hc0, (field_top d2 hc0),
    (field_mod d1 hc1),
    bf_eq (field_mod d0 x0.isLt)⟩

theorem Sys2Proof.fields19 (n : Nat) (x0 : BitVec 5) (c2 c1 c3 c0 B : Nat) (h : c2 < 4096 ∧ c1 < 8 ∧ c3 < 32 ∧ c0 < 64)
    (hB : B = c2 + 4096 * (c1 + 8 * (0 + 32 * (c3 + 32 * (c0)))))
    (hn : n = B + x0.toNat * 32768) :
    n < 2147483648 ∧ n / 33554432 % 64 = c0 ∧ n / 4096 % 8 = c1 ∧ n % 4096 = c2 ∧ n / 1048576 % 32 = c3 ∧ bf n 15 5 = x0 := by
  obtain ⟨hc2, hc1, hc3, hc0⟩ := h
  have e : n = c2 + 4096 * (c1 + 8 * (x0.toNat + 32 * (c3 + 32 * (c0)))) := by omega
  have d0 : n / 1 = _ := (Nat.div_one n).trans e
  have d1 : n / 4096 = _ := field_div d0 hc2
  have d2 : n / 32768 = _ := field_div d1 hc1
  have d3 : n / 1048576 = _ := field_div d2 x0.isLt
  have d4 : n / 33554432 = _ := field_div d3 hc3
  exact ⟨field_lt d4 hc0, (field_top d4 hc0),
    (field_mod d1 hc1),
    ((congrArg (· % 4096) (Nat.div_one n)).symm.trans (field_mod d0 hc2)),
    (field_mod d3 hc3),
    bf_eq (field_mod d2 x0.isLt)⟩

theorem Sys2Proof.fields20 (n : Nat) (x0 : BitVec 5) (x1 : BitVec 5) (c2 c1 c0 B : Nat) (h : c2 < 4096 ∧ c1 < 8 ∧ c0 < 64)
    (hB : B = c2 + 4096 * (c1 + 8 * (0 + 32 * (0 + 32 * (c0)))))
    (hn : n = B + x0.toNat * 1048576 + x1.toNat * 32768) :
    n < 2147483648 ∧ n / 33554432 % 64 = c0 ∧ n / 4096 % 8 = c1 ∧ n % 4096 = c2 ∧ bf n 20 5 = x0 ∧ bf n 15 5 = x1 := by
  obtain ⟨hc2, hc1, hc0⟩ := h
  have e : n = c2 + 4096 * (c1 + 8 * (x1.toNat + 32 * (x0.toNat + 32 * (c0)))) := by omega
  have d0 : n / 1 = _ := (Nat.div_one n).trans e
  have d1 : n / 4096 = _ := field_div d0 hc2
  have d2 : n / 32768 = _ := field_div d1 hc1
  have d3 : n / 1048576 = _ := field_div d2 x1.isLt
  have d4 : n / 33554432 = _ := field_div d3 x0.isLt
  exact ⟨field_lt d4 hc0, (field_top d4 hc0),
    (field_mod d1 hc1),
    ((congrArg (· % 4096) (Nat.div_one n)).symm.trans (field_mod d0 hc2)),
    bf_eq (field_mod d3 x0.isLt),
    bf_eq (field_mod d2 x1.isLt)⟩

theorem Sys2Proof.fields21 (n : Nat) (x0 : BitVec 2) (x1 : BitVec 5) (x2 : BitVec 6) (c2 c1 c0 B : Nat) (h : c2 < 2048 ∧ c1 < 2 ∧ c0 < 64)
    (hB : B = c2 + 2048 * (c1 + 2 * (0 + 64 * (0 + 32 * (0 + 4 * (c0))))))
    (hn : n = B + x0.toNat * 8388608 + x1.toNat * 262144 + x2.toNat * 4096) :
    n < 2147483648 ∧ n / 33554432 % 64 = c0 ∧ n / 2048 % 2 = c1 ∧ n % 2048 = c2 ∧ bf n 23 2 = x0 ∧ bf n 18 5 = x1 ∧ bf n 12 6 = x2 := by
  obtain ⟨hc2, hc1, hc0⟩ := h
  have e : n = c2 + 2048 * (c1 + 2 * (x2.toNat + 64 * (x1.toNat + 32 * (x0.toNat + 4 * (c0))))) := by omega
  have d0 : n / 1 = _ := (Nat.div_one n).trans e
  have d1 : n / 2048 = _ := field_div d0 hc2
  have d2 : n / 4096 = _ := field_div d1 hc1
  have d3 : n / 262144 = _ := field_div d2 x2.isLt
  have d4 : n / 8388608 = _ := field_div d3 x1.isLt
  have d5 : n / 33554432 = _ := field_div d4 x0.isLt
  exact ⟨field_lt d5 hc0, (field_top d5 hc0),
    (field_mod d1 hc1),
    ((congrArg (· % 2048) (Nat.div_one n)).symm.trans (field_mod d0 hc2)),
    bf_eq (field_mod d4 x0.isLt),
    bf_eq (field_mod d3 x1.isLt),
    bf_eq (field_mod d2 x2.isLt)⟩

theorem Sys2Proof.fields22 (n : Nat) (x0 : BitVec 2) (x1 : BitVec 5) (x2 : BitVec 6) (x3 : BitVec 5) (c2 c1 c0 B : Nat) (h : c2 < 64 ∧ c1 < 2 ∧ c0 < 64)
    (hB : B = c2 + 64 * (0 + 32 * (c1 + 2 * (0 + 64 * (0 + 32 * (0 + 4 * (c0)))))))
    (hn : n = B + x0.toNat * 8388608 + x1.toNat * 262144 + x2.toNat * 4096 + x3.toNat * 64) :
    n < 2147483648 ∧ n / 33554432 % 64 = c0 ∧ n / 2048 % 2 = c1 ∧ n % 64 = c2 ∧ bf n 23 2 = x0 ∧ bf n 18 5 = x1 ∧ bf n 12 6 = x2 ∧ bf n 6 5 = x3 := by
  obtain ⟨hc2, hc1, hc0⟩ := h
  have e : n = c2 + 64 * (x3.toNat + 32 * (c1 + 2 * (x2.toNat + 64 * (x1.toNat + 32 * (x0.toNat + 4 * (c0)))))) := by omega
  have d0 : n / 1 = _ := (Nat.div_one n).trans e
  have d1 : n / 64 = _ := field_div d0 hc2
  have d2 : n / 2048 = _ := field_div d1 x3.isLt
  have d3 : n / 4096 = _ := field_div d2 hc1
  have d4 : n / 262144 = _ := field_div d3 x2.isLt
  have d5 : n / 8388608 = _ := field_div d4 x1.isLt
  have d6 : n / 33554432 = _ := field_div d5 x0.isLt
  exact ⟨field_lt d6 hc0, (field_top d6 hc0),
    (field_mod d2 hc1),
    ((congrArg (· % 64) (Nat.div_one n)).symm.trans (field_mod d0 hc2)),
    bf_eq (field_mod d5 x0.isLt),
    bf_eq (field_mod d4 x1.isLt),
    bf_eq (field_mod d3 x2.isLt),
    bf_eq (field_mod d1 x3.isLt)⟩

theorem Sys2Proof.fields23 (n : Nat) (x0 : BitVec 5) (x1 : BitVec 5) (x2 : BitVec 2) (x3 : BitVec 1) (x4 : BitVec 10) (c1 c0 B : Nat) (h : c1 < 4 ∧ c0 < 64)
    (hB : B = 0 + 1024 * (0 + 2 * (c1 + 4 * (0 + 4 * (0 + 32 * (0 + 32 * (c0)))))))
    (hn : n = B + x0.toNat * 1048576 + x1.toNat * 32768 + x2.toNat * 8192 + x3.toNat * 1024 + x4.toNat) :
    n < 2147483648 ∧ n / 33554432 % 64 = c0 ∧ n / 2048 % 4 = c1 ∧ bf n 20 5 = x0 ∧ bf n 15 5 = x1 ∧ bf n 13 2 = x2 ∧ bf n 10 1 = x3 ∧ bf n 0 10 = x4 := by
  obtain ⟨hc1, hc0⟩ := h
  have e : n = x4.toNat + 1024 * (x3.toNat + 2 * (c1 + 4 * (x2.toNat + 4 * (x1.toNat + 32 * (x0.toNat + 32 * (c0)))))) := by omega
  have d0 : n / 1 = _ := (Nat.div_one n).trans e
  have d1 : n / 1024 = _ := field_div d0 x4.isLt
  have d2 : n / 2048 = _ := field_div d1 x3.isLt
  have d3 : n / 8192 = _ := field_div d2 hc1
  have d4 : n / 32768 = _ := field_div d3 x2.isLt
  have d5 : n / 1048576 = _ := field_div d4 x1.isLt
  have d6 : n / 33554432 = _ := field_div d5 x0.isLt
  exact ⟨field_lt d6 hc0, (field_top d6 hc0),
    (field_mod d2 hc1),
    bf_eq (field_mod d5 x0.isLt),
    bf_eq (field_mod d4 x1.isLt),
    bf_eq (field_mod d3 x2.isLt),
    bf_eq (field_mod d1 x3.isLt),
    bf_eq (field_mod d0 x4.isLt)⟩

theorem Sys2Proof.fields24 (n : Nat) (x0 : BitVec 5) (x1 : BitVec 5) (x2 : BitVec 2) (x3 : BitVec 10) (c2 c1 c0 B : Nat) (h : c2 < 2 ∧ c1 < 4 ∧ c0 < 64)
    (hB : B = 0 + 1024 * (c2 + 2 * (c1 + 4 * (0 + 4 * (0 + 32 * (0 + 32 * (c0)))))))
    (hn : n = B + x0.toNat * 1048576 + x1.toNat * 32768 + x2.toNat * 8192 + x3.toNat) :
    n < 2147483648 ∧ n / 33554432 % 64 = c0 ∧ n / 2048 % 4 = c1 ∧ n / 1024 % 2 = c2 ∧ bf n 20 5 = x0 ∧ bf n 15 5 = x1 ∧ bf n 13 2 = x2 ∧ bf n 0 10 = x3 := by
  obtain ⟨hc2, hc1, hc0⟩ := h
  have e : n = x3.toNat + 1024 * (c2 + 2 * (c1 + 4 * (x2.toNat + 4 * (x1.toNat + 32 * (x0.toNat + 32 * (c0)))))) := by omega
  have d0 : n / 1 = _ := (Nat.div_one n).trans e
  have d1 : n / 1024 = _ := field_div d0 x3.isLt
  have d2 : n / 2048 = _ := field_div d1 hc2
  have d3 : n / 8192 = _ := field_div d2 hc1
  have d4 : n / 32768 = _ := field_div d3 x2.isLt
  have d5 : n / 1048576 = _ := field_div d4 x1.isLt
  have d6 : n / 33554432 = _ := field_div d5 x0.isLt
  exact ⟨field_lt d6 hc0, (field_top d6 hc0),
    (field_mod d2 hc1),
    (field_mod d1 hc2),
    bf_eq (field_mod d5 x0.isLt),
    bf_eq (field_mod d4 x1.isLt),
    bf_eq (field_mod d3 x2.isLt),
    bf_eq (field_mod d0 x3.isLt)⟩

theorem Sys2Proof.fields25 (n : Nat) (x0 : BitVec 5) (x1 : BitVec 5) (x2 : BitVec 2) (x3 : BitVec 3) (x4 : BitVec 10) (c0 B : Nat) (h : c0 < 64)
    (hB : B = 0 + 1024 * (0 + 8 * (0 + 4 * (0 + 32 * (0 + 32 * (c0))))))
    (hn : n = B + x0.toNat * 1048576 + x1.toNat * 32768 + x2.toNat * 8192 + x3.toNat * 1024 + x4.toNat) :
    n < 2147483648 ∧ n / 33554432 % 64 = c0 ∧ bf n 20 5 = x0 ∧ bf n 15 5 = x1 ∧ bf n 13 2 = x2 ∧ bf n 10 3 = x3 ∧ bf n 0 10 = x4 := by
  have hc0 := h
  have e : n = x4.toNat + 1024 * (x3.toNat + 8 * (x2.toNat + 4 * (x1.toNat + 32 * (x0.toNat + 32 * (c0))))) := by omega
  have d0 : n / 1 = _ := (Nat.div_one n).trans e
  have d1 : n / 1024 = _ := field_div d0 x4.isLt
  have d2 : n / 8192 = _ := field_div d1 x3.isLt
  have d3 : n / 32768 = _ := field_div d2 x2.isLt
  have d4 : n / 1048576 = _ := field_div d3 x1.isLt
  have d5 : n / 33554432 = _ := field_div d4 x0.isLt
  exact ⟨field_lt d5 hc0, (field_top d5 hc0),
    bf_eq (field_mod d4 x0.isLt),
    bf_eq (field_mod d3 x1.isLt),
    bf_eq (field_mod d2 x2.isLt),
    bf_eq (field_mod d1 x3.isLt),
    bf_eq (field_mod d0 x4.isLt)⟩

theorem Sys2Proof.fields26 (n : Nat) (x0 : BitVec 5) (x1 : BitVec 5) (x2 : BitVec 5) (x3 : BitVec 2) (x4 : BitVec 1) (c2 c1 c0 B : Nat) (h : c2 < 8 ∧ c1 < 16 ∧ c0 < 64)
    (hB : B = c2 + 8 * (c1 + 16 * (0 + 2 * (0 + 4 * (0 + 32 * (0 + 32 * (0 + 32 * (c0))))))))
    (hn : n = B + x0.toNat * 1048576 + x1.toNat * 32768 + x2.toNat * 1024 + x3.toNat * 256 + x4.toNat * 128) :
    n < 2147483648 ∧ n / 33554432 % 64 = c0 ∧ n / 8 % 16 = c1 ∧ n % 8 = c2 ∧ bf n 20 5 = x0 ∧ bf n 15 5 = x1 ∧ bf n 10 5 = x2 ∧ bf n 8 2 = x3 ∧ bf n 7 1 = x4 := by
  obtain ⟨hc2, hc1, hc0⟩ := h
  have e : n = c2 + 8 * (c1 + 16 * (x4.toNat + 2 * (x3.toNat + 4 * (x2.toNat + 32 * (x1.toNat + 32 * (x0.toNat + 32 * (c0))))))) := by omega
  have d0 : n / 1 = _ := (Nat.div_one n).trans e
  have d1 : n / 8 = _ := field_div d0 hc2
  have d2 : n / 128 = _ := field_div d1 hc1
  have d3 : n / 256 = _ := field_div d2 x4.isLt
  have d4 : n / 1024 = _ := field_div d3 x3.isLt
  have d5 : n / 32768 = _ := field_div d4 x2.isLt
  have d6 : n / 1048576 = _ := field_div d5 x1.isLt
  have d7 : n / 33554432 = _ := field_div d6 x0.isLt
  exact ⟨field_lt d7 hc0, (field_top d7 hc0),
    (field_mod d1 hc1),
    ((congrArg (· % 8) (Nat.div_one n)).symm.trans (field_mod d0 hc2)),
    bf_eq (field_mod d6 x0.isLt),
    bf_eq (field_mod d5 x1.isLt),
    bf_eq (field_mod d4 x2.isLt),
    bf_eq (field_mod d3 x3.isLt),
    bf_eq (field_mod d2 x4.isLt)⟩

theorem Sys2Proof.fields27 (n : Nat) (x0 : BitVec 5) (x1 : BitVec 5) (x2 : BitVec 5) (x3 : BitVec 2) (c2 c1 c3 c0 B : Nat) (h : c2 < 8 ∧ c1 < 16 ∧ c3 < 2 ∧ c0 < 64)
    (hB : B = c2 + 8 * (c1 + 16 * (c3 + 2 * (0 + 4 * (0 + 32 * (0 + 32 * (0 + 32 * (c0))))))))
    (hn : n = B + x0.toNat * 1048576 + x1.toNat * 32768 + x2.toNat * 1024 + x3.toNat * 256) :
    n < 2147483648 ∧ n / 33554432 % 64 = c0 ∧ n / 8 % 16 = c1 ∧ n % 8 = c2 ∧ n / 128 % 2 = c3 ∧ bf n 20 5 = x0 ∧ bf n 15 5 = x1 ∧ bf n 10 5 = x2 ∧ bf n 8 2 = x3 := by
  obtain ⟨hc2, hc1, hc3, hc0⟩ := h
  have e : n = c2 + 8 * (c1 + 16 * (c3 + 2 * (x3.toNat + 4 * (x2.toNat + 32 * (x1.toNat + 32 * (x0.toNat + 32 * (c0))))))) := by omega
  have d0 : n / 1 = _ := (Nat.div_one n).trans e
  have d1 : n / 8 = _ := field_div d0 hc2
  have d2 : n / 128 = _ := field_div d1 hc1
  have d3 : n / 256 = _ := field_div d2 hc3
  have d4 : n / 1024 = _ := field_div d3 x3.isLt
  have d5 : n / 32768 = _ := field_div d4 x2.isLt
  have d6 : n / 1048576 = _ := field_div d5 x1.isLt
  have d7 : n / 33554432 = _ := field_div d6 x0.isLt
  exact ⟨field_lt d7 hc0, (field_top d7 hc0),
    (field_mod d1 hc1),
    ((congrArg (· % 8) (Nat.div_one n)).symm.trans (field_mod d0 hc2)),
    (field_mod d2 hc3),
    bf_eq (field_mod d6 x0.isLt),
    bf_eq (field_mod d5 x1.isLt),
    bf_eq (field_mod d4 x2.isLt),
    bf_eq (field_mod d3 x3.isLt)⟩

theorem Sys2Proof.fields28 (n : Nat) (x0 : BitVec 5) (x1 : BitVec 2) (x2 : BitVec 10) (c1 c2 c0 B : Nat) (h : c1 < 8 ∧ c2 < 32 ∧ c0 < 64)
    (hB : B = 0 + 1024 * (0 + 4 * (c1 + 8 * (0 + 32 * (c2 + 32 * (c0))))))
    (hn : n = B + x0.toNat * 32768 + x1.toNat * 1024 + x2.toNat) :
    n < 2147483648 ∧ n / 33554432 % 64 = c0 ∧ n / 4096 % 8 = c1 ∧ n / 1048576 % 32 = c2 ∧ bf n 15 5 = x0 ∧ bf n 10 2 = x1 ∧ bf n 0 10 = x2 := by
  obtain ⟨hc1, hc2, hc0⟩ := h
  have e : n = x2.toNat + 1024 * (x1.toNat + 4 * (c1 + 8 * (x0.toNat + 32 * (c2 + 32 * (c0))))) := by omega
  have d0 : n / 1 = _ := (Nat.div_one n).trans e
  have d1 : n / 1024 = _ := field_div d0 x2.isLt
  have d2 : n / 4096 = _ := field_div d1 x1.isLt
  have d3 : n / 32768 = _ := field_div d2 hc1
  have d4 : n / 1048576 = _ := field_div d3 x0.isLt
  have d5 : n / 33554432 = _ := field_div d4 hc2
  exact ⟨field_lt d5 hc0, (field_top d5 hc0),
    (field_mod d2 hc1),
    (field_mod d4 hc2),
    bf_eq (field_mod d3 x0.isLt),
    bf_eq (field_mod d1 x1.isLt),
    bf_eq (field_mod d0 x2.isLt)⟩

theorem Sys2Proof.fields29 (n : Nat) (x0 : BitVec 5) (x1 : BitVec 12) (c1 c2 c0 B : Nat) (h : c1 < 8 ∧ c2 < 32 ∧ c0 < 64)
    (hB : B = 0 + 4096 * (c1 + 8 * (c2 + 32 * (0 + 32 * (c0)))))
    (hn : n = B + x0.toNat * 1048576 + x1.toNat) :
    n < 2147483648 ∧ n / 33554432 % 64 = c0 ∧ n / 4096 % 8 = c1 ∧ n / 32768 % 32 = c2 ∧ bf n 20 5 = x0 ∧ bf n 0 12 = x1 := by
  obtain ⟨hc1, hc2, hc0⟩ := h
  have e : n = x1.toNat + 4096 * (c1 + 8 * (c2 + 32 * (x0.toNat + 32 * (c0)))) := by omega
  have d0 : n / 1 = _ := (Nat.div_one n).trans e
  have d1 : n / 4096 = _ := field_div d0 x1.isLt
  have d2 : n / 32768 = _ := field_div d1 hc1
  have d3 : n / 1048576 = _ := field_div d2 hc2
  have d4 : n / 33554432 = _ := field_div d3 x0.isLt
  exact ⟨field_lt d4 hc0, (field_top d4 hc0),
    (field_mod d1 hc1),
    (field_mod d2 hc2),
    bf_eq (field_mod d3 x0.isLt),
    bf_eq (field_mod d0 x1.isLt)⟩

theorem Sys2Proof.fields30 (n : Nat) (x0 : BitVec 5) (x1 : BitVec 12) (c1 c2 c0 B : Nat) (h : c1 < 8 ∧ c2 < 32 ∧ c0 < 64)
    (hB : B = 0 + 4096 * (c1 + 8 * (0 + 32 * (c2 + 32 * (c0)))))
    (hn : n = B + x0.toNat * 32768 + x1.toNat) :
    n < 2147483648 ∧ n / 33554432 % 64 = c0 ∧ n / 4096 % 8 = c1 ∧ n / 1048576 % 32 = c2 ∧ bf n 15 5 = x0 ∧ bf n 0 12 = x1 := by
  obtain ⟨hc1, hc2, hc0⟩ := h
  have e : n = x1.toNat + 4096 * (c1 + 8 * (x0.toNat + 32 * (c2 + 32 * (c0)))) := by omega
  have d0 : n / 1 = _ := (Nat.div_one n).trans e
  have d1 : n / 4096 = _ := field_div d0 x1.isLt
  have d2 : n / 32768 = _ := field_div d1 hc1
  have d3 : n / 1048576 = _ := field_div d2 x0.isLt
  have d4 : n / 33554432 = _ := field_div d3 hc2
  exact ⟨field_lt d4 hc0, (field_top d4 hc0),
    (field_mod d1 hc1),
    (field_mod d3 hc2),
    bf_eq (field_mod d2 x0.isLt),
    bf_eq (field_mod d0 x1.isLt)⟩

theorem Sys2Proof.fields31 (n : Nat) (x0 : BitVec 3) (x1 : BitVec 12) (c1 c2 c3 c0 B : Nat) (h : c1 < 8 ∧ c2 < 32 ∧ c3 < 4 ∧ c0 < 64)
    (hB : B = 0 + 4096 * (c1 + 8 * (c2 + 32 * (0 + 8 * (c3 + 4 * (c0))))))
    (hn : n = B + x0.toNat * 1048576 + x1.toNat) :
    n < 2147483648 ∧ n / 33554432 % 64 = c0 ∧ n / 4096 % 8 = c1 ∧ n / 32768 % 32 = c2 ∧ n / 8388608 % 4 = c3 ∧ bf n 20 3 = x0 ∧ bf n 0 12 = x1 := by
  obtain ⟨hc1, hc2, hc3, hc0⟩ := h
  have e : n = x1.toNat + 4096 * (c1 + 8 * (c2 + 32 * (x0.toNat + 8 * (c3 + 4 * (c0))))) := by omega
  have d0 : n / 1 = _ := (Nat.div_one n).trans e
  have d1 : n / 4096 = _ := field_div d0 x1.isLt
  have d2 : n / 32768 = _ := field_div d1 hc1
  have d3 : n / 1048576 = _ := field_div d2 hc2
  have d4 : n / 8388608 = _ := field_div d3 x0.isLt
  have d5 : n / 33554432 = _ := field_div d4 hc3
  exact ⟨field_lt d5 hc0, (field_top d5 hc0),
    (field_mod d1 hc1),
    (field_mod d2 hc2),
    (field_mod d4 hc3),
    bf_eq (field_mod d3 x0.isLt),
    bf_eq (field_mod d0 x1.isLt)⟩

theorem Sys2Proof.fields32 (n : Nat) (x0 : BitVec 3) (x1 : BitVec 5) (x2 : BitVec 10) (c2 c1 c3 c0 B : Nat) (h : c2 < 4 ∧ c1 < 8 ∧ c3 < 4 ∧ c0 < 64)
    (hB : B = 0 + 1024 * (c2 + 4 * (c1 + 8 * (0 + 32 * (0 + 8 * (c3 + 4 * (c0)))))))
    (hn : n = B + x0.toNat * 1048576 + x1.toNat * 32768 + x2.toNat) :
    n < 2147483648 ∧ n / 33554432 % 64 = c0 ∧ n / 4096 % 8 = c1 ∧ n / 1024 % 4 = c2 ∧ n / 8388608 % 4 = c3 ∧ bf n 20 3 = x0 ∧ bf n 15 5 = x1 ∧ bf n 0 10 = x2 := by
  obtain ⟨hc2, hc1, hc3, hc0⟩ := h
  have e : n = x2.toNat + 1024 * (c2 + 4 * (c1 + 8 * (x1.toNat + 32 * (x0.toNat + 8 * (c3 + 4 * (c0)))))) := by omega
  have d0 : n / 1 = _ := (Nat.div_one n).trans e
  have d1 : n / 1024 = _ := field_div d0 x2.isLt
  have d2 : n / 4096 = _ := field_div d1 hc2
  have d3 : n / 32768 = _ := field_div d2 hc1
  have d4 : n / 1048576 = _ := field_div d3 x1.isLt
  have d5 : n / 8388608 = _ := field_div d4 x0.isLt
  have d6 : n / 33554432 = _ := field_div d5 hc3
  exact ⟨field_lt d6 hc0, (field_top d6 hc0),
    (field_mod d2 hc1),
    (field_mod d1 hc2),
    (field_mod d5 hc3),
    bf_eq (field_mod d4 x0.isLt),
    bf_eq (field_mod d3 x1.isLt),
    bf_eq (field_mod d0 x2.isLt)⟩

theorem Sys2Proof.fields33 (n : Nat) (x0 : BitVec 5) (x1 : BitVec 5) (x2 : BitVec 5) (x3 : BitVec 5) (c1 c0 B : Nat) (h : c1 < 32 ∧ c0 < 64)
    (hB : B = c1 + 32 * (0 + 32 * (0 + 32 * (0 + 32 * (0 + 32 * (c0))))))
    (hn : n = B + x0.toNat * 1048576 + x1.toNat * 32768 + x2.toNat * 1024 + x3.toNat * 32) :
    n < 2147483648 ∧ n / 33554432 % 64 = c0 ∧ n % 32 = c1 ∧ bf n 20 5 = x0 ∧ bf n 15 5 = x1 ∧ bf n 10 5 = x2 ∧ bf n 5 5 = x3 := by
  obtain ⟨hc1, hc0⟩ := h
  have e : n = c1 + 32 * (x3.toNat + 32 * (x2.toNat + 32 * (x1.toNat + 32 * (x0.toNat + 32 * (c0))))) := by omega
  have d0 : n / 1 = _ := (Nat.div_one n).trans e
  have d1 : n / 32 = _ := field_div d0 hc1
  have d2 : n / 1024 = _ := field_div d1 x3.isLt
  have d3 : n / 32768 = _ := field_div d2 x2.isLt
  have d4 : n / 1048576 = _ := field_div d3 x1.isLt
  have d5 : n / 33554432 = _ := field_div d4 x0.isLt
  exact ⟨field_lt d5 hc0, (field_top d5 hc0),
    ((congrArg (· % 32) (Nat.div_one n)).symm.trans (field_mod d0 hc1)),
    bf_eq (field_mod d4 x0.isLt),
    bf_eq (field_mod d3 x1.isLt),
    bf_eq (field_mod d2 x2.isLt),
    bf_eq (field_mod d1 x3.isLt)⟩

theorem Sys2Proof.fields34 (n : Nat) (x0 : BitVec 5) (x1 : BitVec 5) (c1 c2 c0 B : Nat) (h : c1 < 32 ∧ c2 < 1024 ∧ c0 < 64)
    (hB : B = c1 + 32 * (c2 + 1024 * (0 + 32 * (0 + 32 * (c0)))))
    (hn : n = B + x0.toNat * 1048576 + x1.toNat * 32768) :
    n < 2147483648 ∧ n / 33554432 % 64 = c0 ∧ n % 32 = c1 ∧ n / 32 % 1024 = c2 ∧ bf n 20 5 = x0 ∧ bf n 15 5 = x1 := by
  obtain ⟨hc1, hc2, hc0⟩ := h
  have e : n = c1 + 32 * (c2 + 1024 * (x1.toNat + 32 * (x0.toNat + 32 * (c0)))) := by omega
  have d0 : n / 1 = _ := (Nat.div_one n).trans e
  have d1 : n / 32 = _ := field_div d0 hc1
  have d2 : n / 32768 = _ := field_div d1 hc2
  have d3 : n / 1048576 = _ := field_div d2 x1.isLt
  have d4 : n / 33554432 = _ := field_div d3 x0.isLt
  exact ⟨field_lt d4 hc0, (field_top d4 hc0),
    ((congrArg (· % 32) (Nat.div_one n)).symm.trans (field_mod d0 hc1)),
    (field_mod d1 hc2),
    bf_eq (field_mod d3 x0.isLt),
    bf_eq (field_mod d2 x1.isLt)⟩

theorem Sys2Proof.fields35 (n : Nat) (x0 : BitVec 5) (c1 c2 c0 B : Nat) (h : c1 < 32 ∧ c2 < 32768 ∧ c0 < 64)
    (hB : B = c1 + 32 * (c2 + 32768 * (0 + 32 * (c0))))
    (hn : n = B + x0.toNat * 1048576) :
    n < 2147483648 ∧ n / 33554432 % 64 = c0 ∧ n % 32 = c1 ∧ n / 32 % 32768 = c2 ∧ bf n 20 5 = x0 := by
  obtain ⟨hc1, hc2, hc0⟩ := h
  have e : n = c1 + 32 * (c2 + 32768 * (x0.toNat + 32 * (c0))) := by omega
  have d0 : n / 1 = _ := (Nat.div_one n).trans e
  have d1 : n / 32 = _ := field_div d0 hc1
  have d2 : n / 1048576 = _ := field_div d1 hc2
  have d3 : n / 33554432 = _ := field_div d2 x0.isLt
  exact ⟨field_lt d3 hc0, (field_top d3 hc0),
    ((congrArg (· % 32) (Nat.div_one n)).symm.trans (field_mod d0 hc1)),
    (field_mod d1 hc2),
    bf_eq (field_mod d2 x0.isLt)⟩

theorem Sys2Proof.fields36 (n : Nat) (x0 : BitVec 5) (x1 : BitVec 5) (x2 : BitVec 5) (c1 c2 c0 B : Nat) (h : c1 < 32 ∧ c2 < 32 ∧ c0 < 64)
    (hB : B = c1 + 32 * (c2 + 32 * (0 + 32 * (0 + 32 * (0 + 32 * (c0))))))
    (hn : n = B + x0.toNat * 1048576 + x1.toNat * 32768 + x2.toNat * 1024) :
    n < 2147483648 ∧ n / 33554432 % 64 = c0 ∧ n % 32 = c1 ∧ n / 32 % 32 = c2 ∧ bf n 20 5 = x0 ∧ bf n 15 5 = x1 ∧ bf n 10 5 = x2 := by
  obtain ⟨hc1, hc2, hc0⟩ := h
  have e : n = c1 + 32 * (c2 + 32 * (x2.toNat + 32 * (x1.toNat + 32 * (x0.toNat + 32 * (c0))))) := by omega
  have d0 : n / 1 = _ := (Nat.div_one n).trans e
  have d1 : n / 32 = _ := field_div d0 hc1
  have d2 : n / 1024 = _ := field_div d1 hc2
  have d3 : n / 32768 = _ := field_div d2 x2.isLt
  have d4 : n / 1048576 = _ := field_div d3 x1.isLt
  have d5 : n / 33554432 = _ := field_div d4 x0.isLt
  exact ⟨field_lt d5 hc0, (field_top d5 hc0),
    ((congrArg (· % 32) (Nat.div_one n)).symm.trans (field_mod d0 hc1)),
    (field_mod d1 hc2),
    bf_eq (field_mod d4 x0.isLt),
    bf_eq (field_mod d3 x1.isLt),
    bf_eq (field_mod d2 x2.isLt)⟩

theorem Sys2Proof.fields37 (n : Nat) (x0 : BitVec 5) (x1 : BitVec 4) (c2 c1 c3 c0 B : Nat) (h : c2 < 256 ∧ c1 < 8 ∧ c3 < 32 ∧ c0 < 64)
    (hB : B = 0 + 16 * (c2 + 256 * (c1 + 8 * (0 + 32 * (c3 + 32 * (c0))))))
    (hn : n = B + x0.toNat * 32768 + x1.toNat) :
    n < 2147483648 ∧ n / 33554432 % 64 = c0 ∧ n / 4096 % 8 = c1 ∧ n / 16 % 256 = c2 ∧ n / 1048576 % 32 = c3 ∧ bf n 15 5 = x0 ∧ bf n 0 4 = x1 := by
  obtain ⟨hc2, hc1, hc3, hc0⟩ := h
  have e : n = x1.toNat + 16 * (c2 + 256 * (c1 + 8 * (x0.toNat + 32 * (c3 + 32 * (c0))))) := by omega
  have d0 : n / 1 = _ := (Nat.div_one n).trans e
  have d1 : n / 16 = _ := field_div d0 x1.isLt
  have d2 : n / 4096 = _ := field_div d1 hc2
  have d3 : n / 32768 = _ := field_div d2 hc1
  have d4 : n / 1048576 = _ := field_div d3 x0.isLt
  have d5 : n / 33554432 = _ := field_div d4 hc3
  exact ⟨field_lt d5 hc0, (field_top d5 hc0),
    (field_mod d2 hc1),
    (field_mod d1 hc2),
    (field_mod d4 hc3),
    bf_eq (field_mod d3 x0.isLt),
    bf_eq (field_mod d0 x1.isLt)⟩

theorem Sys2Proof.fields38 (n : Nat) (x0 : BitVec 5) (x1 : BitVec 4) (c2 c1 c3 c0 B : Nat) (h : c2 < 256 ∧ c1 < 8 ∧ c3 < 32 ∧ c0 < 64)
    (hB : B = 0 + 16 * (c2 + 256 * (c1 + 8 * (c3 + 32 * (0 + 32 * (c0))))))
    (hn : n = B + x0.toNat * 1048576 + x1.toNat) :
    n < 2147483648 ∧ n / 33554432 % 64 = c0 ∧ n / 4096 % 8 = c1 ∧ n / 16 % 256 = c2 ∧ n / 32768 % 32 = c3 ∧ bf n 20 5 = x0 ∧ bf n 0 4 = x1 := by
  obtain ⟨hc2, hc1, hc3, hc0⟩ := h
  have e : n = x1.toNat + 16 * (c2 + 256 * (c1 + 8 * (c3 + 32 * (x0.toNat + 32 * (c0))))) := by omega
  have d0 : n / 1 = _ := (Nat.div_one n).trans e
  have d1 : n / 16 = _ := field_div d0 x1.isLt
  have d2 : n / 4096 = _ := field_div d1 hc2
  have d3 : n / 32768 = _ := field_div d2 hc1
  have d4 : n / 1048576 = _ := field_div d3 hc3
  have d5 : n / 33554432 = _ := field_div d4 x0.isLt
  exact ⟨field_lt d5 hc0, (field_top d5 hc0),
    (field_mod d2 hc1),
    (field_mod d1 hc2),
    (field_mod d3 hc3),
    bf_eq (field_mod d4 x0.isLt),
    bf_eq (field_mod d0 x1.isLt)⟩

theorem Sys2Proof.fields39 (n : Nat) (x0 : BitVec 5) (x1 : BitVec 1) (x2 : BitVec 8) (x3 : BitVec 2) (c2 c1 c3 c0 B : Nat) (h : c2 < 2 ∧ c1 < 8 ∧ c3 < 32 ∧ c0 < 64)
    (hB : B = 0 + 4 * (0 + 256 * (0 + 2 * (c2 + 2 * (c1 + 8 * (0 + 32 * (c3 + 32 * (c0))))))))
    (hn : n = B + x0.toNat * 32768 + x1.toNat * 1024 + x2.toNat * 4 + x3.toNat) :
    n < 2147483648 ∧ n / 33554432 % 64 = c0 ∧ n / 4096 % 8 = c1 ∧ n / 2048 % 2 = c2 ∧ n / 1048576 % 32 = c3 ∧ bf n 15 5 = x0 ∧ bf n 10 1 = x1 ∧ bf n 2 8 = x2 ∧ bf n 0 2 = x3 := by
  obtain ⟨hc2, hc1, hc3, hc0⟩ := h
  have e : n = x3.toNat + 4 * (x2.toNat + 256 * (x1.toNat + 2 * (c2 + 2 * (c1 + 8 * (x0.toNat + 32 * (c3 + 32 * (c0))))))) := by omega
  have d0 : n / 1 = _ := (Nat.div_one n).trans e
  have d1 : n / 4 = _ := field_div d0 x3.isLt
  have d2 : n / 1024 = _ := field_div d1 x2.isLt
  have d3 : n / 2048 = _ := field_div d2 x1.isLt
  have d4 : n / 4096 = _ := field_div d3 hc2
  have d5 : n / 32768 = _ := field_div d4 hc1
  have d6 : n / 1048576 = _ := field_div d5 x0.isLt
  have d7 : n / 33554432 = _ := field_div d6 hc3
  exact ⟨field_lt d7 hc0, (field_top d7 hc0),
    (field_mod d4 hc1),
    (field_mod d3 hc2),
    (field_mod d6 hc3),
    bf_eq (field_mod d5 x0.isLt),
    bf_eq (field_mod d2 x1.isLt),
    bf_eq (field_mod d1 x2.isLt),
    bf_eq (field_mod d0 x3.isLt)⟩

theorem Sys2Proof.fields40 (n : Nat) (x0 : BitVec 5) (x1 : BitVec 2) (c2 c1 c3 c0 B : Nat) (h : c2 < 1024 ∧ c1 < 8 ∧ c3 < 32 ∧ c0 < 64)
    (hB : B = 0 + 4 * (c2 + 1024 * (c1 + 8 * (0 + 32 * (c3 + 32 * (c0))))))
    (hn : n = B + x0.toNat * 32768 + x1.toNat) :
    n < 2147483648 ∧ n / 33554432 % 64 = c0 ∧ n / 4096 % 8 = c1 ∧ n / 4 % 1024 = c2 ∧ n / 1048576 % 32 = c3 ∧ bf n 15 5 = x0 ∧ bf n 0 2 = x1 := by
  obtain ⟨hc2, hc1, hc3, hc0⟩ := h
  have e : n = x1.toNat + 4 * (c2 + 1024 * (c1 + 8 * (x0.toNat + 32 * (c3 + 32 * (c0))))) := by omega
  have d0 : n / 1 = _ := (Nat.div_one n).trans e
  have d1 : n / 4 = _ := field_div d0 x1.isLt
  have d2 : n / 4096 = _ := field_div d1 hc2
  have d3 : n / 32768 = _ := field_div d2 hc1
  have d4 : n / 1048576 = _ := field_div d3 x0.isLt
  have d5 : n / 33554432 = _ := field_div d4 hc3
  exact ⟨field_lt d5 hc0, (field_top d5 hc0),
    (field_mod d2 hc1),
    (field_mod d1 hc2),
    (field_mod d4 hc3),
    bf_eq (field_mod d3 x0.isLt),
    bf_eq (field_mod d0 x1.isLt)⟩

theorem Sys2Proof.fields41 (n : Nat) (x0 : BitVec 4) (c2 c1 c3 c0 B : Nat) (h : c2 < 32 ∧ c1 < 8 ∧ c3 < 8192 ∧ c0 < 64)
    (hB : B = c2 + 32 * (c1 + 8 * (c3 + 8192 * (0 + 16 * (c0)))))
    (hn : n = B + x0.toNat * 2097152) :
    n < 2147483648 ∧ n / 33554432 % 64 = c0 ∧ n / 32 % 8 = c1 ∧ n % 32 = c2 ∧ n / 256 % 8192 = c3 ∧ bf n 21 4 = x0 := by
  obtain ⟨hc2, hc1, hc3, hc0⟩ := h
  have e : n = c2 + 32 * (c1 + 8 * (c3 + 8192 * (x0.toNat + 16 * (c0)))) := by omega
  have d0 : n / 1 = _ := (Nat.div_one n).trans e
  have d1 : n / 32 = _ := field_div d0 hc2
  have d2 : n / 256 = _ := field_div d1 hc1
  have d3 : n / 2097152 = _ := field_div d2 hc3
  have d4 : n / 33554432 = _ := field_div d3 x0.isLt
  exact ⟨field_lt d4 hc0, (field_top d4 hc0),
    (field_mod d1 hc1),
    ((congrArg (· % 32) (Nat.div_one n)).symm.trans (field_mod d0 hc2)),
    (field_mod d2 hc3),
    bf_eq (field_mod d3 x0.isLt)⟩

theorem Sys2Proof.fields42 (n : Nat) (x0 : BitVec 4) (x1 : BitVec 5) (x2 : BitVec 5) (c1 c2 c0 B : Nat) (h : c1 < 8 ∧ c2 < 256 ∧ c0 < 64)
    (hB : B = 0 + 32 * (c1 + 8 * (0 + 32 * (c2 + 256 * (0 + 16 * (c0))))))
    (hn : n = B + x0.toNat * 2097152 + x1.toNat * 256 + x2.toNat) :
    n < 2147483648 ∧ n / 33554432 % 64 = c0 ∧ n / 32 % 8 = c1 ∧ n / 8192 % 256 = c2 ∧ bf n 21 4 = x0 ∧ bf n 8 5 = x1 ∧ bf n 0 5 = x2 := by
  obtain ⟨hc1, hc2, hc0⟩ := h
  have e : n = x2.toNat + 32 * (c1 + 8 * (x1.toNat + 32 * (c2 + 256 * (x0.toNat + 16 * (c0))))) := by omega
  have d0 : n / 1 = _ := (Nat.div_one n).trans e
  have d1 : n / 32 = _ := field_div d0 x2.isLt
  have d2 : n / 256 = _ := field_div d1 hc1
  have d3 : n / 8192 = _ := field_div d2 x1.isLt
  have d4 : n / 2097152 = _ := field_div d3 hc2
  have d5 : n / 33554432 = _ := field_div d4 x0.isLt
  exact ⟨field_lt d5 hc0, (field_top d5 hc0),
    (field_mod d1 hc1),
    (field_mod d3 hc2),
    bf_eq (field_mod d4 x0.isLt),
    bf_eq (field_mod d2 x1.isLt),
    bf_eq (field_mod d0 x2.isLt)⟩

theorem Sys2Proof.fields43 (n : Nat) (x0 : BitVec 4) (x1 : BitVec 4) (x2 : BitVec 4) (x3 : BitVec 1) (c2 c1 c3 c0 B : Nat) (h : c2 < 16 ∧ c1 < 8 ∧ c3 < 32 ∧ c0 < 64)
    (hB : B = 0 + 2 * (c2 + 16 * (c1 + 8 * (c3 + 32 * (0 + 16 * (0 + 16 * (0 + 16 * (c0))))))))
    (hn : n = B + x0.toNat * 2097152 + x1.toNat * 131072 + x2.toNat * 8192 + x3.toNat) :
    n < 2147483648 ∧ n / 33554432 % 64 = c0 ∧ n / 32 % 8 = c1 ∧ n / 2 % 16 = c2 ∧ n / 256 % 32 = c3 ∧ bf n 21 4 = x0 ∧ bf n 17 4 = x1 ∧ bf n 13 4 = x2 ∧ bf n 0 1 = x3 := by
  obtain ⟨hc2, hc1, hc3, hc0⟩ := h
  have e : n = x3.toNat + 2 * (c2 + 16 * (c1 + 8 * (c3 + 32 * (x2.toNat + 16 * (x1.toNat + 16 * (x0.toNat + 16 * (c0))))))) := by omega
  have d0 : n / 1 = _ := (Nat.div_one n).trans e
  have d1 : n / 2 = _ := field_div d0 x3.isLt
  have d2 : n / 32 = _ := field_div d1 hc2
  have d3 : n / 256 = _ := field_div d2 hc1
  have d4 : n / 8192 = _ := field_div d3 hc3
  have d5 : n / 131072 = _ := field_div d4 x2.isLt
  have d6 : n / 2097152 = _ := field_div d5 x1.isLt
  have d7 : n / 33554432 = _ := field_div d6 x0.isLt
  exact ⟨field_lt d7 hc0, (field_top d7 hc0),
    (field_mod d2 hc1),
    (field_mod d1 hc2),
    (field_mod d3 hc3),
    bf_eq (field_mod d6 x0.isLt),
    bf_eq (field_mod d5 x1.isLt),
    bf_eq (field_mod d4 x2.isLt),
    bf_eq (field_mod d0 x3.isLt)⟩

theorem Sys2Proof.fields44 (n : Nat) (x0 : BitVec 4) (x1 : BitVec 4) (x2 : BitVec 4) (x3 : BitVec 5) (x4 : BitVec 1) (x5 : BitVec 1) (c2 c1 c0 B : Nat) (h : c2 < 8 ∧ c1 < 8 ∧ c0 < 64)
    (hB : B = 0 + 2 * (0 + 2 * (c2 + 8 * (c1 + 8 * (0 + 32 * (0 + 16 * (0 + 16 * (0 + 16 * (c0)))))))))
    (hn : n = B + x0.toNat * 2097152 + x1.toNat * 131072 + x2.toNat * 8192 + x3.toNat * 256 + x4.toNat * 2 + x5.toNat) :
    n < 2147483648 ∧ n / 33554432 % 64 = c0 ∧ n / 32 % 8 = c1 ∧ n / 4 % 8 = c2 ∧ bf n 21 4 = x0 ∧ bf n 17 4 = x1 ∧ bf n 13 4 = x2 ∧ bf n 8 5 = x3 ∧ bf n 1 1 = x4 ∧ bf n 0 1 = x5 := by
  obtain ⟨hc2, hc1, hc0⟩ := h
  have e : n = x5.toNat + 2 * (x4.toNat + 2 * (c2 + 8 * (c1 + 8 * (x3.toNat + 32 * (x2.toNat + 16 * (x1.toNat + 16 * (x0.toNat + 16 * (c0)))))))) := by omega
  have d0 : n / 1 = _ := (Nat.div_one n).trans e
  have d1 : n / 2 = _ := field_div d0 x5.isLt
  have d2 : n / 4 = _ := field_div d1 x4.isLt
  have d3 : n / 32 = _ := field_div d2 hc2
  have d4 : n / 256 = _ := field_div d3 hc1
  have d5 : n / 8192 = _ := field_div d4 x3.isLt
  have d6 : n / 131072 = _ := field_div d5 x2.isLt
  have d7 : n / 2097152 = _ := field_div d6 x1.isLt
  have d8 : n / 33554432 = _ := field_div d7 x0.isLt
  exact ⟨field_lt d8 hc0, (field_top d8 hc0),
    (field_mod d3 hc1),
    (field_mod d2 hc2),
    bf_eq (field_mod d7 x0.isLt),
    bf_eq (field_mod d6 x1.isLt),
    bf_eq (field_mod d5 x2.isLt),
    bf_eq (field_mod d4 x3.isLt),
    bf_eq (field_mod d1 x4.isLt),
    bf_eq (field_mod d0 x5.isLt)⟩

theorem Sys2Proof.fields45 (n : Nat) (x0 : BitVec 4) (x1 : BitVec 5) (x2 : BitVec 2) (c2 c1 c3 c4 c0 B : Nat) (h : c2 < 8 ∧ c1 < 8 ∧ c3 < 16 ∧ c4 < 16 ∧ c0 < 64)
    (hB : B = 0 + 4 * (c2 + 8 * (c1 + 8 * (0 + 32 * (c3 + 16 * (0 + 16 * (c4 + 16 * (c0))))))))
    (hn : n = B + x0.toNat * 131072 + x1.toNat * 256 + x2.toNat) :
    n < 2147483648 ∧ n / 33554432 % 64 = c0 ∧ n / 32 % 8 = c1 ∧ n / 4 % 8 = c2 ∧ n / 8192 % 16 = c3 ∧ n / 2097152 % 16 = c4 ∧ bf n 17 4 = x0 ∧ bf n 8 5 = x1 ∧ bf n 0 2 = x2 := by
  obtain ⟨hc2, hc1, hc3, hc4, hc0⟩ := h
  have e : n = x2.toNat + 4 * (c2 + 8 * (c1 + 8 * (x1.toNat + 32 * (c3 + 16 * (x0.toNat + 16 * (c4 + 16 * (c0))))))) := by omega
  have d0 : n / 1 = _ := (Nat.div_one n).trans e
  have d1 : n / 4 = _ := field_div d0 x2.isLt
  have d2 : n / 32 = _ := field_div d1 hc2
  have d3 : n / 256 = _ := field_div d2 hc1
  have d4 : n / 8192 = _ := field_div d3 x1.isLt
  have d5 : n / 131072 = _ := field_div d4 hc3
  have d6 : n / 2097152 = _ := field_div d5 x0.isLt
  have d7 : n / 33554432 = _ := field_div d6 hc4
  exact ⟨field_lt d7 hc0, (field_top d7 hc0),
    (field_mod d2 hc1),
    (field_mod d1 hc2),
    (field_mod d4 hc3),
    (field_mod d6 hc4),
    bf_eq (field_mod d5 x0.isLt),
    bf_eq (field_mod d3 x1.isLt),
    bf_eq (field_mod d0 x2.isLt)⟩

theorem Sys2Proof.fields46 (n : Nat) (x0 : BitVec 4) (x1 : BitVec 4) (x2 : BitVec 3) (x3 : BitVec 5) (c1 c2 c0 B : Nat) (h : c1 < 8 ∧ c2 < 64 ∧ c0 < 64)
    (hB : B = 0 + 32 * (c1 + 8 * (0 + 8 * (c2 + 64 * (0 + 16 * (0 + 16 * (c0)))))))
    (hn : n = B + x0.toNat * 2097152 + x1.toNat * 131072 + x2.toNat * 256 + x3.toNat) :
    n < 2147483648 ∧ n / 33554432 % 64 = c0 ∧ n / 32 % 8 = c1 ∧ n / 2048 % 64 = c2 ∧ bf n 21 4 = x0 ∧ bf n 17 4 = x1 ∧ bf n 8 3 = x2 ∧ bf n 0 5 = x3 := by
  obtain ⟨hc1, hc2, hc0⟩ := h
  have e : n = x3.toNat + 32 * (c1 + 8 * (x2.toNat + 8 * (c2 + 64 * (x1.toNat + 16 * (x0.toNat + 16 * (c0)))))) := by omega
  have d0 : n / 1 = _ := (Nat.div_one n).trans e
  have d1 : n / 32 = _ := field_div d0 x3.isLt
  have d2 : n / 256 = _ := field_div d1 hc1
  have d3 : n / 2048 = _ := field_div d2 x2.isLt
  have d4 : n / 131072 = _ := field_div d3 hc2
  have d5 : n / 2097152 = _ := field_div d4 x1.isLt
  have d6 : n / 33554432 = _ := field_div d5 x0.isLt
  exact ⟨field_lt d6 hc0, (field_top d6 hc0),
    (field_mod d1 hc1),
    (field_mod d3 hc2),
    bf_eq (field_mod d5 x0.isLt),
    bf_eq (field_mod d4 x1.isLt),
    bf_eq (field_mod d2 x2.isLt),
    bf_eq (field_mod d0 x3.isLt)⟩

theorem Sys2Proof.fields47 (n : Nat) (x0 : BitVec 5) (x1 : BitVec 5) (c1 c3 c2 c0 B : Nat) (h : c1 < 32 ∧ c3 < 32 ∧ c2 < 32 ∧ c0 < 64)
    (hB : B = c1 + 32 * (c3 + 32 * (c2 + 32 * (0 + 32 * (0 + 32 * (c0))))))
    (hn : n = B + x0.toNat * 1048576 + x1.toNat * 32768) :
    n < 2147483648 ∧ n / 33554432 % 64 = c0 ∧ n % 32 = c1 ∧ n / 1024 % 32 = c2 ∧ n / 32 % 32 = c3 ∧ bf n 20 5 = x0 ∧ bf n 15 5 = x1 := by
  obtain ⟨hc1, hc3, hc2, hc0⟩ := h
  have e : n = c1 + 32 * (c3 + 32 * (c2 + 32 * (x1.toNat + 32 * (x0.toNat + 32 * (c0))))) := by omega
  have d0 : n / 1 = _ := (Nat.div_one n).trans e
  have d1 : n / 32 = _ := field_div d0 hc1
  have d2 : n / 1024 = _ := field_div d1 hc3
  have d3 : n / 32768 = _ := field_div d2 hc2
  have d4 : n / 1048576 = _ := field_div d3 x1.isLt
  have d5 : n / 33554432 = _ := field_div d4 x0.isLt
  exact ⟨field_lt d5 hc0, (field_top d5 hc0),
    ((congrArg (· % 32) (Nat.div_one n)).symm.trans (field_mod d0 hc1)),
    (field_mod d2 hc2),
    (field_mod d1 hc3),
    bf_eq (field_mod d4 x0.isLt),
    bf_eq (field_mod d3 x1.isLt)⟩

theorem Sys2Proof.fields48 (n : Nat) (x0 : BitVec 6) (c2 c1 c3 c0 B : Nat) (h : c2 < 64 ∧ c1 < 8 ∧ c3 < 1024 ∧ c0 < 64)
    (hB : B = 0 + 64 * (c2 + 64 * (c1 + 8 * (c3 + 1024 * (c0)))))
    (hn : n = B + x0.toNat) :
    n < 2147483648 ∧ n / 33554432 % 64 = c0 ∧ n / 4096 % 8 = c1 ∧ n / 64 % 64 = c2 ∧ n / 32768 % 1024 = c3 ∧ bf n 0 6 = x0 := by
  obtain ⟨hc2, hc1, hc3, hc0⟩ := h
  have e : n = x0.toNat + 64 * (c2 + 64 * (c1 + 8 * (c3 + 1024 * (c0)))) := by omega
  have d0 : n / 1 = _ := (Nat.div_one n).trans e
  have d1 : n / 64 = _ := field_div d0 x0.isLt
  have d2 : n / 4096 = _ := field_div d1 hc2
  have d3 : n / 32768 = _ := field_div d2 hc1
  have d4 : n / 33554432 = _ := field_div d3 hc3
  exact ⟨field_lt d4 hc0, (field_top d4 hc0),
    (field_mod d2 hc1),
    (field_mod d1 hc2),
    (field_mod d3 hc3),
    bf_eq (field_mod d0 x0.isLt)⟩

theorem Sys2Proof.fields49 (n : Nat) (x0 : BitVec 12) (c1 c2 c0 B : Nat) (h : c1 < 8 ∧ c2 < 1024 ∧ c0 < 64)
    (hB : B = 0 + 4096 * (c1 + 8 * (c2 + 1024 * (c0))))
    (hn : n = B + x0.toNat) :
    n < 2147483648 ∧ n / 33554432 % 64 = c0 ∧ n / 4096 % 8 = c1 ∧ n / 32768 % 1024 = c2 ∧ bf n 0 12 = x0 := by
  obtain ⟨hc1, hc2, hc0⟩ := h
  have e : n = x0.toNat + 4096 * (c1 + 8 * (c2 + 1024 * (c0))) := by omega
  have d0 : n / 1 = _ := (Nat.div_one n).trans e
  have d1 : n / 4096 = _ := field_div d0 x0.isLt
  have d2 : n / 32768 = _ := field_div d1 hc1
  have d3 : n / 33554432 = _ := field_div d2 hc2
  exact ⟨field_lt d3 hc0, (field_top d3 hc0),
    (field_mod d1 hc1),
    (field_mod d2 hc2),
    bf_eq (field_mod d0 x0.isLt)⟩

/-! ### Majors -/

theorem Sys2Proof.major0 {n : Nat} (h : n / 33554432 % 64 = 0) : decodeFields n = decodeAlu n := by
  unfold decodeFields; rw [h]; rfl

theorem Sys2Proof.major1 {n : Nat} (h : n / 33554432 % 64 = 1) : decodeFields n = (.ok (.addi (bf n 20 5) (bf n 15 5) (bf n 0 15))) := by
  unfold decodeFields; rw [h]; rfl

theorem Sys2Proof.major2 {n : Nat} (h : n / 33554432 % 64 = 2) : decodeFields n = (.ok (.andi (bf n 20 5) (bf n 15 5) (bf n 0 15))) := by
  unfold decodeFields; rw [h]; rfl

theorem Sys2Proof.major3 {n : Nat} (h : n / 33554432 % 64 = 3) : decodeFields n = (.ok (.ori (bf n 20 5) (bf n 15 5) (bf n 0 15))) := by
  unfold decodeFields; rw [h]; rfl

theorem Sys2Proof.major4 {n : Nat} (h : n / 33554432 % 64 = 4) : decodeFields n = (.ok (.xori (bf n 20 5) (bf n 15 5) (bf n 0 15))) := by
  unfold decodeFields; rw [h]; rfl

theorem Sys2Proof.major5 {n : Nat} (h : n / 33554432 % 64 = 5) : decodeFields n = decodeShiftImm n := by
  unfold decodeFields; rw [h]; rfl

theorem Sys2Proof.major6 {n : Nat} (h : n / 33554432 % 64 = 6) : decodeFields n = (.ok (.movi (bf n 20 5) (bf n 0 20))) := by
  unfold decodeFields; rw [h]; rfl

theorem Sys2Proof.major7 {n : Nat} (h : n / 33554432 % 64 = 7) : decodeFields n = (.ok (.movs (bf n 20 5) (bf n 0 20))) := by
  unfold decodeFields; rw [h]; rfl

theorem Sys2Proof.major8 {n : Nat} (h : n / 33554432 % 64 = 8) : decodeFields n = decodeMulDiv n := by
  unfold decodeFields; rw [h]; rfl

theorem Sys2Proof.major9 {n : Nat} (h : n / 33554432 % 64 = 9) : decodeFields n = decodeBits n := by
  unfold decodeFields; rw [h]; rfl

theorem Sys2Proof.major16 {n : Nat} (h : n / 33554432 % 64 = 16) : decodeFields n = decodeVint n := by
  unfold decodeFields; rw [h]; rfl

theorem Sys2Proof.major17 {n : Nat} (h : n / 33554432 % 64 = 17) : decodeFields n = decodeVcmp n := by
  unfold decodeFields; rw [h]; rfl

theorem Sys2Proof.major18 {n : Nat} (h : n / 33554432 % 64 = 18) : decodeFields n = decodeVfp n := by
  unfold decodeFields; rw [h]; rfl

theorem Sys2Proof.major19 {n : Nat} (h : n / 33554432 % 64 = 19) : decodeFields n = decodeVfma n := by
  unfold decodeFields; rw [h]; rfl

theorem Sys2Proof.major20 {n : Nat} (h : n / 33554432 % 64 = 20) : decodeFields n = decodeVperm n := by
  unfold decodeFields; rw [h]; rfl

theorem Sys2Proof.major21 {n : Nat} (h : n / 33554432 % 64 = 21) : decodeFields n = decodeVred n := by
  unfold decodeFields; rw [h]; rfl

theorem Sys2Proof.major22 {n : Nat} (h : n / 33554432 % 64 = 22) : decodeFields n = (if n % 2 = 0 then .ok (.vcvt (bf n 20 5) (bf n 15 5) (bf n 11 4) (bf n 7 4) (bf n 4 3) (bf n 1 3)) else .error .nonzeroField) := by
  unfold decodeFields; rw [h]; rfl

theorem Sys2Proof.major23 {n : Nat} (h : n / 33554432 % 64 = 23) : decodeFields n = decodeVtab n := by
  unfold decodeFields; rw [h]; rfl

theorem Sys2Proof.major32 {n : Nat} (h : n / 33554432 % 64 = 32) : decodeFields n = decodeBr n := by
  unfold decodeFields; rw [h]; rfl

theorem Sys2Proof.major33 {n : Nat} (h : n / 33554432 % 64 = 33) : decodeFields n = (if n / 1048576 % 32 = 0 then .ok (.j (bf n 0 20)) else .ok (.jal (bf n 20 5) (bf n 0 20))) := by
  unfold decodeFields; rw [h]; rfl

theorem Sys2Proof.major34 {n : Nat} (h : n / 33554432 % 64 = 34) : decodeFields n = decodeJmp n := by
  unfold decodeFields; rw [h]; rfl

theorem Sys2Proof.major35 {n : Nat} (h : n / 33554432 % 64 = 35) : decodeFields n = decodeLoop n := by
  unfold decodeFields; rw [h]; rfl

theorem Sys2Proof.major36 {n : Nat} (h : n / 33554432 % 64 = 36) : decodeFields n = decodeGang n := by
  unfold decodeFields; rw [h]; rfl

theorem Sys2Proof.major37 {n : Nat} (h : n / 33554432 % 64 = 37) : decodeFields n = decodeLd n := by
  unfold decodeFields; rw [h]; rfl

theorem Sys2Proof.major38 {n : Nat} (h : n / 33554432 % 64 = 38) : decodeFields n = decodeSt n := by
  unfold decodeFields; rw [h]; rfl

theorem Sys2Proof.major39 {n : Nat} (h : n / 33554432 % 64 = 39) : decodeFields n = (.ok (.vld (bf n 20 5) (bf n 15 5) (bf n 13 2) (bf n 10 3) (bf n 0 10))) := by
  unfold decodeFields; rw [h]; rfl

theorem Sys2Proof.major40 {n : Nat} (h : n / 33554432 % 64 = 40) : decodeFields n = (.ok (.vst (bf n 20 5) (bf n 15 5) (bf n 13 2) (bf n 10 3) (bf n 0 10))) := by
  unfold decodeFields; rw [h]; rfl

theorem Sys2Proof.major41 {n : Nat} (h : n / 33554432 % 64 = 41) : decodeFields n = decodeAmo n := by
  unfold decodeFields; rw [h]; rfl

theorem Sys2Proof.major42 {n : Nat} (h : n / 33554432 % 64 = 42) : decodeFields n = decodeSync n := by
  unfold decodeFields; rw [h]; rfl

theorem Sys2Proof.major43 {n : Nat} (h : n / 33554432 % 64 = 43) : decodeFields n = decodeXfer n := by
  unfold decodeFields; rw [h]; rfl

theorem Sys2Proof.major44 {n : Nat} (h : n / 33554432 % 64 = 44) : decodeFields n = decodeStrm n := by
  unfold decodeFields; rw [h]; rfl

theorem Sys2Proof.major45 {n : Nat} (h : n / 33554432 % 64 = 45) : decodeFields n = decodeCode n := by
  unfold decodeFields; rw [h]; rfl

theorem Sys2Proof.major46 {n : Nat} (h : n / 33554432 % 64 = 46) : decodeFields n = decodeMat0 n := by
  unfold decodeFields; rw [h]; rfl

theorem Sys2Proof.major47 {n : Nat} (h : n / 33554432 % 64 = 47) : decodeFields n = decodeMat1 n := by
  unfold decodeFields; rw [h]; rfl

theorem Sys2Proof.major48 {n : Nat} (h : n / 33554432 % 64 = 48) : decodeFields n = decodeTask n := by
  unfold decodeFields; rw [h]; rfl

theorem Sys2Proof.major49 {n : Nat} (h : n / 33554432 % 64 = 49) : decodeFields n = decodeMsg n := by
  unfold decodeFields; rw [h]; rfl

theorem Sys2Proof.major50 {n : Nat} (h : n / 33554432 % 64 = 50) : decodeFields n = decodeSplc n := by
  unfold decodeFields; rw [h]; rfl

theorem Sys2Proof.major51 {n : Nat} (h : n / 33554432 % 64 = 51) : decodeFields n = decodeUint n := by
  unfold decodeFields; rw [h]; rfl

theorem Sys2Proof.major52 {n : Nat} (h : n / 33554432 % 64 = 52) : decodeFields n = decodeSys n := by
  unfold decodeFields; rw [h]; rfl

/-! ### The instructions -/

theorem Sys2Proof.Laws.RoundTrip.add (d : RegNo) (a : RegNo) (b : RegNo) (w : BitVec 1) : Statement (.add d a b w) := by
  intro hw
  obtain ⟨l, f0, f1, f2, b0, b1, b2, b3⟩ := fields1 (encodeNat (.add d a b w)) d a b w 0 0 0 0 (by decide) rfl (by rw [Nat.zero_add]; rfl)
  refine decode_encode l ?_ hw
  rw [major0 f0, decodeAlu, f1, f2, b0, b1, b2, b3]; rfl

theorem Sys2Proof.Laws.RoundTrip.sub (d : RegNo) (a : RegNo) (b : RegNo) (w : BitVec 1) : Statement (.sub d a b w) := by
  intro hw
  obtain ⟨l, f0, f1, f2, b0, b1, b2, b3⟩ := fields1 (encodeNat (.sub d a b w)) d a b w 0 1 0 16 (by decide) rfl rfl
  refine decode_encode l ?_ hw
  rw [major0 f0, decodeAlu, f1, f2, b0, b1, b2, b3]; rfl

theorem Sys2Proof.Laws.RoundTrip.and (d : RegNo) (a : RegNo) (b : RegNo) (w : BitVec 1) : Statement (.and d a b w) := by
  intro hw
  obtain ⟨l, f0, f1, f2, b0, b1, b2, b3⟩ := fields1 (encodeNat (.and d a b w)) d a b w 0 2 0 32 (by decide) rfl rfl
  refine decode_encode l ?_ hw
  rw [major0 f0, decodeAlu, f1, f2, b0, b1, b2, b3]; rfl

theorem Sys2Proof.Laws.RoundTrip.or (d : RegNo) (a : RegNo) (b : RegNo) (w : BitVec 1) : Statement (.or d a b w) := by
  intro hw
  obtain ⟨l, f0, f1, f2, b0, b1, b2, b3⟩ := fields1 (encodeNat (.or d a b w)) d a b w 0 3 0 48 (by decide) rfl rfl
  refine decode_encode l ?_ hw
  rw [major0 f0, decodeAlu, f1, f2, b0, b1, b2, b3]; rfl

theorem Sys2Proof.Laws.RoundTrip.xor (d : RegNo) (a : RegNo) (b : RegNo) (w : BitVec 1) : Statement (.xor d a b w) := by
  intro hw
  obtain ⟨l, f0, f1, f2, b0, b1, b2, b3⟩ := fields1 (encodeNat (.xor d a b w)) d a b w 0 4 0 64 (by decide) rfl rfl
  refine decode_encode l ?_ hw
  rw [major0 f0, decodeAlu, f1, f2, b0, b1, b2, b3]; rfl

theorem Sys2Proof.Laws.RoundTrip.andn (d : RegNo) (a : RegNo) (b : RegNo) (w : BitVec 1) : Statement (.andn d a b w) := by
  intro hw
  obtain ⟨l, f0, f1, f2, b0, b1, b2, b3⟩ := fields1 (encodeNat (.andn d a b w)) d a b w 0 5 0 80 (by decide) rfl rfl
  refine decode_encode l ?_ hw
  rw [major0 f0, decodeAlu, f1, f2, b0, b1, b2, b3]; rfl

theorem Sys2Proof.Laws.RoundTrip.shl (d : RegNo) (a : RegNo) (b : RegNo) (w : BitVec 1) : Statement (.shl d a b w) := by
  intro hw
  obtain ⟨l, f0, f1, f2, b0, b1, b2, b3⟩ := fields1 (encodeNat (.shl d a b w)) d a b w 0 6 0 96 (by decide) rfl rfl
  refine decode_encode l ?_ hw
  rw [major0 f0, decodeAlu, f1, f2, b0, b1, b2, b3]; rfl

theorem Sys2Proof.Laws.RoundTrip.shr (d : RegNo) (a : RegNo) (b : RegNo) (w : BitVec 1) : Statement (.shr d a b w) := by
  intro hw
  obtain ⟨l, f0, f1, f2, b0, b1, b2, b3⟩ := fields1 (encodeNat (.shr d a b w)) d a b w 0 7 0 112 (by decide) rfl rfl
  refine decode_encode l ?_ hw
  rw [major0 f0, decodeAlu, f1, f2, b0, b1, b2, b3]; rfl

theorem Sys2Proof.Laws.RoundTrip.sra (d : RegNo) (a : RegNo) (b : RegNo) (w : BitVec 1) : Statement (.sra d a b w) := by
  intro hw
  obtain ⟨l, f0, f1, f2, b0, b1, b2, b3⟩ := fields1 (encodeNat (.sra d a b w)) d a b w 0 8 0 128 (by decide) rfl rfl
  refine decode_encode l ?_ hw
  rw [major0 f0, decodeAlu, f1, f2, b0, b1, b2, b3]; rfl

theorem Sys2Proof.Laws.RoundTrip.rol (d : RegNo) (a : RegNo) (b : RegNo) (w : BitVec 1) : Statement (.rol d a b w) := by
  intro hw
  obtain ⟨l, f0, f1, f2, b0, b1, b2, b3⟩ := fields1 (encodeNat (.rol d a b w)) d a b w 0 9 0 144 (by decide) rfl rfl
  refine decode_encode l ?_ hw
  rw [major0 f0, decodeAlu, f1, f2, b0, b1, b2, b3]; rfl

theorem Sys2Proof.Laws.RoundTrip.slt (d : RegNo) (a : RegNo) (b : RegNo) (w : BitVec 1) : Statement (.slt d a b w) := by
  intro hw
  obtain ⟨l, f0, f1, f2, b0, b1, b2, b3⟩ := fields1 (encodeNat (.slt d a b w)) d a b w 0 10 0 160 (by decide) rfl rfl
  refine decode_encode l ?_ hw
  rw [major0 f0, decodeAlu, f1, f2, b0, b1, b2, b3]; rfl

theorem Sys2Proof.Laws.RoundTrip.sltn (d : RegNo) (a : RegNo) (b : RegNo) (w : BitVec 1) : Statement (.sltn d a b w) := by
  intro hw
  obtain ⟨l, f0, f1, f2, b0, b1, b2, b3⟩ := fields1 (encodeNat (.sltn d a b w)) d a b w 0 11 0 176 (by decide) rfl rfl
  refine decode_encode l ?_ hw
  rw [major0 f0, decodeAlu, f1, f2, b0, b1, b2, b3]; rfl

theorem Sys2Proof.Laws.RoundTrip.min (d : RegNo) (a : RegNo) (b : RegNo) (w : BitVec 1) : Statement (.min d a b w) := by
  intro hw
  obtain ⟨l, f0, f1, f2, b0, b1, b2, b3⟩ := fields1 (encodeNat (.min d a b w)) d a b w 0 12 0 192 (by decide) rfl rfl
  refine decode_encode l ?_ hw
  rw [major0 f0, decodeAlu, f1, f2, b0, b1, b2, b3]; rfl

theorem Sys2Proof.Laws.RoundTrip.max (d : RegNo) (a : RegNo) (b : RegNo) (w : BitVec 1) : Statement (.max d a b w) := by
  intro hw
  obtain ⟨l, f0, f1, f2, b0, b1, b2, b3⟩ := fields1 (encodeNat (.max d a b w)) d a b w 0 13 0 208 (by decide) rfl rfl
  refine decode_encode l ?_ hw
  rw [major0 f0, decodeAlu, f1, f2, b0, b1, b2, b3]; rfl

theorem Sys2Proof.Laws.RoundTrip.minn (d : RegNo) (a : RegNo) (b : RegNo) (w : BitVec 1) : Statement (.minn d a b w) := by
  intro hw
  obtain ⟨l, f0, f1, f2, b0, b1, b2, b3⟩ := fields1 (encodeNat (.minn d a b w)) d a b w 0 14 0 224 (by decide) rfl rfl
  refine decode_encode l ?_ hw
  rw [major0 f0, decodeAlu, f1, f2, b0, b1, b2, b3]; rfl

theorem Sys2Proof.Laws.RoundTrip.maxn (d : RegNo) (a : RegNo) (b : RegNo) (w : BitVec 1) : Statement (.maxn d a b w) := by
  intro hw
  obtain ⟨l, f0, f1, f2, b0, b1, b2, b3⟩ := fields1 (encodeNat (.maxn d a b w)) d a b w 0 15 0 240 (by decide) rfl rfl
  refine decode_encode l ?_ hw
  rw [major0 f0, decodeAlu, f1, f2, b0, b1, b2, b3]; rfl

theorem Sys2Proof.Laws.RoundTrip.sel (d : RegNo) (a : RegNo) (b : RegNo) (p : BitVec 3) : Statement (.sel d a b p) := by
  intro hw
  obtain ⟨l, f0, f1, f2, b0, b1, b2, b3⟩ := fields2 (encodeNat (.sel d a b p)) d a b p 0 16 0 256 (by decide) rfl rfl
  refine decode_encode l ?_ hw
  rw [major0 f0, decodeAlu, f1, f2, b0, b1, b2, b3]; rfl

theorem Sys2Proof.Laws.RoundTrip.addi (d : RegNo) (a : RegNo) (i : BitVec 15) : Statement (.addi d a i) := by
  intro hw
  obtain ⟨l, f0, b0, b1, b2⟩ := fields3 (encodeNat (.addi d a i)) d a i 1 33554432 (by decide) rfl rfl
  refine decode_encode l ?_ hw
  rw [major1 f0, b0, b1, b2]

theorem Sys2Proof.Laws.RoundTrip.andi (d : RegNo) (a : RegNo) (i : BitVec 15) : Statement (.andi d a i) := by
  intro hw
  obtain ⟨l, f0, b0, b1, b2⟩ := fields3 (encodeNat (.andi d a i)) d a i 2 67108864 (by decide) rfl rfl
  refine decode_encode l ?_ hw
  rw [major2 f0, b0, b1, b2]

theorem Sys2Proof.Laws.RoundTrip.ori (d : RegNo) (a : RegNo) (i : BitVec 15) : Statement (.ori d a i) := by
  intro hw
  obtain ⟨l, f0, b0, b1, b2⟩ := fields3 (encodeNat (.ori d a i)) d a i 3 100663296 (by decide) rfl rfl
  refine decode_encode l ?_ hw
  rw [major3 f0, b0, b1, b2]

theorem Sys2Proof.Laws.RoundTrip.xori (d : RegNo) (a : RegNo) (i : BitVec 15) : Statement (.xori d a i) := by
  intro hw
  obtain ⟨l, f0, b0, b1, b2⟩ := fields3 (encodeNat (.xori d a i)) d a i 4 134217728 (by decide) rfl rfl
  refine decode_encode l ?_ hw
  rw [major4 f0, b0, b1, b2]

theorem Sys2Proof.Laws.RoundTrip.shli (d : RegNo) (a : RegNo) (n : BitVec 6) : Statement (.shli d a n) := by
  intro hw
  obtain ⟨l, f0, f1, f2, b0, b1, b2⟩ := fields4 (encodeNat (.shli d a n)) d a n 0 0 5 167772160 (by decide) rfl rfl
  refine decode_encode l ?_ hw
  rw [major5 f0, decodeShiftImm, f1, f2, b0, b1, b2]; rfl

theorem Sys2Proof.Laws.RoundTrip.shri (d : RegNo) (a : RegNo) (n : BitVec 6) : Statement (.shri d a n) := by
  intro hw
  obtain ⟨l, f0, f1, f2, b0, b1, b2⟩ := fields4 (encodeNat (.shri d a n)) d a n 0 1 5 167780352 (by decide) rfl rfl
  refine decode_encode l ?_ hw
  rw [major5 f0, decodeShiftImm, f1, f2, b0, b1, b2]; rfl

theorem Sys2Proof.Laws.RoundTrip.srai (d : RegNo) (a : RegNo) (n : BitVec 6) : Statement (.srai d a n) := by
  intro hw
  obtain ⟨l, f0, f1, f2, b0, b1, b2⟩ := fields4 (encodeNat (.srai d a n)) d a n 0 2 5 167788544 (by decide) rfl rfl
  refine decode_encode l ?_ hw
  rw [major5 f0, decodeShiftImm, f1, f2, b0, b1, b2]; rfl

theorem Sys2Proof.Laws.RoundTrip.roli (d : RegNo) (a : RegNo) (n : BitVec 6) : Statement (.roli d a n) := by
  intro hw
  obtain ⟨l, f0, f1, f2, b0, b1, b2⟩ := fields4 (encodeNat (.roli d a n)) d a n 0 3 5 167796736 (by decide) rfl rfl
  refine decode_encode l ?_ hw
  rw [major5 f0, decodeShiftImm, f1, f2, b0, b1, b2]; rfl

theorem Sys2Proof.Laws.RoundTrip.movi (d : RegNo) (i : BitVec 20) : Statement (.movi d i) := by
  intro hw
  obtain ⟨l, f0, b0, b1⟩ := fields5 (encodeNat (.movi d i)) d i 6 201326592 (by decide) rfl rfl
  refine decode_encode l ?_ hw
  rw [major6 f0, b0, b1]

theorem Sys2Proof.Laws.RoundTrip.movs (d : RegNo) (i : BitVec 20) : Statement (.movs d i) := by
  intro hw
  obtain ⟨l, f0, b0, b1⟩ := fields5 (encodeNat (.movs d i)) d i 7 234881024 (by decide) rfl rfl
  refine decode_encode l ?_ hw
  rw [major7 f0, b0, b1]

theorem Sys2Proof.Laws.RoundTrip.mul (d : RegNo) (a : RegNo) (b : RegNo) (w : BitVec 1) : Statement (.mul d a b w) := by
  intro hw
  obtain ⟨l, f0, f1, f2, b0, b1, b2, b3⟩ := fields1 (encodeNat (.mul d a b w)) d a b w 0 0 8 268435456 (by decide) rfl rfl
  refine decode_encode l ?_ hw
  rw [major8 f0, decodeMulDiv, f1, f2, b0, b1, b2, b3]; rfl

theorem Sys2Proof.Laws.RoundTrip.mulh (d : RegNo) (a : RegNo) (b : RegNo) (w : BitVec 1) : Statement (.mulh d a b w) := by
  intro hw
  obtain ⟨l, f0, f1, f2, b0, b1, b2, b3⟩ := fields1 (encodeNat (.mulh d a b w)) d a b w 0 1 8 268435472 (by decide) rfl rfl
  refine decode_encode l ?_ hw
  rw [major8 f0, decodeMulDiv, f1, f2, b0, b1, b2, b3]; rfl

theorem Sys2Proof.Laws.RoundTrip.mulhn (d : RegNo) (a : RegNo) (b : RegNo) (w : BitVec 1) : Statement (.mulhn d a b w) := by
  intro hw
  obtain ⟨l, f0, f1, f2, b0, b1, b2, b3⟩ := fields1 (encodeNat (.mulhn d a b w)) d a b w 0 2 8 268435488 (by decide) rfl rfl
  refine decode_encode l ?_ hw
  rw [major8 f0, decodeMulDiv, f1, f2, b0, b1, b2, b3]; rfl

theorem Sys2Proof.Laws.RoundTrip.div (d : RegNo) (a : RegNo) (b : RegNo) (w : BitVec 1) : Statement (.div d a b w) := by
  intro hw
  obtain ⟨l, f0, f1, f2, b0, b1, b2, b3⟩ := fields1 (encodeNat (.div d a b w)) d a b w 0 3 8 268435504 (by decide) rfl rfl
  refine decode_encode l ?_ hw
  rw [major8 f0, decodeMulDiv, f1, f2, b0, b1, b2, b3]; rfl

theorem Sys2Proof.Laws.RoundTrip.divn (d : RegNo) (a : RegNo) (b : RegNo) (w : BitVec 1) : Statement (.divn d a b w) := by
  intro hw
  obtain ⟨l, f0, f1, f2, b0, b1, b2, b3⟩ := fields1 (encodeNat (.divn d a b w)) d a b w 0 4 8 268435520 (by decide) rfl rfl
  refine decode_encode l ?_ hw
  rw [major8 f0, decodeMulDiv, f1, f2, b0, b1, b2, b3]; rfl

theorem Sys2Proof.Laws.RoundTrip.rem (d : RegNo) (a : RegNo) (b : RegNo) (w : BitVec 1) : Statement (.rem d a b w) := by
  intro hw
  obtain ⟨l, f0, f1, f2, b0, b1, b2, b3⟩ := fields1 (encodeNat (.rem d a b w)) d a b w 0 5 8 268435536 (by decide) rfl rfl
  refine decode_encode l ?_ hw
  rw [major8 f0, decodeMulDiv, f1, f2, b0, b1, b2, b3]; rfl

theorem Sys2Proof.Laws.RoundTrip.remn (d : RegNo) (a : RegNo) (b : RegNo) (w : BitVec 1) : Statement (.remn d a b w) := by
  intro hw
  obtain ⟨l, f0, f1, f2, b0, b1, b2, b3⟩ := fields1 (encodeNat (.remn d a b w)) d a b w 0 6 8 268435552 (by decide) rfl rfl
  refine decode_encode l ?_ hw
  rw [major8 f0, decodeMulDiv, f1, f2, b0, b1, b2, b3]; rfl

theorem Sys2Proof.Laws.RoundTrip.clz (d : RegNo) (a : RegNo) (w : BitVec 1) : Statement (.clz d a w) := by
  intro hw
  obtain ⟨l, f0, f1, f2, f3, b0, b1, b2⟩ := fields6 (encodeNat (.clz d a w)) d a w 0 0 0 9 301989888 (by decide) rfl rfl
  refine decode_encode l ?_ hw
  rw [major9 f0, decodeBits, f1, f2, f3, b0, b1, b2]; rfl

theorem Sys2Proof.Laws.RoundTrip.ctz (d : RegNo) (a : RegNo) (w : BitVec 1) : Statement (.ctz d a w) := by
  intro hw
  obtain ⟨l, f0, f1, f2, f3, b0, b1, b2⟩ := fields6 (encodeNat (.ctz d a w)) d a w 0 1 0 9 301989904 (by decide) rfl rfl
  refine decode_encode l ?_ hw
  rw [major9 f0, decodeBits, f1, f2, f3, b0, b1, b2]; rfl

theorem Sys2Proof.Laws.RoundTrip.pop (d : RegNo) (a : RegNo) (w : BitVec 1) : Statement (.pop d a w) := by
  intro hw
  obtain ⟨l, f0, f1, f2, f3, b0, b1, b2⟩ := fields6 (encodeNat (.pop d a w)) d a w 0 2 0 9 301989920 (by decide) rfl rfl
  refine decode_encode l ?_ hw
  rw [major9 f0, decodeBits, f1, f2, f3, b0, b1, b2]; rfl

theorem Sys2Proof.Laws.RoundTrip.brev (d : RegNo) (a : RegNo) (w : BitVec 1) : Statement (.brev d a w) := by
  intro hw
  obtain ⟨l, f0, f1, f2, f3, b0, b1, b2⟩ := fields6 (encodeNat (.brev d a w)) d a w 0 3 0 9 301989936 (by decide) rfl rfl
  refine decode_encode l ?_ hw
  rw [major9 f0, decodeBits, f1, f2, f3, b0, b1, b2]; rfl

theorem Sys2Proof.Laws.RoundTrip.sext (d : RegNo) (a : RegNo) (b : RegNo) (w : BitVec 1) : Statement (.sext d a b w) := by
  intro hw
  obtain ⟨l, f0, f1, f2, b0, b1, b2, b3⟩ := fields1 (encodeNat (.sext d a b w)) d a b w 0 4 9 301989952 (by decide) rfl rfl
  refine decode_encode l ?_ hw
  rw [major9 f0, decodeBits, f1, f2, b0, b1, b2, b3]; rfl

theorem Sys2Proof.Laws.RoundTrip.zext (d : RegNo) (a : RegNo) (b : RegNo) (w : BitVec 1) : Statement (.zext d a b w) := by
  intro hw
  obtain ⟨l, f0, f1, f2, b0, b1, b2, b3⟩ := fields1 (encodeNat (.zext d a b w)) d a b w 0 5 9 301989968 (by decide) rfl rfl
  refine decode_encode l ?_ hw
  rw [major9 f0, decodeBits, f1, f2, b0, b1, b2, b3]; rfl

theorem Sys2Proof.Laws.RoundTrip.bext (d : RegNo) (a : RegNo) (b : RegNo) (w : BitVec 1) : Statement (.bext d a b w) := by
  intro hw
  obtain ⟨l, f0, f1, f2, b0, b1, b2, b3⟩ := fields1 (encodeNat (.bext d a b w)) d a b w 0 6 9 301989984 (by decide) rfl rfl
  refine decode_encode l ?_ hw
  rw [major9 f0, decodeBits, f1, f2, b0, b1, b2, b3]; rfl

theorem Sys2Proof.Laws.RoundTrip.bins (d : RegNo) (a : RegNo) (b : RegNo) (w : BitVec 1) : Statement (.bins d a b w) := by
  intro hw
  obtain ⟨l, f0, f1, f2, b0, b1, b2, b3⟩ := fields1 (encodeNat (.bins d a b w)) d a b w 0 7 9 301990000 (by decide) rfl rfl
  refine decode_encode l ?_ hw
  rw [major9 f0, decodeBits, f1, f2, b0, b1, b2, b3]; rfl

theorem Sys2Proof.Laws.RoundTrip.vadd (d : RegNo) (a : RegNo) (b : RegNo) (p : BitVec 3) (l : BitVec 2) : Statement (.vadd d a b p l) := by
  intro hw
  obtain ⟨l, f0, f1, b0, b1, b2, b3, b4⟩ := fields7 (encodeNat (.vadd d a b p l)) d a b p l 0 16 536870912 (by decide) rfl rfl
  refine decode_encode l ?_ hw
  rw [major16 f0, decodeVint, f1, b0, b1, b2, b3, b4]; rfl

theorem Sys2Proof.Laws.RoundTrip.vsub (d : RegNo) (a : RegNo) (b : RegNo) (p : BitVec 3) (l : BitVec 2) : Statement (.vsub d a b p l) := by
  intro hw
  obtain ⟨l, f0, f1, b0, b1, b2, b3, b4⟩ := fields7 (encodeNat (.vsub d a b p l)) d a b p l 1 16 536870913 (by decide) rfl rfl
  refine decode_encode l ?_ hw
  rw [major16 f0, decodeVint, f1, b0, b1, b2, b3, b4]; rfl

theorem Sys2Proof.Laws.RoundTrip.vmul (d : RegNo) (a : RegNo) (b : RegNo) (p : BitVec 3) (l : BitVec 2) : Statement (.vmul d a b p l) := by
  intro hw
  obtain ⟨l, f0, f1, b0, b1, b2, b3, b4⟩ := fields7 (encodeNat (.vmul d a b p l)) d a b p l 2 16 536870914 (by decide) rfl rfl
  refine decode_encode l ?_ hw
  rw [major16 f0, decodeVint, f1, b0, b1, b2, b3, b4]; rfl

theorem Sys2Proof.Laws.RoundTrip.vmulh (d : RegNo) (a : RegNo) (b : RegNo) (p : BitVec 3) (l : BitVec 2) : Statement (.vmulh d a b p l) := by
  intro hw
  obtain ⟨l, f0, f1, b0, b1, b2, b3, b4⟩ := fields7 (encodeNat (.vmulh d a b p l)) d a b p l 3 16 536870915 (by decide) rfl rfl
  refine decode_encode l ?_ hw
  rw [major16 f0, decodeVint, f1, b0, b1, b2, b3, b4]; rfl

theorem Sys2Proof.Laws.RoundTrip.vmulhn (d : RegNo) (a : RegNo) (b : RegNo) (p : BitVec 3) (l : BitVec 2) : Statement (.vmulhn d a b p l) := by
  intro hw
  obtain ⟨l, f0, f1, b0, b1, b2, b3, b4⟩ := fields7 (encodeNat (.vmulhn d a b p l)) d a b p l 4 16 536870916 (by decide) rfl rfl
  refine decode_encode l ?_ hw
  rw [major16 f0, decodeVint, f1, b0, b1, b2, b3, b4]; rfl

theorem Sys2Proof.Laws.RoundTrip.vmin (d : RegNo) (a : RegNo) (b : RegNo) (p : BitVec 3) (l : BitVec 2) : Statement (.vmin d a b p l) := by
  intro hw
  obtain ⟨l, f0, f1, b0, b1, b2, b3, b4⟩ := fields7 (encodeNat (.vmin d a b p l)) d a b p l 5 16 536870917 (by decide) rfl rfl
  refine decode_encode l ?_ hw
  rw [major16 f0, decodeVint, f1, b0, b1, b2, b3, b4]; rfl

theorem Sys2Proof.Laws.RoundTrip.vmax (d : RegNo) (a : RegNo) (b : RegNo) (p : BitVec 3) (l : BitVec 2) : Statement (.vmax d a b p l) := by
  intro hw
  obtain ⟨l, f0, f1, b0, b1, b2, b3, b4⟩ := fields7 (encodeNat (.vmax d a b p l)) d a b p l 6 16 536870918 (by decide) rfl rfl
  refine decode_encode l ?_ hw
  rw [major16 f0, decodeVint, f1, b0, b1, b2, b3, b4]; rfl

theorem Sys2Proof.Laws.RoundTrip.vminn (d : RegNo) (a : RegNo) (b : RegNo) (p : BitVec 3) (l : BitVec 2) : Statement (.vminn d a b p l) := by
  intro hw
  obtain ⟨l, f0, f1, b0, b1, b2, b3, b4⟩ := fields7 (encodeNat (.vminn d a b p l)) d a b p l 7 16 536870919 (by decide) rfl rfl
  refine decode_encode l ?_ hw
  rw [major16 f0, decodeVint, f1, b0, b1, b2, b3, b4]; rfl

theorem Sys2Proof.Laws.RoundTrip.vmaxn (d : RegNo) (a : RegNo) (b : RegNo) (p : BitVec 3) (l : BitVec 2) : Statement (.vmaxn d a b p l) := by
  intro hw
  obtain ⟨l, f0, f1, b0, b1, b2, b3, b4⟩ := fields7 (encodeNat (.vmaxn d a b p l)) d a b p l 8 16 536870920 (by decide) rfl rfl
  refine decode_encode l ?_ hw
  rw [major16 f0, decodeVint, f1, b0, b1, b2, b3, b4]; rfl

theorem Sys2Proof.Laws.RoundTrip.vabs (d : RegNo) (a : RegNo) (p : BitVec 3) (l : BitVec 2) : Statement (.vabs d a p l) := by
  intro hw
  obtain ⟨l, f0, f1, f2, b0, b1, b2, b3⟩ := fields8 (encodeNat (.vabs d a p l)) d a p l 9 0 16 536870921 (by decide) rfl rfl
  refine decode_encode l ?_ hw
  rw [major16 f0, decodeVint, f1, f2, b0, b1, b2, b3]; rfl

theorem Sys2Proof.Laws.RoundTrip.vneg (d : RegNo) (a : RegNo) (p : BitVec 3) (l : BitVec 2) : Statement (.vneg d a p l) := by
  intro hw
  obtain ⟨l, f0, f1, f2, b0, b1, b2, b3⟩ := fields8 (encodeNat (.vneg d a p l)) d a p l 10 0 16 536870922 (by decide) rfl rfl
  refine decode_encode l ?_ hw
  rw [major16 f0, decodeVint, f1, f2, b0, b1, b2, b3]; rfl

theorem Sys2Proof.Laws.RoundTrip.vand (d : RegNo) (a : RegNo) (b : RegNo) (p : BitVec 3) (l : BitVec 2) : Statement (.vand d a b p l) := by
  intro hw
  obtain ⟨l, f0, f1, b0, b1, b2, b3, b4⟩ := fields7 (encodeNat (.vand d a b p l)) d a b p l 11 16 536870923 (by decide) rfl rfl
  refine decode_encode l ?_ hw
  rw [major16 f0, decodeVint, f1, b0, b1, b2, b3, b4]; rfl

theorem Sys2Proof.Laws.RoundTrip.vor (d : RegNo) (a : RegNo) (b : RegNo) (p : BitVec 3) (l : BitVec 2) : Statement (.vor d a b p l) := by
  intro hw
  obtain ⟨l, f0, f1, b0, b1, b2, b3, b4⟩ := fields7 (encodeNat (.vor d a b p l)) d a b p l 12 16 536870924 (by decide) rfl rfl
  refine decode_encode l ?_ hw
  rw [major16 f0, decodeVint, f1, b0, b1, b2, b3, b4]; rfl

theorem Sys2Proof.Laws.RoundTrip.vxor (d : RegNo) (a : RegNo) (b : RegNo) (p : BitVec 3) (l : BitVec 2) : Statement (.vxor d a b p l) := by
  intro hw
  obtain ⟨l, f0, f1, b0, b1, b2, b3, b4⟩ := fields7 (encodeNat (.vxor d a b p l)) d a b p l 13 16 536870925 (by decide) rfl rfl
  refine decode_encode l ?_ hw
  rw [major16 f0, decodeVint, f1, b0, b1, b2, b3, b4]; rfl

theorem Sys2Proof.Laws.RoundTrip.vandn (d : RegNo) (a : RegNo) (b : RegNo) (p : BitVec 3) (l : BitVec 2) : Statement (.vandn d a b p l) := by
  intro hw
  obtain ⟨l, f0, f1, b0, b1, b2, b3, b4⟩ := fields7 (encodeNat (.vandn d a b p l)) d a b p l 14 16 536870926 (by decide) rfl rfl
  refine decode_encode l ?_ hw
  rw [major16 f0, decodeVint, f1, b0, b1, b2, b3, b4]; rfl

theorem Sys2Proof.Laws.RoundTrip.vshl (d : RegNo) (a : RegNo) (b : RegNo) (p : BitVec 3) (l : BitVec 2) : Statement (.vshl d a b p l) := by
  intro hw
  obtain ⟨l, f0, f1, b0, b1, b2, b3, b4⟩ := fields7 (encodeNat (.vshl d a b p l)) d a b p l 15 16 536870927 (by decide) rfl rfl
  refine decode_encode l ?_ hw
  rw [major16 f0, decodeVint, f1, b0, b1, b2, b3, b4]; rfl

theorem Sys2Proof.Laws.RoundTrip.vshr (d : RegNo) (a : RegNo) (b : RegNo) (p : BitVec 3) (l : BitVec 2) : Statement (.vshr d a b p l) := by
  intro hw
  obtain ⟨l, f0, f1, b0, b1, b2, b3, b4⟩ := fields7 (encodeNat (.vshr d a b p l)) d a b p l 16 16 536870928 (by decide) rfl rfl
  refine decode_encode l ?_ hw
  rw [major16 f0, decodeVint, f1, b0, b1, b2, b3, b4]; rfl

theorem Sys2Proof.Laws.RoundTrip.vsra (d : RegNo) (a : RegNo) (b : RegNo) (p : BitVec 3) (l : BitVec 2) : Statement (.vsra d a b p l) := by
  intro hw
  obtain ⟨l, f0, f1, b0, b1, b2, b3, b4⟩ := fields7 (encodeNat (.vsra d a b p l)) d a b p l 17 16 536870929 (by decide) rfl rfl
  refine decode_encode l ?_ hw
  rw [major16 f0, decodeVint, f1, b0, b1, b2, b3, b4]; rfl

theorem Sys2Proof.Laws.RoundTrip.vadds (d : RegNo) (a : RegNo) (b : RegNo) (p : BitVec 3) (l : BitVec 2) : Statement (.vadds d a b p l) := by
  intro hw
  obtain ⟨l, f0, f1, b0, b1, b2, b3, b4⟩ := fields7 (encodeNat (.vadds d a b p l)) d a b p l 18 16 536870930 (by decide) rfl rfl
  refine decode_encode l ?_ hw
  rw [major16 f0, decodeVint, f1, b0, b1, b2, b3, b4]; rfl

theorem Sys2Proof.Laws.RoundTrip.vaddsn (d : RegNo) (a : RegNo) (b : RegNo) (p : BitVec 3) (l : BitVec 2) : Statement (.vaddsn d a b p l) := by
  intro hw
  obtain ⟨l, f0, f1, b0, b1, b2, b3, b4⟩ := fields7 (encodeNat (.vaddsn d a b p l)) d a b p l 19 16 536870931 (by decide) rfl rfl
  refine decode_encode l ?_ hw
  rw [major16 f0, decodeVint, f1, b0, b1, b2, b3, b4]; rfl

theorem Sys2Proof.Laws.RoundTrip.vsubs (d : RegNo) (a : RegNo) (b : RegNo) (p : BitVec 3) (l : BitVec 2) : Statement (.vsubs d a b p l) := by
  intro hw
  obtain ⟨l, f0, f1, b0, b1, b2, b3, b4⟩ := fields7 (encodeNat (.vsubs d a b p l)) d a b p l 20 16 536870932 (by decide) rfl rfl
  refine decode_encode l ?_ hw
  rw [major16 f0, decodeVint, f1, b0, b1, b2, b3, b4]; rfl

theorem Sys2Proof.Laws.RoundTrip.vsubsn (d : RegNo) (a : RegNo) (b : RegNo) (p : BitVec 3) (l : BitVec 2) : Statement (.vsubsn d a b p l) := by
  intro hw
  obtain ⟨l, f0, f1, b0, b1, b2, b3, b4⟩ := fields7 (encodeNat (.vsubsn d a b p l)) d a b p l 21 16 536870933 (by decide) rfl rfl
  refine decode_encode l ?_ hw
  rw [major16 f0, decodeVint, f1, b0, b1, b2, b3, b4]; rfl

theorem Sys2Proof.Laws.RoundTrip.vavg (d : RegNo) (a : RegNo) (b : RegNo) (p : BitVec 3) (l : BitVec 2) : Statement (.vavg d a b p l) := by
  intro hw
  obtain ⟨l, f0, f1, b0, b1, b2, b3, b4⟩ := fields7 (encodeNat (.vavg d a b p l)) d a b p l 22 16 536870934 (by decide) rfl rfl
  refine decode_encode l ?_ hw
  rw [major16 f0, decodeVint, f1, b0, b1, b2, b3, b4]; rfl

theorem Sys2Proof.Laws.RoundTrip.vavgn (d : RegNo) (a : RegNo) (b : RegNo) (p : BitVec 3) (l : BitVec 2) : Statement (.vavgn d a b p l) := by
  intro hw
  obtain ⟨l, f0, f1, b0, b1, b2, b3, b4⟩ := fields7 (encodeNat (.vavgn d a b p l)) d a b p l 23 16 536870935 (by decide) rfl rfl
  refine decode_encode l ?_ hw
  rw [major16 f0, decodeVint, f1, b0, b1, b2, b3, b4]; rfl

theorem Sys2Proof.Laws.RoundTrip.vcmpeq (d : BitVec 3) (a : RegNo) (b : RegNo) (p : BitVec 3) (l : BitVec 2) : Statement (.vcmpeq d a b p l) := by
  intro hw
  obtain ⟨l, f0, f1, f2, b0, b1, b2, b3, b4⟩ := fields9 (encodeNat (.vcmpeq d a b p l)) d a b p l 0 0 17 570425344 (by decide) rfl rfl
  refine decode_encode l ?_ hw
  rw [major17 f0, decodeVcmp, f1, f2, b0, b1, b2, b3, b4]; rfl

theorem Sys2Proof.Laws.RoundTrip.vcmpne (d : BitVec 3) (a : RegNo) (b : RegNo) (p : BitVec 3) (l : BitVec 2) : Statement (.vcmpne d a b p l) := by
  intro hw
  obtain ⟨l, f0, f1, f2, b0, b1, b2, b3, b4⟩ := fields9 (encodeNat (.vcmpne d a b p l)) d a b p l 1 0 17 570425345 (by decide) rfl rfl
  refine decode_encode l ?_ hw
  rw [major17 f0, decodeVcmp, f1, f2, b0, b1, b2, b3, b4]; rfl

theorem Sys2Proof.Laws.RoundTrip.vcmplt (d : BitVec 3) (a : RegNo) (b : RegNo) (p : BitVec 3) (l : BitVec 2) : Statement (.vcmplt d a b p l) := by
  intro hw
  obtain ⟨l, f0, f1, f2, b0, b1, b2, b3, b4⟩ := fields9 (encodeNat (.vcmplt d a b p l)) d a b p l 2 0 17 570425346 (by decide) rfl rfl
  refine decode_encode l ?_ hw
  rw [major17 f0, decodeVcmp, f1, f2, b0, b1, b2, b3, b4]; rfl

theorem Sys2Proof.Laws.RoundTrip.vcmple (d : BitVec 3) (a : RegNo) (b : RegNo) (p : BitVec 3) (l : BitVec 2) : Statement (.vcmple d a b p l) := by
  intro hw
  obtain ⟨l, f0, f1, f2, b0, b1, b2, b3, b4⟩ := fields9 (encodeNat (.vcmple d a b p l)) d a b p l 3 0 17 570425347 (by decide) rfl rfl
  refine decode_encode l ?_ hw
  rw [major17 f0, decodeVcmp, f1, f2, b0, b1, b2, b3, b4]; rfl

theorem Sys2Proof.Laws.RoundTrip.vcmpltn (d : BitVec 3) (a : RegNo) (b : RegNo) (p : BitVec 3) (l : BitVec 2) : Statement (.vcmpltn d a b p l) := by
  intro hw
  obtain ⟨l, f0, f1, f2, b0, b1, b2, b3, b4⟩ := fields9 (encodeNat (.vcmpltn d a b p l)) d a b p l 4 0 17 570425348 (by decide) rfl rfl
  refine decode_encode l ?_ hw
  rw [major17 f0, decodeVcmp, f1, f2, b0, b1, b2, b3, b4]; rfl

theorem Sys2Proof.Laws.RoundTrip.vcmplen (d : BitVec 3) (a : RegNo) (b : RegNo) (p : BitVec 3) (l : BitVec 2) : Statement (.vcmplen d a b p l) := by
  intro hw
  obtain ⟨l, f0, f1, f2, b0, b1, b2, b3, b4⟩ := fields9 (encodeNat (.vcmplen d a b p l)) d a b p l 5 0 17 570425349 (by decide) rfl rfl
  refine decode_encode l ?_ hw
  rw [major17 f0, decodeVcmp, f1, f2, b0, b1, b2, b3, b4]; rfl

theorem Sys2Proof.Laws.RoundTrip.vfcmpeq (d : BitVec 3) (a : RegNo) (b : RegNo) (p : BitVec 3) (l : BitVec 2) : Statement (.vfcmpeq d a b p l) := by
  intro hw
  obtain ⟨l, f0, f1, f2, b0, b1, b2, b3, b4⟩ := fields9 (encodeNat (.vfcmpeq d a b p l)) d a b p l 6 0 17 570425350 (by decide) rfl rfl
  refine decode_encode l ?_ hw
  rw [major17 f0, decodeVcmp, f1, f2, b0, b1, b2, b3, b4]; rfl

theorem Sys2Proof.Laws.RoundTrip.vfcmplt (d : BitVec 3) (a : RegNo) (b : RegNo) (p : BitVec 3) (l : BitVec 2) : Statement (.vfcmplt d a b p l) := by
  intro hw
  obtain ⟨l, f0, f1, f2, b0, b1, b2, b3, b4⟩ := fields9 (encodeNat (.vfcmplt d a b p l)) d a b p l 7 0 17 570425351 (by decide) rfl rfl
  refine decode_encode l ?_ hw
  rw [major17 f0, decodeVcmp, f1, f2, b0, b1, b2, b3, b4]; rfl

theorem Sys2Proof.Laws.RoundTrip.vfcmple (d : BitVec 3) (a : RegNo) (b : RegNo) (p : BitVec 3) (l : BitVec 2) : Statement (.vfcmple d a b p l) := by
  intro hw
  obtain ⟨l, f0, f1, f2, b0, b1, b2, b3, b4⟩ := fields9 (encodeNat (.vfcmple d a b p l)) d a b p l 8 0 17 570425352 (by decide) rfl rfl
  refine decode_encode l ?_ hw
  rw [major17 f0, decodeVcmp, f1, f2, b0, b1, b2, b3, b4]; rfl

theorem Sys2Proof.Laws.RoundTrip.vfcmpun (d : BitVec 3) (a : RegNo) (b : RegNo) (p : BitVec 3) (l : BitVec 2) : Statement (.vfcmpun d a b p l) := by
  intro hw
  obtain ⟨l, f0, f1, f2, b0, b1, b2, b3, b4⟩ := fields9 (encodeNat (.vfcmpun d a b p l)) d a b p l 9 0 17 570425353 (by decide) rfl rfl
  refine decode_encode l ?_ hw
  rw [major17 f0, decodeVcmp, f1, f2, b0, b1, b2, b3, b4]; rfl

theorem Sys2Proof.Laws.RoundTrip.vfadd (d : RegNo) (a : RegNo) (b : RegNo) (p : BitVec 3) (l : BitVec 2) : Statement (.vfadd d a b p l) := by
  intro hw
  obtain ⟨l, f0, f1, b0, b1, b2, b3, b4⟩ := fields7 (encodeNat (.vfadd d a b p l)) d a b p l 0 18 603979776 (by decide) rfl rfl
  refine decode_encode l ?_ hw
  rw [major18 f0, decodeVfp, f1, b0, b1, b2, b3, b4]; rfl

theorem Sys2Proof.Laws.RoundTrip.vfsub (d : RegNo) (a : RegNo) (b : RegNo) (p : BitVec 3) (l : BitVec 2) : Statement (.vfsub d a b p l) := by
  intro hw
  obtain ⟨l, f0, f1, b0, b1, b2, b3, b4⟩ := fields7 (encodeNat (.vfsub d a b p l)) d a b p l 1 18 603979777 (by decide) rfl rfl
  refine decode_encode l ?_ hw
  rw [major18 f0, decodeVfp, f1, b0, b1, b2, b3, b4]; rfl

theorem Sys2Proof.Laws.RoundTrip.vfmul (d : RegNo) (a : RegNo) (b : RegNo) (p : BitVec 3) (l : BitVec 2) : Statement (.vfmul d a b p l) := by
  intro hw
  obtain ⟨l, f0, f1, b0, b1, b2, b3, b4⟩ := fields7 (encodeNat (.vfmul d a b p l)) d a b p l 2 18 603979778 (by decide) rfl rfl
  refine decode_encode l ?_ hw
  rw [major18 f0, decodeVfp, f1, b0, b1, b2, b3, b4]; rfl

theorem Sys2Proof.Laws.RoundTrip.vfmin (d : RegNo) (a : RegNo) (b : RegNo) (p : BitVec 3) (l : BitVec 2) : Statement (.vfmin d a b p l) := by
  intro hw
  obtain ⟨l, f0, f1, b0, b1, b2, b3, b4⟩ := fields7 (encodeNat (.vfmin d a b p l)) d a b p l 3 18 603979779 (by decide) rfl rfl
  refine decode_encode l ?_ hw
  rw [major18 f0, decodeVfp, f1, b0, b1, b2, b3, b4]; rfl

theorem Sys2Proof.Laws.RoundTrip.vfmax (d : RegNo) (a : RegNo) (b : RegNo) (p : BitVec 3) (l : BitVec 2) : Statement (.vfmax d a b p l) := by
  intro hw
  obtain ⟨l, f0, f1, b0, b1, b2, b3, b4⟩ := fields7 (encodeNat (.vfmax d a b p l)) d a b p l 4 18 603979780 (by decide) rfl rfl
  refine decode_encode l ?_ hw
  rw [major18 f0, decodeVfp, f1, b0, b1, b2, b3, b4]; rfl

theorem Sys2Proof.Laws.RoundTrip.vfabs (d : RegNo) (a : RegNo) (p : BitVec 3) (l : BitVec 2) : Statement (.vfabs d a p l) := by
  intro hw
  obtain ⟨l, f0, f1, f2, b0, b1, b2, b3⟩ := fields8 (encodeNat (.vfabs d a p l)) d a p l 5 0 18 603979781 (by decide) rfl rfl
  refine decode_encode l ?_ hw
  rw [major18 f0, decodeVfp, f1, f2, b0, b1, b2, b3]; rfl

theorem Sys2Proof.Laws.RoundTrip.vfneg (d : RegNo) (a : RegNo) (p : BitVec 3) (l : BitVec 2) : Statement (.vfneg d a p l) := by
  intro hw
  obtain ⟨l, f0, f1, f2, b0, b1, b2, b3⟩ := fields8 (encodeNat (.vfneg d a p l)) d a p l 6 0 18 603979782 (by decide) rfl rfl
  refine decode_encode l ?_ hw
  rw [major18 f0, decodeVfp, f1, f2, b0, b1, b2, b3]; rfl

theorem Sys2Proof.Laws.RoundTrip.vfrcp (d : RegNo) (a : RegNo) (p : BitVec 3) (l : BitVec 2) : Statement (.vfrcp d a p l) := by
  intro hw
  obtain ⟨l, f0, f1, f2, b0, b1, b2, b3⟩ := fields8 (encodeNat (.vfrcp d a p l)) d a p l 7 0 18 603979783 (by decide) rfl rfl
  refine decode_encode l ?_ hw
  rw [major18 f0, decodeVfp, f1, f2, b0, b1, b2, b3]; rfl

theorem Sys2Proof.Laws.RoundTrip.vfrsq (d : RegNo) (a : RegNo) (p : BitVec 3) (l : BitVec 2) : Statement (.vfrsq d a p l) := by
  intro hw
  obtain ⟨l, f0, f1, f2, b0, b1, b2, b3⟩ := fields8 (encodeNat (.vfrsq d a p l)) d a p l 8 0 18 603979784 (by decide) rfl rfl
  refine decode_encode l ?_ hw
  rw [major18 f0, decodeVfp, f1, f2, b0, b1, b2, b3]; rfl

theorem Sys2Proof.Laws.RoundTrip.vfma (d : RegNo) (a : RegNo) (b : RegNo) (c : RegNo) (l : BitVec 2) : Statement (.vfma d a b c l) := by
  intro hw
  obtain ⟨l, f0, f1, b0, b1, b2, b3, b4⟩ := fields10 (encodeNat (.vfma d a b c l)) d a b c l 0 19 637534208 (by decide) rfl rfl
  refine decode_encode l ?_ hw
  rw [major19 f0, decodeVfma, f1, b0, b1, b2, b3, b4]; rfl

theorem Sys2Proof.Laws.RoundTrip.vfms (d : RegNo) (a : RegNo) (b : RegNo) (c : RegNo) (l : BitVec 2) : Statement (.vfms d a b c l) := by
  intro hw
  obtain ⟨l, f0, f1, b0, b1, b2, b3, b4⟩ := fields10 (encodeNat (.vfms d a b c l)) d a b c l 1 19 637534209 (by decide) rfl rfl
  refine decode_encode l ?_ hw
  rw [major19 f0, decodeVfma, f1, b0, b1, b2, b3, b4]; rfl

theorem Sys2Proof.Laws.RoundTrip.vfnma (d : RegNo) (a : RegNo) (b : RegNo) (c : RegNo) (l : BitVec 2) : Statement (.vfnma d a b c l) := by
  intro hw
  obtain ⟨l, f0, f1, b0, b1, b2, b3, b4⟩ := fields10 (encodeNat (.vfnma d a b c l)) d a b c l 2 19 637534210 (by decide) rfl rfl
  refine decode_encode l ?_ hw
  rw [major19 f0, decodeVfma, f1, b0, b1, b2, b3, b4]; rfl

theorem Sys2Proof.Laws.RoundTrip.vfnms (d : RegNo) (a : RegNo) (b : RegNo) (c : RegNo) (l : BitVec 2) : Statement (.vfnms d a b c l) := by
  intro hw
  obtain ⟨l, f0, f1, b0, b1, b2, b3, b4⟩ := fields10 (encodeNat (.vfnms d a b c l)) d a b c l 3 19 637534211 (by decide) rfl rfl
  refine decode_encode l ?_ hw
  rw [major19 f0, decodeVfma, f1, b0, b1, b2, b3, b4]; rfl

theorem Sys2Proof.Laws.RoundTrip.vmac (d : RegNo) (a : RegNo) (b : RegNo) (c : RegNo) (l : BitVec 2) : Statement (.vmac d a b c l) := by
  intro hw
  obtain ⟨l, f0, f1, b0, b1, b2, b3, b4⟩ := fields10 (encodeNat (.vmac d a b c l)) d a b c l 4 19 637534212 (by decide) rfl rfl
  refine decode_encode l ?_ hw
  rw [major19 f0, decodeVfma, f1, b0, b1, b2, b3, b4]; rfl

theorem Sys2Proof.Laws.RoundTrip.vmacn (d : RegNo) (a : RegNo) (b : RegNo) (c : RegNo) (l : BitVec 2) : Statement (.vmacn d a b c l) := by
  intro hw
  obtain ⟨l, f0, f1, b0, b1, b2, b3, b4⟩ := fields10 (encodeNat (.vmacn d a b c l)) d a b c l 5 19 637534213 (by decide) rfl rfl
  refine decode_encode l ?_ hw
  rw [major19 f0, decodeVfma, f1, b0, b1, b2, b3, b4]; rfl

theorem Sys2Proof.Laws.RoundTrip.vshuf (d : RegNo) (a : RegNo) (b : RegNo) (p : BitVec 3) (l : BitVec 2) : Statement (.vshuf d a b p l) := by
  intro hw
  obtain ⟨l, f0, f1, b0, b1, b2, b3, b4⟩ := fields7 (encodeNat (.vshuf d a b p l)) d a b p l 0 20 671088640 (by decide) rfl rfl
  refine decode_encode l ?_ hw
  rw [major20 f0, decodeVperm, f1, b0, b1, b2, b3, b4]; rfl

theorem Sys2Proof.Laws.RoundTrip.vsplat (d : RegNo) (a : RegNo) (p : BitVec 3) (l : BitVec 2) : Statement (.vsplat d a p l) := by
  intro hw
  obtain ⟨l, f0, f1, f2, b0, b1, b2, b3⟩ := fields8 (encodeNat (.vsplat d a p l)) d a p l 1 0 20 671088641 (by decide) rfl rfl
  refine decode_encode l ?_ hw
  rw [major20 f0, decodeVperm, f1, f2, b0, b1, b2, b3]; rfl

theorem Sys2Proof.Laws.RoundTrip.vext (d : RegNo) (a : RegNo) (b : RegNo) (l : BitVec 2) : Statement (.vext d a b l) := by
  intro hw
  obtain ⟨l, f0, f1, f2, b0, b1, b2, b3⟩ := fields11 (encodeNat (.vext d a b l)) d a b l 2 0 20 671088642 (by decide) rfl rfl
  refine decode_encode l ?_ hw
  rw [major20 f0, decodeVperm, f1, f2, b0, b1, b2, b3]; rfl

theorem Sys2Proof.Laws.RoundTrip.vins (d : RegNo) (a : RegNo) (b : RegNo) (p : BitVec 3) (l : BitVec 2) : Statement (.vins d a b p l) := by
  intro hw
  obtain ⟨l, f0, f1, b0, b1, b2, b3, b4⟩ := fields7 (encodeNat (.vins d a b p l)) d a b p l 3 20 671088643 (by decide) rfl rfl
  refine decode_encode l ?_ hw
  rw [major20 f0, decodeVperm, f1, b0, b1, b2, b3, b4]; rfl

theorem Sys2Proof.Laws.RoundTrip.vzip (d : RegNo) (a : RegNo) (b : RegNo) (p : BitVec 3) (l : BitVec 2) : Statement (.vzip d a b p l) := by
  intro hw
  obtain ⟨l, f0, f1, b0, b1, b2, b3, b4⟩ := fields7 (encodeNat (.vzip d a b p l)) d a b p l 4 20 671088644 (by decide) rfl rfl
  refine decode_encode l ?_ hw
  rw [major20 f0, decodeVperm, f1, b0, b1, b2, b3, b4]; rfl

theorem Sys2Proof.Laws.RoundTrip.vunzip (d : RegNo) (a : RegNo) (b : RegNo) (p : BitVec 3) (l : BitVec 2) : Statement (.vunzip d a b p l) := by
  intro hw
  obtain ⟨l, f0, f1, b0, b1, b2, b3, b4⟩ := fields7 (encodeNat (.vunzip d a b p l)) d a b p l 5 20 671088645 (by decide) rfl rfl
  refine decode_encode l ?_ hw
  rw [major20 f0, decodeVperm, f1, b0, b1, b2, b3, b4]; rfl

theorem Sys2Proof.Laws.RoundTrip.vrot (d : RegNo) (a : RegNo) (b : RegNo) (p : BitVec 3) (l : BitVec 2) : Statement (.vrot d a b p l) := by
  intro hw
  obtain ⟨l, f0, f1, b0, b1, b2, b3, b4⟩ := fields7 (encodeNat (.vrot d a b p l)) d a b p l 6 20 671088646 (by decide) rfl rfl
  refine decode_encode l ?_ hw
  rw [major20 f0, decodeVperm, f1, b0, b1, b2, b3, b4]; rfl

theorem Sys2Proof.Laws.RoundTrip.vsel (d : RegNo) (a : RegNo) (b : RegNo) (p : BitVec 3) (l : BitVec 2) : Statement (.vsel d a b p l) := by
  intro hw
  obtain ⟨l, f0, f1, b0, b1, b2, b3, b4⟩ := fields7 (encodeNat (.vsel d a b p l)) d a b p l 7 20 671088647 (by decide) rfl rfl
  refine decode_encode l ?_ hw
  rw [major20 f0, decodeVperm, f1, b0, b1, b2, b3, b4]; rfl

theorem Sys2Proof.Laws.RoundTrip.vmov (d : RegNo) (a : RegNo) (p : BitVec 3) (l : BitVec 2) : Statement (.vmov d a p l) := by
  intro hw
  obtain ⟨l, f0, f1, f2, b0, b1, b2, b3⟩ := fields8 (encodeNat (.vmov d a p l)) d a p l 8 0 20 671088648 (by decide) rfl rfl
  refine decode_encode l ?_ hw
  rw [major20 f0, decodeVperm, f1, f2, b0, b1, b2, b3]; rfl

theorem Sys2Proof.Laws.RoundTrip.vredadd (d : RegNo) (a : RegNo) (p : BitVec 3) (l : BitVec 2) : Statement (.vredadd d a p l) := by
  intro hw
  obtain ⟨l, f0, f1, f2, b0, b1, b2, b3⟩ := fields8 (encodeNat (.vredadd d a p l)) d a p l 0 0 21 704643072 (by decide) rfl rfl
  refine decode_encode l ?_ hw
  rw [major21 f0, decodeVred, f1, f2, b0, b1, b2, b3]; rfl

theorem Sys2Proof.Laws.RoundTrip.vfredadd (d : RegNo) (a : RegNo) (p : BitVec 3) (l : BitVec 2) : Statement (.vfredadd d a p l) := by
  intro hw
  obtain ⟨l, f0, f1, f2, b0, b1, b2, b3⟩ := fields8 (encodeNat (.vfredadd d a p l)) d a p l 1 0 21 704643073 (by decide) rfl rfl
  refine decode_encode l ?_ hw
  rw [major21 f0, decodeVred, f1, f2, b0, b1, b2, b3]; rfl

theorem Sys2Proof.Laws.RoundTrip.vredmin (d : RegNo) (a : RegNo) (p : BitVec 3) (l : BitVec 2) : Statement (.vredmin d a p l) := by
  intro hw
  obtain ⟨l, f0, f1, f2, b0, b1, b2, b3⟩ := fields8 (encodeNat (.vredmin d a p l)) d a p l 2 0 21 704643074 (by decide) rfl rfl
  refine decode_encode l ?_ hw
  rw [major21 f0, decodeVred, f1, f2, b0, b1, b2, b3]; rfl

theorem Sys2Proof.Laws.RoundTrip.vredmax (d : RegNo) (a : RegNo) (p : BitVec 3) (l : BitVec 2) : Statement (.vredmax d a p l) := by
  intro hw
  obtain ⟨l, f0, f1, f2, b0, b1, b2, b3⟩ := fields8 (encodeNat (.vredmax d a p l)) d a p l 3 0 21 704643075 (by decide) rfl rfl
  refine decode_encode l ?_ hw
  rw [major21 f0, decodeVred, f1, f2, b0, b1, b2, b3]; rfl

theorem Sys2Proof.Laws.RoundTrip.vredminn (d : RegNo) (a : RegNo) (p : BitVec 3) (l : BitVec 2) : Statement (.vredminn d a p l) := by
  intro hw
  obtain ⟨l, f0, f1, f2, b0, b1, b2, b3⟩ := fields8 (encodeNat (.vredminn d a p l)) d a p l 4 0 21 704643076 (by decide) rfl rfl
  refine decode_encode l ?_ hw
  rw [major21 f0, decodeVred, f1, f2, b0, b1, b2, b3]; rfl

theorem Sys2Proof.Laws.RoundTrip.vredmaxn (d : RegNo) (a : RegNo) (p : BitVec 3) (l : BitVec 2) : Statement (.vredmaxn d a p l) := by
  intro hw
  obtain ⟨l, f0, f1, f2, b0, b1, b2, b3⟩ := fields8 (encodeNat (.vredmaxn d a p l)) d a p l 5 0 21 704643077 (by decide) rfl rfl
  refine decode_encode l ?_ hw
  rw [major21 f0, decodeVred, f1, f2, b0, b1, b2, b3]; rfl

theorem Sys2Proof.Laws.RoundTrip.vdot8 (d : RegNo) (a : RegNo) (b : RegNo) (p : BitVec 3) (l : BitVec 2) : Statement (.vdot8 d a b p l) := by
  intro hw
  obtain ⟨l, f0, f1, b0, b1, b2, b3, b4⟩ := fields7 (encodeNat (.vdot8 d a b p l)) d a b p l 6 21 704643078 (by decide) rfl rfl
  refine decode_encode l ?_ hw
  rw [major21 f0, decodeVred, f1, b0, b1, b2, b3, b4]; rfl

theorem Sys2Proof.Laws.RoundTrip.vdot8n (d : RegNo) (a : RegNo) (b : RegNo) (p : BitVec 3) (l : BitVec 2) : Statement (.vdot8n d a b p l) := by
  intro hw
  obtain ⟨l, f0, f1, b0, b1, b2, b3, b4⟩ := fields7 (encodeNat (.vdot8n d a b p l)) d a b p l 7 21 704643079 (by decide) rfl rfl
  refine decode_encode l ?_ hw
  rw [major21 f0, decodeVred, f1, b0, b1, b2, b3, b4]; rfl

theorem Sys2Proof.Laws.RoundTrip.vpop (d : RegNo) (a : RegNo) (p : BitVec 3) (l : BitVec 2) : Statement (.vpop d a p l) := by
  intro hw
  obtain ⟨l, f0, f1, f2, b0, b1, b2, b3⟩ := fields8 (encodeNat (.vpop d a p l)) d a p l 8 0 21 704643080 (by decide) rfl rfl
  refine decode_encode l ?_ hw
  rw [major21 f0, decodeVred, f1, f2, b0, b1, b2, b3]; rfl

theorem Sys2Proof.Laws.RoundTrip.vclz (d : RegNo) (a : RegNo) (p : BitVec 3) (l : BitVec 2) : Statement (.vclz d a p l) := by
  intro hw
  obtain ⟨l, f0, f1, f2, b0, b1, b2, b3⟩ := fields8 (encodeNat (.vclz d a p l)) d a p l 9 0 21 704643081 (by decide) rfl rfl
  refine decode_encode l ?_ hw
  rw [major21 f0, decodeVred, f1, f2, b0, b1, b2, b3]; rfl

theorem Sys2Proof.Laws.RoundTrip.vctz (d : RegNo) (a : RegNo) (p : BitVec 3) (l : BitVec 2) : Statement (.vctz d a p l) := by
  intro hw
  obtain ⟨l, f0, f1, f2, b0, b1, b2, b3⟩ := fields8 (encodeNat (.vctz d a p l)) d a p l 10 0 21 704643082 (by decide) rfl rfl
  refine decode_encode l ?_ hw
  rw [major21 f0, decodeVred, f1, f2, b0, b1, b2, b3]; rfl

theorem Sys2Proof.Laws.RoundTrip.vcvt (d : RegNo) (a : RegNo) (t : BitVec 4) (u : BitVec 4) (r : BitVec 3) (p : BitVec 3) : Statement (.vcvt d a t u r p) := by
  intro hw
  obtain ⟨l, f0, f1, b0, b1, b2, b3, b4, b5⟩ := fields12 (encodeNat (.vcvt d a t u r p)) d a t u r p 0 22 738197504 (by decide) rfl rfl
  refine decode_encode l ?_ hw
  rw [major22 f0, f1, b0, b1, b2, b3, b4, b5]; rfl

theorem Sys2Proof.Laws.RoundTrip.vdec (d : RegNo) (a : RegNo) (f : BitVec 1) (k : BitVec 3) (t : BitVec 2) : Statement (.vdec d a f k t) := by
  intro hw
  obtain ⟨l, f0, f1, f2, f3, b0, b1, b2, b3, b4⟩ := fields13 (encodeNat (.vdec d a f k t)) d a f k t 0 0 0 23 771751936 (by decide) rfl rfl
  refine decode_encode l ?_ hw
  rw [major23 f0, decodeVtab, f1, f2, f3, b0, b1, b2, b3, b4]; rfl

theorem Sys2Proof.Laws.RoundTrip.venc (d : RegNo) (a : RegNo) (f : BitVec 1) (k : BitVec 3) (t : BitVec 2) (r : BitVec 3) : Statement (.venc d a f k t r) := by
  intro hw
  obtain ⟨l, f0, f1, f2, b0, b1, b2, b3, b4, b5⟩ := fields14 (encodeNat (.venc d a f k t r)) d a f k t r 1 0 23 771751937 (by decide) rfl rfl
  refine decode_encode l ?_ hw
  rw [major23 f0, decodeVtab, f1, f2, b0, b1, b2, b3, b4, b5]; rfl

theorem Sys2Proof.Laws.RoundTrip.segev (d : RegNo) (a : RegNo) (t : BitVec 2) : Statement (.segev d a t) := by
  intro hw
  obtain ⟨l, f0, f1, f2, f3, b0, b1, b2⟩ := fields15 (encodeNat (.segev d a t)) d a t 2 0 0 23 771751938 (by decide) rfl rfl
  refine decode_encode l ?_ hw
  rw [major23 f0, decodeVtab, f1, f2, f3, b0, b1, b2]; rfl

theorem Sys2Proof.Laws.RoundTrip.beq (a : RegNo) (b : RegNo) (o : BitVec 12) : Statement (.beq a b o) := by
  intro hw
  obtain ⟨l, f0, f1, b0, b1, b2⟩ := fields16 (encodeNat (.beq a b o)) a b o 0 32 1073741824 (by decide) rfl rfl
  refine decode_encode l ?_ hw
  rw [major32 f0, decodeBr, f1, b0, b1, b2]; rfl

theorem Sys2Proof.Laws.RoundTrip.bne (a : RegNo) (b : RegNo) (o : BitVec 12) : Statement (.bne a b o) := by
  intro hw
  obtain ⟨l, f0, f1, b0, b1, b2⟩ := fields16 (encodeNat (.bne a b o)) a b o 1 32 1077936128 (by decide) rfl rfl
  refine decode_encode l ?_ hw
  rw [major32 f0, decodeBr, f1, b0, b1, b2]; rfl

theorem Sys2Proof.Laws.RoundTrip.blt (a : RegNo) (b : RegNo) (o : BitVec 12) : Statement (.blt a b o) := by
  intro hw
  obtain ⟨l, f0, f1, b0, b1, b2⟩ := fields16 (encodeNat (.blt a b o)) a b o 2 32 1082130432 (by decide) rfl rfl
  refine decode_encode l ?_ hw
  rw [major32 f0, decodeBr, f1, b0, b1, b2]; rfl

theorem Sys2Proof.Laws.RoundTrip.bge (a : RegNo) (b : RegNo) (o : BitVec 12) : Statement (.bge a b o) := by
  intro hw
  obtain ⟨l, f0, f1, b0, b1, b2⟩ := fields16 (encodeNat (.bge a b o)) a b o 3 32 1086324736 (by decide) rfl rfl
  refine decode_encode l ?_ hw
  rw [major32 f0, decodeBr, f1, b0, b1, b2]; rfl

theorem Sys2Proof.Laws.RoundTrip.bltn (a : RegNo) (b : RegNo) (o : BitVec 12) : Statement (.bltn a b o) := by
  intro hw
  obtain ⟨l, f0, f1, b0, b1, b2⟩ := fields16 (encodeNat (.bltn a b o)) a b o 4 32 1090519040 (by decide) rfl rfl
  refine decode_encode l ?_ hw
  rw [major32 f0, decodeBr, f1, b0, b1, b2]; rfl

theorem Sys2Proof.Laws.RoundTrip.bgen (a : RegNo) (b : RegNo) (o : BitVec 12) : Statement (.bgen a b o) := by
  intro hw
  obtain ⟨l, f0, f1, b0, b1, b2⟩ := fields16 (encodeNat (.bgen a b o)) a b o 5 32 1094713344 (by decide) rfl rfl
  refine decode_encode l ?_ hw
  rw [major32 f0, decodeBr, f1, b0, b1, b2]; rfl

theorem Sys2Proof.Laws.RoundTrip.bpany (a : RegNo) (o : BitVec 12) : Statement (.bpany a o) := by
  intro hw
  obtain ⟨l, f0, f1, f2, b0, b1⟩ := fields17 (encodeNat (.bpany a o)) a o 0 6 32 1098907648 (by decide) rfl rfl
  refine decode_encode l ?_ hw
  rw [major32 f0, decodeBr, f1, f2, b0, b1]; rfl

theorem Sys2Proof.Laws.RoundTrip.bpnone (a : RegNo) (o : BitVec 12) : Statement (.bpnone a o) := by
  intro hw
  obtain ⟨l, f0, f1, f2, b0, b1⟩ := fields17 (encodeNat (.bpnone a o)) a o 0 7 32 1103101952 (by decide) rfl rfl
  refine decode_encode l ?_ hw
  rw [major32 f0, decodeBr, f1, f2, b0, b1]; rfl

theorem Sys2Proof.Laws.RoundTrip.jal (d : RegNo) (o : BitVec 20) : Statement (.jal d o) := by
  intro hw
  have hd : d.toNat ≠ 0 := of_decide_eq_true hw
  obtain ⟨l, f0, b0, b1⟩ := fields5 (encodeNat (.jal d o)) d o 33 1107296256 (by decide) rfl rfl
  have f1 : ¬ encodeNat (.jal d o) / 1048576 % 32 = 0 := fun h => hd (by rw [← b0, bf, BitVec.toNat_ofNat]; exact h)
  refine decode_encode l ?_ hw
  exact (major33 f0).trans ((if_neg f1).trans (by rw [b0, b1]))

theorem Sys2Proof.Laws.RoundTrip.j (o : BitVec 20) : Statement (.j o) := by
  intro hw
  obtain ⟨l, f0, f1, b0⟩ := fields18 (encodeNat (.j o)) o 0 33 1107296256 (by decide) rfl rfl
  refine decode_encode l ?_ hw
  rw [major33 f0, f1, b0]; rfl

theorem Sys2Proof.Laws.RoundTrip.jr (a : RegNo) : Statement (.jr a) := by
  intro hw
  obtain ⟨l, f0, f1, f2, f3, b0⟩ := fields19 (encodeNat (.jr a)) a 0 0 0 34 1140850688 (by decide) rfl rfl
  refine decode_encode l ?_ hw
  rw [major34 f0, decodeJmp, f1, f2, f3, b0]; rfl

theorem Sys2Proof.Laws.RoundTrip.jalr (d : RegNo) (a : RegNo) : Statement (.jalr d a) := by
  intro hw
  obtain ⟨l, f0, f1, f2, b0, b1⟩ := fields20 (encodeNat (.jalr d a)) d a 0 1 34 1140854784 (by decide) rfl rfl
  refine decode_encode l ?_ hw
  rw [major34 f0, decodeJmp, f1, f2, b0, b1]; rfl

theorem Sys2Proof.Laws.RoundTrip.ret : Statement (.ret) := fun _ => rfl

theorem Sys2Proof.Laws.RoundTrip.fjmp (a : RegNo) : Statement (.fjmp a) := by
  intro hw
  obtain ⟨l, f0, f1, f2, f3, b0⟩ := fields19 (encodeNat (.fjmp a)) a 0 3 0 34 1140862976 (by decide) rfl rfl
  refine decode_encode l ?_ hw
  rw [major34 f0, decodeJmp, f1, f2, f3, b0]; rfl

theorem Sys2Proof.Laws.RoundTrip.loop (l : BitVec 2) (c : RegNo) (n : BitVec 6) : Statement (.loop l c n) := by
  intro hw
  obtain ⟨l, f0, f1, f2, b0, b1, b2⟩ := fields21 (encodeNat (.loop l c n)) l c n 0 0 35 1174405120 (by decide) rfl rfl
  refine decode_encode l ?_ hw
  rw [major35 f0, decodeLoop, f1, f2, b0, b1, b2]; rfl

theorem Sys2Proof.Laws.RoundTrip.loopx (l : BitVec 2) (c : RegNo) (n : BitVec 6) (s : RegNo) : Statement (.loopx l c n s) := by
  intro hw
  obtain ⟨l, f0, f1, f2, b0, b1, b2, b3⟩ := fields22 (encodeNat (.loopx l c n s)) l c n s 0 1 35 1174407168 (by decide) rfl rfl
  refine decode_encode l ?_ hw
  rw [major35 f0, decodeLoop, f1, f2, b0, b1, b2, b3]; rfl

theorem Sys2Proof.Laws.RoundTrip.fuse (a : RegNo) : Statement (.fuse a) := by
  intro hw
  obtain ⟨l, f0, f1, f2, f3, b0⟩ := fields19 (encodeNat (.fuse a)) a 0 0 0 36 1207959552 (by decide) rfl rfl
  refine decode_encode l ?_ hw
  rw [major36 f0, decodeGang, f1, f2, f3, b0]; rfl

theorem Sys2Proof.Laws.RoundTrip.split : Statement (.split) := fun _ => rfl

theorem Sys2Proof.Laws.RoundTrip.yield (a : RegNo) : Statement (.yield a) := by
  intro hw
  obtain ⟨l, f0, f1, f2, f3, b0⟩ := fields19 (encodeNat (.yield a)) a 0 2 0 36 1207967744 (by decide) rfl rfl
  refine decode_encode l ?_ hw
  rw [major36 f0, decodeGang, f1, f2, f3, b0]; rfl

theorem Sys2Proof.Laws.RoundTrip.park (a : RegNo) : Statement (.park a) := by
  intro hw
  obtain ⟨l, f0, f1, f2, f3, b0⟩ := fields19 (encodeNat (.park a)) a 0 3 0 36 1207971840 (by decide) rfl rfl
  refine decode_encode l ?_ hw
  rw [major36 f0, decodeGang, f1, f2, f3, b0]; rfl

theorem Sys2Proof.Laws.RoundTrip.ldb (t : RegNo) (b : RegNo) (i : BitVec 2) (e : BitVec 1) (o : BitVec 10) : Statement (.ldb t b i e o) := by
  intro hw
  obtain ⟨l, f0, f1, b0, b1, b2, b3, b4⟩ := fields23 (encodeNat (.ldb t b i e o)) t b i e o 0 37 1241513984 (by decide) rfl rfl
  refine decode_encode l ?_ hw
  rw [major37 f0, decodeLd, f1, b0, b1, b2, b3, b4]; rfl

theorem Sys2Proof.Laws.RoundTrip.ldh (t : RegNo) (b : RegNo) (i : BitVec 2) (e : BitVec 1) (o : BitVec 10) : Statement (.ldh t b i e o) := by
  intro hw
  obtain ⟨l, f0, f1, b0, b1, b2, b3, b4⟩ := fields23 (encodeNat (.ldh t b i e o)) t b i e o 1 37 1241516032 (by decide) rfl rfl
  refine decode_encode l ?_ hw
  rw [major37 f0, decodeLd, f1, b0, b1, b2, b3, b4]; rfl

theorem Sys2Proof.Laws.RoundTrip.ldw (t : RegNo) (b : RegNo) (i : BitVec 2) (e : BitVec 1) (o : BitVec 10) : Statement (.ldw t b i e o) := by
  intro hw
  obtain ⟨l, f0, f1, b0, b1, b2, b3, b4⟩ := fields23 (encodeNat (.ldw t b i e o)) t b i e o 2 37 1241518080 (by decide) rfl rfl
  refine decode_encode l ?_ hw
  rw [major37 f0, decodeLd, f1, b0, b1, b2, b3, b4]; rfl

theorem Sys2Proof.Laws.RoundTrip.ldd (t : RegNo) (b : RegNo) (i : BitVec 2) (o : BitVec 10) : Statement (.ldd t b i o) := by
  intro hw
  obtain ⟨l, f0, f1, f2, b0, b1, b2, b3⟩ := fields24 (encodeNat (.ldd t b i o)) t b i o 0 3 37 1241520128 (by decide) rfl rfl
  refine decode_encode l ?_ hw
  rw [major37 f0, decodeLd, f1, f2, b0, b1, b2, b3]; rfl

theorem Sys2Proof.Laws.RoundTrip.stb (t : RegNo) (b : RegNo) (i : BitVec 2) (e : BitVec 1) (o : BitVec 10) : Statement (.stb t b i e o) := by
  intro hw
  obtain ⟨l, f0, f1, b0, b1, b2, b3, b4⟩ := fields23 (encodeNat (.stb t b i e o)) t b i e o 0 38 1275068416 (by decide) rfl rfl
  refine decode_encode l ?_ hw
  rw [major38 f0, decodeSt, f1, b0, b1, b2, b3, b4]; rfl

theorem Sys2Proof.Laws.RoundTrip.sth (t : RegNo) (b : RegNo) (i : BitVec 2) (e : BitVec 1) (o : BitVec 10) : Statement (.sth t b i e o) := by
  intro hw
  obtain ⟨l, f0, f1, b0, b1, b2, b3, b4⟩ := fields23 (encodeNat (.sth t b i e o)) t b i e o 1 38 1275070464 (by decide) rfl rfl
  refine decode_encode l ?_ hw
  rw [major38 f0, decodeSt, f1, b0, b1, b2, b3, b4]; rfl

theorem Sys2Proof.Laws.RoundTrip.stw (t : RegNo) (b : RegNo) (i : BitVec 2) (e : BitVec 1) (o : BitVec 10) : Statement (.stw t b i e o) := by
  intro hw
  obtain ⟨l, f0, f1, b0, b1, b2, b3, b4⟩ := fields23 (encodeNat (.stw t b i e o)) t b i e o 2 38 1275072512 (by decide) rfl rfl
  refine decode_encode l ?_ hw
  rw [major38 f0, decodeSt, f1, b0, b1, b2, b3, b4]; rfl

theorem Sys2Proof.Laws.RoundTrip.std (t : RegNo) (b : RegNo) (i : BitVec 2) (e : BitVec 1) (o : BitVec 10) : Statement (.std t b i e o) := by
  intro hw
  obtain ⟨l, f0, f1, b0, b1, b2, b3, b4⟩ := fields23 (encodeNat (.std t b i e o)) t b i e o 3 38 1275074560 (by decide) rfl rfl
  refine decode_encode l ?_ hw
  rw [major38 f0, decodeSt, f1, b0, b1, b2, b3, b4]; rfl

theorem Sys2Proof.Laws.RoundTrip.vld (t : RegNo) (b : RegNo) (i : BitVec 2) (p : BitVec 3) (o : BitVec 10) : Statement (.vld t b i p o) := by
  intro hw
  obtain ⟨l, f0, b0, b1, b2, b3, b4⟩ := fields25 (encodeNat (.vld t b i p o)) t b i p o 39 1308622848 (by decide) rfl rfl
  refine decode_encode l ?_ hw
  rw [major39 f0, b0, b1, b2, b3, b4]

theorem Sys2Proof.Laws.RoundTrip.vst (t : RegNo) (b : RegNo) (i : BitVec 2) (p : BitVec 3) (o : BitVec 10) : Statement (.vst t b i p o) := by
  intro hw
  obtain ⟨l, f0, b0, b1, b2, b3, b4⟩ := fields25 (encodeNat (.vst t b i p o)) t b i p o 40 1342177280 (by decide) rfl rfl
  refine decode_encode l ?_ hw
  rw [major40 f0, b0, b1, b2, b3, b4]

theorem Sys2Proof.Laws.RoundTrip.aadd (t : RegNo) (b : RegNo) (s : RegNo) (i : BitVec 2) (w : BitVec 1) : Statement (.aadd t b s i w) := by
  intro hw
  obtain ⟨l, f0, f1, f2, b0, b1, b2, b3, b4⟩ := fields26 (encodeNat (.aadd t b s i w)) t b s i w 0 0 41 1375731712 (by decide) rfl rfl
  refine decode_encode l ?_ hw
  rw [major41 f0, decodeAmo, f1, f2, b0, b1, b2, b3, b4]; rfl

theorem Sys2Proof.Laws.RoundTrip.aand (t : RegNo) (b : RegNo) (s : RegNo) (i : BitVec 2) (w : BitVec 1) : Statement (.aand t b s i w) := by
  intro hw
  obtain ⟨l, f0, f1, f2, b0, b1, b2, b3, b4⟩ := fields26 (encodeNat (.aand t b s i w)) t b s i w 0 1 41 1375731720 (by decide) rfl rfl
  refine decode_encode l ?_ hw
  rw [major41 f0, decodeAmo, f1, f2, b0, b1, b2, b3, b4]; rfl

theorem Sys2Proof.Laws.RoundTrip.aor (t : RegNo) (b : RegNo) (s : RegNo) (i : BitVec 2) (w : BitVec 1) : Statement (.aor t b s i w) := by
  intro hw
  obtain ⟨l, f0, f1, f2, b0, b1, b2, b3, b4⟩ := fields26 (encodeNat (.aor t b s i w)) t b s i w 0 2 41 1375731728 (by decide) rfl rfl
  refine decode_encode l ?_ hw
  rw [major41 f0, decodeAmo, f1, f2, b0, b1, b2, b3, b4]; rfl

theorem Sys2Proof.Laws.RoundTrip.axor (t : RegNo) (b : RegNo) (s : RegNo) (i : BitVec 2) (w : BitVec 1) : Statement (.axor t b s i w) := by
  intro hw
  obtain ⟨l, f0, f1, f2, b0, b1, b2, b3, b4⟩ := fields26 (encodeNat (.axor t b s i w)) t b s i w 0 3 41 1375731736 (by decide) rfl rfl
  refine decode_encode l ?_ hw
  rw [major41 f0, decodeAmo, f1, f2, b0, b1, b2, b3, b4]; rfl

theorem Sys2Proof.Laws.RoundTrip.amin (t : RegNo) (b : RegNo) (s : RegNo) (i : BitVec 2) (w : BitVec 1) : Statement (.amin t b s i w) := by
  intro hw
  obtain ⟨l, f0, f1, f2, b0, b1, b2, b3, b4⟩ := fields26 (encodeNat (.amin t b s i w)) t b s i w 0 4 41 1375731744 (by decide) rfl rfl
  refine decode_encode l ?_ hw
  rw [major41 f0, decodeAmo, f1, f2, b0, b1, b2, b3, b4]; rfl

theorem Sys2Proof.Laws.RoundTrip.amax (t : RegNo) (b : RegNo) (s : RegNo) (i : BitVec 2) (w : BitVec 1) : Statement (.amax t b s i w) := by
  intro hw
  obtain ⟨l, f0, f1, f2, b0, b1, b2, b3, b4⟩ := fields26 (encodeNat (.amax t b s i w)) t b s i w 0 5 41 1375731752 (by decide) rfl rfl
  refine decode_encode l ?_ hw
  rw [major41 f0, decodeAmo, f1, f2, b0, b1, b2, b3, b4]; rfl

theorem Sys2Proof.Laws.RoundTrip.aminn (t : RegNo) (b : RegNo) (s : RegNo) (i : BitVec 2) (w : BitVec 1) : Statement (.aminn t b s i w) := by
  intro hw
  obtain ⟨l, f0, f1, f2, b0, b1, b2, b3, b4⟩ := fields26 (encodeNat (.aminn t b s i w)) t b s i w 0 6 41 1375731760 (by decide) rfl rfl
  refine decode_encode l ?_ hw
  rw [major41 f0, decodeAmo, f1, f2, b0, b1, b2, b3, b4]; rfl

theorem Sys2Proof.Laws.RoundTrip.amaxn (t : RegNo) (b : RegNo) (s : RegNo) (i : BitVec 2) (w : BitVec 1) : Statement (.amaxn t b s i w) := by
  intro hw
  obtain ⟨l, f0, f1, f2, b0, b1, b2, b3, b4⟩ := fields26 (encodeNat (.amaxn t b s i w)) t b s i w 0 7 41 1375731768 (by decide) rfl rfl
  refine decode_encode l ?_ hw
  rw [major41 f0, decodeAmo, f1, f2, b0, b1, b2, b3, b4]; rfl

theorem Sys2Proof.Laws.RoundTrip.aswap (t : RegNo) (b : RegNo) (s : RegNo) (i : BitVec 2) (w : BitVec 1) : Statement (.aswap t b s i w) := by
  intro hw
  obtain ⟨l, f0, f1, f2, b0, b1, b2, b3, b4⟩ := fields26 (encodeNat (.aswap t b s i w)) t b s i w 0 8 41 1375731776 (by decide) rfl rfl
  refine decode_encode l ?_ hw
  rw [major41 f0, decodeAmo, f1, f2, b0, b1, b2, b3, b4]; rfl

theorem Sys2Proof.Laws.RoundTrip.acas (t : RegNo) (b : RegNo) (s : RegNo) (i : BitVec 2) (w : BitVec 1) : Statement (.acas t b s i w) := by
  intro hw
  obtain ⟨l, f0, f1, f2, b0, b1, b2, b3, b4⟩ := fields26 (encodeNat (.acas t b s i w)) t b s i w 0 9 41 1375731784 (by decide) rfl rfl
  refine decode_encode l ?_ hw
  rw [major41 f0, decodeAmo, f1, f2, b0, b1, b2, b3, b4]; rfl

theorem Sys2Proof.Laws.RoundTrip.afadd (t : RegNo) (b : RegNo) (s : RegNo) (i : BitVec 2) : Statement (.afadd t b s i) := by
  intro hw
  obtain ⟨l, f0, f1, f2, f3, b0, b1, b2, b3⟩ := fields27 (encodeNat (.afadd t b s i)) t b s i 0 10 0 41 1375731792 (by decide) rfl rfl
  refine decode_encode l ?_ hw
  rw [major41 f0, decodeAmo, f1, f2, f3, b0, b1, b2, b3]; rfl

theorem Sys2Proof.Laws.RoundTrip.fence (a : RegNo) : Statement (.fence a) := by
  intro hw
  obtain ⟨l, f0, f1, f2, f3, b0⟩ := fields19 (encodeNat (.fence a)) a 0 0 0 42 1409286144 (by decide) rfl rfl
  refine decode_encode l ?_ hw
  rw [major42 f0, decodeSync, f1, f2, f3, b0]; rfl

theorem Sys2Proof.Laws.RoundTrip.seti (a : RegNo) (b : BitVec 2) (n : BitVec 10) : Statement (.seti a b n) := by
  intro hw
  obtain ⟨l, f0, f1, f2, b0, b1, b2⟩ := fields28 (encodeNat (.seti a b n)) a b n 1 0 42 1409290240 (by decide) rfl rfl
  refine decode_encode l ?_ hw
  rw [major42 f0, decodeSync, f1, f2, b0, b1, b2]; rfl

theorem Sys2Proof.Laws.RoundTrip.rds (d : RegNo) (n : BitVec 12) : Statement (.rds d n) := by
  intro hw
  obtain ⟨l, f0, f1, f2, b0, b1⟩ := fields29 (encodeNat (.rds d n)) d n 2 0 42 1409294336 (by decide) rfl rfl
  refine decode_encode l ?_ hw
  rw [major42 f0, decodeSync, f1, f2, b0, b1]; rfl

theorem Sys2Proof.Laws.RoundTrip.wrs (a : RegNo) (n : BitVec 12) : Statement (.wrs a n) := by
  intro hw
  obtain ⟨l, f0, f1, f2, b0, b1⟩ := fields30 (encodeNat (.wrs a n)) a n 3 0 42 1409298432 (by decide) rfl rfl
  refine decode_encode l ?_ hw
  rw [major42 f0, decodeSync, f1, f2, b0, b1]; rfl

theorem Sys2Proof.Laws.RoundTrip.qrd (q : BitVec 3) (n : BitVec 12) : Statement (.qrd q n) := by
  intro hw
  obtain ⟨l, f0, f1, f2, f3, b0, b1⟩ := fields31 (encodeNat (.qrd q n)) q n 4 0 0 42 1409302528 (by decide) rfl rfl
  refine decode_encode l ?_ hw
  rw [major42 f0, decodeSync, f1, f2, f3, b0, b1]; rfl

theorem Sys2Proof.Laws.RoundTrip.qst (q : BitVec 3) (a : RegNo) (o : BitVec 10) : Statement (.qst q a o) := by
  intro hw
  obtain ⟨l, f0, f1, f2, f3, b0, b1, b2⟩ := fields32 (encodeNat (.qst q a o)) q a o 0 5 0 42 1409306624 (by decide) rfl rfl
  refine decode_encode l ?_ hw
  rw [major42 f0, decodeSync, f1, f2, f3, b0, b1, b2]; rfl

theorem Sys2Proof.Laws.RoundTrip.xcopy (d : RegNo) (a : RegNo) (b : RegNo) (c : RegNo) : Statement (.xcopy d a b c) := by
  intro hw
  obtain ⟨l, f0, f1, b0, b1, b2, b3⟩ := fields33 (encodeNat (.xcopy d a b c)) d a b c 0 43 1442840576 (by decide) rfl rfl
  refine decode_encode l ?_ hw
  rw [major43 f0, decodeXfer, f1, b0, b1, b2, b3]; rfl

theorem Sys2Proof.Laws.RoundTrip.xstat (d : RegNo) (a : RegNo) : Statement (.xstat d a) := by
  intro hw
  obtain ⟨l, f0, f1, f2, b0, b1⟩ := fields34 (encodeNat (.xstat d a)) d a 1 0 43 1442840577 (by decide) rfl rfl
  refine decode_encode l ?_ hw
  rw [major43 f0, decodeXfer, f1, f2, b0, b1]; rfl

theorem Sys2Proof.Laws.RoundTrip.xwait (d : RegNo) : Statement (.xwait d) := by
  intro hw
  obtain ⟨l, f0, f1, f2, b0⟩ := fields35 (encodeNat (.xwait d)) d 2 0 43 1442840578 (by decide) rfl rfl
  refine decode_encode l ?_ hw
  rw [major43 f0, decodeXfer, f1, f2, b0]; rfl

theorem Sys2Proof.Laws.RoundTrip.sbind (d : RegNo) (a : RegNo) (b : RegNo) : Statement (.sbind d a b) := by
  intro hw
  obtain ⟨l, f0, f1, f2, b0, b1, b2⟩ := fields36 (encodeNat (.sbind d a b)) d a b 0 0 44 1476395008 (by decide) rfl rfl
  refine decode_encode l ?_ hw
  rw [major44 f0, decodeStrm, f1, f2, b0, b1, b2]; rfl

theorem Sys2Proof.Laws.RoundTrip.sunbind (d : RegNo) : Statement (.sunbind d) := by
  intro hw
  obtain ⟨l, f0, f1, f2, b0⟩ := fields35 (encodeNat (.sunbind d)) d 1 0 44 1476395009 (by decide) rfl rfl
  refine decode_encode l ?_ hw
  rw [major44 f0, decodeStrm, f1, f2, b0]; rfl

theorem Sys2Proof.Laws.RoundTrip.sstat (d : RegNo) (a : RegNo) : Statement (.sstat d a) := by
  intro hw
  obtain ⟨l, f0, f1, f2, b0, b1⟩ := fields34 (encodeNat (.sstat d a)) d a 2 0 44 1476395010 (by decide) rfl rfl
  refine decode_encode l ?_ hw
  rw [major44 f0, decodeStrm, f1, f2, b0, b1]; rfl

theorem Sys2Proof.Laws.RoundTrip.cfetch (a : RegNo) (f : BitVec 4) : Statement (.cfetch a f) := by
  intro hw
  obtain ⟨l, f0, f1, f2, f3, b0, b1⟩ := fields37 (encodeNat (.cfetch a f)) a f 0 0 0 45 1509949440 (by decide) rfl rfl
  refine decode_encode l ?_ hw
  rw [major45 f0, decodeCode, f1, f2, f3, b0, b1]; rfl

theorem Sys2Proof.Laws.RoundTrip.cstat (d : RegNo) (f : BitVec 4) : Statement (.cstat d f) := by
  intro hw
  obtain ⟨l, f0, f1, f2, f3, b0, b1⟩ := fields38 (encodeNat (.cstat d f)) d f 0 1 0 45 1509953536 (by decide) rfl rfl
  refine decode_encode l ?_ hw
  rw [major45 f0, decodeCode, f1, f2, f3, b0, b1]; rfl

theorem Sys2Proof.Laws.RoundTrip.dtld (a : RegNo) (v : BitVec 1) (n : BitVec 8) (t : BitVec 2) : Statement (.dtld a v n t) := by
  intro hw
  obtain ⟨l, f0, f1, f2, f3, b0, b1, b2, b3⟩ := fields39 (encodeNat (.dtld a v n t)) a v n t 0 2 0 45 1509957632 (by decide) rfl rfl
  refine decode_encode l ?_ hw
  rw [major45 f0, decodeCode, f1, f2, f3, b0, b1, b2, b3]; rfl

theorem Sys2Proof.Laws.RoundTrip.segld (a : RegNo) (t : BitVec 2) : Statement (.segld a t) := by
  intro hw
  obtain ⟨l, f0, f1, f2, f3, b0, b1⟩ := fields40 (encodeNat (.segld a t)) a t 0 3 0 45 1509961728 (by decide) rfl rfl
  refine decode_encode l ?_ hw
  rw [major45 f0, decodeCode, f1, f2, f3, b0, b1]; rfl

theorem Sys2Proof.Laws.RoundTrip.mclaim (p : BitVec 4) : Statement (.mclaim p) := by
  intro hw
  obtain ⟨l, f0, f1, f2, f3, b0⟩ := fields41 (encodeNat (.mclaim p)) p 0 0 0 46 1543503872 (by decide) rfl rfl
  refine decode_encode l ?_ hw
  rw [major46 f0, decodeMat0, f1, f2, f3, b0]; rfl

theorem Sys2Proof.Laws.RoundTrip.mrel (p : BitVec 4) : Statement (.mrel p) := by
  intro hw
  obtain ⟨l, f0, f1, f2, f3, b0⟩ := fields41 (encodeNat (.mrel p)) p 0 1 0 46 1543503904 (by decide) rfl rfl
  refine decode_encode l ?_ hw
  rw [major46 f0, decodeMat0, f1, f2, f3, b0]; rfl

theorem Sys2Proof.Laws.RoundTrip.mload (p : BitVec 4) (g : RegNo) (k : RegNo) : Statement (.mload p g k) := by
  intro hw
  obtain ⟨l, f0, f1, f2, b0, b1, b2⟩ := fields42 (encodeNat (.mload p g k)) p g k 2 0 46 1543503936 (by decide) rfl rfl
  refine decode_encode l ?_ hw
  rw [major46 f0, decodeMat0, f1, f2, b0, b1, b2]; rfl

theorem Sys2Proof.Laws.RoundTrip.mstore (p : BitVec 4) (g : RegNo) (k : RegNo) : Statement (.mstore p g k) := by
  intro hw
  obtain ⟨l, f0, f1, f2, b0, b1, b2⟩ := fields42 (encodeNat (.mstore p g k)) p g k 3 0 46 1543503968 (by decide) rfl rfl
  refine decode_encode l ?_ hw
  rw [major46 f0, decodeMat0, f1, f2, b0, b1, b2]; rfl

theorem Sys2Proof.Laws.RoundTrip.mzero (p : BitVec 4) : Statement (.mzero p) := by
  intro hw
  obtain ⟨l, f0, f1, f2, f3, b0⟩ := fields41 (encodeNat (.mzero p)) p 0 4 0 46 1543504000 (by decide) rfl rfl
  refine decode_encode l ?_ hw
  rw [major46 f0, decodeMat0, f1, f2, f3, b0]; rfl

theorem Sys2Proof.Laws.RoundTrip.mma (p : BitVec 4) (q : BitVec 4) (s : BitVec 4) (c : BitVec 1) : Statement (.mma p q s c) := by
  intro hw
  obtain ⟨l, f0, f1, f2, f3, b0, b1, b2, b3⟩ := fields43 (encodeNat (.mma p q s c)) p q s c 0 0 0 47 1577058304 (by decide) rfl rfl
  refine decode_encode l ?_ hw
  rw [major47 f0, decodeMat1, f1, f2, f3, b0, b1, b2, b3]; rfl

theorem Sys2Proof.Laws.RoundTrip.mmas (p : BitVec 4) (q : BitVec 4) (s : BitVec 4) (g : RegNo) (x : BitVec 1) (c : BitVec 1) : Statement (.mmas p q s g x c) := by
  intro hw
  obtain ⟨l, f0, f1, f2, b0, b1, b2, b3, b4, b5⟩ := fields44 (encodeNat (.mmas p q s g x c)) p q s g x c 0 1 47 1577058336 (by decide) rfl rfl
  refine decode_encode l ?_ hw
  rw [major47 f0, decodeMat1, f1, f2, b0, b1, b2, b3, b4, b5]; rfl

theorem Sys2Proof.Laws.RoundTrip.mscale (q : BitVec 4) (g : RegNo) (l : BitVec 2) : Statement (.mscale q g l) := by
  intro hw
  obtain ⟨l, f0, f1, f2, f3, f4, b0, b1, b2⟩ := fields45 (encodeNat (.mscale q g l)) q g l 0 2 0 0 47 1577058368 (by decide) rfl rfl
  refine decode_encode l ?_ hw
  rw [major47 f0, decodeMat1, f1, f2, f3, f4, b0, b1, b2]; rfl

theorem Sys2Proof.Laws.RoundTrip.mcvt (p : BitVec 4) (q : BitVec 4) (r : BitVec 3) (k : RegNo) : Statement (.mcvt p q r k) := by
  intro hw
  obtain ⟨l, f0, f1, f2, b0, b1, b2, b3⟩ := fields46 (encodeNat (.mcvt p q r k)) p q r k 3 0 47 1577058400 (by decide) rfl rfl
  refine decode_encode l ?_ hw
  rw [major47 f0, decodeMat1, f1, f2, b0, b1, b2, b3]; rfl

theorem Sys2Proof.Laws.RoundTrip.mtr (p : BitVec 4) : Statement (.mtr p) := by
  intro hw
  obtain ⟨l, f0, f1, f2, f3, b0⟩ := fields41 (encodeNat (.mtr p)) p 0 4 0 47 1577058432 (by decide) rfl rfl
  refine decode_encode l ?_ hw
  rw [major47 f0, decodeMat1, f1, f2, f3, b0]; rfl

theorem Sys2Proof.Laws.RoundTrip.tspawn (d : RegNo) : Statement (.tspawn d) := by
  intro hw
  obtain ⟨l, f0, f1, f2, b0⟩ := fields35 (encodeNat (.tspawn d)) d 0 0 48 1610612736 (by decide) rfl rfl
  refine decode_encode l ?_ hw
  rw [major48 f0, decodeTask, f1, f2, b0]; rfl

theorem Sys2Proof.Laws.RoundTrip.tpub (d : RegNo) (a : RegNo) (b : RegNo) : Statement (.tpub d a b) := by
  intro hw
  obtain ⟨l, f0, f1, f2, b0, b1, b2⟩ := fields36 (encodeNat (.tpub d a b)) d a b 1 0 48 1610612737 (by decide) rfl rfl
  refine decode_encode l ?_ hw
  rw [major48 f0, decodeTask, f1, f2, b0, b1, b2]; rfl

theorem Sys2Proof.Laws.RoundTrip.tsig (d : RegNo) (a : RegNo) : Statement (.tsig d a) := by
  intro hw
  obtain ⟨l, f0, f1, f2, b0, b1⟩ := fields34 (encodeNat (.tsig d a)) d a 2 0 48 1610612738 (by decide) rfl rfl
  refine decode_encode l ?_ hw
  rw [major48 f0, decodeTask, f1, f2, b0, b1]; rfl

theorem Sys2Proof.Laws.RoundTrip.tret : Statement (.tret) := fun _ => rfl

theorem Sys2Proof.Laws.RoundTrip.targ (d : RegNo) (a : RegNo) : Statement (.targ d a) := by
  intro hw
  obtain ⟨l, f0, f1, f2, b0, b1⟩ := fields34 (encodeNat (.targ d a)) d a 4 0 48 1610612740 (by decide) rfl rfl
  refine decode_encode l ?_ hw
  rw [major48 f0, decodeTask, f1, f2, b0, b1]; rfl

theorem Sys2Proof.Laws.RoundTrip.send (d : RegNo) (a : RegNo) : Statement (.send d a) := by
  intro hw
  obtain ⟨l, f0, f1, f2, b0, b1⟩ := fields34 (encodeNat (.send d a)) d a 0 0 49 1644167168 (by decide) rfl rfl
  refine decode_encode l ?_ hw
  rw [major49 f0, decodeMsg, f1, f2, b0, b1]; rfl

theorem Sys2Proof.Laws.RoundTrip.recv (d : RegNo) (a : RegNo) (b : RegNo) : Statement (.recv d a b) := by
  intro hw
  obtain ⟨l, f0, f1, f2, b0, b1, b2⟩ := fields36 (encodeNat (.recv d a b)) d a b 1 0 49 1644167169 (by decide) rfl rfl
  refine decode_encode l ?_ hw
  rw [major49 f0, decodeMsg, f1, f2, b0, b1, b2]; rfl

theorem Sys2Proof.Laws.RoundTrip.recvadd (d : RegNo) (a : RegNo) : Statement (.recvadd d a) := by
  intro hw
  obtain ⟨l, f0, f1, f2, b0, b1⟩ := fields34 (encodeNat (.recvadd d a)) d a 2 0 49 1644167170 (by decide) rfl rfl
  refine decode_encode l ?_ hw
  rw [major49 f0, decodeMsg, f1, f2, b0, b1]; rfl

theorem Sys2Proof.Laws.RoundTrip.qbind (d : RegNo) (a : RegNo) (b : RegNo) : Statement (.qbind d a b) := by
  intro hw
  obtain ⟨l, f0, f1, f2, b0, b1, b2⟩ := fields36 (encodeNat (.qbind d a b)) d a b 3 0 49 1644167171 (by decide) rfl rfl
  refine decode_encode l ?_ hw
  rw [major49 f0, decodeMsg, f1, f2, b0, b1, b2]; rfl

theorem Sys2Proof.Laws.RoundTrip.qstat (d : RegNo) (a : RegNo) : Statement (.qstat d a) := by
  intro hw
  obtain ⟨l, f0, f1, f2, b0, b1⟩ := fields34 (encodeNat (.qstat d a)) d a 4 0 49 1644167172 (by decide) rfl rfl
  refine decode_encode l ?_ hw
  rw [major49 f0, decodeMsg, f1, f2, b0, b1]; rfl

theorem Sys2Proof.Laws.RoundTrip.spliceIns (d : RegNo) (a : RegNo) : Statement (.spliceIns d a) := by
  intro hw
  obtain ⟨l, f0, f1, f2, f3, b0, b1⟩ := fields47 (encodeNat (.spliceIns d a)) d a 0 0 0 50 1677721600 (by decide) rfl rfl
  refine decode_encode l ?_ hw
  rw [major50 f0, decodeSplc, f1, f2, f3, b0, b1]; rfl

theorem Sys2Proof.Laws.RoundTrip.spliceEli (d : RegNo) (a : RegNo) : Statement (.spliceEli d a) := by
  intro hw
  obtain ⟨l, f0, f1, f2, f3, b0, b1⟩ := fields47 (encodeNat (.spliceEli d a)) d a 0 1 0 50 1677721632 (by decide) rfl rfl
  refine decode_encode l ?_ hw
  rw [major50 f0, decodeSplc, f1, f2, f3, b0, b1]; rfl

theorem Sys2Proof.Laws.RoundTrip.spliceReb (d : RegNo) (a : RegNo) : Statement (.spliceReb d a) := by
  intro hw
  obtain ⟨l, f0, f1, f2, f3, b0, b1⟩ := fields47 (encodeNat (.spliceReb d a)) d a 0 2 0 50 1677721664 (by decide) rfl rfl
  refine decode_encode l ?_ hw
  rw [major50 f0, decodeSplc, f1, f2, f3, b0, b1]; rfl

theorem Sys2Proof.Laws.RoundTrip.splPrep (d : RegNo) (a : RegNo) (b : RegNo) : Statement (.splPrep d a b) := by
  intro hw
  obtain ⟨l, f0, f1, f2, b0, b1, b2⟩ := fields36 (encodeNat (.splPrep d a b)) d a b 1 0 50 1677721601 (by decide) rfl rfl
  refine decode_encode l ?_ hw
  rw [major50 f0, decodeSplc, f1, f2, b0, b1, b2]; rfl

theorem Sys2Proof.Laws.RoundTrip.splCmt (d : RegNo) : Statement (.splCmt d) := by
  intro hw
  obtain ⟨l, f0, f1, f2, b0⟩ := fields35 (encodeNat (.splCmt d)) d 2 0 50 1677721602 (by decide) rfl rfl
  refine decode_encode l ?_ hw
  rw [major50 f0, decodeSplc, f1, f2, b0]; rfl

theorem Sys2Proof.Laws.RoundTrip.splAbt : Statement (.splAbt) := fun _ => rfl

theorem Sys2Proof.Laws.RoundTrip.uiret : Statement (.uiret) := fun _ => rfl

theorem Sys2Proof.Laws.RoundTrip.uien (m : BitVec 6) : Statement (.uien m) := by
  intro hw
  obtain ⟨l, f0, f1, f2, f3, b0⟩ := fields48 (encodeNat (.uien m)) m 0 1 0 51 1711280128 (by decide) rfl rfl
  refine decode_encode l ?_ hw
  rw [major51 f0, decodeUint, f1, f2, f3, b0]; rfl

theorem Sys2Proof.Laws.RoundTrip.uidis (m : BitVec 6) : Statement (.uidis m) := by
  intro hw
  obtain ⟨l, f0, f1, f2, f3, b0⟩ := fields48 (encodeNat (.uidis m)) m 0 2 0 51 1711284224 (by decide) rfl rfl
  refine decode_encode l ?_ hw
  rw [major51 f0, decodeUint, f1, f2, f3, b0]; rfl

theorem Sys2Proof.Laws.RoundTrip.trap (n : BitVec 12) : Statement (.trap n) := by
  intro hw
  obtain ⟨l, f0, f1, f2, b0⟩ := fields49 (encodeNat (.trap n)) n 3 0 51 1711288320 (by decide) rfl rfl
  refine decode_encode l ?_ hw
  rw [major51 f0, decodeUint, f1, f2, b0]; rfl

theorem Sys2Proof.Laws.RoundTrip.csrr (d : RegNo) (n : BitVec 12) : Statement (.csrr d n) := by
  intro hw
  obtain ⟨l, f0, f1, f2, b0, b1⟩ := fields29 (encodeNat (.csrr d n)) d n 0 0 52 1744830464 (by decide) rfl rfl
  refine decode_encode l ?_ hw
  rw [major52 f0, decodeSys, f1, f2, b0, b1]; rfl

theorem Sys2Proof.Laws.RoundTrip.csrw (a : RegNo) (n : BitVec 12) : Statement (.csrw a n) := by
  intro hw
  obtain ⟨l, f0, f1, f2, b0, b1⟩ := fields30 (encodeNat (.csrw a n)) a n 1 0 52 1744834560 (by decide) rfl rfl
  refine decode_encode l ?_ hw
  rw [major52 f0, decodeSys, f1, f2, b0, b1]; rfl

theorem Sys2Proof.Laws.RoundTrip.csrs (a : RegNo) (n : BitVec 12) : Statement (.csrs a n) := by
  intro hw
  obtain ⟨l, f0, f1, f2, b0, b1⟩ := fields30 (encodeNat (.csrs a n)) a n 2 0 52 1744838656 (by decide) rfl rfl
  refine decode_encode l ?_ hw
  rw [major52 f0, decodeSys, f1, f2, b0, b1]; rfl

theorem Sys2Proof.Laws.RoundTrip.csrc (a : RegNo) (n : BitVec 12) : Statement (.csrc a n) := by
  intro hw
  obtain ⟨l, f0, f1, f2, b0, b1⟩ := fields30 (encodeNat (.csrc a n)) a n 3 0 52 1744842752 (by decide) rfl rfl
  refine decode_encode l ?_ hw
  rw [major52 f0, decodeSys, f1, f2, b0, b1]; rfl

theorem Sys2Proof.Laws.RoundTrip.xret : Statement (.xret) := fun _ => rfl

theorem Sys2Proof.Laws.RoundTrip.wfi : Statement (.wfi) := fun _ => rfl

theorem Sys2Proof.Laws.RoundTrip.illegalWordIssue (r : Reject) : Statement (.illegalWordIssue r) := fun h => nomatch h

theorem Sys2Proof.Laws.RoundTrip.doubleTrapRecovery (r : Recovery) : Statement (.doubleTrapRecovery r) := fun h => nomatch h

theorem Sys2Proof.Laws.RoundTrip.deferredFaultTake : Statement (.deferredFaultTake) := fun h => nomatch h

theorem Sys2Proof.Laws.RoundTrip.systemEventTake : Statement (.systemEventTake) := fun h => nomatch h

theorem Sys2Proof.Laws.RoundTrip.userInterruptEntry : Statement (.userInterruptEntry) := fun h => nomatch h

theorem Sys2Proof.Laws.RoundTrip.instantBoundary : Statement (.instantBoundary) := fun h => nomatch h

theorem Sys2Proof.Laws.RoundTrip.homeStoreAccept (n : Nat) : Statement (.homeStoreAccept n) := fun h => nomatch h

theorem Sys2Proof.Laws.RoundTrip.homeLoadRequest (core : Nat) (tag : Nat) : Statement (.homeLoadRequest core tag) := fun h => nomatch h

theorem Sys2Proof.Laws.RoundTrip.roCacheFill (core : Nat) (tag : Nat) : Statement (.roCacheFill core tag) := fun h => nomatch h

theorem Sys2Proof.Laws.RoundTrip.storeAck (n : Nat) : Statement (.storeAck n) := fun h => nomatch h

theorem Sys2Proof.Laws.RoundTrip.lateReport (n : Nat) : Statement (.lateReport n) := fun h => nomatch h

theorem Sys2Proof.Laws.RoundTrip.tieReport (n : Nat) : Statement (.tieReport n) := fun h => nomatch h

theorem Sys2Proof.Laws.RoundTrip.remoteReply (core : Nat) (tag : Nat) : Statement (.remoteReply core tag) := fun h => nomatch h

theorem Sys2Proof.Laws.RoundTrip.taskPurgeSend (n : Nat) : Statement (.taskPurgeSend n) := fun h => nomatch h

theorem Sys2Proof.Laws.RoundTrip.purgeApply (n : Nat) (home : Nat) : Statement (.purgeApply n home) := fun h => nomatch h

theorem Sys2Proof.Laws.RoundTrip.faultPolicyApply (n : Nat) : Statement (.faultPolicyApply n) := fun h => nomatch h

theorem Sys2Proof.Laws.RoundTrip.publish (n : Nat) : Statement (.publish n) := fun h => nomatch h

theorem Sys2Proof.Laws.RoundTrip.signal (n : Nat) : Statement (.signal n) := fun h => nomatch h

theorem Sys2Proof.Laws.RoundTrip.heldGenerationApply (n : Nat) : Statement (.heldGenerationApply n) := fun h => nomatch h

theorem Sys2Proof.Laws.RoundTrip.tcbReclaim (n : Nat) : Statement (.tcbReclaim n) := fun h => nomatch h

theorem Sys2Proof.Laws.RoundTrip.clusterRecordArrival (n : Nat) : Statement (.clusterRecordArrival n) := fun h => nomatch h

theorem Sys2Proof.Laws.RoundTrip.overflowReturn (n : Nat) : Statement (.overflowReturn n) := fun h => nomatch h

theorem Sys2Proof.Laws.RoundTrip.takeRecord (core : Nat) : Statement (.takeRecord core) := fun h => nomatch h

theorem Sys2Proof.Laws.RoundTrip.priorityAging (n : Nat) : Statement (.priorityAging n) := fun h => nomatch h

theorem Sys2Proof.Laws.RoundTrip.nearHintExpiry (n : Nat) : Statement (.nearHintExpiry n) := fun h => nomatch h

theorem Sys2Proof.Laws.RoundTrip.autoPark (core : Nat) : Statement (.autoPark core) := fun h => nomatch h

theorem Sys2Proof.Laws.RoundTrip.yieldResume (core : Nat) : Statement (.yieldResume core) := fun h => nomatch h

theorem Sys2Proof.Laws.RoundTrip.gangWaitSplit (core : Nat) : Statement (.gangWaitSplit core) := fun h => nomatch h

theorem Sys2Proof.Laws.RoundTrip.fuseTimeout (core : Nat) : Statement (.fuseTimeout core) := fun h => nomatch h

theorem Sys2Proof.Laws.RoundTrip.copyAccept (core : Nat) : Statement (.copyAccept core) := fun h => nomatch h

theorem Sys2Proof.Laws.RoundTrip.copyComplete (core : Nat) (tag : Nat) : Statement (.copyComplete core tag) := fun h => nomatch h

theorem Sys2Proof.Laws.RoundTrip.codeFetchComplete (core : Nat) (frame : Nat) (clause : Option Nat) : Statement (.codeFetchComplete core frame clause) := fun h => nomatch h

theorem Sys2Proof.Laws.RoundTrip.dtldComplete (core : Nat) : Statement (.dtldComplete core) := fun h => nomatch h

theorem Sys2Proof.Laws.RoundTrip.segldComplete (core : Nat) : Statement (.segldComplete core) := fun h => nomatch h

theorem Sys2Proof.Laws.RoundTrip.mloadLand (core : Nat) (slot : Nat) : Statement (.mloadLand core slot) := fun h => nomatch h

theorem Sys2Proof.Laws.RoundTrip.recordArrival (n : Nat) : Statement (.recordArrival n) := fun h => nomatch h

theorem Sys2Proof.Laws.RoundTrip.mailboxWrite (n : Nat) : Statement (.mailboxWrite n) := fun h => nomatch h

theorem Sys2Proof.Laws.RoundTrip.spliceWatchdogExpiry (core : Nat) (queue : Nat) : Statement (.spliceWatchdogExpiry core queue) := fun h => nomatch h

theorem Sys2Proof.Laws.RoundTrip.splicePrepEnd (core : Nat) : Statement (.splicePrepEnd core) := fun h => nomatch h

theorem Sys2Proof.Laws.RoundTrip.seamArrival (n : Nat) : Statement (.seamArrival n) := fun h => nomatch h

theorem Sys2Proof.Laws.RoundTrip.seamSeenReport (n : Nat) : Statement (.seamSeenReport n) := fun h => nomatch h

theorem Sys2Proof.Laws.RoundTrip.spliceLink (n : Nat) : Statement (.spliceLink n) := fun h => nomatch h

theorem Sys2Proof.Laws.RoundTrip.linkAck (n : Nat) : Statement (.linkAck n) := fun h => nomatch h

theorem Sys2Proof.Laws.RoundTrip.flitReceive (port : Nat) (seq : BitVec 12) (flit : FlitBody) : Statement (.flitReceive port seq flit) := fun h => nomatch h

theorem Sys2Proof.Laws.RoundTrip.portDown (port : Nat) : Statement (.portDown port) := fun h => nomatch h

theorem Sys2Proof.Laws.RoundTrip.portReroute (device : Nat) (port : Nat) : Statement (.portReroute device port) := fun h => nomatch h

theorem Sys2Proof.Laws.RoundTrip.fabricInboundRequest (r : Machine.FabricReq) : Statement (.fabricInboundRequest r) := fun h => nomatch h

theorem Sys2Proof.Laws.RoundTrip.timeBeacon (port : Nat) (inst : Nat) (period : Nat) (offset : BitVec 32) : Statement (.timeBeacon port inst period offset) := fun h => nomatch h

theorem Sys2Proof.Laws.RoundTrip.beaconSend : Statement (.beaconSend) := fun h => nomatch h

theorem Sys2Proof.Laws.RoundTrip.lockLoss : Statement (.lockLoss) := fun h => nomatch h

theorem Sys2Proof.Laws.RoundTrip.pageWalk (w : WalkRef) : Statement (.pageWalk w) := fun h => nomatch h

theorem Sys2Proof.Laws.RoundTrip.tmcmdMap (src : RegSrc) (shingle : Nat) (v : Word) : Statement (.tmcmdMap src shingle v) := fun h => nomatch h

theorem Sys2Proof.Laws.RoundTrip.tmcmdUnmap (src : RegSrc) (shingle : Nat) (v : Word) : Statement (.tmcmdUnmap src shingle v) := fun h => nomatch h

theorem Sys2Proof.Laws.RoundTrip.tmCommandComplete (shingle : Nat) : Statement (.tmCommandComplete shingle) := fun h => nomatch h

theorem Sys2Proof.Laws.RoundTrip.pmcmdMove (src : RegSrc) (shingle : Nat) (v : Word) : Statement (.pmcmdMove src shingle v) := fun h => nomatch h

theorem Sys2Proof.Laws.RoundTrip.homeHandover (n : Nat) : Statement (.homeHandover n) := fun h => nomatch h

theorem Sys2Proof.Laws.RoundTrip.handoverApply (n : Nat) : Statement (.handoverApply n) := fun h => nomatch h

theorem Sys2Proof.Laws.RoundTrip.moveComplete (n : Nat) : Statement (.moveComplete n) := fun h => nomatch h

theorem Sys2Proof.Laws.RoundTrip.dispenserHomeMove (part : Nat) (va : Nat) (frame : Nat) (inst : Nat) : Statement (.dispenserHomeMove part va frame inst) := fun h => nomatch h

theorem Sys2Proof.Laws.RoundTrip.vdreqWrite (src : RegSrc) (shingle : Nat) (v : Word) : Statement (.vdreqWrite src shingle v) := fun h => nomatch h

theorem Sys2Proof.Laws.RoundTrip.vdDrainDone (shingle : Nat) (domain : Nat) : Statement (.vdDrainDone shingle domain) := fun h => nomatch h

theorem Sys2Proof.Laws.RoundTrip.vdSwitchDone (shingle : Nat) (domain : Nat) : Statement (.vdSwitchDone shingle domain) := fun h => nomatch h

theorem Sys2Proof.Laws.RoundTrip.droopDetect (cluster : Nat) (cores : List Nat) (window : ErrorWindow) : Statement (.droopDetect cluster cores window) := fun h => nomatch h

theorem Sys2Proof.Laws.RoundTrip.coreArrayError (core : Nat) (array : BitVec 8) (window : ErrorWindow) : Statement (.coreArrayError core array window) := fun h => nomatch h

theorem Sys2Proof.Laws.RoundTrip.clusterWithhold (cluster : Nat) (tjunc : Int) (power : Nat) : Statement (.clusterWithhold cluster tjunc power) := fun h => nomatch h

theorem Sys2Proof.Laws.RoundTrip.clusterUnwithhold (cluster : Nat) (tjunc : Int) (power : Nat) : Statement (.clusterUnwithhold cluster tjunc power) := fun h => nomatch h

theorem Sys2Proof.Laws.RoundTrip.starvationGrant (a : Arbitration) : Statement (.starvationGrant a) := fun h => nomatch h

theorem Sys2Proof.Laws.RoundTrip.xmigRidgeWrite (core : Nat) (v : Word) : Statement (.xmigRidgeWrite core v) := fun h => nomatch h

theorem Sys2Proof.Laws.RoundTrip.migrationDeadline (core : Nat) : Statement (.migrationDeadline core) := fun h => nomatch h

theorem Sys2Proof.Laws.RoundTrip.xtendWrite (v : Word) : Statement (.xtendWrite v) := fun h => nomatch h

theorem Sys2Proof.Laws.RoundTrip.xnisSpill (v : Word) : Statement (.xnisSpill v) := fun h => nomatch h

theorem Sys2Proof.Laws.RoundTrip.xnisReinject (v : Word) : Statement (.xnisReinject v) := fun h => nomatch h

theorem Sys2Proof.Laws.RoundTrip.copySquash : Statement (.copySquash) := fun h => nomatch h

theorem Sys2Proof.Laws.RoundTrip.copyReissue : Statement (.copyReissue) := fun h => nomatch h

theorem Sys2Proof.Laws.RoundTrip.sccmdStop (src : RegSrc) (shingle : Nat) (v : Word) : Statement (.sccmdStop src shingle v) := fun h => nomatch h

theorem Sys2Proof.Laws.RoundTrip.coreStop (shingle : Nat) : Statement (.coreStop shingle) := fun h => nomatch h

theorem Sys2Proof.Laws.RoundTrip.imageStreamDone (shingle : Nat) : Statement (.imageStreamDone shingle) := fun h => nomatch h

theorem Sys2Proof.Laws.RoundTrip.sccmdRestore (src : RegSrc) (shingle : Nat) (v : Word) : Statement (.sccmdRestore src shingle v) := fun h => nomatch h

theorem Sys2Proof.Laws.RoundTrip.restoreDone (shingle : Nat) : Statement (.restoreDone shingle) := fun h => nomatch h

theorem Sys2Proof.Laws.RoundTrip.mgcmdMove (src : RegSrc) (shingle : Nat) (v : Word) : Statement (.mgcmdMove src shingle v) := fun h => nomatch h

theorem Sys2Proof.Laws.RoundTrip.mgcmdDone (shingle : Nat) : Statement (.mgcmdDone shingle) := fun h => nomatch h

theorem Sys2Proof.Laws.RoundTrip.stragglerForward (n : Nat) : Statement (.stragglerForward n) := fun h => nomatch h

theorem Sys2Proof.Laws.RoundTrip.drainMarkerSend (n : Nat) : Statement (.drainMarkerSend n) := fun h => nomatch h

theorem Sys2Proof.Laws.RoundTrip.drainMarker (n : Nat) (c2 : Bool) : Statement (.drainMarker n c2) := fun h => nomatch h

theorem Sys2Proof.Laws.RoundTrip.drelWrite (src : RegSrc) (v : Word) : Statement (.drelWrite src v) := fun h => nomatch h

theorem Sys2Proof.Laws.RoundTrip.dabortWrite (src : RegSrc) (v : Word) : Statement (.dabortWrite src v) := fun h => nomatch h

theorem Sys2Proof.Laws.RoundTrip.dheldRead (src : RegSrc) : Statement (.dheldRead src) := fun h => nomatch h

theorem Sys2Proof.Laws.RoundTrip.digestStart (src : RegSrc) (v : Word) : Statement (.digestStart src v) := fun h => nomatch h

theorem Sys2Proof.Laws.RoundTrip.digestDone (part : Nat) : Statement (.digestDone part) := fun h => nomatch h

theorem Sys2Proof.Laws.RoundTrip.exclusionWrite (src : RegSrc) (offset : Nat) (v : Word) : Statement (.exclusionWrite src offset v) := fun h => nomatch h

theorem Sys2Proof.Laws.RoundTrip.hostEnqueueWrite (port : Nat) (offset : Nat) (bytes : List Byte) : Statement (.hostEnqueueWrite port offset bytes) := fun h => nomatch h

theorem Sys2Proof.Laws.RoundTrip.hostMailboxWrite (port : Nat) (offset : Nat) (bytes : List Byte) : Statement (.hostMailboxWrite port offset bytes) := fun h => nomatch h

theorem Sys2Proof.Laws.RoundTrip.hostCopyToModule (port : Nat) : Statement (.hostCopyToModule port) := fun h => nomatch h

theorem Sys2Proof.Laws.RoundTrip.hostCopyToHost (port : Nat) : Statement (.hostCopyToHost port) := fun h => nomatch h

theorem Sys2Proof.Laws.RoundTrip.hostCopyDone (port : Nat) : Statement (.hostCopyDone port) := fun h => nomatch h

theorem Sys2Proof.Laws.RoundTrip.fwUpdate (sigOk : Bool) (verOk : Bool) (fmtOk : Bool) (version : BitVec 32) : Statement (.fwUpdate sigOk verOk fmtOk version) := fun h => nomatch h

theorem Sys2Proof.Laws.RoundTrip.fwReconfigure (shingle : Nat) : Statement (.fwReconfigure shingle) := fun h => nomatch h

theorem Sys2Proof.Laws.RoundTrip.fwHeartbeat : Statement (.fwHeartbeat) := fun h => nomatch h

theorem Sys2Proof.Laws.RoundTrip.fwHeartbeatTimeout : Statement (.fwHeartbeatTimeout) := fun h => nomatch h

theorem Sys2Proof.Laws.RoundTrip.iperiodWrite (v : Word) : Statement (.iperiodWrite v) := fun h => nomatch h

theorem Sys2Proof.Laws.RoundTrip.thermalTrip (shingle : Nat) (tjunc : Int) : Statement (.thermalTrip shingle tjunc) := fun h => nomatch h

theorem Sys2Proof.Laws.RoundTrip.triprstWrite (shingle : Nat) (hottest : Int) : Statement (.triprstWrite shingle hottest) := fun h => nomatch h

theorem Sys2Proof.Laws.RoundTrip.powerOn (ok : List Bool) (locked : Bool) (config : BootConfig) : Statement (.powerOn ok locked config) := fun h => nomatch h

theorem Sys2Proof.Laws.RoundTrip.powerLoss : Statement (.powerLoss) := fun h => nomatch h

theorem Sys2Proof.Laws.RoundTrip.registerWrite (src : RegSrc) (shingle : Nat) (offset : Nat) (bytes : List Byte) : Statement (.registerWrite src shingle offset bytes) := fun h => nomatch h

theorem Sys2Proof.Laws.RoundTrip.bankAccessPerformed (core : Nat) (b : BankRef) : Statement (.bankAccessPerformed core b) := fun h => nomatch h

theorem Sys2Proof.Laws.RoundTrip.streamDataArrival (core : Nat) (port : Nat) : Statement (.streamDataArrival core port) := fun h => nomatch h

theorem Sys2Proof.Laws.RoundTrip.matrixInstructionDone (core : Nat) : Statement (.matrixInstructionDone core) := fun h => nomatch h

theorem Sys2Proof.Laws.RoundTrip.xnisCommandDone (core : Nat) : Statement (.xnisCommandDone core) := fun h => nomatch h

theorem Sys2Proof.Laws.RoundTrip.stagedMessageSent (core : Nat) (n : Nat) : Statement (.stagedMessageSent core n) := fun h => nomatch h

theorem Sys2Proof.Laws.RoundTrip.purlinPortUp (port : Nat) (lanes : BitVec 4) : Statement (.purlinPortUp port lanes) := fun h => nomatch h

theorem Sys2Proof.Laws.RoundTrip.imageLoad (part : Nat) (img : Image) (choice : LoadChoice) : Statement (.imageLoad part img choice) := fun h => nomatch h

end RoundTrip
end

