-- ==== Sys2Proof/Laws/Sound.lean ====
section
/-! SUPPORT. What keeps the invariant `State.Sound`: changes that leave the memories alone, writes to the memories, and
changes of which core acts. -/

namespace Sys2Proof.Machine

/-- Every core of a sound machine stands under its own number, with canonical memories. -/
theorem State.Sound.coreAt {s : State} (h : s.Sound) (k : Nat) : (s.coreAt k).id = k ∧ (s.coreAt k).mem.Canonical := by
  unfold State.coreAt
  split
  · rename_i e; exact ⟨e.symm, h.acting⟩
  · cases g : aget s.cores k with
    | none => exact ⟨rfl, ⟨rfl, rfl⟩⟩
    | some c => exact ⟨h.listed _ (mem_of_aget g), h.others _ (mem_of_aget g)⟩

theorem State.Sound.numbered {s : State} (h : s.Sound) : s.Numbered := fun k => (h.coreAt k).1

/-- Every scratchpad of a sound machine is canonical. -/
theorem State.Sound.spad {s : State} (h : s.Sound) (cl : Nat) : (s.spad cl).wf = true := by
  unfold State.spad agetMem
  cases g : aget s.dev.spads cl with
  | none => rfl
  | some m => exact h.spads _ (mem_of_aget g)

/-- What is visible at an instant of a sound machine is canonical. -/
theorem State.Sound.visible {s : State} (h : s.Sound) (i : Nat) : (s.dev.timed.visible i).wf = true := by
  unfold Timed.visible
  split
  · rename_i v m g; exact h.versions _ (List.mem_of_find?_eq_some g)
  · rfl

/-- A change that leaves the invariant's parts alone keeps it. -/
theorem State.Sound.of_parts {s t : State} (h : s.Sound) (c : t.cores = s.cores) (m : t.core.mem = s.core.mem)
    (p : t.dev.spads = s.dev.spads) (v : t.dev.timed.versions = s.dev.timed.versions) (n : t.dev.now = s.dev.now)
    (b : t.dev.trans.ptab = s.dev.trans.ptab) (i : t.dev.img.images = s.dev.img.images) : t.Sound where
  listed := c ▸ h.listed
  acting := m ▸ h.acting
  others := c ▸ h.others
  spads := p ▸ h.spads
  versions := v ▸ h.versions
  tables := b ▸ h.tables
  images := i ▸ h.images
  history := by unfold State.History; rw [v, n]; exact h.history
  clock := n ▸ h.clock

theorem State.Sound.onlyRegs {s t : State} (h : s.Sound) (o : s.OnlyRegs t) : t.Sound := by
  rw [show t = _ from o.1]
  exact h.of_parts rfl rfl rfl rfl rfl rfl rfl

theorem State.Sound.onX {s : State} (h : s.Sound) (f : ExecState → ExecState) : (s.onX f).Sound :=
  h.of_parts rfl rfl rfl rfl rfl rfl rfl

theorem State.Sound.onEng {s : State} (h : s.Sound) (f : Engines → Engines) : (s.onEng f).Sound :=
  h.of_parts rfl rfl rfl rfl rfl rfl rfl

theorem State.Sound.onSw {s : State} (h : s.Sound) (f : StatusWords → StatusWords) : (s.onSw f).Sound :=
  h.of_parts rfl rfl rfl rfl rfl rfl rfl

theorem State.Sound.onCsr {s : State} (h : s.Sound) (f : Csrs → Csrs) : (s.onCsr f).Sound :=
  h.of_parts rfl rfl rfl rfl rfl rfl rfl

theorem State.Sound.onMat {s : State} (h : s.Sound) (f : Matrix → Matrix) : (s.onMat f).Sound :=
  h.of_parts rfl rfl rfl rfl rfl rfl rfl

theorem State.Sound.onNi {s : State} (h : s.Sound) (f : Ni → Ni) : (s.onNi f).Sound :=
  h.of_parts rfl rfl rfl rfl rfl rfl rfl

theorem State.Sound.onDisp {s : State} (h : s.Sound) (f : Dispatch → Dispatch) : (s.onDisp f).Sound :=
  h.of_parts rfl rfl rfl rfl rfl rfl rfl

theorem State.Sound.onTimed {s : State} (h : s.Sound) (f : Timed → Timed) (e : (f s.dev.timed).versions = s.dev.timed.versions) :
    (s.onTimed f).Sound := h.of_parts rfl rfl rfl e rfl rfl rfl

theorem State.Sound.onDev {s : State} (h : s.Sound) (f : Device → Device) (p : (f s.dev).spads = s.dev.spads)
    (v : (f s.dev).timed.versions = s.dev.timed.versions) (n : (f s.dev).now = s.dev.now)
    (b : (f s.dev).trans.ptab = s.dev.trans.ptab) (i : (f s.dev).img.images = s.dev.img.images) : (s.onDev f).Sound :=
  h.of_parts rfl rfl p v n b i

theorem State.Sound.raise {s : State} (h : s.Sound) (f : FpFlags) : (s.raise f).Sound :=
  h.of_parts rfl rfl rfl rfl rfl rfl rfl

theorem State.Sound.setG {s : State} (h : s.Sound) (d : RegNo) (v : Word) : (s.setG d v).Sound :=
  h.onlyRegs (State.setG_onlyRegs s d v)

theorem State.Sound.tickCore {s : State} (h : s.Sound) : s.tickCore.Sound := h.of_parts rfl rfl rfl rfl rfl rfl rfl

theorem State.Sound.tickDev {s : State} (h : s.Sound) : s.tickDev.Sound := h.of_parts rfl rfl rfl rfl rfl rfl rfl

theorem State.Sound.agenda {s : State} (h : s.Sound) (a : List Act) : ({ s with agenda := a } : State).Sound :=
  h.of_parts rfl rfl rfl rfl rfl rfl rfl

/-- A core put back with canonical memories keeps the invariant. -/
theorem State.Sound.putCore {s : State} (h : s.Sound) (c : Core) (m : c.mem.Canonical) : (s.putCore c).Sound := by
  unfold State.putCore
  split
  · exact ⟨h.listed, m, h.others, h.spads, h.versions, h.tables, h.images, h.history, h.clock⟩
  · refine ⟨fun e he => ?_, h.acting, fun e he => ?_, h.spads, h.versions, h.tables, h.images, h.history, h.clock⟩
    · rcases mem_aset he with r | r
      · rw [r]
      · exact h.listed e r
    · rcases mem_aset he with r | r
      · rw [r]; exact m
      · exact h.others e r

/-- A change of a core that leaves its memories alone keeps the invariant. -/
theorem State.Sound.onCore {s : State} (h : s.Sound) (k : Nat) (f : Core → Core) (m : (f (s.coreAt k)).mem = (s.coreAt k).mem) :
    (s.onCore k f).Sound := h.putCore _ (m ▸ (h.coreAt k).2)

/-- Another core acting keeps the invariant. -/
theorem State.Sound.actAs {s : State} (h : s.Sound) (k : Nat) : (s.actAs k).Sound := by
  unfold State.actAs
  split
  · exact h
  · refine ⟨fun e he => ?_, (h.coreAt k).2, fun e he => ?_, h.spads, h.versions, h.tables, h.images, h.history, h.clock⟩
    · rcases mem_aset he with r | r
      · rw [r]
      · exact h.listed e (mem_adel r)
    · rcases mem_aset he with r | r
      · rw [r]; exact h.acting
      · exact h.others e (mem_adel r)

/-- What another core does keeps the invariant if it does there. -/
theorem State.Sound.asCore {s : State} (h : s.Sound) (k : Nat) (f : State → State) (m : (s.actAs k).Sound → (f (s.actAs k)).Sound) :
    (s.asCore k f).Sound := by
  unfold State.asCore
  split
  · exact (m (h.actAs k)).actAs _
  · exact h

/-- Cores whose gang alone changes keep the invariant. -/
theorem State.Sound.setGangs {s : State} (h : s.Sound) (g : List Nat) (ms : List Nat) :
    (ms.foldl (fun s m => s.onCore m (fun c => { c with gang := g })) s).Sound := by
  induction ms generalizing s with
  | nil => exact h
  | cons m ms ih => exact ih (h.onCore m (fun c => { c with gang := g }) rfl)

/-- A core leaves its gang. -/
theorem State.Sound.leaveGangOf {s : State} (h : s.Sound) (k : Nat) (ms : List Nat) : (s.leaveGangOf k ms).Sound :=
  (h.onCore k (fun c => { c with gang := [] }) rfl).setGangs _ _

theorem State.Sound.leaveGang {s : State} (h : s.Sound) : s.leaveGang.Sound := by
  unfold State.leaveGang
  split
  · exact h
  · exact h.leaveGangOf _ _

/-- Taking a trap keeps the invariant. -/
theorem State.Sound.enterTrap {s : State} (h : s.Sound) (c : BitVec 8) (v w : Word) (e : BitVec 16) : (s.enterTrap c v w e).Sound := by
  unfold State.enterTrap
  split
  · exact h.onX _
  · exact h.leaveGang.of_parts rfl rfl rfl rfl rfl rfl rfl

theorem State.Sound.advancePc {s : State} (h : s.Sound) : s.advancePc.Sound := h.onlyRegs (State.advancePc_onlyRegs s)

theorem State.Sound.endOfBody {s : State} (h : s.Sound) (e : Nat) : (s.endOfBody e).Sound := h.onlyRegs (endOfBodyFrom_onlyRegs _ e s)

/-- The bank in use is no part of the memories. -/
theorem Core.useBank_mem (c : Core) (hand : Bool) : (c.useBank hand).mem = c.mem := by
  unfold Core.useBank
  split <;> rfl

theorem State.Sound.leaveTrap {s : State} (h : s.Sound) : s.leaveTrap.Sound := by
  unfold State.leaveTrap
  split
  · exact h.of_parts rfl (s.core.useBank_mem false) rfl rfl rfl rfl rfl
  · exact h.of_parts rfl rfl rfl rfl rfl rfl rfl

theorem State.Sound.leaveHandler {s : State} (h : s.Sound) : s.leaveHandler.Sound :=
  h.of_parts rfl (s.core.useBank_mem false) rfl rfl rfl rfl rfl

/-- However an instruction ends, the invariant is kept. -/
theorem State.Sound.applyFlow {s : State} (h : s.Sound) (f : Flow) : (s.applyFlow f).Sound := by
  cases f <;> unfold State.applyFlow
  · exact (h.onX _).advancePc
  · exact State.Sound.onX (h.onX _) _
  · exact (h.onX _).endOfBody _
  · exact h.enterTrap _ _ _ _
  · exact (h.onX _).advancePc.enterTrap _ _ _ _
  · exact h.leaveHandler
  · exact h.leaveTrap
  · exact h
  · exact h

theorem State.Sound.finish {s : State} (h : s.Sound) (f : Flow) : (s.finish f).Sound := by
  unfold State.finish
  split
  · exact h.onX _
  · exact h.applyFlow f

/-! ### Writes to the memories -/

theorem State.Sound.onMem {s : State} (h : s.Sound) (f : CoreMem → CoreMem) (m : s.core.mem.Canonical → (f s.core.mem).Canonical) :
    (s.onMem f).Sound := ⟨h.listed, m h.acting, h.others, h.spads, h.versions, h.tables, h.images, h.history, h.clock⟩

/-- Bytes written to TCM leave a core's memories canonical. -/
theorem CoreMem.Canonical.tcmWrite {c : Core} (h : c.mem.Canonical) (bs : List (Nat × Byte)) : (c.tcmWrite bs).mem.Canonical :=
  ⟨h.1, Memory.wf_writeAll bs h.2⟩

/-- Bytes written to the scratchpad keep the invariant. -/
theorem State.Sound.spadWrite {s : State} (h : s.Sound) (cl : Nat) (bs : List (Nat × Byte)) : (s.spadWrite cl bs).Sound := by
  refine ⟨h.listed, h.acting, h.others, fun e he => ?_, h.versions, h.tables, h.images, h.history, h.clock⟩
  rcases mem_aset he with r | r
  · rw [r]; exact Memory.wf_writeAll bs (h.spad cl)
  · exact h.spads e r

/-- A reply written to a register keeps the invariant. -/
theorem State.Sound.writeScalar {s : State} (h : s.Sound) (hand : Bool) (r : RegNo) (v : Word) : (s.writeScalar hand r v).Sound := by
  unfold State.writeScalar
  split
  · exact h.of_parts rfl rfl rfl rfl rfl rfl rfl
  · exact h.setG r v

/-- A core with canonical memories put in place of the acting one keeps the invariant. -/
theorem State.Sound.core {s : State} (h : s.Sound) (c : Core) (m : c.mem.Canonical) : ({ s with core := c } : State).Sound :=
  ⟨h.listed, m, h.others, h.spads, h.versions, h.tables, h.images, h.history, h.clock⟩

/-- Words of late loads performed keep the invariant. -/
theorem State.Sound.wordsDone {s : State} (h : s.Sound) (pick : LateLoad → Nat → Bool) : (s.wordsDone pick).Sound := by
  unfold State.wordsDone
  split
  · exact h
  · exact h.onEng _

/-- A part of a load's destination taken keeps the invariant. -/
theorem State.Sound.takePart {s : State} (h : s.Sound) (l : LateLoad) (k : Nat) (bs : List Byte) : (s.takePart l k bs).Sound := by
  unfold State.takePart
  split
  · split
    · exact h.writeScalar _ _ _
    · exact h.writeScalar _ _ _
  · exact h.of_parts rfl rfl rfl rfl rfl rfl rfl
  · exact h

theorem State.Sound.takeWord {s : State} (h : s.Sound) (l : LateLoad) (w : Nat) : (s.takeWord l w).Sound := by
  unfold State.takeWord
  split
  · exact h
  · split
    · exact h.takePart _ _ _
    · exact h

/-- An access performed at its bank keeps the invariant. -/
theorem State.Sound.performStore {s : State} (h : s.Sound) (cl : Nat) (p : PendStore) : (s.performStore cl p).Sound := by
  have k := h.wordsDone (fun l w => if p.setsFull then decide (l.no < p.no) || (!p.tcm && p.words.contains w)
    else !p.tcm && p.words.contains w)
  unfold State.performStore
  dsimp only
  generalize s.wordsDone _ = t at k ⊢
  split
  · exact ((k.spadWrite cl _).writeScalar _ _ _).raise _
  · exact k.takeWord _ _
  · split
    · refine k.core _ ?_
      split
      · exact CoreMem.Canonical.tcmWrite k.acting p.bytes
      · exact CoreMem.Canonical.tcmWrite k.acting p.bytes
    · split
      · exact (k.spadWrite cl p.bytes).of_parts rfl rfl rfl rfl rfl rfl rfl
      · exact k.spadWrite cl p.bytes

/-- The core's pending accesses performed keep the invariant. -/
theorem State.Sound.drain {s : State} (h : s.Sound) (pick : PendStore → Bool) : (s.drain pick).Sound := by
  unfold State.drain
  dsimp only
  split
  case isFalse => exact h
  rename_i hp
  clear hp
  refine State.Sound.onEng ?_ _
  generalize (PendStore.before pick s.core.eng.pend).filter (fun p => p.2) = ps
  generalize clusterOf s.core.id = cl
  induction ps generalizing s with
  | nil => exact h
  | cons p ps ih => exact ih (h.performStore cl p.1)

/-- Late loads performed keep the invariant. -/
theorem State.Sound.loadsDone {s : State} (h : s.Sound) (pick : LateLoad → Bool) : (s.loadsDone pick).Sound := by
  unfold State.loadsDone
  split
  · exact h
  · exact h.onEng _

theorem State.Sound.drainAll {s : State} (h : s.Sound) : s.drainAll.Sound := (h.drain _).loadsDone _

theorem State.Sound.drainWords {s : State} (h : s.Sound) (tcm : Bool) (ws : List Nat) : (s.drainWords tcm ws).Sound :=
  (h.drain _).wordsDone _

theorem State.Sound.localStore {s : State} (h : s.Sound) (tcm : Bool) (bs : List (Nat × Byte)) (fe : Bool) :
    (s.localStore tcm bs fe).Sound := by
  unfold State.localStore State.spadStore
  dsimp only
  split
  · split
    · split
      · exact h.core _ (CoreMem.Canonical.tcmWrite h.acting bs)
      · exact h.onEng _
    · exact (h.drainWords _ _).core _ (CoreMem.Canonical.tcmWrite (h.drainWords _ _).acting bs)
  · exact h.onEng _

/-- Bytes of DRAM rewritten at the current instant keep the invariant. -/
theorem State.Sound.dramWrite {s : State} (h : s.Sound) (a : Nat) (bs : List Byte) : (s.dramWrite a bs).Sound := by
  refine ⟨h.listed, h.acting, h.others, h.spads, ?_, h.tables, h.images, ?_, h.clock⟩
  · intro v hv
    simp only [State.dramWrite, State.onTimed, Timed.rewrite, Timed.dropLines] at hv
    split at hv
    · rename_i n m rest e
      split at hv
      · rcases List.mem_cons.mp hv with r | r
        · rw [r]; exact Memory.wf_writeN _ bs (h.versions _ (e ▸ List.mem_cons_self))
        · exact h.versions v (e ▸ List.mem_cons_of_mem _ r)
      · rcases List.mem_cons.mp hv with r | r
        · rw [r]; exact Memory.wf_writeN _ bs (h.visible _)
        · exact h.versions v r
    · rcases List.mem_cons.mp hv with r | r
      · rw [r]; exact Memory.wf_writeN (m := []) _ bs rfl
      · cases r
  · obtain ⟨hp, hle⟩ := h.history
    simp only [State.History, State.dramWrite, State.onTimed, Timed.rewrite, Timed.dropLines]
    split
    · rename_i n m rest e
      rw [e] at hp
      split
      · rename_i q
        exact ⟨List.pairwise_cons.mpr ⟨(List.pairwise_cons.mp hp).1, (List.pairwise_cons.mp hp).2⟩, fun v hv => by
          rcases List.mem_cons.mp hv with r | r
          · rw [r]; exact Nat.le_of_eq q
          · exact hle v (e ▸ List.mem_cons_of_mem _ r)⟩
      · refine ⟨List.pairwise_cons.mpr ⟨fun v hv => hle v hv, e ▸ hp⟩, fun v hv => ?_⟩
        rcases List.mem_cons.mp hv with r | r
        · rw [r]
        · exact hle v r
    · refine ⟨List.pairwise_singleton _ _, fun v hv => ?_⟩
      rcases List.mem_cons.mp hv with r | r
      · rw [r]
      · cases r

end Sys2Proof.Machine
end

