-- ==== Sys2Proof/Tests/Slice0.lean ====
section
/-! SUPPORT. Tests of the model against the spec's words and numbers: terms that the encoding refuses, words
written out from the encodings, single steps on small states, and for each statement with hypotheses a state and
operands that meet them. -/

namespace Sys2Proof.Tests

open Sys2Proof Sys2Proof.Machine

set_option Elab.async false

/-! ### Small states -/

/-- A task context: token 1, partition 1, node 5, REL 10 and PUB 20. -/
def ctx : Ctx := ⟨1, 1, 1, 5, 5, 2, 0, 10, 20, 10, 1, false, false, 0, 0, none, 0, false, 0⟩

/-- The machine after reset at instant 12, its core in user mode at clause 0x100 with a task. -/
def task : State :=
  (State.reset.onX (fun x => { x with mode := .user, pc := 0x100, ctx := some ctx })).onDev (fun d => { d with now := 12 })

/-- A state with some g registers set. -/
def setRegs (s : State) (rs : List (RegNo × Word)) : State := rs.foldl (fun s r => s.setG r.1 r.2) s

/-- A g register of the machine after an instruction. -/
def after (r : Result) (d : RegNo) : Option Word :=
  match r with
  | .next t => some (t.g d)
  | _ => none

/-- The acting core after an instruction. -/
def coreOf (r : Result) : Option Core :=
  match r with
  | .next t => some t.core
  | _ => none

/-- The cause of the trap that an instruction took, and its values. -/
def trapOf (r : Result) : Option (BitVec 8 × Word × Word × BitVec 16) :=
  (coreOf r).bind (fun c => if c.csr.tip then some (c.csr.xcause, c.csr.xval, c.csr.xval2, c.x.pc) else none)

/-! ### Terms the encoding refuses (R111 to R114) -/

theorem test_float_shape : wellFormed (.vfadd 1 2 3 0 0) = false ∧ wellFormed (.vfadd 1 2 3 0 3) = false ∧
    wellFormed (.vfcmpeq 1 2 3 0 0) = false ∧ wellFormed (.vfma 1 2 3 4 3) = false ∧ wellFormed (.vfredadd 1 2 0 3) = false := by decide
theorem test_vmac_shape : wellFormed (.vmac 1 2 3 4 3) = false ∧ wellFormed (.vmacn 1 2 3 4 2) = true := by decide
theorem test_vdot_shape : wellFormed (.vdot8 1 2 3 0 1) = false ∧ wellFormed (.vdot8n 1 2 3 0 2) = true := by decide
theorem test_vcvt_types : wellFormed (.vcvt 1 2 10 0 0 0) = false ∧ wellFormed (.vcvt 1 2 0 10 0 0) = false ∧
    wellFormed (.vcvt 1 2 0 1 5 0) = false ∧ wellFormed (.vcvt 1 2 9 8 4 0) = true := by decide
theorem test_code_group : wellFormed (.vdec 1 2 0 4 0) = false ∧ wellFormed (.vdec 1 2 1 4 0) = true ∧
    wellFormed (.venc 1 2 0 7 0 0) = false ∧ wellFormed (.venc 1 2 0 3 0 5) = false := by decide
theorem test_branch_predicate : wellFormed (.bpany 8 0) = false ∧ wellFormed (.bpnone 8 0) = false ∧ wellFormed (.bpany 7 0) = true := by decide
theorem test_jal_link : wellFormed (.jal 0 4) = false ∧ wellFormed (.jal 1 4) = true := by decide
theorem test_loop_level : wellFormed (.loop 3 1 0) = false ∧ wellFormed (.loopx 3 1 0 2) = false ∧ wellFormed (.loop 2 1 0) = true := by decide
theorem test_atomic_instant : wellFormed (.aadd 1 2 3 3 0) = false ∧ wellFormed (.acas 1 2 3 3 1) = false ∧
    wellFormed (.afadd 1 2 3 3) = false ∧ wellFormed (.aadd 1 2 3 2 0) = true := by decide
theorem test_status_selector : wellFormed (.rds 1 0x00F) = false ∧ wellFormed (.wrs 1 0x000) = false ∧ wellFormed (.rds 1 0x000) = true ∧
    wellFormed (.qrd 1 6) = false := by decide
theorem test_accumulator : wellFormed (.mstore 4 1 0) = false ∧ wellFormed (.mzero 4) = false ∧ wellFormed (.mma 4 0 0 0) = false ∧
    wellFormed (.mtr 4) = false ∧ wellFormed (.mcvt 0 1 5 0) = false := by decide
theorem test_register_pair : wellFormed (.mload 1 31 0) = false ∧ wellFormed (.mmas 0 1 2 31 0 0) = false ∧
    wellFormed (.mscale 1 31 0) = false ∧ wellFormed (.mscale 1 30 3) = false := by decide
theorem test_step_without_word : wellFormed .instantBoundary = false ∧ wellFormed .powerLoss = false := by decide

/-! ### Words written out from the encodings (R108 to R113) -/

theorem test_word_add : decode 0b00000000010100110001110000000001 = .ok (.add 5 6 7 1) := rfl
theorem test_word_movi : decode 0b00001100010100000000000000000100 = .ok (.movi 5 4) := rfl
theorem test_word_vcmplt : decode 0b00100010001100001000100001000010 = .ok (.vcmplt 3 1 2 0 2) := rfl
theorem test_word_branch : decode 0b01000000010011100000111111111101 = .ok (.bne 7 0 0xFFD) := rfl
theorem test_word_load : decode 0b01001010011110101011000000000000 = .ok (.ldw 7 21 1 0 0) := rfl
theorem test_word_atomic : decode 0b01010010011110100001010011001000 = .ok (.acas 7 20 5 0 1) := rfl
theorem test_word_copy : decode 0b01010110011110100101011011000000 = .ok (.xcopy 7 20 21 22) := rfl
theorem test_word_matrix : decode 0b01011110000000100100000000000001 = .ok (.mma 0 1 2 1) := rfl
theorem test_word_task : decode 0b01100000010100110001110000000001 = .ok (.tpub 5 6 7) := rfl
theorem test_word_splice : decode 0b01100100010100110000000000000000 = .ok (.spliceIns 5 6) := rfl
theorem test_word_user : decode 0b01100110000000000011000000000101 = .ok (.trap 5) := rfl
theorem test_word_system : decode 0b01101000010100000000000000000010 = .ok (.csrr 5 2) := rfl
/-- A set reserved bit of `add`, a reserved shape, and a major that is not assigned (R115). -/
theorem test_word_refused : decode 0x00531C02 = .error .nonzeroField ∧ decode 0x24110C00 = .error .illegalValue ∧
    decode 0x7E000000 = .error .reservedMajor := ⟨rfl, rfl, rfl⟩
/-- The clause bit is no field of an instruction (R103). -/
theorem test_word_clause_bit : decode 0x80531C01 = .ok (.add 5 6 7 1) := rfl

/-! ### Single steps -/

theorem test_add_wraps : after (exec (.add 3 1 2 0) (setRegs task [(1, 0xFFFFFFFFFFFFFFFF), (2, 2)])) 3 = some 1 := by decide +kernel
theorem test_add_narrow : after (exec (.add 3 1 2 1) (setRegs task [(1, 0x7FFFFFFF), (2, 1)])) 3 = some 0xFFFFFFFF80000000 := by decide +kernel
theorem test_g0 : after (exec (.addi 0 1 7) (setRegs task [(1, 5)])) 0 = some 0 := by decide +kernel
theorem test_movs : after (exec (.movs 1 0xFFFFF) (setRegs task [(1, 0x3)])) 1 = some 0x3FFFFF := by decide +kernel
theorem test_div_by_zero : after (exec (.div 3 1 0 0) (setRegs task [(1, 9)])) 3 = some 0xFFFFFFFFFFFFFFFF ∧
    after (exec (.rem 3 1 0 0) (setRegs task [(1, 9)])) 3 = some 9 := by decide +kernel
theorem test_div_most_negative : after (exec (.div 3 1 2 0) (setRegs task [(1, 0x8000000000000000), (2, 0xFFFFFFFFFFFFFFFF)])) 3 =
    some 0x8000000000000000 := by decide +kernel
theorem test_bext : after (exec (.bext 3 1 2 0) (setRegs task [(1, 0xABCD), (2, 0x804)])) 3 = some 0xBC := by decide +kernel
theorem test_branch_back : (coreOf (exec (.bne 1 0 0xFFD) (setRegs task [(1, 1)]))).map (fun c => c.x.pc) = some 0xE8 := by decide +kernel
theorem test_call : (coreOf (exec (.jal 1 8) task)).map (fun c => (c.x.pc, c.r.readG 1, c.x.ras)) = some (0x140, 0x108, [0x108]) := by
  decide +kernel
theorem test_jump_misaligned : trapOf (exec (.jr 1) (setRegs task [(1, 0x104)])) = some (0x04, 0x104, 0, 0xF000) := by decide +kernel
theorem test_privilege : trapOf (exec (.csrr 5 2) task) = some (0x03, 0xE8500002, 0, 0xF000) := by decide +kernel
theorem test_trap_retires : (coreOf (exec (.trap 5) task)).map (fun c => (c.csr.xepc, c.csr.xval)) = some (0x104, 5) := by decide +kernel
theorem test_vadds : (coreOf (exec (.vadds 3 1 2 0 0) ((task.setVReg 1 0x7F).setVReg 2 0x01))).map (fun c => c.r.readV 3) = some 0x7F := by
  decide +kernel
theorem test_compare : (coreOf (exec (.vcmplt 3 1 2 0 2) ((task.setVReg 1 0xFFFFFFFF).setVReg 2 0x01))).map (fun c => c.r.readP 3) =
    some 0x000F := by decide +kernel
theorem test_float_add : (coreOf (exec (.vfadd 3 1 2 0 2) ((task.setVReg 1 0x3F800000).setVReg 2 0x40000000))).map
    (fun c => (c.r.readV 3, c.sw.fstat)) = some (0x40400000, 0) := by decide +kernel
theorem test_store_load : ((coreOf (exec (.stw 2 1 0 0 1) (setRegs task [(1, 0x0100000000000010), (2, 0x80000000)]))).map
    (fun c => c.mem.tcm)) = some [(0x17, 0x80)] := by decide +kernel
theorem test_load_sign : after (exec (.ldb 3 1 0 0 7) ((setRegs task [(1, 0x0100000000000010)]).onMem
    (fun m => { m with tcm := [(0x17, 0x80)] }))) 3 = some 0xFFFFFFFFFFFFFF80 := by decide +kernel
theorem test_load_misaligned : trapOf (exec (.ldw 3 1 0 0 0) (setRegs task [(1, 0x0100000000000012)])) =
    some (0x04, 0x0100000000000012, 0, 0xF000) := by decide +kernel
theorem test_path_fault : trapOf (exec (.ldw 3 1 0 0 0) (setRegs task [(1, 0x0300000000000000)])) =
    some (0x05, 0x0300000000000000, 0, 0xF000) := by decide +kernel
theorem test_atomic_swap : after (exec (.aswap 3 1 2 0 0) ((setRegs task [(1, 0x0100000000000010), (2, 5)]).onMem
    (fun m => { m with tcm := [(0x10, 0x09)] }))) 3 = some 9 := by decide +kernel
theorem test_loop_begins : (coreOf (exec (.loop 2 1 0) ((setRegs task [(1, 3)]).onX (fun x => { x with pc := 0x104 })))).map
    (fun c => (c.x.pc, c.x.loops[2].active, c.x.loops[2].stop, c.x.loops[2].lc)) = some (0x108, true, 0x110, 3) := by decide +kernel
theorem test_user_return : (coreOf (exec .uiret (task.onX (fun x => { x with inHandler := true })))).map
    (fun c => (c.x.pc, c.x.inHandler)) = some (0, false) := by decide +kernel
theorem test_claim : (coreOf (exec (.mclaim 2) task)).map (fun c => c.mat.slots[2].st) = some .claimed := by decide +kernel
theorem test_step_runs : after (step ((setRegs task [(1, 4), (2, 5)]).withFetchWord 32 0x00308800)) 3 = some 9 := by decide +kernel

/-! ### States and operands that meet the hypotheses of the statements

Each theorem names the statement; its clauses follow those of the statement, at boundary values where a clause has a
range. -/

theorem reset_sound : State.reset.Sound := by
  constructor <;> simp [State.reset, Core.reset, Device.reset, CoreMem.reset, CoreMem.Canonical, State.History, Memory.wf, Memory.wfFrom]

theorem task_sound : task.Sound := by
  constructor <;> simp [task, State.onX, State.onDev, State.reset, Core.reset, Device.reset, CoreMem.reset, CoreMem.Canonical,
    State.History, Memory.wf, Memory.wfFrom]

theorem meets_ScalarFrame : scalarDest (.add 3 1 2 0) = some 3 ∧ (∃ t, exec (.add 3 1 2 0) task = .next t) ∧
    ∀ r, task.core.Landed r := ⟨rfl, ⟨_, rfl⟩, fun _ => ⟨rfl, rfl, rfl⟩⟩

/-- A level 2 loop whose body ends with the next clause. -/
def looping : State := task.onX (fun x => { x with pc := 0x104, loops := x.loops.set 2 ⟨true, 0x100, 0x108, 0, 0, 2, []⟩ })

theorem meets_RegistersAndEnd : (task.onX (fun x => { x with inPair := true })).core.x.inPair = true ∧
    (task.core.x.inPair = false ∧ task.core.x.pc.getLsbD 2 = false) ∧
    (let s := task.onX (fun x => { x with pc := 0x104 })
     s.core.x.inPair = false ∧ s.core.x.pc.getLsbD 2 = true ∧ ∀ l ∈ s.core.x.loops.toList, l.active = true → l.stop ≠ s.clause.toNat + 8) ∧
    (let l := looping.core.x.loops[2]
     looping.core.x.inPair = false ∧ looping.core.x.pc.getLsbD 2 = true ∧ l.active = true ∧ l.stop = looping.clause.toNat + 8 ∧ 1 < l.lc.toNat) ∧
    (1 : RegNo) ∉ looping.endRegs := by decide +kernel

/-- `task` with one load to g3 outstanding. -/
def owing : State := task.onEng (fun e => { e with remote := [⟨5, .g 3 false, 0x2000000000000040, 8, some 12, .walk, 0x100, false, false, true, 0, false⟩] })

theorem meets_RegistersAndEnd_stride : task.core.Landed 3 ∧ ∃ m ∈ owing.core.eng.remote, owing.core.pends m 3 = true :=
  ⟨⟨rfl, rfl, rfl⟩, _, List.mem_cons_self .., rfl⟩

theorem meets_VectorIntegerResults : task.PortsReady [1, 2] [3] false := ⟨rfl, rfl⟩

theorem meets_VectorUnaryAndPermuteResults : task.PortsReady [1] [3] false ∧ task.PortsReady [] [3] false ∧
    task.PortsReady [] [3] true ∧ task.PortsReady [1] [] false ∧ task.PortsReady [1, 2] [3] false :=
  ⟨⟨rfl, rfl⟩, ⟨rfl, rfl⟩, ⟨rfl, rfl⟩, ⟨rfl, rfl⟩, ⟨rfl, rfl⟩⟩

theorem meets_VectorCompareResults : task.PortsReady [1, 2] [] false ∧ floatShape 1 = true ∧ floatShape 2 = true :=
  ⟨⟨rfl, rfl⟩, rfl, rfl⟩

theorem meets_VectorFloatResults : (floatShape 1 = true ∧ floatShape 2 = true) ∧ task.PortsReady [1, 2] [3] false ∧
    task.PortsReady [1] [3] false ∧ task.PortsReady [1, 2, 4] [3] false ∧
    (0x7F7FFFFF < 2 ^ 32 ∧ 0x7F7FFFFF / 2 ^ 23 % 256 ≠ 255) ∧ 0xFF800000 % 2 ^ 31 = 0x7F800000 ∧
    (0x7F800000 < 0x7F800001 % 2 ^ 31 ∧ 0x7F800001 / 2 ^ 22 % 2 = 0) ∧ 0x7FC00000 / 2 ^ 22 % 2 = 1 := by
  refine ⟨?_, ⟨rfl, rfl⟩, ⟨rfl, rfl⟩, ⟨rfl, rfl⟩, ?_⟩ <;> decide

theorem meets_VectorReduceResults : task.PortsReady [1, 2, 4] [3] false ∧ task.PortsReady [1] [3] false ∧
    task.PortsReady [1, 2] [3] true := ⟨⟨rfl, rfl⟩, ⟨rfl, rfl⟩, ⟨rfl, rfl⟩⟩

/-- Table 0 loading. -/
def tabling : State := task.onEng (fun e => { e with dtLoads := [⟨0, none, 0, 0, none, task.reader, 0x100⟩] })

theorem meets_VectorConvertResults : task.PortsReady [1] [3] false ∧
    ((0 : BitVec 4) ≠ 1 ∧ wellFormed (.vcvt 3 1 0 1 0 0) = true ∧ task.core.boundWrite 3 = false) ∧ task.core.tableBusy 0 = false ∧
    tabling.core.tableBusy 0 = true ∧ task.core.eng.segLoads = [] ∧ task.PortsReady [1] [3] true ∧ groupOk 0 3 = true ∧
    ∀ i < 4, (tabEncode (task.core.eng.tabs[0]) (2 ^ 8) .rne (f32 (lane 32 (task.v 1) i).toNat)).1 < 2 ^ 8 := by
  refine ⟨⟨rfl, rfl⟩, ?_, ?_, ?_, ?_, ⟨rfl, rfl⟩, ?_, ?_⟩ <;> decide +kernel

/-- The tables loading, and a bound write port as destination. -/
theorem meets_VectorConvertResults_held : tabling.PortsReady [1] [3] true ∧
    ((task.onEng (fun e => { e with segLoads := [⟨0, none, 0, 0, none, task.reader, 0x100⟩] })).core.eng.segLoads.any (fun x => x.table = (0 : Nat)) = true ∧
      task.core.eng.segLoads.any (fun x => x.table = (0 : Nat)) = false) ∧
    (let s := { task with core := task.core.setStream 2 (some ⟨0x0100000000000100, 2, 0, 0, [], [], 0, task.reader, 0x100⟩) };
     s.PortsReady [1] [30] false ∧ s.core.boundWrite 30 = true) :=
  ⟨⟨rfl, rfl⟩, by decide +kernel, ⟨by decide +kernel, by decide +kernel⟩, by decide +kernel⟩

theorem meets_VectorFrame : wellFormed (.vadd 3 1 2 0 0) = true ∧ (∀ k : Fin 4, task.core.eng.streams[k] = none) ∧
    (vectorDest (.vadd 3 1 2 0 0)).isSome ∧ (∀ d a u r p, Instr.vadd 3 1 2 0 0 ≠ .vcvt d a u u r p) ∧
    (∃ t, exec (.vadd 3 1 2 0 0) task = .next t) ∧ (∀ r, task.core.Landed r) ∧ (compareDest (.vcmpeq 3 1 2 0 0)).isSome := by
  refine ⟨rfl, by decide +kernel, rfl, ?_, ⟨_, rfl⟩, fun _ => ⟨rfl, rfl, rfl⟩, rfl⟩
  intro d a u r p h
  cases h

/-- A stream of two units on TCM, at one of the ports. -/
def streaming (i : Fin 4) (n taken : Nat) : State :=
  let t : Stream := ⟨0x0100000000000100, BitVec.ofNat 64 n, taken, 0, [], [], 0, task.reader, 0x100⟩
  { task with core := task.core.setStream i (some t) }

theorem meets_PredicatesAndPorts : task.core.boundWrite 3 = false ∧
    (portIndex 30 = some 2 ∧ ((streaming 2 2 0).core.eng.streams[(2 : Fin 4)]).isSome ∧
      ((streaming 2 2 0).core.bound 30).map (fun t => pathOf (t.unit t.taken)) = some (some (.tcm, 0x100))) ∧
    (streaming 0 2 0).core.boundRead 28 = true ∧
    ((streaming 2 2 0).core.boundRead 3 = false ∧ (streaming 2 2 0).core.boundWrite 30 = true) ∧
    ((streaming 0 2 2).core.boundRead 28 = true ∧
      ((streaming 0 2 2).core.bound 28).map (fun t => decide (t.count ≤ t.taken)) = some true) ∧
    ((streaming 0 2 0).core.portTrap [28] [3] false = none ∧ ((streaming 0 2 0).core.bound 28).map (fun t => t.fifo) = some []) := by
  decide +kernel

/-! #### Control flow -/

theorem meets_BranchAndJumpResults : (let s := setRegs task [(1, 0x8000000000000000), (2, 0x7FFFFFFFFFFFFFF8), (3, 4)]
      (s.g 1 = s.g 1 ∧ s.g 1 ≠ s.g 2) ∧ ((s.g 1).toInt < (s.g 2).toInt ∧ (s.g 2).toInt ≤ (s.g 2).toInt) ∧
      ((s.g 2).toNat < (s.g 1).toNat ∧ (s.g 2).toNat ≤ (s.g 2).toNat) ∧
      (s.g 1).toNat % 8 = 0 ∧ (s.g 3).toNat % 8 ≠ 0) ∧
    ((∃ k < 16, (task.p 0).getLsbD k = true) ∧ ∀ k < 16, (task.p 1).getLsbD k = false) ∧
    (let s := task.onMem (fun m => { m with frames := m.frames.set 1 (.resident none) })
     (∃ seg, s.core.mem.frames[1] = .resident seg) ∧ ∀ seg, s.core.mem.frames[0] ≠ .resident seg) := by
  refine ⟨by decide +kernel, by decide +kernel, ⟨none, rfl⟩, fun seg h => ?_⟩
  simp [task, State.onMem, State.onDev, State.onX, State.reset, Core.reset, CoreMem.reset] at h

/-- The clause before the last one, so that a body of one clause ends IM. -/
def atEnd : State := task.onX (fun x => { x with pc := 0xFFF4 })

theorem meets_LoopResults : (let s := setRegs atEnd [(1, 1), (2, 0x3FFFFFFFFFFF), (3, 0x400000000000)]
      (s.clause.toNat + 8 + 8 * (0 + 1) ≤ 65536 ∧ (∀ k : Fin 3, s.core.x.loops[k].active = true →
        k < 2 ∧ s.clause.toNat + 8 + 8 * (0 + 1) ≤ s.core.x.loops[k].stop)) ∧
      s.g 1 ≠ 0 ∧ s.g 0 = 0 ∧ (s.g 2).toNat < 2 ^ 46 ∧ 2 ^ 46 ≤ (s.g 3).toNat ∧ ¬s.clause.toNat + 8 + 8 * (1 + 1) ≤ 65536) ∧
    ¬(∀ k : Fin 3, looping.core.x.loops[k].active = true → k < 2) ∧
    (task.core.x.inPair = false ∧ ∀ k : Fin 3, task.core.x.loops[k].active = true → task.core.x.loops[k].stop ≠ 0x110) := by decide +kernel

/-- Core 1 asks for a gang of cores 0 and 1. -/
def asking : State := setRegs { task with cores := [(1, { Core.reset 1 with
  fuse := some (3, false), x := { ExecState.reset with wait := some ⟨.fuse, 0, 4096⟩ } })] } [(1, 3), (2, 1)]

theorem asking_numbered : asking.Numbered := by
  intro k
  by_cases h : k = 0
  · subst h; rfl
  · by_cases h1 : k = 1
    · subst h1; rfl
    · simp [asking, setRegs, State.coreAt, State.setG, Core.writeG, task, State.onX, State.onDev, State.reset, Core.reset, aget, h, h1]

theorem asking_members (k : Nat) (h : ∃ c < 48, (asking.g 1 &&& 0xFFFFFFFFFFFF).getLsbD c = true ∧
    k = coreInCluster (clusterOf asking.core.id) c) : k = 0 ∨ k = 1 := by
  obtain ⟨c, hc, hb, rfl⟩ := h
  have : ∀ c < 48, (asking.g 1 &&& 0xFFFFFFFFFFFF).getLsbD c = true → c = 0 ∨ c = 1 := by decide +kernel
  rcases this c hc hb with rfl | rfl
  · left; rfl
  · right; rfl

theorem meets_GangAndGroupResults_fuse : asking.Numbered ∧
    (¬((asking.g 2 &&& 0xFFFFFFFFFFFF) ≠ BitVec.ofNat 64 (2 ^ localIndex asking.core.id))) ∧
    ((asking.g 1 &&& 0xFFFFFFFFFFFF).getLsbD (localIndex asking.core.id) = true ∧
      (asking.g 1 &&& 0xFFFFFFFFFFFF) ≠ BitVec.ofNat 64 (2 ^ localIndex asking.core.id) ∧ asking.core.gang = [] ∧
      asking.core.displaced = false ∧
      asking.core.x.inHandler = false ∧ asking.core.x.wait = none ∧ asking.core.fuse = none) ∧
    (∀ k, (∃ c < 48, (asking.g 1 &&& 0xFFFFFFFFFFFF).getLsbD c = true ∧ k = coreInCluster (clusterOf asking.core.id) c) →
      k ≠ asking.core.id → (asking.coreAt k).fuse = some (asking.g 1 &&& 0xFFFFFFFFFFFF, false) ∧
        (asking.coreAt k).displaced = false ∧ ∃ w, (asking.coreAt k).x.wait = some w ∧ w.reason = .fuse ∧ w.cycles ≤ 4096) ∧
    (setRegs task [(1, 3)]).coreAt 1 = Core.reset 1 := by
  refine ⟨asking_numbered, by decide +kernel, by decide +kernel, fun k h n => ?_, rfl⟩
  rcases asking_members k h with rfl | rfl
  · exact absurd rfl n
  · exact ⟨by decide +kernel, by decide +kernel, _, rfl, rfl, by decide⟩

/-- A record of higher priority waits in the queue of the core's cluster. -/
def pressed : State := task.onDisp (fun d => { d with
  parts := [(1, ⟨⟨0, 0, 0, 0, 0, 0, 0, 0, 0, 0, 0, 1, 0, 0⟩, [], 0, 0, false, 0⟩)], clusters := [(0, 1)]
  recs := [⟨1, 0, 1, 6, 3, 3, 0, 0, 3, none, none, false, false, none⟩] })

theorem meets_GangAndGroupResults_yield : (task.core.x.inHandler = false ∧ task.core.x.ctx = some ctx ∧
      task.fenceWaits task.core.sw.fenceScope = false ∧ task.core.gang = []) ∧
    ¬(∀ k : Fin 3, looping.core.x.loops[k].active = false) ∧
    (maskSlots (task.g 1 &&& 0x7FFFFFFFFFFFFFFE) ≤ 16 ∧ (∀ k : Fin 3, task.core.x.loops[k].active = false) ∧
      task.core.csr.req = false ∧ task.outranked ctx.prio = false ∧ task.core.anyPort = false ∧ task.core.eng.remote = [] ∧
      task.core.x.inPair = false) ∧
    (task.onCsr (fun x => { x with req := true })).core.csr.req = true ∧
    (pressed.core.csr.req = false ∧ pressed.outranked ctx.prio = true ∧ pressed.core.anyPort = false) := by decide +kernel

/-! #### Memory -/

/-- `task` with an address in g1 and a value in g2. -/
def aimed (a : Word) : State := setRegs task [(1, a), (2, 0x1122334455667788)]

theorem meets_AccessTraps :
    pathOf 0x0300000000000000 = none ∧ pathOf 0x0100000000010000 = none ∧
    ((pathOf 0x0800000000000000 = some (.tcmView 0, 0)) ∧ (2 < 4)) ∧ pathOf 0x000000000000FFFF = some (.im, 0xFFFF) ∧
    (pathOf 0x7F00000000007FF8 = some (.dev, 0x7FF8) ∧ pathOf 0x7F0000000000D000 = some (.dev, 0xD000) ∧
      pathOf 0x7F0000000000D300 = some (.dev, 0xD300)) ∧
    (task.core.x.mode = .user ∧ task.core.csr.supEn = true ∧ task.core.csr.tfr.toNat * 4096 ≤ 0xE000 ∧
      pathOf 0x010000000000E000 = some (.tcm, 0xE000)) ∧
    (let s := task.onSw (fun w => { w with stkb := 0x0100000000000100, stkl := 0x0100000000000200 })
     s.core.sw.stkl ≠ 0 ∧ s.core.sw.stkl.toNat < 0x01000000000001FD + 4) ∧
    0x0100000000000102 % 4 ≠ 0 ∧ Path.hasFull .loft = false ∧
    accessTrap task.core .load 0x010000000000DFF8 8 false true = none := by decide +kernel

theorem meets_LocalLoads :
    (accessTrap task.core .load 0x0000000000000FF8 8 false false = none ∧ pathOf 0x0000000000000FF8 = some (.im, 0xFF8)) ∧
    (accessTrap task.core .load 0x010000000000DFF8 8 false true = none ∧ pathOf 0x010000000000DFF8 = some (.tcm, 0xDFF8) ∧
      ∀ w, 0xDFF8 / 4 ≤ w → w ≤ (0xDFF8 + 8 - 1) / 4 → w ∉ task.core.mem.tcmEmpty) ∧
    (accessTrap task.core .load 0x0200000000BFFFF8 8 false false = none ∧ pathOf 0x0200000000BFFFF8 = some (.spad, 0xBFFFF8)) ∧
    task.core.eng.pend = [] ∧
    (let s := task.onMem (fun m => { m with tcmEmpty := [0x40] })
     accessTrap s.core .load 0x0100000000000100 4 false true = none ∧ pathOf 0x0100000000000100 = some (.tcm, 0x100) ∧
       0x100 / 4 ≤ 0x40 ∧ 0x40 ≤ (0x100 + 4 - 1) / 4 ∧ 0x40 ∈ s.core.mem.tcmEmpty) ∧
    (accessTrap task.core .load 0x0B00000000000000 4 false false = none ∧ pathOf 0x0B00000000000000 = some (.tcmView 3, 0) ∧
      task.core.tableBusy 3 = false ∧ tabDecode task.core.eng.tabs[3] (task.core.mem.tcm.read 0).toNat < 2 ^ 32) ∧
    (accessTrap tabling.core .load 0x0800000000000000 4 false false = none ∧ pathOf 0x0800000000000000 = some (.tcmView 0, 0) ∧
      tabling.core.tableBusy 0 = true) ∧
    (accessTrap task.core .load 0x100000000001BFFC 4 false false = none ∧ pathOf 0x100000000001BFFC = some (.tcmBf16, 0x1BFFC)) ∧
    (accessTrap task.core .load 0x010000000000DFF0 16 false false = none ∧ pathOf 0x010000000000DFF0 = some (.tcm, 0xDFF0) ∧
      task.core.bound 3 = none) := by
  refine ⟨by decide +kernel, ⟨by decide +kernel, by decide +kernel, fun w _ _ => ?_⟩, ?_⟩
  · exact List.not_mem_nil
  · decide +kernel

/-- The error of a scratchpad read is a free value; whichever it is, one of the clauses holds. -/
theorem meets_scratchpad_error (t off : Nat) : Config.spadEcc t off = true ∨ Config.spadEcc t off = false := by
  cases Config.spadEcc t off <;> simp

/-- A store to the scratchpad word at 0x100 that its bank has still to perform. -/
def behind : State := task.onEng (fun e => { e with pend := [⟨0x100, false, [(0x100, 7)], false, none, none, 0⟩] })

/-- A load from GLOBAL-RO outstanding. -/
def roOwing : State := task.onEng (fun e => { e with
  remote := [⟨5, .g 3 false, 0x4100000000000040, 8, none, .walk, 0x100, false, false, true, 0, false⟩] })

theorem meets_LocalLoads_behind : behind.owesWords .spad 0x100 8 = true ∧ task.owesWords .spad 0x100 8 = false ∧ (3 : RegNo) ∉ behind.core.loopRegs ∧
    (accessTrap behind.core .load 0x0200000000000100 8 false false = none ∧ pathOf 0x0200000000000100 = some (.spad, 0x100)) := by decide +kernel

theorem meets_untimed : roOwing.core.untimedOut = true ∧ task.core.untimedOut = false ∧ ¬(behind.core.eng.pend = [] ∧ behind.core.eng.loads = []) ∧
    ((List.range 16).filter (fun k => (task.p 1).getLsbD k) = [] ∧ task.p 1 = 0) ∧
    (∃ p o, pathOf 0x0200000000000100 = some (p, o) ∧ p.isTimed = false) := by
  refine ⟨by decide +kernel, by decide +kernel, by decide +kernel, by decide +kernel, .spad, 0x100, by decide +kernel, rfl⟩

/-- `task` with IX at an instant and `n` remote accesses outstanding, its partition configured with all of loft. -/
def timedTask (ix : BitVec 56) (n : Nat) : State :=
  ((task.onSw (fun w => { w with ix := ix })).onEng (fun e => { e with
    remote := List.replicate n ⟨0, .g 3 false, 0, 8, some 0, .walk, 0x100, false, false, true, 0, false⟩ })).onDisp (fun d => { d with
      parts := [(1, ⟨⟨0, 0, 0, 0, 0, 0, 0, 0, 0, 0, 0, 16, 0, 0⟩, [], 11, 11, false, 0⟩)], clusters := [(0, 1)] })

theorem meets_TimedLoads : task.core.x.ctx = some ctx ∧
    (accessTrap task.core .load 0x2000000000000040 8 false false = none ∧ pathOf 0x2000000000000040 = some (.loft, 0x40)) ∧
    (accessTrap task.core .load 0x4000FFFFFFFFFFF0 16 false false = none ∧ pathOf 0x4000FFFFFFFFFFF0 = some (.global, 0xFFFFFFFFFFF0) ∧
      task.core.bound 3 = none) ∧
    (let s := timedTask 0x8000000D 0
     s.dev.now + 2 ^ 31 < s.core.sw.ix.toNat) ∧
    (let s := timedTask 10 0
     ¬(s.dev.now + 2 ^ 31 < s.core.sw.ix.toNat ∨ s.core.sw.ix.toNat + 2 ^ 31 < s.dev.now) ∧ s.core.sw.ix.toNat < s.core.horizon s) ∧
    (let s := timedTask 11 31
     ¬s.core.sw.ix.toNat < s.core.horizon s ∧ s.core.eng.remote.length < 32) ∧
    32 ≤ (timedTask 11 32).core.eng.remote.length := by decide +kernel

theorem meets_LocalStores : task.Sound ∧
    (accessTrap task.core .store 0x010000000000DFF8 8 false false = none ∧ pathOf 0x010000000000DFF8 = some (.tcm, 0xDFF8)) ∧
    accessTrap task.core .store 0x010000000000DFF8 8 false true = none ∧
    (accessTrap task.core .store 0x0200000000BFFFF8 8 false false = none ∧ pathOf 0x0200000000BFFFF8 = some (.spad, 0xBFFFF8)) ∧
    (accessTrap task.core .store 0x010000000000DFF0 16 false false = none ∧ pathOf 0x010000000000DFF0 = some (.tcm, 0xDFF0) ∧
      task.core.bound 3 = none) := ⟨task_sound, by decide +kernel⟩

theorem meets_TimedStores : task.core.x.ctx = some ctx ∧ (task.core.bound 3 = none ∧ task.p 0 ≠ 0) ∧ ctx.seq ≤ 0xFFFFFFFF ∧
    (accessTrap task.core .store 0x2000000000010000 8 false false = none ∧ pathOf 0x2000000000010000 = some (.loft, 0x10000)) ∧
    (accessTrap task.core .store 0x4000000000000000 16 false false = none ∧ pathOf 0x4000000000000000 = some (.global, 0)) ∧
    (let s := timedTask 0x8000000D 0
     s.dev.now + 2 ^ 31 < s.core.sw.ix.toNat) ∧
    ((timedTask 12 0).loftAllowed (some 1) 0x10000 8 = false ∧ (timedTask 12 0).loftAllowed (some 1) 0xFFF8 8 = true) := by decide +kernel

theorem meets_LocalAtomics : task.Sound ∧
    (accessTrap task.core .atomic 0x010000000000DFF8 8 false false = none ∧ pathOf 0x010000000000DFF8 = some (.tcm, 0xDFF8)) ∧
    (accessTrap task.core .atomic 0x010000000000DFFC 4 false false = none ∧ pathOf 0x010000000000DFFC = some (.tcm, 0xDFFC)) ∧
    (accessTrap task.core .atomic 0x0200000000BFFFFC 4 false false = none ∧ pathOf 0x0200000000BFFFFC = some (.spad, 0xBFFFFC)) :=
  ⟨task_sound, by decide +kernel⟩

theorem meets_TimedAtomics : (timedTask 12 31).core.x.ctx = some ctx ∧ ctx.seq ≤ 0xFFFFFFFF ∧
    (let s := setRegs (timedTask 12 31) [(1, 0x200000000000FFF8), (2, 0x4000000000000000)]
     accessTrap s.core .atomic (s.g 1) 8 false false = none ∧ pathOf (s.g 1) = some (.loft, 0xFFF8) ∧
       s.loftAllowed (some 1) 0xFFF8 8 = true ∧ s.core.eng.remote.length < 32 ∧
       accessTrap s.core .atomic (s.g 2) 4 true false = none ∧ pathOf (s.g 2) = some (.global, 0)) ∧
    (timedTask 0x8000000D 0).dev.now + 2 ^ 31 < (timedTask 0x8000000D 0).core.sw.ix.toNat ∧
    32 ≤ (timedTask 12 32).core.eng.remote.length := by decide +kernel

/-- A copy of 8 bytes from TCM to the scratchpad in progress, with a tag. -/
def copyAt (tag : Nat) (failed : Bool) (op : Nat) : Copy :=
  let frame : TStore := { task.storeFrame 0x0200000000000100 20 with core := 0 }
  ⟨tag, task.reader, frame, 0x0100000000000100, BitVec.ofNat 64 (8 + op * 2 ^ 24), [0, 1], 10, 0, failed, [], 0⟩

/-- `task` with copies in progress. -/
def copying (cs : List Copy) : State := task.onEng (fun e => { e with copies := cs })

theorem meets_FenceStatusAndQuarantine : task.core.x.ctx = some ctx ∧
    (let s := setRegs (copying [copyAt 0x10000 false 0]) [(1, 0xD7BFC0000), (2, 1)]
     ((rectOf (s.g 2)).empty = true ∧ (rectOf (s.g 1)).empty = false ∧ (rectOf (s.g 1)).beyond s.core.id = true) ∧
       (∃ c ∈ s.core.eng.copies, c.blocks s.core.id (rectOf (s.g 1)) = true) ∧
       (∀ c ∈ task.core.eng.copies, c.blocks task.core.id (rectOf (s.g 1)) = false)) ∧
    task.core.flagsPending task.dev.timed = false ∧ task.Sound ∧ aget (task.onDisp (fun d => { d with tjunc := [(0, 1360)] })).dev.disp.tjunc 0 = some 1360 ∧
    (accessTrap task.core .store 0x0100000000000100 8 false false = none ∧ task.core.profiled 0x0100000000000100 = false ∧
      pathOf 0x0100000000000100 = some (.tcm, 0x100)) ∧
    (let s := task.onCsr (fun x => { x with prof := (x.prof.set 0 0x0100000000000100).set 1 0x0100000000000108 })
     s.core.profiled 0x0100000000000100 = true) := by
  refine ⟨rfl, by decide +kernel, by decide +kernel, task_sound, by decide +kernel⟩

/-! #### Copies, streams, code, DEV -/

/-- `task` with the operands of an `xcopy` in g1 (destination), g2 (source) and g3 (descriptor), cluster 0 in partition 1. -/
def moving (dst src desc : Word) : State := setRegs (task.onDisp (fun d => { d with clusters := [(0, 1)] })) [(1, dst), (2, src), (3, desc)]

theorem meets_CopyIssue_traps : (moving 0 0 0x5000000).core.x.ctx = some ctx ∧
    (4 < (0x5000000 : Word).toNat / 2 ^ 24 % 8 ∧ (0x20000000 : Word).toNat / 2 ^ 29 % 2 ^ 15 ≠ 0 ∧
      (0x8000000000000000 : Word).getLsbD 63 = true ∧ ¬4 < (0x4000000 : Word).toNat / 2 ^ 24 % 8) ∧
    pathOf 0x100 = some (.im, 0x100) ∧
    spanTrap task.core .load 0x010000000000FFF8 16 4 false ≠ none ∧
    (spanTrap task.core .load 0x010000000000DFF0 16 4 false = none ∧ spanTrap task.core .store 0x0000000000000100 16 4 false ≠ none) ∧
    (spanTrap task.core .store 0x0100000000000100 16 4 false = none ∧ (0x4000000000000010 : Word).getLsbD 62 = true ∧
      165888 ≤ 0x28800 ∧ task.clusterPart (clusterOf 0) ≠ some ctx.part) ∧
    6 % 4 ≠ 0 ∧
    (pathOf 0x4000000000000100 = some (.global, 0x100) ∧ Path.isTimed .global = true ∧ (0x1000010 : Word).toNat / 2 ^ 24 % 8 ≠ 0) ∧
    ({ ctx with preempt := true } : Ctx).preempt = true := by decide +kernel

theorem meets_CopyIssue_starts : (let s := moving 0x0100000000000100 0x0200000000000100 0x4800000000000008;
      s.core.x.ctx = some ctx ∧ (s.g 3).getLsbD 63 = false ∧ (s.g 3).toNat / 2 ^ 29 % 2 ^ 15 = 0 ∧
      spanTrap s.core .load (s.g 2) 8 4 false = none ∧ spanTrap s.core .store (s.g 1) 8 4 false = none ∧
      (s.g 3).toNat / 2 ^ 44 % 2 ^ 18 < 165888 ∧ s.clusterPart (clusterOf ((s.g 3).toNat / 2 ^ 44 % 2 ^ 18)) ≠ some 2) ∧
    (let s := moving 0x0100000000000100 0x0200000000000100 0x8000008;
      spanTrap s.core .load (s.g 2) 8 4 false = none ∧ s.core.x.wait = none ∧ s.stopPending s.core.id = false ∧
      s.core.eng.copies = [] ∧ (s.g 3).getLsbD 27 = true ∧ (s.g 3).getLsbD 62 = false ∧ pathOf (s.g 1) = some (.tcm, 0x100)) ∧
    (∀ k < 8, ∃ y ∈ (copying ((List.range 8).map (fun i => copyAt (0x10000 + i) false 0))).core.eng.copies, y.tag % 8 = k) := by decide +kernel

theorem meets_CopyStatus : (let s := setRegs (copying [copyAt 0x10003 false 0]) [(1, 0x10003)]
      s.core.x.ctx = some ctx ∧ s.g 1 ≠ 0 ∧ (∃ y ∈ s.core.eng.copies, y.reader.run = ctx.run ∧ BitVec.ofNat 64 y.tag = s.g 1) ∧
      (∀ y ∈ s.core.eng.copies, y.failed = false)) ∧
    (∀ y ∈ (copying [copyAt 0x10003 true 0]).core.eng.copies, y.failed = true) ∧ task.g 1 = 0 ∧ task.core.eng.copies = [] := by decide +kernel

theorem meets_StreamResults : (∀ i : Fin 4, task.core.eng.streams[i] = none) ∧
    ((streaming 3 2 0).core.eng.streams[(3 : Fin 4)]).isSome ∧
    pathOf 0x7F00000000000000 = some (.dev, 0) ∧
    accessTrap task.core .load 0x0100000000000108 16 false false ≠ none ∧
    (accessTrap task.core .store 0x0100000000000100 16 false false = none ∧
      ((0x00000800000000FF : Word).extractLsb' 40 20).toNat % 16 ≠ 0 ∧ ((0x00001000000000FF : Word).extractLsb' 40 20).toNat % 16 = 0) ∧
    ((streaming 2 2 0).appending 2 = false ∧
      ((streaming 2 2 0).onEng (fun e => { e with streams := e.streams.map (fun t => t.map (fun t => { t with appends := [(0, 0)] })) })).appending 2 = true) ∧
    (27 : RegNo).toNat < 28 := by decide +kernel

theorem meets_CodeAndTables : (pathOf 0x20000000FFFFF000 = some (.loft, 0xFFFFF000) ∧
      pathOf (0x20000000FFFFF000 + 4095) = some (.loft, 0xFFFFFFFF)) ∧
    (pathOf 0x0100000000000000 = some (.tcm, 0)) ∧
    (task.core.x.mode = .user ∧ task.core.csr.supEn = true ∧ task.core.csr.ifr.toNat ≤ 14 ∧ ¬task.core.csr.ifr.toNat ≤ 13) ∧
    spanTrap task.core .load 0x2000000000001000 4096 64 false = none ∧
    (spanTrap task.core .load 0x0100000000000400 1024 4 false = none ∧ task.viewHeld 0x0100000000000400 = false) ∧
    (spanTrap task.core .load 0x4100000000000010 144 16 false = none ∧ pathOf 0x4100000000000010 = some (.globalRo, 0x10)) ∧
    (pathOf 0x0800000000000000 = some (.tcmView 0, 0) ∧ Path.isView (.tcmView 0) = true) ∧
    task.errorAt [0x0100000000000400] 1024 = none := by decide +kernel

/-- Reads of DEV take the supervisor. -/
def sup : State := task.onX (fun x => { x with mode := .supervisor })

theorem meets_DevAndReadOnly : (accessTrap task.core .load 0x4100000000000040 8 false false = none ∧
      pathOf 0x4100000000000040 = some (.globalRo, 0x40) ∧ task.core.eng.remote.length < 32 ∧
      32 ≤ (timedTask 0 32).core.eng.remote.length) ∧
    (∀ off ∈ [0xD000, 0xD078, 0xD080, 0xD098, 0xD100, 0xD2F8, 0x8000, 0xBFF8, 0x7FF8], accessTrap sup.core .load (BitVec.ofNat 64 (0x7F * 2 ^ 56 + off)) 8 false false = none ∧
      pathOf (BitVec.ofNat 64 (0x7F * 2 ^ 56 + off)) = some (.dev, off)) ∧
    (∀ off ∈ [0xD000, 0xD098, 0xD300, 0x7FF8], accessTrap sup.core .store (BitVec.ofNat 64 (0x7F * 2 ^ 56 + off)) 8 false false = none) ∧
    (∀ k : Fin 16, sup.core.mat.slots[k].st ≠ .loading) ∧
    ((sup.onMat (fun m => { m with slots := m.slots.set 0 { Slot.reset with st := .loading } })).core.mat.slots[0].st = .loading) ∧
    (sup.core.reducing = false ∧ (copying [copyAt 0x10000 false 1]).core.reducing = true) := by decide +kernel

theorem meets_DevAndReadOnly_miss : task.roHit 0x40 8 = none := by
  unfold State.roHit
  split <;> rfl

/-! #### The matrix unit -/

/-- `task` with one matrix slot in a state, of a format and K valid columns. -/
def slotted (n : Fin 16) (st : SlotState) (fmt : BitVec 5) (kv : Nat) (s : State) : State :=
  s.setSlot n { Slot.reset with st := st, fmt := fmt, kv := kv }

theorem meets_SlotAndLoadResults : (∀ l : Fin 3, task.core.x.loops[l].active = true → task.core.x.loops[l].step.toNat / 2 ^ 42 % 16 = 0) ∧
    (task.slot (task.core.slotIndex 15)).st = .free ∧
    (let s := slotted 15 .claimed 0 0 task
     (s.slot (s.core.slotIndex 15)).st = .claimed) ∧
    (let s := slotted 15 .loading 0 0 task
     (s.slot (s.core.slotIndex 15)).st = .loading) ∧
    (let s := setRegs (slotted 2 .claimed 0 0 task) [(4, 0x0100000000000000), (5, 64)]
     (s.g 4 = 0x0100000000000000 ∧ ((s.core.r.readG 5).setWidth 47).signExtend 64 = 64 ∧
       ∀ r < 16, spanTrap s.core .load (BitVec.ofNat 64 (0x0100000000000000 + 64 * r)) 64 1 false = none) ∧ (s.g 4).toNat % min 16 64 = 0 ∧
       (((s.core.r.readG 5).setWidth 47).signExtend 64).toNat % min 16 64 = 0 ∧ (s.slot (s.core.slotIndex 2)).st = .claimed ∧ s.fmtHeld 0 = false ∧
       (∀ r < 16, s.viewHeld (BitVec.ofNat 64 (0x0100000000000000 + 64 * r)) = false) ∧
       s.errorAt ((List.range 16).map (fun r => BitVec.ofNat 64 (0x0100000000000000 + 64 * r))) 64 = none) ∧
    tabling.viewHeld 0x0800000000000000 = true ∧
    (0x0100000000000008 : Word).toNat % min 16 64 ≠ 0 ∧ spanTrap task.core .load 0x0300000000000000 64 1 false ≠ none := by decide +kernel

/-- Slots 1 and 2 ready in two formats. -/
def paired (fa fb : BitVec 5) : State := slotted 2 .ready fb 16 (slotted 1 .ready fa 16 task)

theorem meets_MatrixMultiplyResults : ¬((task.slot (task.core.slotIndex 1)).st = .loading ∨ (task.slot (task.core.slotIndex 1)).st = .ready) ∧
    ((paired 0 0).slot ((paired 0 0).core.slotIndex 1)).st = .ready ∧
    pairKind 0 17 = none ∧ (pairKind 0 0 = some false ∧ (paired 0 0).core.mat.accs[0].kind ≠ .s32) ∧
    (pairKind 1 2 = some false) ∧
    (∃ f < 18, pairKind f f = some true ∧ (paired 0 0).fmtHeld f = false) := by decide +kernel

/-- The pair of slots with block scales bound at two lengths. -/
theorem meets_MatrixMultiplyResults_scales : (let a : Slot := { Slot.reset with st := .ready, fmt := 20, kv := 16, blk := some 8 };
      let b : Slot := { Slot.reset with st := .ready, fmt := 21, kv := 16, blk := some 32 };
      pairKind a.fmt.toNat b.fmt.toNat = some false ∧ a.unscaled = false ∧ b.unscaled = false ∧ a.blk ≠ b.blk) := by decide +kernel

/-- A sparse operand of 8-bit integers: one entry, row 0 and column 1, value 7. -/
def sparse : State := (slotted 2 .claimed 0 0 (slotted 1 .ready 6 64 (setRegs task [(4, 0x0100000000000100)]))).onMem (fun m => { m with
  tcm := (((((Memory.writeN [] 0x100 (bytesOf 8 6)).writeN 0x108 (bytesOf 8 (2 ^ 56 + 0x200))).writeN 0x110 (bytesOf 8 (2 ^ 56 + 0x400))).writeN 0x118
    (bytesOf 8 (2 ^ 56 + 0x500))).writeN 0x202 ((List.range 64).flatMap (fun _ => bytesOf 2 1))).writeN 0x400 [1] |>.writeN 0x500 [7] })

theorem meets_SparseMultiplyResults : pathOf (sparse.g 4) = some (.tcm, 0x100) ∧ (0x120 ≤ sparse.core.csr.tfr.toNat * 4096 ∧ 0x100 % 32 = 0) ∧
    (sparse.slot (sparse.core.slotIndex 1)).st = .ready ∧ (sparse.slot (sparse.core.slotIndex 2)).st = .claimed ∧
    sparse.core.mem.tcm.readN 0x100 8 = bytesOf 8 6 ∧ sparse.core.mem.tcm.readN 0x108 8 = bytesOf 8 (BitVec.ofNat 64 (2 ^ 56 + 0x200)).toNat ∧
    sparse.core.mem.tcm.readN 0x110 8 = bytesOf 8 (BitVec.ofNat 64 (2 ^ 56 + 0x400)).toNat ∧
    sparse.core.mem.tcm.readN 0x118 8 = bytesOf 8 (BitVec.ofNat 64 (2 ^ 56 + 0x500)).toNat ∧
    pairKind (sparse.slot (sparse.core.slotIndex 1)).fmt.toNat 6 = some true ∧ (sparse.slot (sparse.core.slotIndex 1)).unscaled = false ∧
    kindAdmits sparse.core.mat.accs[0].kind true = true ∧
    (let ptr (i : Nat) : Nat := natOf (sparse.core.mem.tcm.readN (0x200 + 2 * i) 2);
     ((List.range (kvOf (sparse.core.r.readG 5) (fmtK 6))).map (fun i => if ptr i < ptr (i + 1) then ptr (i + 1) else 0)).foldl max 0 = 1) ∧
    (0x200 + 2 * (fmtK 6 + 1) ≤ sparse.core.csr.tfr.toNat * 4096 ∧ 0x200 % 2 = 0 ∧ 0x401 ≤ sparse.core.csr.tfr.toNat * 4096 ∧
      0x500 + (1 * fmtBits 6 + 7) / 8 ≤ sparse.core.csr.tfr.toNat * 4096 ∧ 0x500 % ((fmtBits 6 + 7) / 8) = 0) ∧
    sparse.fmtHeld 6 = false ∧ fmtBits 6 = 8 * 1 := by decide +kernel

/-- The one entry of row 0 is of column 1 and the highest of it; row 1 has none. -/
theorem meets_SparseMultiplyResults_entries : (sparse.drain (fun y => y.tcm)).core.mem.tcm = sparse.core.mem.tcm ∧
    (let ptr (i : Nat) : Nat := natOf (sparse.core.mem.tcm.readN (0x200 + 2 * i) 2);
     ptr 0 ≤ 0 ∧ 0 < ptr 1 ∧ (sparse.core.mem.tcm.read (0x400 + 0)).toNat % 16 = 1 ∧ ¬ptr 1 < ptr 2) ∧
    (0x100 + 32 ≤ 2 ^ 16 ∧ sparse.core.x.mode = .user ∧ (4 : RegNo) ≠ 2 ∧ 0x400 + 1 ≤ 2 ^ 16) := ⟨rfl, by decide +kernel, by decide +kernel⟩

theorem meets_ScaleResults : (fmtScaled 18 = true ∧ fmtScaled 17 = false) ∧
    (let s := setRegs (slotted 3 .ready 18 16 task) [(4, 0x0100000000000000), (5, 2)];
     pathOf (s.g 4) = some (.tcm, 0) ∧ spanTrap s.core .load 0x0100000000000000 32 1 false = none ∧ (s.slot (s.core.slotIndex 3)).st = .ready ∧
      (16 + 8 - 1) / 8 ≤ 2 ∧ ¬(16 + 8 - 1) / 8 ≤ 1) ∧
    spanTrap task.core .load 0x010000000000FFF0 32 1 false ≠ none := by decide +kernel

theorem meets_ConvertAndStoreResults : task.Sound ∧ (18 ≤ (18 : RegNo).toNat ∧ (17 : RegNo).toNat < 18) ∧
    (let s := slotted 3 .claimed 0 0 task;
     (s.slot (s.core.slotIndex 3)).st = .claimed ∧ s.fmtHeld 17 = false) ∧
    (spanTrap task.core .store 0x0100000000000010 (32 * 32) 16 false = none ∧ pathOf 0x0100000000000010 = some (.tcm, 0x10)) ∧
    (spanTrap task.core .store 0x4000000000000010 (32 * 16) 16 false = none ∧ pathOf 0x4000000000000010 = some (.global, 0x10) ∧
      ctx.seq < 0xFFFFFFFF) ∧ spanTrap task.core .store 0x0000000000000010 (32 * 32) 16 false ≠ none :=
  ⟨task_sound, by decide +kernel⟩

/-! #### Tasks, messages, splices -/

/-- A template of one node, 5, with one argument and one successor. -/
def node5 : NodeDesc := ⟨5, 0, 0x40, [⟨0x1000, [8]⟩], [⟨5, 0, 1⟩], 1, 10, 1, .hold, false, false, .any⟩

/-- The template as partition 1 loaded it, its code in frame 1. -/
def loaded5 : Loaded := ⟨1, 0, 0, 4, ⟨0, [64], [node5]⟩, [(0, 1, [])], [0]⟩

/-- A TCB of node 5 in a state, for work identifier 2. -/
def tcbIn (st : TcbState) : Tcb := ⟨1, 0, 3, 5, 2, 0, st, 0, true, false, 0, 10, 10, 20, 0, 0, none, 0, false, false, false, false, 0⟩

/-- `task` with its template, partition and TCBs. -/
def served (ts : List Tcb) : State := task.onDisp (fun d => { d with
  parts := [(1, ⟨⟨0, 0, 0, 0, 0, 0, 64, 64, 64, 64, 0, 16, 0, 0⟩, [], 11, 11, false, 0⟩)]
  clusters := [(0, 1)]
  loaded := [loaded5]
  tcbs := ts })

theorem meets_TaskResults : task.core.x.ctx = some ctx ∧ task.tcmTrap .load 0x0100000000000040 64 64 = none ∧
    task.tcmTrap .load 0x0100000000000020 64 64 ≠ none ∧
    ((served []).nodeFor ctx.part ctx.node = some (loaded5, node5) ∧ node5.args[0]? = some ⟨0x1000, [8]⟩ ∧
      (served []).loadedFor 1 5 = some loaded5 ∧ task.loadedFor 1 5 = none) ∧
    (({ ctx with inline := some 64, reply := 3 } : Ctx).inline = some 64) ∧
    (task.onX (fun x => { x with inHandler := true })).core.x.inHandler = true ∧
    (task.core.x.inHandler = false ∧ ∃ y ∈ (timedTask 0 1).core.eng.remote, y.ofCtx = true) ∧
    (task.retireWaits = false ∧ task.core.x.inPair = false ∧ task.core.gang = []) ∧
    ((served [tcbIn .running]).tcbOfCtx ctx = some (tcbIn .running)) := by decide +kernel

/-- A data record of 64 bytes and a splice record. -/
def dataRec : Record := ⟨List.replicate 64 1, 64, 7, 0, false, 9⟩
def spliceRec (op : Nat) : Record := ⟨bytesOf 4 1 ++ [BitVec.ofNat 8 op] ++ List.replicate 3 0 ++ bytesOf 4 6 ++ bytesOf 4 5 ++ List.replicate 48 0, 64, 8, 1, false, 9⟩

/-- `task` with queue 0 bound and holding records, route 0 bound, and `n` messages staged. -/
def wired (rs : List Record) (n : Nat) : State := task.onNi (fun x => { x with
  queues := x.queues.set 0 { Queue.unbound with bound := true, recs := rs, raised := true }
  routes := x.routes.set 0 ⟨some 0x208, 4, false⟩
  staging := List.replicate n (1, ⟨.c2, 0, 8, 0, .direct, .seamSeen 0 dataRec⟩) })

/-- A message of the task's lane to its dispatcher staged before, and the gate of its domain shut or open. -/
theorem meets_TaskResults_lane : ∃ y : Nat × Message, y ∈ (task.onNi (fun n => { n with staging := [y] })).core.ni.staging ∧
    (y.2.cls, y.2.src, y.2.dst, y.2.device) = (.c0, 8 * task.core.id, 2 ^ 32 + 0, Config.deviceId.toNat) :=
  ⟨(1, ⟨.c0, 8 * task.core.id, 2 ^ 32 + 0, Config.deviceId.toNat, .direct, .seam 0 0⟩), List.mem_cons_self .., rfl⟩

theorem meets_MessageResults : task.Sound ∧
    (task.tcmTrap .load 0x0100000000000010 64 16 = none ∧ (wired [] 3).core.ni.badControl 64 = false ∧ (wired [] 3).core.ni.staging.length < 4 ∧
      ((wired [] 3).core.ni.routes[(64 / 2 ^ 8 % 4) % 4]'(by decide)).ep = some 0x208) ∧
    (task.core.ni.badControl 0x408 = false ∧ 0x408 / 2 ^ 10 % 4 = 1 ∧ task.core.ni.badControl 0x840 = false ∧ 0x840 / 2 ^ 10 % 4 = 2) ∧
    task.tcmTrap .load 0x0100000000000008 64 16 ≠ none ∧ task.core.ni.badControl 65 = true ∧ 4 ≤ (wired [] 4).core.ni.staging.length ∧
    (let q := (wired [dataRec] 0).core.ni.queues[0];
     q.bound = true ∧ q.recs.head? = some dataRec ∧ dataRec.kind ≠ 2 ∧ q.pipe = false ∧ q.ringSrcs = [] ∧ dataRec.payload.length = 64 ∧
      dataRec.kind = 0) ∧
    task.tcmTrap .store 0x0100000000000010 64 16 = none ∧ task.core.ni.queues[7].bound = false ∧
    (let q := (wired [] 0).core.ni.queues[0];
     q.bound = true ∧ q.recs = [] ∧ q.ringSrcs = [] ∧ q.mode ≠ 2 ∧ q.held = []) ∧
    (∀ i : Fin 4, task.core.eng.streams[i] = none) ∧ ((28 : RegNo).toNat ≤ 28 ∧ 28 < (29 : RegNo).toNat) ∧
    (let q := (wired [spliceRec 1] 0).core.ni.queues[0];
     q.bound = true ∧ q.recs.head? = some (spliceRec 1) ∧ (spliceRec 1).kind ≠ 2 ∧ q.pipe = false ∧ (spliceRec 1).kind ≠ 0) ∧
    task.core.ni.prep = none ∧ (2 ^ 24 ≤ (0x1000030 : Word).toNat ∧ (0x1000030 : Word).toNat % 16 < 8 ∧ (0x1000030 : Word).extractLsb' 4 2 = 3) :=
  ⟨task_sound, by decide +kernel⟩

/-- A ring that stands in TCM, one that is not aligned, and a preparation that has failed or not. -/
theorem meets_MessageResults_bind : spanTrap task.core .store 0x0100000000000000 (128 * 32) 128 false = none ∧
    spanTrap task.core .store 0x0100000000000010 (128 * 32) 128 false ≠ none ∧ (32 ∈ 0 :: (List.range 11).map (fun i => 32 * 2 ^ i)) ∧
    task.core.ni.queues[7].ringSrcs = [] := by decide +kernel

/-- A preparation of a splice, failed or ready. -/
def prepIn (failed ready : Bool) (reason op : Nat) : Prep := ⟨0, spliceRec op, 0x0100000000000040, ready, reason, failed, none, 0⟩

/-- `wired` in the handler of the splice cause of queue 0. -/
def handling (p : Option Prep) : State :=
  (((wired [spliceRec 0] 0).onX (fun x => { x with inHandler := true })).onSw (fun w => { w with ucause := 2, uval := 0 })).onNi
    (fun n => { n with prep := p })

theorem meets_SpliceResults : (task.tcmTrap .load 0x0100000000000008 64 16 ≠ none ∧ task.tcmTrap .load 0x0100000000000010 64 16 = none) ∧
    ((wired [] 3).core.ni.badControl 64 = false ∧ (64 : Nat) % 128 = 64 ∧ (64 : Nat) / 2 ^ 10 % 4 = 0 ∧ (wired [] 3).core.ni.staging.length < 4 ∧
      4 ≤ (wired [] 4).core.ni.staging.length ∧ task.core.ni.badControl 64 = true) ∧
    (let s := handling none;
     s.core.x.inHandler = true ∧ s.core.sw.ucause = 2 ∧ s.g 1 = s.core.sw.uval ∧ (s.g 1).toNat < 8 ∧ s.core.ni.prep = none ∧
      s.core.ni.queues[0].raised = true ∧ s.core.ni.queues[0].recs.head? = some (spliceRec 0) ∧ (spliceRec 0).kind = 1 ∧
      s.tcmTrap .load 0x0100000000000040 (spliceSize (spliceRec 0)) 64 = none ∧
      s.tcmTrap .load 0x0100000000000010 (spliceSize (spliceRec 0)) 64 ≠ none) ∧
    (task.core.x.inHandler = false ∧ task.core.ni.prep = none) ∧
    ((handling (some (prepIn true true 1 0))).core.ni.prep = some (prepIn true true 1 0) ∧ (prepIn true true 1 0).failed = true) ∧
    (prepIn false false 0 0).ready = false ∧ ((prepIn false true 1 0).ready = true ∧ (prepIn false true 1 0).reason ≠ 0) ∧
    ((prepIn false true 0 1).reason = 0 ∧ spliceOp (prepIn false true 0 1).record = 1) := by decide +kernel

/-- A splice record that names node 5, prepared, on a core that holds the node's code; core 1, which holds it too and has the
same silicon, has taken the inserted task. -/
def prepared (op : Nat) (placed : Option Nat) : State :=
  let code (m : CoreMem) : CoreMem := { m with frames := m.frames.set 1 (.resident (some 0)) }
  let s := ((handling (some { prepIn false true 0 op with placed := placed })).onMem code).onDisp (fun d => { d with loaded := [loaded5] })
  { s with cores := [(1, { Core.reset 1 with phys := 0, mem := code CoreMem.reset })] }

theorem meets_SpliceResults_commits : (∀ op ∈ [0, 1, 2], (prepared op (some 1)).core.ni.prep = some { prepIn false true 0 op with placed := some 1 } ∧
      spliceOp (prepIn false true 0 op).record = op) ∧
    (prepared 0 none).core.ni.prep = some (prepIn false true 0 0) ∧ (prepared 0 (some 1)).splicePart 0 = 1 ∧
    ((prepared 0 (some 1)).nodeResident 1 1 (spliceNode (spliceRec 0)) = true ∧ (prepared 0 (some 2)).nodeResident 2 1 (spliceNode (spliceRec 0)) = false ∧
      (prepared 2 none).nodeResident 0 1 (spliceNode (spliceRec 2)) = true) := by decide +kernel

theorem meets_SpliceResults_source : sourceDevice (spliceRec 1).src = ownDevice := rfl

theorem meets_SpliceResults_silicon :
    Config.coreRev ((prepared 0 (some 1)).coreAt 1).phys = Config.coreRev (prepared 0 (some 1)).core.phys := rfl

theorem meets_SpliceResults_numbered : (prepared 0 (some 1)).Numbered := by
  intro k
  by_cases h : k = 0
  · subst h; rfl
  · by_cases h1 : k = 1
    · subst h1; rfl
    · simp [prepared, handling, wired, task, State.coreAt, State.onMem, State.onDisp, State.onDev, State.onNi, State.onX, State.onSw, State.reset,
        Core.reset, aget, h, h1]

/-! #### User-level interrupts, CSRs, traps -/

/-- The causes 5 and 3 enabled and pending. -/
def interrupted : State := task.onSw (fun w => { w with en := 0x28, pend := 0x28 })

theorem meets_UserInterruptResults : task.core.x.inHandler = false ∧
    (let s := task.onX (fun x => { x with inHandler := true });
     s.core.x.inHandler = true ∧ s.core.ni.rebind = none ∧ s.core.x.inPair = false) ∧
    ((task.onX (fun x => { x with handBank := true })).core.x.handBank = true ∧ task.core.x.handBank = false) ∧
    (interrupted.core.canTakeUser = true ∧ interrupted.core.canTakeFault = false ∧ interrupted.core.canTakeEvent = false ∧
      interrupted.core.atBoundary = true ∧ interrupted.core.x.stopped = none ∧ interrupted.clockGated 0 = false ∧ interrupted.core.gang = [] ∧
      (interrupted.core.sw.en &&& interrupted.core.sw.pend).getLsbD 3 = true ∧
      (∀ j < 3, (interrupted.core.sw.en &&& interrupted.core.sw.pend).getLsbD j = false)) ∧
    task.core.canTakeUser = false ∧ (interrupted.onX (fun x => { x with ev18 := true })).core.canTakeEvent = true := by decide +kernel

theorem meets_PrivilegeAndCsrResults : task.core.x.mode = .user ∧ sup.core.x.mode = .supervisor ∧
    (0x00A < (0x00B : BitVec 12).toNat ∧ (0x00F : BitVec 12).toNat < 0x010 ∧ 0x015 < (0x016 : BitVec 12).toNat ∧
      (0x01F : BitVec 12).toNat < 0x020 ∧ 0x027 < (0x028 : BitVec 12).toNat) := by decide +kernel

theorem meets_TrapEntryAndReturn : (task.core.x.inPair = false ∧ task.core.csr.tip = false ∧ task.core.gang = []) ∧
    (sup.onCsr (fun x => { x with tip := true })).core.csr.tip = true ∧
    (sup.core.x.mode = .supervisor ∧ sup.core.x.ended = false ∧ sup.core.x.ctx ≠ none) ∧
    (sup.onX (fun x => { x with ended := true })).core.x.ended = true ∧
    (let s := (sup.onX (fun x => { x with ctx := none })).onCsr (fun x => { x with pm := .user });
     s.core.x.ctx = none ∧ s.core.csr.pm = .user) ∧
    (sup.core.x.ev18 = false ∧ sup.core.x.ev19 = none ∧ sup.core.sw.mboxf = 0 ∧ (sup.onSw (fun w => { w with mboxf := 8 })).core.sw.mboxf ≠ 0) ∧
    ((sup.onCsr (fun x => { x with tip := true })).onX (fun x => { x with ev18 := true })).core.x.ev18 = true := by decide +kernel

/-! #### The steps without a word -/

/-- A timed store of one byte at loft offset 0x40, naming an instant, to be visible at 13. -/
def storeAt (inst : Nat) (drop : Bool) (home : Option Nat) : TStore :=
  { task.storeFrame 0x2000000000000040 inst with data := [(0, 7)], drop := drop, home := home, core := 0, vis := 13, token := 1, run := 1, part := 1 }

/-- `served` with timed memory changed. -/
def timed (f : Timed → Timed) : State := (served [tcbIn .running]).onTimed f

theorem timed_sound (f : Timed → Timed) (h : (f (served [tcbIn .running]).dev.timed).versions = (served [tcbIn .running]).dev.timed.versions) :
    (timed f).Sound := (task_sound.onDisp _).onTimed f h

theorem meets_InstantBoundaryResults : (timed (fun m => { m with tense := [storeAt 13 false (some 0x40)] })).Sound ∧
    (let s := timed (fun m => { m with tense := [storeAt 13 false (some 0x40)] });
     s.dev.trans.moves = [] ∧ (∃ e ∈ s.dev.timed.tense, e.vis = s.dev.now + 1 ∧ e.atomic = none ∧ ownKey e.base = true ∧ (0x40, 7) ∈ e.bytesAt) ∧
      s.quiesced = false ∧ (s.partition 1).isSome ∧ s.dev.now + 1 < 2 ^ 56) := ⟨timed_sound _ rfl, by decide +kernel⟩

/-- The last instant that 56 bits count, and a slot whose task retired long before the horizon. -/
theorem meets_InstantBoundaryResults_ends : (task.onDev (fun d => { d with now := 2 ^ 56 - 1 })).dev.now + 1 = 2 ^ 56 ∧
    (let z := { tcbIn .retired with pub := 20 };
     let s := (served [z]).onDisp (fun d => { d with parts := [(1, ⟨⟨0, 0, 0, 0, 0, 0, 0, 0, 0, 0, 0, 16, 0, 0⟩, [], 276, 276, false, 0⟩)] });
     z ∈ s.dev.disp.tcbs ∧ z.part = 1 ∧ z.st = .retired ∧ (s.partition 1).map (fun q => decide (z.pub + 256 ≤ q.horizon)) = some true) := by
  decide +kernel

/-- A load of 8 bytes outstanding on the acting core. -/
def loadIn (inst : Option Nat) (stat : RStat) : Remote := ⟨5, .g 3 false, 0x2000000000000040, 8, inst, stat, 0x100, false, false, true, 0, false⟩

/-- `task` with that load. -/
def loadingAt (inst : Option Nat) (stat : RStat) : State := task.onEng (fun e => { e with remote := [loadIn inst stat] })

/-- A purge of the task's stores. -/
def purgeIn (cause : BitVec 8) (sent : Bool) : Purge := ⟨1, 0, 1, 5, 2, cause, false, sent⟩

theorem meets_HomeResults : (∀ inst ∈ [12, 13], ∀ drop ∈ [true, false], let e := storeAt inst drop (some 0x40);
      (timed (fun m => { m with flight := [e] })).dev.timed.flight[0]? = some e ∧ e.home = some 0x40 ∧ e.atomic = none ∧ e.src = .task ∧
        e.qst = false ∧ (timed (fun m => { m with flight := [e] })).dev.trans.moves = []) ∧
    (timed (fun m => { m with flight := [storeAt 12 false none] })).dev.timed.flight[0]? = some (storeAt 12 false none) ∧
    ((loadingAt (some 12) (.home 0x40)).remoteOf 0 5 = some (loadIn (some 12) (.home 0x40)) ∧ 12 ≤ task.dev.now ∧ task.dev.now < 13 ∧
      ownKey 0x40 = true ∧ (loadingAt none (.home 0x40)).remoteOf 0 5 = some (loadIn none (.home 0x40))) ∧
    (task.gated 0 = false ∧ (timed (fun m => { m with acks := [⟨0, 1, false⟩] })).dev.timed.acks[0]? = some ⟨0, 1, false⟩ ∧
      (timed (fun m => { m with lateReports := [⟨0, 1, 0x40, true, 0⟩] })).dev.timed.lateReports[0]? = some ⟨0, 1, 0x40, true, 0⟩ ∧
      (timed (fun m => { m with tieReports := [⟨0, 1, 0x40, false, 0⟩] })).dev.timed.tieReports[0]? = some ⟨0, 1, 0x40, false, 0⟩ ∧
      task.core.x.ctx = some ctx ∧ ctx.token = 1 ∧ task.coreOf 1 = some 0) ∧
    ((loadIn none (.served [1, 2, 3, 4, 5, 6, 7, 8] 0)).answered = true ∧ (loadIn none .walk).answered = false) ∧
    ((timed (fun m => { m with purges := [purgeIn 0x11 true] })).dev.timed.purges[0]? = some (purgeIn 0x11 true) ∧
      (purgeIn 0x11 true).cause ≠ 0x19 ∧ (timed (fun m => { m with purges := [purgeIn 0x11 true] })).dev.timed.tense = [] ∧
      (served [tcbIn .running]).tcbOf 1 5 2 = some (tcbIn .running) ∧ (served [tcbIn .running]).nodeFor 1 5 = some (loaded5, node5) ∧
      node5.policy = .hold ∧ (∃ e ∈ [storeAt 12 false none], e.src = .task ∧ e.token = 1 ∧ e.part = 1)) := by decide +kernel

theorem meets_HomeResults_accept : (∀ inst ∈ [12, 13], ∀ drop ∈ [true, false], let e := storeAt inst drop (some 0x40);
      e.fwd = none ∧ e.gate = false ∧ e.device = none ∧ (timed (fun m => { m with flight := [e] })).mayAccept e 0x40 = true) ∧
    (let e : TStore := { storeAt 13 false (some 0x40) with atomic := some ⟨0, false, 1, 0, 0, 5⟩ };
     (timed (fun m => { m with tense := List.replicate 64 e })).mayAccept e 0x40 = false) := by decide +kernel

/-- The key of a byte of device 9; whether the opaque egress ranges hold that device or not, one of the clauses holds. -/
theorem meets_HomeResults_away : ((9 + 1) * 2 ^ 44 + 5) / 2 ^ 44 = 9 + 1 ∧ task.portReady 9 .c1 = false ∧
    (storeAt 13 false (some ((9 + 1) * 2 ^ 44 + 5))).home = some ((9 + 1) * 2 ^ 44 + 5) ∧
    (loadingAt (some 12) (.home ((9 + 1) * 2 ^ 44 + 5))).dev.trans.moves = [] ∧
    (task.reachable 9 = true ∨ task.reachable 9 = false) :=
  ⟨by decide +kernel, by decide +kernel, rfl, rfl, by cases task.reachable 9 <;> simp⟩

theorem meets_HomeResults_reply : task.core.x.stopped = none ∧ task.tripped 0 = false ∧
    (loadingAt (some 12) .walk).replyGated 0 (loadIn (some 12) .walk) = false ∧ task.core.inUse false 12 = true ∧
    task.core.inUse true 12 = false ∧ (loadIn none (.faulted 0x11)).stride = 0 := by decide +kernel

theorem meets_HomeResults_numbered : task.Numbered := task_sound.numbered

/-- Two lines of a host copy in flight. -/
def hostLine (id : Nat) : TStore := { storeAt 13 false (some 0x40) with src := .host, node := 0, id := id }

theorem meets_HomeResults_waits : (let s := timed (fun m => { m with flight := [hostLine 1, hostLine 2] });
      s.hostBehind (hostLine 2) = true ∧ s.hostBehind (hostLine 1) = false ∧ s.hostBehind (storeAt 13 false (some 0x40)) = false) ∧
    (let s := (loadingAt (some 12) .walk).onDev (fun d => { d with fab := { d.fab with starve := [(0, ⟨0, 0, [.store 0, .access 0 5]⟩)] } });
     s.queued (.store 0) = true ∧ s.queued (.access 0 5) = true ∧ task.queued (.store 0) = false ∧ task.queued (.access 0 5) = false) ∧
    ((task.onX (fun x => { x with stopped := some (.image 1) })).holdsReplies 0 = true ∧ task.holdsReplies 0 = false) ∧
    ({ loadIn none (.faulted 0x11) with ofCtx := false } : Remote).ofCtx = false ∧ task.core.x.ctx.isSome = true ∧
    (task.onDev (fun d => { d with regs := [(0x7018, 3)] })).quiesced = true := by decide +kernel

/-- The error of a home is a free value; whichever it is, one of the clauses holds. A device that is not this part. -/
theorem meets_HomeResults_free (t : Nat) : (Config.homeEcc t = true ∨ Config.homeEcc t = false) ∧ ∃ d < 2 ^ 20, d ≠ ownDevice := by
  refine ⟨by cases Config.homeEcc t <;> simp, ?_⟩
  by_cases h : ownDevice = 0
  · exact ⟨1, by decide, by omega⟩
  · exact ⟨0, by decide, fun e => h e.symm⟩

/-- `served` with a message in flight. -/
def carrying (ts : List Tcb) (b : Body) : State :=
  (served ts).onDev (fun d => { d with fab := { d.fab with msgs := [⟨.c0, 0, 2 ^ 32, 0, .direct, b⟩] } })

/-- The TCB of node 5 for work identifier 2, at the slot its identity hashes to. -/
def slotOf5 : Nat := (crc64 (bytesOf 4 5 ++ bytesOf 8 2)).toNat % 16

/-- A TCB that waits for signals. -/
def waitingTcb (st : TcbState) (published : Bool) (count : BitVec 32) : Tcb :=
  { tcbIn st with slot := slotOf5, published := published, count := count }

theorem meets_DispatchResults_records : (served []).Numbered ∧ (served []).quiesced = false ∧
    (let s := carrying [waitingTcb .armed false 0] (.publish 1 5 2 0 30 none 0);
     (s.arriving 0).map (fun m => m.body) = some (.publish 1 5 2 0 30 none 0) ∧ s.heldFirst (.publish 1 5 2 0 30 none 0) = false ∧
      s.nodeFor 1 5 = some (loaded5, node5) ∧ s.findSlot loaded5 5 2 = .found (waitingTcb .armed false 0) ∧ 0 < ((0 : BitVec 32) + BitVec.ofNat 32 node5.deps).toInt) ∧
    (let s := carrying [waitingTcb .waiting true 1] (.signal 1 5 2 0 15 false false);
     (s.arriving 0).map (fun m => m.body) = some (.signal 1 5 2 0 15 false false) ∧ s.heldFirst (.signal 1 5 2 0 15 false false) = false ∧
      s.findSlot loaded5 5 2 = .found (waitingTcb .waiting true 1) ∧ (waitingTcb .waiting true 1).inline = none) ∧
    (let s := carrying [waitingTcb .waiting true 2] (.signal 1 5 2 0 15 false false);
     s.findSlot loaded5 5 2 = .found (waitingTcb .waiting true 2)) ∧
    task.arriving 0 = none ∧
    (let h : HeldMsg := ⟨.signal 1 5 2 1 15 false false, false⟩;
     (served [tcbIn .retired]).heldDue h = true) ∧
    (let s := served [{ tcbIn .retired with pub := 0 }];
     s.dev.disp.tcbs[0]? = some { tcbIn .retired with pub := 0 } ∧ (s.partition 1).map (fun q => q.horizon) = some 11 ∧ ¬0 + 256 ≤ 11) := by
  refine ⟨(task_sound.onDisp _).numbered, by decide +kernel⟩

/-- A task record of node 5 in a place. -/
def recIn (place : Nat) (near : Option Nat) (since : Nat) : QRec := ⟨place, 0, 1, 5, 2, 1, 10, since, 1, near, some 0, false, false, none⟩

/-- `served` with records, core 0 waiting for work and the code of node 5 in its frame. -/
def offering (rs : List QRec) : State :=
  ((((served [tcbIn .ready]).onDisp (fun d => { d with recs := rs })).onX (fun x => { x with run := .idle, ctx := none })).onMem (fun m =>
    { m with frames := m.frames.set 1 (.resident (some 0)) }))

theorem meets_DispatchResults_queues : (let s := offering [recIn 0 none 11];
      s.dev.disp.recs[0]? = some (recIn 0 none 11) ∧ s.mayEnter (recIn 0 none 11) = true ∧ s.queueCount 0 1 < 128) ∧
    (let s := offering (List.replicate 128 (recIn 1 none 11) ++ [recIn 0 none 11]);
     s.mayEnter (recIn 0 none 11) = true ∧ 128 ≤ s.queueCount 0 1 ∧ s.overflowCount 0 1 < 4096) ∧
    (let s := offering [recIn 2 none 11];
     s.queueCount 0 1 < 128 ∧ ∀ x ∈ s.dev.disp.recs, x.place = 2 → x.cluster = 0 → x.prio = 1 → x.before (recIn 2 none 11) = false) ∧
    ((recIn 1 none 11).place ≠ 0 ∧ (recIn 1 none 11).rel ≤ task.dev.now) ∧
    ((recIn 1 (some 1) 11).near = some 1 ∧ (task.onDev (fun d => { d with now := 5000 })).coreIdle 1 = false) ∧
    (let s := offering [recIn 1 none 11];
     s.coreIdle 0 = true ∧ (s.ageAll.recordFor 0).map (fun x => x.1.cont) = some none ∧ s.tcbOf 1 5 2 = some (tcbIn .ready) ∧
      s.nodeFor 1 5 = some (loaded5, node5) ∧ loaded5.segment 0 = some (1, [], 0) ∧ (s.coreAt 0).mem.frame 1 = .resident (some 0)) ∧
    (task.coreIdle 0 = false ∧ task.runs 0 = true) := by decide +kernel

/-- A record that names core 0, which could take it; the clock of its hint has run out. -/
theorem meets_DispatchResults_near : (let s := offering [recIn 1 (some 0) 11];
      s.coreIdle 0 = true ∧ s.clusterPart (clusterOf 0) = some 1 ∧ 0 + s.hintSpan 1 ≤ s.dev.now) ∧
    (let z := { tcbIn .retired with pub := 20 };
     let s := (served [z]).onDisp (fun d => { d with parts := [(1, ⟨⟨0, 0, 0, 0, 0, 0, 0, 0, 0, 0, 0, 16, 0, 0⟩, [], 276, 276, false, 0⟩)] });
     s.dev.disp.tcbs[0]? = some z ∧ (s.partition z.part).map (fun q => decide (z.pub + 256 ≤ q.horizon)) = some true ∧ s.dev.now + 1 < 2 ^ 56) := by
  decide +kernel

/-- The acting core waiting. -/
def waitingFor (r : WaitReason) (cycles : Nat) (gang : List Nat) : State :=
  let s := task.onX (fun x => { x with wait := some ⟨r, 0, cycles⟩ })
  { s with core := { s.core with gang := gang, fuse := some (3, false) } }

theorem meets_DispatchResults_waits : ((waitingFor .yieldRel 0 []).core.x.wait.map (fun w => w.reason) = some .yieldRel ∧
      (waitingFor .yieldRel 0 []).core.x.ctx = some ctx ∧ (waitingFor .yieldRel 0 []).runs 0 = true ∧ ctx.rel ≤ task.dev.now) ∧
    (let s := waitingFor .fullEmpty 4097 [0, 1];
     s.core.x.wait.map (fun w => w.cycles) = some 4097 ∧ s.runs 0 = true ∧ 0 ∈ (s.coreAt 0).gang) ∧
    ((waitingFor .fuse 4097 []).core.fuse = some (3, false) ∧ (waitingFor .fuse 4096 []).runs 0 = true) := by decide +kernel

/-- `task` waiting long enough at an empty word while another task's record stands in the queue of its cluster. -/
def tired : State := ((served [tcbIn .running]).onX (fun x => { x with wait := some ⟨.fullEmpty, 0, 9000⟩ })).onDisp (fun d => { d with
  recs := [⟨1, 0, 1, 6, 3, 3, 0, 0, 3, none, none, false, false, none⟩] })

theorem meets_DispatchResults_park : tired.runs tired.core.id = true ∧ tired.core.x.wait = some ⟨.fullEmpty, 0, 9000⟩ ∧
    WaitReason.code .fullEmpty = some 2 ∧ tired.core.x.ctx = some ctx ∧ tired.core.x.mode = .user ∧ tired.core.x.inHandler = false ∧
    tired.core.gang = [] ∧ tired.core.sw.parkCycles ≠ 0 ∧ maskSlots (cleanMask tired.core.automaticMask) ≤ 16 ∧
    tired.core.x.writtenHigh = false ∧ tired.core.highPending = false ∧ (∀ k : Fin 3, tired.core.x.loops[k].active = false) ∧
    (∀ i : Fin 16, tired.core.mat.slots[i].st = .free) ∧ (∀ i : Fin 4, tired.core.eng.streams[i] = none) ∧
    (∃ r ∈ tired.dev.disp.recs, r.place = 1 ∧ r.cluster = clusterOf tired.core.id ∧ tired.eligible r = true) ∧
    tired.core.sw.parkCycles.toNat ≤ 9000 := by decide +kernel

/-- A code request of a `cfetch` from TCM. -/
def request : CodeReq := ⟨0x0100000000000000, 10, task.reader, none, []⟩

theorem meets_EngineResults : task.Sound ∧ task.runs 0 = true ∧
    ((waitingFor .copySlot 0 []).core.x.wait.map (fun w => w.reason) = some .copySlot ∧ (waitingFor .copySlot 0 []).core.eng.copies = [] ∧
      (waitingFor .copySlot 0 []).stopPending 0 = false) ∧
    (let y := { copyAt 0x10000 false 0 with todo := [] };
     (copying [y]).core.eng.copies.find? (fun x => decide (x.tag = 0x10000)) = some y ∧ y.failed = false ∧ (copying [y]).copyInFlight y = false ∧
      y.reader.task = true ∧ ctx.run = y.reader.run) ∧
    ((copyAt 0x10000 true 0).failed = true ∧ (copyAt 0x10000 false 0).todo ≠ []) ∧
    (let s := task.onMem (fun m => { m with frames := m.frames.set 2 (.landing request) });
     s.core.mem.frame 2 = .landing request ∧ request.seg = none ∧ s.engineReadN task.reader 0x2000000000000000 13 4 = .wait ∧
      s.engineReadN task.reader 0x2000000000000000 12 4 = .fault 0x11 ∧
      s.engineReadN request.reader request.addr request.inst 8 = .bytes (List.replicate 8 0)) ∧
    (let l : TabLoad := ⟨3, some 1, 0x0100000000000000, 10, some (List.replicate 8 1), task.reader, 0x100⟩;
     (task.onEng (fun e => { e with dtLoads := [l] })).core.eng.dtLoads = [l] ∧ l.table < 4 ∧ l.data = some (List.replicate 8 1)) ∧
    (task.core.eng.dtLoads = [] ∧ task.core.eng.segLoads = [] ∧ task.core.mat.flags = []) ∧
    (let l : MLoad := ⟨15, false, 6, 64, [(0, 0x0100000000000000, some (List.replicate 64 1))], 10, task.reader, 0x100, Slot.reset⟩;
     (task.onMat (fun m => { m with loads := [l] })).core.mat.loads.find? (fun x => decide (x.slot = 15)) = some l ∧ ∀ r ∈ l.rows, r.2.2.isSome) ∧
    (let p : PendStore := ⟨0x100, false, [(0x100, 7)], false, none, none, 0⟩;
     (task.onEng (fun e => { e with pend := [p] })).core.eng.pend[0]? = some p ∧ p.atomic = none) ∧
    (let p : PendStore := ⟨0x100, false, [], false, some ⟨⟨0, false, 1, 0, 0, 0⟩, 3, false, 0⟩, none, 0⟩;
     (task.onEng (fun e => { e with pend := [p] })).core.eng.pend[0]? = some p ∧ task.core.inUse false 3 = true) ∧
    (let l : LateLoad := ⟨.g 12 false, 0x0200000000000100, 8, true, [0x40, 0x41], 0⟩;
     (task.onEng (fun e => { e with loads := [l] })).core.eng.loads[0]? = some l ∧ pathOf l.addr = some (.spad, 0x100) ∧ task.core.inUse true 12 = false ∧
      task.core.inUse false 12 = true) ∧
    (task.gateShut 0 = false) ∧
    (let y := { copyAt 0x10000 false 0 with frame := { (copyAt 0x10000 false 0).frame with addr := 0x0100000000000200 } };
     1 ∈ y.todo ∧ y.op = 0 ∧ y.desc.getLsbD 62 = false ∧ (copying [y]).engineRead y.reader (y.src + BitVec.ofNat 64 4) y.readInst 4 = .bytes [0, 0, 0, 0] ∧
      pathOf y.frame.addr = some (.tcm, 0x200)) ∧
    (let t : Stream := ⟨0x0100000000000100, 2, 1, 0, [], [(1, 5)], 0, task.reader, 0x100⟩;
     t.appends = [(1, 5)] ∧ pathOf (t.unit 1) = some (.tcm, 0x110) ∧ t.fetched < t.count ∧ t.fifo.length < t.depth ∧
      accessTrap task.core .load (t.unit t.fetched) 16 false false = none ∧
      task.engineRead t.reader (t.unit t.fetched) (task.loadInstant 0) 16 = .bytes (List.replicate 16 0)) ∧
    (task.onDev (fun d => { d with regs := [(0x808, 1)] })).runs 0 = false := ⟨task_sound, by decide +kernel⟩

theorem meets_EngineResults_steps : (let r : CodeReq := { request with landed := [3] };
      (task.onMem (fun m => { m with frames := m.frames.set 2 (.landing r) })).core.mem.frame 2 = .landing r ∧ 3 ∈ r.landed ∧ 4 ∉ r.landed ∧
        task.engineReadN r.reader (r.addr + BitVec.ofNat 64 (8 * 4)) r.inst 8 = .bytes (List.replicate 8 0)) ∧
    task.queued (.fetch 0 2) = false ∧
    (let p : PendStore := ⟨0x100, true, [(0x100, 7)], true, none, none, 1⟩;
     let q : PendStore := ⟨0x200, false, [(0x200, 7)], false, none, none, 0⟩;
     let s := task.onEng (fun e => { e with pend := [q, p] });
     s.core.eng.pend[1]? = some p ∧ (∃ x ∈ s.core.eng.pend.take 1, p.setsFull = true ∧ x.no < p.no) ∧
       (∀ x ∈ s.core.eng.pend.take 0, q.waitsFor x = false) ∧ p.tcm = true) ∧
    (let l : LateLoad := ⟨.g 3 false, 0x0200000000000100, 8, false, [0x40, 0x41], 0⟩;
     (∀ j < 2, 0x100 / 4 + j ∈ l.todo) ∧ l.width = 8 ∧ 0x100 % 4 = 0 ∧ 5 ∉ l.todo ∧
      (let m : LateLoad := { l with width := 4, todo := [0x40] }; 0x100 / 4 ∈ m.todo ∧ 0x100 % 4 + m.width ≤ 4)) ∧
    (let y := { copyAt 0x10000 false 0 with got := [(1, [0, 0, 0, 0])] };
     1 ∈ y.todo ∧ y.got = [(1, [0, 0, 0, 0])] ∧ (copying [y]).core.eng.pend = [] ∧ (copying [y]).core.eng.loads = []) := by decide +kernel

/-- A message in flight to core 0, with what queues of the core hold. -/
def receiving (b : Body) (q : Queue) : State :=
  (task.onNi (fun n => { n with queues := n.queues.set 0 q, routes := n.routes.set 1 ⟨some 0x208, 4, true⟩ })).onDev (fun d => { d with
    fab := { d.fab with msgs := [⟨.c0, 8, 0, 0, .direct, b⟩] } })

/-- A bound queue of mode 0. -/
def boundQueue (rs held : List Record) : Queue := { Queue.unbound with bound := true, recs := rs, held := held }

theorem meets_NetworkEventResults : task.Sound ∧ (0 < 165888 ∧ task.core.id < 165888) ∧ task.arriving 0 = none ∧
    (let s := receiving (.record 0 dataRec) (boundQueue (List.replicate 31 dataRec) []);
     (s.arriving 0).map (fun m => m.body) = some (.record 0 dataRec) ∧ dataRec.kind ≠ 1 ∧ dataRec.kind ≠ 5 ∧
      (s.core.ni.queues[0]).recs.length + (s.core.ni.queues[0]).held.length < 32 ∧ (s.core.ni.queues[0]).mode ≠ 1 ∧ dataRec.as = false) ∧
    (let r := { dataRec with as := true };
     r.as = true ∧ r.src ∉ (boundQueue [] []).seamSrcs ∧ (boundQueue [] []).keptSeam = none) ∧
    (let q := boundQueue (List.replicate 32 dataRec) [];
     32 ≤ q.recs.length + q.held.length ∧ q.cap = 0) ∧
    ((receiving (.mailbox 0 3 9) Queue.unbound).arriving 0).map (fun m => m.body) = some (.mailbox 0 3 9) ∧
    (let q := { boundQueue [spliceRec 1] [] with pipe := true, heldSince := some (4, 8) };
     q.recs.head? = some (spliceRec 1) ∧ (spliceRec 1).kind = 1 ∧ q.pipe = true ∧ 4 + 8 ≤ task.dev.now ∧ task.dev.now < 5 + 8 ∧ task.core.ni.prep = none) ∧
    ((handling (some (prepIn false false 0 0))).core.ni.prep = some (prepIn false false 0 0) ∧ task.quiesced = false ∧
      (task.insertCore 1 (spliceRec 0)) = none ∧ spliceOp (spliceRec 0) = 0) ∧
    (let s := receiving (.seam 0 9) (boundQueue [] [dataRec]);
     (s.arriving 0).map (fun m => m.body) = some (.seam 0 9) ∧ (s.core.ni.queues[0]).held = [dataRec] ∧ s.core.ni.eliding = none) ∧
    (((receiving (.seamSeen 1 dataRec) Queue.unbound).arriving 0).map (fun m => m.body) = some (.seamSeen (4 * 0 + 1) dataRec) ∧
      ((receiving (.link 1 0x208 0x210 2 6 0) Queue.unbound).arriving 0).map (fun m => m.body) = some (.link (4 * 0 + 1) 0x208 0x210 2 6 0) ∧
      (receiving (.link 1 0x208 0x210 2 6 0) Queue.unbound).core.ni.routes[1].ep = some 0x208) ∧
    ((wired [] 1).core.ni.staging[0]? = some (1, ⟨.c2, 0, 8, 0, .direct, .seamSeen 0 dataRec⟩) ∧ task.core.ni.staging[0]? = none ∧ task.gated 0 = false) ∧
    (task.core.csr.nisBusy = false ∧ nisPath 0x0100000000000040 256 = false ∧ nisPath 0x0100000000000080 256 = true ∧ nisPath 0x010000000000FF00 384 = false ∧
      (task.onCsr (fun x => { x with nisBusy := true, nisCmd := 0x0100000000000082 })).core.csr.nisCmd.toNat % 4 ≠ 1 ∧
      task.niVisible 0 0x0100000000000080 256 = true) ∧
    (State.reset.core.x.ctx = none ∧ task.core.x.ctx = some ctx) ∧
    ((∃ y ∈ [copyAt 0x10000 false 1], y.failed = false ∧ y.op ≠ 0) ∧ ∀ y ∈ [copyAt 0x10000 false 0], y.op = 0) := ⟨task_sound, by decide +kernel⟩

/-- No domain's gate is shut; a core stands under an image. -/
theorem meets_NetworkEventResults_calm : task.imageOn 0 = none ∧ task.core.ni.staging = [] ∧ ({ dataRec with as := true } : Record).src < 2 ^ 20 ∧
    (({ prepIn false false 0 0 with run := 1 } : Prep).failed = false ∧ (waitingFor .queue 0 []).coreOf 1 = some 0 ∧
      ((waitingFor .queue 0 []).coreAt 0).x.wait.map (fun w => w.reason) = some .queue) ∧
    (∀ j : Fin 8, task.core.eng.copyRecs[j].valid = true → task.core.eng.copyRecs[j].desc.getLsbD 27 = false) := by decide +kernel

/-- `offering` with core 0 idle and a splice that inserts node 5 there; another that rebinds a core which holds the code. -/
theorem meets_NetworkEventResults_prepares :
    (let s := offering [];
     s.insertCore 1 (spliceRec 0) = some 0 ∧ s.nodeFor 1 (spliceNode (spliceRec 0)) = some (loaded5, node5) ∧
      loaded5.segment node5.seg = some (1, [], 0) ∧ ((s.coreAt 0).ni.queue (insertQueue (spliceRec 0))).ringSrcs = []) ∧
    ((prepared 2 none).nodeFrame 1 (spliceNode (spliceRec 2)) = some (1, 0) ∧ (prepared 2 none).core.mem.frame 1 = .resident (some 0)) ∧
    (task.coreOf 1 = some 0 ∧ task.coreOf 2 = none ∧ (1 : Nat) ≠ 0) ∧
    (let y := { copyAt 0x10000 false 0 with todo := [] };
     (copying [y]).core.eng.copies = [y] ∧ y.op = 0 ∧ (copying [y]).copyInFlight y = false) := by decide +kernel

theorem meets_NetworkEventResults_slot : ∃ i, ((served []).findSlot loaded5 5 (BitVec.ofNat 64 (spliceSerial (spliceRec 0)).toNat)) = .take i :=
  ⟨_, rfl⟩

theorem meets_NetworkEventResults_gates : (∀ j, task.gateShut j = false) ∧
    (let s := (task.onX (fun x => { x with stopped := some (.image 1) })).onDev (fun d => { d with img := { d.img with
      images := [⟨0x1000, 0x80000, 0, 1, 12, 0, 0, 1, false, false, task.core, false, true, 0, []⟩] } });
     s.imageOn 0 ≠ none) := ⟨fun _ => rfl, by decide +kernel⟩

/-- A confirmation of a link that reports to this part, whatever its number. -/
theorem meets_NetworkEventResults_ack : ∃ reply, reply / 2 ^ 21 % 2 ^ 20 = Config.deviceId.toNat ∧
    ((receiving (.linkAck 2 6 reply) Queue.unbound).arriving 0).map (fun m => m.body) = some (.linkAck 2 6 reply) := by
  have h := Config.deviceId.isLt
  exact ⟨Config.deviceId.toNat * 2 ^ 21, by omega, rfl⟩

/-- A message staged for this part, whatever its number. -/
theorem meets_NetworkEventResults_staged : ∃ m : Message, m.device = Config.deviceId.toNat ∧
    (task.onNi (fun n => { n with staging := [(1, m)] })).core.ni.staging[0]? = some (1, m) := ⟨⟨.c2, 0, 8, Config.deviceId.toNat, .direct, .seamSeen 0 dataRec⟩, rfl, rfl⟩

/-- Port 0 up or down. -/
def ported (up : Bool) : State := task.onDev (fun d => { d with fab := { d.fab with
  ports := [(0, ⟨up, 15, 7, 0, 0, [(3, ⟨.c2, 0, 8, 9, .direct, .seamSeen 0 dataRec⟩)], Vector.replicate 3 4, none, Vector.replicate 3 0⟩)] } })

theorem meets_FabricResults_replies : ((ported true).port 0).replay = [] ++ (3, ⟨.c2, 0, 8, 9, .direct, .seamSeen 0 dataRec⟩) :: [] ∧
    (ported true).dev.fab.gate = [] ∧ (0 : BitVec 12) ≠ ((ported true).port 0).expect := by decide +kernel

/-- A message that waits for port 0. -/
theorem meets_FabricResults_waiting : (let s := (ported false).onDev (fun d => { d with fab := { d.fab with gate := [⟨.c2, 0, 8, 9, .direct, .seamSeen 0 dataRec⟩] } });
    s.gateShut 0 = false ∧ s.routeOf 9 = some 0 ∧ (s.port 0).replay.length < 512) := by decide +kernel

/-- The credit of a port that comes up is a free value: with none the message waits on, with some it leaves. What waits at an
arbiter, and what it makes of a message in flight. -/
theorem meets_FabricResults_credit (p c : Nat) : Config.linkCredit p c = 0 ∨ 0 < Config.linkCredit p c := Nat.eq_zero_or_pos _

theorem meets_FabricResults_arbiter : (let m : Message := ⟨.c0, 0, 2 ^ 32, 0, .direct, .mailbox 0 0 0⟩;
      let s := task.onDev (fun d => { d with fab := { d.fab with msgs := [m] } });
      s.dev.fab.msgs[0]? = some m ∧ aget s.dev.fab.starve 0 = none ∧ s.queued (.message m) = false ∧
        (s.arbiterFor ⟨0, [.message 0]⟩).waiting = [.message m] ∧
        (let u := s.onDev (fun d => { d with fab := { d.fab with starve := [(0, ⟨64, 64, [.message m]⟩)] } });
         .message m ∈ (u.arbiterFor ⟨0, []⟩).waiting ∧ 64 ≤ (u.arbiterFor ⟨0, []⟩).tier1 ∧ 64 ≤ (u.arbiterFor ⟨0, []⟩).tier2)) ∧
    (Waiting.message ⟨.c0, 0, 0, 0, .direct, .mailbox 0 0 0⟩).tier < 3 := by decide +kernel

theorem meets_FabricResults : (((ported true).port 0).up = true ∧ ((ported true).port 0).expect = 7 ∧ ((ported false).port 0).up = false ∧
      ((ported true).port 63).up = false) ∧
    ((ported false).routeOf 9 = some 0 ∧ ((ported false).dev.timed.visible (ported false).dev.now).wf = true) ∧
    task.windowFor ⟨9, 0, 5, .task, 1, 0, 12, 0, 0, 0, .load 8 (some 12)⟩ = none ∧
    ((task.shReg 0 0x6010 0).getLsbD 0 = false ∧ (task.onDev (fun d => { d with regs := [(0x6010, 1)] })).shReg 0 0x6010 0 = 1) ∧
    ((0 : Nat) = (task.shReg 0 0x6010 0).toNat / 256 % 64 ∧ task.dev.now % 64 ≠ 0 ∧ (task.onDev (fun d => { d with now := 64 })).dev.now % 64 = 0) ∧
    (16 ≤ (task.onDev (fun d => { d with missed := 16 })).dev.missed ∧ task.dev.missed < 16) ∧
    ((31 : Word).toNat < 32 ∧ 4096 < (4097 : Word).toNat ∧ (∃ z ∈ [tcbIn .running], z.st.live = true) ∧ ¬(32 : Word).toNat < 32) := by
  decide +kernel

/-- A table whose entry for page 0 maps it to frame 16. -/
def tables : Memory :=
  ((Memory.writeN [] 0x20000 (bytesOf 8 (2 ^ 63 + 0x30))).writeN 0x30000 (bytesOf 8 (2 ^ 63 + 0x31))).writeN 0x31000
    (bytesOf 8 (5 * 2 ^ 61 + 2 ^ 60 + 16))

/-- Partition 1 with frames 0 to 63 and a table that maps page 0 to frame 16, and mapping and move registers set. -/
def mapping : State := task.onDev (fun d => { d with
  disp := { d.disp with
    parts := [(1, ⟨⟨0, 0, 64, 0, 0, 1, 0, 0, 0, 0, 0, 16, 0, 0⟩, [], 11, 11, false, 0⟩)], clusters := [(0, 1)] }
  trans := { d.trans with ptab := tables }
  regs := [(0x3000, 0x10000), (0x3008, BitVec.ofNat 64 (5 * 2 ^ 61 + 17)), (0x3040, 0), (0x3048, 20), (0x3050, 14)] })

theorem mapping_sound : mapping.Sound := by
  constructor <;> simp [mapping, task, State.onX, State.onDev, State.reset, Core.reset, Device.reset, CoreMem.reset, CoreMem.Canonical,
    State.History, Memory.wf, Memory.wfFrom]
  decide +kernel

theorem meets_TranslationResults : mapping.Sound ∧ ((mapping.partition 1).isSome ∧ mapping.dev.trans.busy = [] ∧ mapping.dev.trans.moves = []) ∧
    (let w (a : Nat) : Nat := natOf (mapping.dev.trans.ptab.readN a 8);
     w 0x20000 / 2 ^ 61 = 4 ∧ w 0x30000 / 2 ^ 61 = 4 ∧ w 0x31000 / 2 ^ 61 = 5 ∧ w 0x31000 / 2 ^ 26 % 2 ^ 33 = 0 ∧
      w 0x31008 / 2 ^ 63 = 0) ∧
    ((mapping.coreAt 0).part mapping = some 1 ∧ (9 : Word).toNat % 4 = 1 ∧ (10 : Word).toNat % 4 = 2 ∧ mapping.mapReason (some 1) 0 9 = none ∧
      mapping.dev.trans.tableAt (1 * 2 ^ 17) 0x10000 2 = some 0x31000) ∧
    ((mapping.onDev (fun d => { d with trans := { d.trans with busy := [⟨0, 0, []⟩] } })).mapReason (some 1) 0 9 = some 1 ∧
      (32 : Word).toNat ≥ 32 ∧ mapping.mapReason (some 1) 0 13 = some 8) ∧
    (mapping.moveBusy 0 = false ∧ mapping.moveReason (some 1) 0 20 14 = none ∧ mapping.moveReason (some 1) 0 20 13 = some 4) ∧
    (let m : Move := ⟨0, 10, 1, 0, 16, 20, 11, 0x31000, true, true⟩;
     m.inst ≤ mapping.dev.now ∧ m.handed = true ∧ m.applied = true ∧ m.part = 1 ∧ m.newFrame < 2 ^ 26 ∧
      (mapping.partition 1).map (fun q => decide (m.inst ≤ q.horizon)) = some true) := ⟨mapping_sound, by decide +kernel⟩

/-- The counts of one page's remote accesses, all from shingle 0, and a frame of that shingle. -/
theorem meets_TranslationResults_dispenser :
    (let s := mapping.onDev (fun d => { d with trans := { d.trans with counts := [⟨1, 0, 0, 5⟩] } });
     s.mostlyFrom 1 0 = some 0 ∧ mapping.mostlyFrom 1 0 = none ∧ 20 % 2048 / 64 = 0 ∧ (64 : Nat) % 2048 / 64 ≠ 0) := by decide +kernel

/-- A move whose handover waits at an arbiter, and one whose old home has a load to serve. -/
theorem meets_TranslationResults_moves : (let m : Move := ⟨0, 10, 1, 0, 16, 20, 13, 0x31000, true, true⟩;
      (task.onDev (fun d => { d with fab := { d.fab with starve := [(0, ⟨0, 0, [.move 1 0]⟩)] } })).queued (.move m.part m.va) = true ∧
      task.queued (.move m.part m.va) = false ∧ task.oldServes m = false ∧
      (task.onEng (fun e => { e with remote := [⟨5, .g 3 false, 0x4000000000000040, 8, some 12, .home (2 ^ 42 + 16 * 65536), 0x100, false, false, true, 0,
        false⟩] })).oldServes m = true) := by decide +kernel

/-- A walk's error is a free value; whichever it is, one of the clauses holds. -/
theorem walk_ok {s : State} {part va inst key : Nat} {write : Bool} (k : s.translate (some part) true write va inst = .ok key) :
    s.walked (some part) true write va inst = .ok key ∨ s.walked (some part) true write va inst = .error 0x12 := by
  unfold State.walked
  split
  · exact .inr rfl
  · exact .inl k

theorem mapped_page (write : Bool) : mapping.translate (some 1) true write 0 14 = .ok (2 ^ 42 + 16 * 65536) := by
  unfold State.translate
  generalize Config.staleEntry mapping.dev.tick = b
  cases b <;> cases write <;> decide +kernel

/-- The piece of a timed `mstore` on GLOBAL finds its home, or meets an error. -/
theorem meets_ConvertAndStoreResults_walk : mapping.walked (some 1) true true 0 14 = .ok (2 ^ 42 + 16 * 65536) ∨
    mapping.walked (some 1) true true 0 14 = .error 0x12 := walk_ok (mapped_page true)

/-- An inbound window of port 0 for every device of number 1 to 15 and pages 0 to 15. -/
def windowed : State := mapping.onDev (fun d => { d with regs :=
  [(0x5400, 1), (0x5408, 16), (0x5410, 0x0010000000000000), (0x5418, 0x181)] })

theorem meets_FabricResults_window : windowed.windowFor ⟨9, 0, 5, .task, 1, 0, 12, 0, 0, 0, .store [7] false⟩ = some (1, true) := by decide +kernel

theorem meets_FabricResults_walk (write : Bool) : windowed.walked (some 1) true write 0 14 = .ok (2 ^ 42 + 16 * 65536) ∨
    windowed.walked (some 1) true write 0 14 = .error 0x12 := walk_ok (mapped_page write)

/-- A load on GLOBAL and a store there that wait for their walks. -/
theorem meets_TranslationResults_walks :
    ((task.onEng (fun e => { e with remote := [{ loadIn (some 12) .walk with addr := 0x4000000000000040 }] })).remoteOf 0 5 =
      some { loadIn (some 12) .walk with addr := 0x4000000000000040 } ∧ pathOf 0x4000000000000040 = some (.global, 0x40)) ∧
    (let e := { storeAt 13 false none with addr := 0x4000000000000040 };
     e.home = none ∧ e.atomic = none ∧ e.copy = none ∧ e.src = .task ∧ e.core = 0 ∧ ctx.run = e.run ∧ task.core.x.ctx = some ctx) := by
  decide +kernel

/-- A voltage domain of shingle 0 in a phase. -/
def domained (phase : Nat) (waiting : Option Nat) : State :=
  (served []).onDev (fun d => { d with out := { d.out with volt := [⟨0, 0, phase, 0, 70, 40, waiting, 40, false⟩] } })

theorem meets_TaskResults_gate : (domained 1 none).gateShut 0 = true ∧ (domained 0 none).gateShut 0 = false := by decide +kernel

theorem meets_PowerResults : task.Sound ∧ 165887 < 165888 ∧
    (((served []).coreAt 0).part (served []) = some 1 ∧ (served []).domainOn 0 1 = some 0 ∧ (served []).domainOn 1 1 = none) ∧
    ((23 : Word).toNat % 128 < 24 ∧ 70 < (71 : Word).toNat % 128 ∧ 24 ≤ (24 : Word).toNat % 128 ∧ (70 : Word).toNat % 128 ≤ 70 ∧
      ((served []).domain 0 0).phase = 0 ∧ ((domained 1 none).domain 0 0).phase ≠ 0) ∧
    (((domained 1 none).domain 0 0).phase = 1 ∧ (domained 1 none).crossing 0 0 = false ∧ ((domained 2 none).domain 0 0).phase = 2 ∧
      ((domained 2 (some 30)).domain 0 0).waiting = some 30) ∧
    (clusterOf 0 = 0 ∧ (task.coreAt 0).x.stopped = none ∧ (task.coreAt 0).x.mode = .user ∧ (sup.coreAt 0).x.mode = .supervisor) ∧
    ((task.onX (fun x => { x with stopped := some .doubleTrap })).coreAt 0).x.stopped = some .doubleTrap ∧
    (let s := (served []).onX (fun x => { x with ctx := some { ctx with groups := 1 } });
     s.core.csr.req = false ∧ (s.loadedFor 1 5).isSome ∧ (s.onDisp (fun d => { d with hot := [0] })).isWithheld 0 = true) ∧
    ((1680 : Int) ≤ 1680 ∧ (1679 : Int) < 1680 ∧ (1519 : Int) < 1520 ∧ 31 < 32) := ⟨task_sound, by decide +kernel⟩

/-- The firmware's update at a phase. -/
def updating (phase : Nat) : State := task.onDev (fun d => { d with regs := [(0x7018, BitVec.ofNat 64 phase)] })

theorem meets_FirmwareResults : (∀ p ∈ [0, 1, 2, 3, 4, 5, 6, 8], ((updating p).shReg 0 0x7018 0).toNat % 16 = p) ∧
    task.dev.out.powered = true ∧
    (task.onDev (fun d => { d with out := { d.out with powered := false } })).dev.out.powered = false ∧
    (31 < 32 ∧ 32 ≤ 32) ∧ ([true, true, true, true, true, false][6 - 1]? = some false) := by decide +kernel

/-- No command of an owner waits for the end of the update; two where one does. -/
theorem meets_FirmwareResults_calm : (∀ t ∈ (served [tcbIn .held]).dev.disp.tcbs, t.st = .held → t.relPending = false ∧ t.abortPending = false) ∧
    ([true, false, true, true, true, true][1]? = some false ∧ configRefused [] = false) := by decide +kernel

/-- Partition 1 with frames 0 to 63, a command that may be in progress, and the operands of the image registers:
core 0 and the addresses 0x1000 and 0x80000. -/
def imaging (cmds : List ImgCmd) (base : Word) : State := task.onDev (fun d => { d with
  disp := { d.disp with
    parts := [(1, ⟨⟨0, 0, 64, 0, 0, 1, 0, 0, 0, 0, 0, 16, 0, 0⟩, [], 11, 11, false, 0⟩)], clusters := [(0, 1)] }
  img := { d.img with cmds := cmds }
  regs := [(0x4100, base), (0x4108, 0), (0x4120, 0x80000)] })

/-- An image of core 0 at 0x1000. -/
def imageIn (streamed : Bool) : ImageRec := ⟨0x1000, 0x80000, 0, 1, 12, 0, 0, 1, false, false, task.core, streamed, true, 0, []⟩

/-- Core 1 idle, and a move of core 0 to it. -/
def idleOne : Core := { Core.reset 1 with x := { ExecState.reset with run := .idle, mode := .user } }

theorem meets_ImageResults_requests : task.Sound ∧ 165887 < 165888 ∧
    (let s := { task.onX (fun x => { x with reqSince := some 0 }) with cores := [(1, idleOne)] };
     s.core.x.reqSince = some 0 ∧ s.dev.now < 0 + 1024 ∧ 0 + 1024 ≤ (s.onDev (fun d => { d with now := 1024 })).dev.now ∧ s.core.x.stopped = none ∧
      s.imageBusy 0 = false ∧ s.coreIdle 1 = true) ∧
    (let s := imaging [] 0x1000;
     (s.coreAt 0).part s = some 1 ∧ s.stopReason (.supervisor 0 (some 1)) 0 0x101 = none ∧ (0x101 : Word).toNat % 4 = 1) ∧
    ((imaging [⟨0, 1, 0, 0, 1, 0x1000, 0x80000⟩] 0x1000).imageBusy 0 = true) ∧
    ((0x001 : Word).toNat / 256 % 256 = 0 ∧ 3 < (0x401 : Word).toNat / 256 % 256 ∧ (0x1001 : Nat) % 4096 ≠ 0) ∧
    ((imaging [] 0x1000).restoreReason (.supervisor 0 (some 1)) 0 = some 7) ∧
    ((imaging [] 0x1000).moveCoreReason (.supervisor 0 (some 1)) 0 0 = some 3 ∧
      ({ imaging [] 0x1000 with cores := [(1, idleOne)] } : State).moveCoreReason (.supervisor 0 (some 1)) 0 1 = none) :=
  ⟨task_sound, by decide +kernel⟩

theorem meets_ImageResults_commands : (∀ y ∈ task.dev.img.cmds, ¬(y.shingle = 0 ∧ y.op = 1)) ∧
    (∀ op ∈ [1, 2, 3, 4, 5], (imaging [⟨0, op, 0, 1, 1, 0x1000, 0x80000⟩] 0).dev.img.cmds.find? (fun y => decide (y.shingle = 0 ∧ y.op = op)) =
      some ⟨0, op, 0, 1, 1, 0x1000, 0x80000⟩) ∧
    ((∀ y ∈ (imaging [⟨0, 4, 0, 1, 2, 0x1000, 0x80000⟩] 0).dev.img.cmds, ¬(y.shingle = 0 ∧ y.op = 1)) ∧ task.core.reducing = false ∧
      task.core.eng.pend = []) ∧
    (let s := (task.onX (fun x => { x with stopped := some (.image 1) })).onDev (fun d => { d with img := { d.img with images := [imageIn false] } });
     s.imageOn 0 = some (imageIn false) ∧ (imageIn false).streamed = false ∧ 0x1000 + 64 ≤ (imageIn false).ctxbuf ∧ task.imageOn 0 = none) ∧
    ((imageIn true).streamed = true) ∧
    ((∀ j : Fin 16, (task.coreAt 0).mat.slots[j].st ≠ .loading) ∧
      ∃ j : Fin 16, (slotted 0 .loading 0 0 task).core.mat.slots[j].st = .loading) ∧
    (let m : Message := ⟨.c0, 16, 8, 0, .former, .mailbox 1 0 0⟩;
     let s := task.onDev (fun d => { d with fab := { d.fab with msgs := [m] }, img := { d.img with swaps := [⟨0, 1, false, false, true, true⟩] } });
     s.dev.fab.msgs[0]? = some m ∧ m.via = .former ∧ (m.dst < 2 ^ 32 ∧ m.dst / 8 = 1) ∧ s.dev.img.swaps[0]? = some ⟨0, 1, false, false, true, true⟩) := by
  decide +kernel

theorem meets_ImageResults_area : ((imaging [] 0).firmwareArea 165887).isSome = true ∧
    (let s := task.onDisp (fun d => { d with parts := [(1, ⟨⟨0, 0, 50331648, 0, 0, 0, 0, 0, 0, 0, 0, 16, 0, 0⟩, [], 11, 11, false, 0⟩)] });
     s.firmwareArea 0 = none) := by decide +kernel

/-- An address whose header names a token that no image of the machine stands under, and one with the token 0. -/
theorem meets_ImageResults_source : ((task.onTimed (fun t => { t with versions := [(12, Memory.writeN [] (dramKey 0x1000) [1])] })).imageFor 0x1000 0 = none) ∧
    (task.imageFor 0x1000 0).isSome = true := by
  refine ⟨by decide +kernel, ?_⟩
  have h : task.headerField 0x1000 63 0 = 0 := by decide +kernel
  have e : task.imageAt 0x1000 = none := rfl
  simp only [State.imageFor, e, h, if_true, Option.isSome_some]

/-- `task` with an image of core 0 streamed and a memory visible. -/
def imaged (m : Memory) : State := (task.onTimed (fun t => { t with versions := [(12, m)] })).onDev (fun d => { d with
  img := { d.img with images := [imageIn true] } })

theorem imaged_read (m : Memory) (a n : Nat) : (imaged m).dramRead a n = m.readN (dramKey a) n := rfl

theorem flopSection_length (n : Nat) : (flopSection n).length = 0xD000 := by rw [flopSection, List.length_map, List.length_range]

theorem flopSection_stands (a : Nat) : (Memory.writeN [] a (flopSection 0)).readN a 0xD000 = flopSection 0 :=
  flopSection_length 0 ▸ Memory.readN_writeN (m := []) a (flopSection 0) rfl

theorem imaged_imageAt (m : Memory) (h : m.readN (dramKey (0x1000 + 0x1000)) 0xD000 = flopSection 0) :
    (imaged m).imageAt 0x1000 = some (imageIn true) := by
  have r : decide ((imaged m).dramRead (0x1000 + 0x1000) 0xD000 = flopSection (imageIn true).seed) = true := decide_eq_true h
  have i : (imaged m).dev.img.images = [imageIn true] := rfl
  unfold State.imageAt
  rw [i, List.reverse_singleton, List.find?_cons, r]
  rfl

/-- The flop section of the image stands at 0x2000 as the scan chains gave it. -/
theorem meets_ImageResults_image :
    (imaged (Memory.writeN [] (dramKey (0x1000 + 0x1000)) (flopSection 0))).imageAt 0x1000 = some (imageIn true) :=
  imaged_imageAt _ (flopSection_stands _)

theorem meets_RegisterResults : (served [tcbIn .held]).Sound ∧ ((served []).coreAt 0).part (served []) = some 1 ∧ ((served []).partition 1).isSome ∧
    ((∀ z ∈ (served []).dev.disp.tcbs, z.part = 1 → z.token = 3 → z.st ≠ .held) ∧ (served []).dev.disp.tcbs = []) ∧
    (let z := tcbIn .held;
     (served [z]).heldByToken 1 z.token = some z ∧ z.st = .held ∧ (served [z]).nodeFor 1 5 = some (loaded5, node5) ∧
      (z ∈ (served [z]).dev.disp.tcbs ∧ z.part = 1 ∧ z.heldRead = false)) ∧
    (let z := tcbIn .running;
     (timed (fun m => { m with purges := [⟨z.token, 0, 1, 5, 2, 0x11, false, true⟩] })).purgedByToken 1 z.token = some z ∧ z.st ≠ .held) ∧
    (let z := { tcbIn .held with relPending := true };
     (served [z]).heldByToken 1 z.token = some z ∧ z.relPending = true) ∧
    ((served []).quiesced = false ∧ ((served [tcbIn .held]).onDev (fun d => { d with regs := [(0x7018, 2)] })).quiesced = true) ∧
    (let q : Partition := ⟨⟨0, 0, 0, 0, 0, 0, 0, 0, 0, 0, 0, 16, 0, 0⟩, [(0x2080, 0x2000000000000000), (0x2088, 0x2000000000000040), (0x2090, 11)], 11, 11, true, 0⟩;
     q.digest = true ∧ (served []).digestRefused q 12 = false ∧ (served []).digestRefused q 10 = true ∧ (served []).digestRefused q 13 = true ∧
      q.reg 0x2080 = BitVec.ofNat 64 (0x20 * 2 ^ 56 + 64 * 0) ∧ q.reg 0x2088 = BitVec.ofNat 64 (0x20 * 2 ^ 56 + 64 * (0 + 1)) ∧
      ∀ i < 8, (q.reg (0x2108 + 16 * i)).toNat ≤ (q.reg (0x2100 + 16 * i)).toNat) ∧
    (0x2100 ≤ 0x2178 ∧ 0x2178 < 0x2180 ∧ 0x2178 % 8 = 0) ∧ (960 ≤ natOf [0x40, 0x06, 0, 0, 0, 0, 0, 0] ∧ natOf [0x40, 0x06, 0, 0, 0, 0, 0, 0] ≤ 1600) ∧
    ((served []).barsUp = true ∧ (0 < 32 ∧ 5 ≠ 0 ∧ (5 : Nat) ≠ (served []).dev.out.controller ∧ (0 : Nat) = (served []).dev.out.controller)) := by
  refine ⟨task_sound.onDisp _, by decide +kernel⟩

/-- The registers of host port 0 for a copy of one line at loft offset 0. -/
def hosted (copies : List HostCopy) : State := (served []).onDev (fun d => { d with
  regs := [(0x1000, 0x40), (0x1008, 0x2000000000000000), (0x1010, 64), (0x1030, 1)], out := { d.out with hostCopies := copies } })

theorem meets_HostResults : (hosted []).Sound ∧ 1 < 2 ∧ ((hosted []).dev.out.powered = true ∧ (hosted []).dev.out.bust = 7) ∧
    (let s := hosted [];
     ((s.shReg 0 0x1000 0).toNat % 64 = 0 ∧ pathOf (s.shReg 0 0x1008 0) = some (.loft, 0) ∧ (s.shReg 0 0x1010 0).toNat = 64 ∧
      s.loftAllowed (some (s.hostPart 0)) 0 64 = true)) ∧
    ((hosted [⟨0, true, 12, 0x40, 0x2000000000000000, [0], none⟩]).dev.out.hostCopies.find? (fun c => decide (c.port = 0)) = some ⟨0, true, 12, 0x40, 0x2000000000000000, [0], none⟩ ∧
      (hosted [⟨0, true, 12, 0x40, 0x2000000000000000, [0], none⟩]).dev.timed.flight = [] ∧ 12 ≤ (hosted []).dev.now) ∧
    ((List.replicate 64 (0 : Byte)).length = 64 ∧ 0 % 64 = 0 ∧ (hosted []).dev.disp.loaded.find? (fun l => decide (l.tmpl.id = 0 / 64)) = some loaded5) ∧
    ((hosted []).gateShut 0 = false ∧ (hosted []).homeWaits 0 = false ∧ ownKey 0 = true) ∧
    (165887 * 32 / 32 < 165888 ∧ 165888 ≤ 165888 * 32 / 32) ∧
    ((served []).loadRejected 1 ⟨[], [⟨1, [8], []⟩], []⟩ ⟨[⟨0, 10, [0]⟩], [], [], List.replicate 2560 0⟩ = false ∧
      (served []).loadRejected 1 ⟨[], [⟨0, [8], []⟩], []⟩ ⟨[⟨0, 10, [0]⟩], [], [], List.replicate 2560 0⟩ = true) := by
  exact ⟨State.Sound.onDev (s := served []) (task_sound.onDisp _) _ rfl rfl rfl rfl rfl, by decide +kernel⟩

/-! #### Steps -/

/-- `task` with a word at its program counter. -/
def placed (w : Nat) : State := task.withFetchWord 32 w

theorem placed_ready : (placed 0x00308800).Ready := by
  refine ⟨rfl, rfl, rfl, rfl, rfl, ?_, rfl, ?_, ?_, ?_⟩ <;> decide +kernel

/-- A paired clause: `ldw` from TCM and an `add` that does not write its destination. -/
def pairedClause : State := (setRegs task [(1, 0x0100000000000000)]).onMem (fun m => { m with
  im := Memory.writeN [] 0x100 (bytesOf 4 0x4A70B000 ++ bytesOf 4 0x00308800) })

theorem meets_StepRunsWord : (placed 0x00308800).Ready ∧
    (let s := placed 0x00308800;
     (∀ k : Fin 3, s.core.x.loops[k].active = false) ∧ s.core.x.pc.getLsbD 2 = false ∧ (clauseWord0 s.nextClauseWord).getLsbD 31 = true ∧
      decode (clauseWord0 s.nextClauseWord) = .ok (.add 3 1 2 0) ∧ s.issuing.core.pendingFor (.add 3 1 2 0) = none) ∧
    ((placed 0x00308800).issuing.failsCheck (.add 3 1 2 0) = false ∧ (placed 0x00308800).issuing.failsCheck (.csrr 5 2) = true ∧
      (∀ p ∈ (placed 0x00308800).core.eng.pend, p.atomic = none)) ∧
    (let s := pairedClause;
     s.core.x.pc.getLsbD 2 = false ∧ (clauseWord0 s.nextClauseWord).getLsbD 31 = false ∧ (clauseWord1 s.nextClauseWord).getLsbD 31 = false ∧
      isAClass (clauseWord0 s.nextClauseWord) = false ∧ isAClass (clauseWord1 s.nextClauseWord) = true ∧
      sameDest (.ldw 7 1 1 0 0) (.add 3 1 2 0) = false ∧ decode (clauseWord0 s.nextClauseWord) = .ok (.ldw 7 1 1 0 0) ∧
      s.issuing.core.pendingFor (.ldw 7 1 1 0 0) = none) ∧
    fromAgenda .instantBoundary = true ∧
    (task.onDev (fun d => { d with out := { d.out with powered := false } })).dev.out.powered = false ∧
    (task.onDev (fun d => { d with out := { d.out with bust := 0x101 } })).dev.out.bust ≠ 7 := by
  refine ⟨placed_ready, ⟨by decide +kernel, by decide +kernel, by decide +kernel, rfl, by decide +kernel⟩, by decide +kernel, ?_, by decide +kernel⟩
  exact ⟨by decide +kernel, by decide +kernel, by decide +kernel, by decide +kernel, by decide +kernel, by decide +kernel, rfl, by decide +kernel⟩

theorem meets_BoundaryResults : (task.core.x.pc.getLsbD 2 = false ∧ task.core.fuse = none ∧ task.core.x.run = .running ∧ task.core.csr.tip = false ∧
      task.core.x.mode = .user ∧ task.core.x.deferred = [] ∧ task.core.x.ev18 = false ∧ task.core.x.ev19 = none) ∧
    (task.onX (fun x => { x with deferred := [⟨0x11, 0, 0x100, none⟩] })).core.x.deferred = [⟨0x11, 0, 0x100, none⟩] ∧
    (task.onX (fun x => { x with ev18 := true })).core.x.ev18 = true ∧ (task.onX (fun x => { x with ev19 := some 5 })).core.x.ev19 = some 5 ∧
    (sup.core.x.mode = .supervisor ∧ sup.core.x.ctx ≠ none ∧ sup.core.inWfi = false ∧ sup.core.x.arrived = false ∧
      (sup.onX (fun x => { x with arrived := true })).core.x.arrived = true ∧ task.core.x.stopped = none ∧ task.clockGated 0 = false) ∧
    (interrupted.core.sw.en.getLsbD 3 = true ∧ interrupted.core.sw.pend.getLsbD 3 = true ∧
      (∀ m : Fin 6, m.val < 3 → interrupted.core.sw.en.getLsbD m.val = false ∨ interrupted.core.sw.pend.getLsbD m.val = false) ∧
      interrupted.boundary = some .userInterruptEntry ∧ interrupted.agenda = [] ∧ interrupted.clockGated 0 = false) ∧
    (task.onX (fun x => { x with inHandler := true })).core.x.inHandler = true ∧
    (sup.onCsr (fun x => { x with tip := true })).core.csr.tip = true ∧
    ((task.onX (fun x => { x with pc := 0x104 })).core.x.pc.getLsbD 2 = true ∧ task.core.x.wait = none ∧ task.core.x.fresh = false) ∧
    (let s := State.reset.onX (fun x => { x with run := .idle, mode := .user });
     s.core.x.run = .idle ∧ s.core.x.stopped = none ∧ s.core.fuse = none ∧ s.core.canTakeEvent = false ∧
      (s.onX (fun x => { x with ev18 := true })).core.canTakeEvent = true) := by decide +kernel

theorem meets_SoundKept : task.Sound ∧ ∃ t, step (placed 0x00308800) = .next t := by
  refine ⟨task_sound, ?_⟩
  cases h : step (placed 0x00308800) with
  | next t => exact ⟨t, rfl⟩
  | fault r =>
    have : after (step (placed 0x00308800)) 3 = some 0 := by decide +kernel
    rw [h] at this; cases this
  | refused r =>
    have : after (step (placed 0x00308800)) 3 = some 0 := by decide +kernel
    rw [h] at this; cases this

theorem meets_EncodeDecode : wellFormed (.add 31 31 31 1) = true ∧ decode 0x01FFFC01 = .ok (.add 31 31 31 1) := ⟨rfl, rfl⟩

end Sys2Proof.Tests
end

section
/-! SUPPORT. Every step keeps the invariant `State.Sound` (R2, R7, R68). -/

namespace Sys2Proof.Machine

set_option Elab.async false

/-! ### What a step keeps

`Keeps` says of a result what `State.Sound` says of a state. One lemma for each function of the model that makes a state
says that it keeps the invariant; its proof follows the function's own branches, and cites the lemma of each function
that it calls. Where a function leaves alone all that the invariant speaks of, the proof is `frame`. -/

/-- A result of a step keeps the invariant: where there is a next state, that state is sound. -/
def Keeps (r : Result) : Prop :=
  match r with
  | .next t => t.Sound
  | _ => True

theorem Keeps.of_next {r : Result} {t : State} (h : Keeps r) (e : r = .next t) : t.Sound := by
  rw [e] at h
  exact h

theorem Keeps.ite {c : Prop} [Decidable c] {a b : Result} (ha : Keeps a) (hb : Keeps b) : Keeps (if c then a else b) := by
  split
  · exact ha
  · exact hb

theorem State.Sound.ite {c : Prop} [Decidable c] {a b : State} (ha : a.Sound) (hb : b.Sound) : (if c then a else b).Sound := by
  split
  · exact ha
  · exact hb

theorem CoreMem.Canonical.ite {p : Prop} [Decidable p] {a b : Core} (ha : a.mem.Canonical) (hb : b.mem.Canonical) :
    (if p then a else b).mem.Canonical := by
  split
  · exact ha
  · exact hb

/-! #### Changes of one part

In each lemma the parts that stay are compared by `rfl`, unless the caller says why they are equal. -/

/-- A change that no part of the invariant sees. -/
theorem State.Sound.frame {s t : State} (h : s.Sound) (c : t.cores = s.cores := by rfl) (m : t.core.mem = s.core.mem := by rfl)
    (p : t.dev.spads = s.dev.spads := by rfl) (v : t.dev.timed.versions = s.dev.timed.versions := by rfl)
    (n : t.dev.now = s.dev.now := by rfl) (b : t.dev.trans.ptab = s.dev.trans.ptab := by rfl)
    (i : t.dev.img.images = s.dev.img.images := by rfl) : t.Sound := h.of_parts c m p v n b i

/-- A change of the scratchpads. -/
theorem State.Sound.withSpads {s t : State} (h : s.Sound) (p : ∀ e ∈ t.dev.spads, e.2.wf = true) (c : t.cores = s.cores := by rfl)
    (m : t.core.mem = s.core.mem := by rfl) (v : t.dev.timed.versions = s.dev.timed.versions := by rfl)
    (n : t.dev.now = s.dev.now := by rfl) (b : t.dev.trans.ptab = s.dev.trans.ptab := by rfl)
    (i : t.dev.img.images = s.dev.img.images := by rfl) : t.Sound where
  listed := c ▸ h.listed
  acting := m ▸ h.acting
  others := c ▸ h.others
  spads := p
  versions := v ▸ h.versions
  tables := b ▸ h.tables
  images := i ▸ h.images
  history := by unfold State.History; rw [v, n]; exact h.history
  clock := n ▸ h.clock

/-- A change of the page tables. -/
theorem State.Sound.withTables {s t : State} (h : s.Sound) (b : t.dev.trans.ptab.wf = true) (c : t.cores = s.cores := by rfl)
    (m : t.core.mem = s.core.mem := by rfl) (p : t.dev.spads = s.dev.spads := by rfl)
    (v : t.dev.timed.versions = s.dev.timed.versions := by rfl) (n : t.dev.now = s.dev.now := by rfl)
    (i : t.dev.img.images = s.dev.img.images := by rfl) : t.Sound where
  listed := c ▸ h.listed
  acting := m ▸ h.acting
  others := c ▸ h.others
  spads := p ▸ h.spads
  versions := v ▸ h.versions
  tables := b
  images := i ▸ h.images
  history := by unfold State.History; rw [v, n]; exact h.history
  clock := n ▸ h.clock

/-- A change of the stop images. -/
theorem State.Sound.withImages {s t : State} (h : s.Sound) (i : ∀ r ∈ t.dev.img.images, r.core.mem.Canonical)
    (c : t.cores = s.cores := by rfl) (m : t.core.mem = s.core.mem := by rfl) (p : t.dev.spads = s.dev.spads := by rfl)
    (v : t.dev.timed.versions = s.dev.timed.versions := by rfl) (n : t.dev.now = s.dev.now := by rfl)
    (b : t.dev.trans.ptab = s.dev.trans.ptab := by rfl) : t.Sound where
  listed := c ▸ h.listed
  acting := m ▸ h.acting
  others := c ▸ h.others
  spads := p ▸ h.spads
  versions := v ▸ h.versions
  tables := b ▸ h.tables
  images := i
  history := by unfold State.History; rw [v, n]; exact h.history
  clock := n ▸ h.clock

/-- A stop image joins the others. -/
theorem State.Sound.pushImage {s : State} (h : s.Sound) {f : Device → Device} {r : ImageRec} (m : r.core.mem.Canonical)
    (e : (f s.dev).img.images = s.dev.img.images ++ [r] := by rfl) (p : (f s.dev).spads = s.dev.spads := by rfl)
    (v : (f s.dev).timed.versions = s.dev.timed.versions := by rfl) (n : (f s.dev).now = s.dev.now := by rfl)
    (b : (f s.dev).trans.ptab = s.dev.trans.ptab := by rfl) : (s.onDev f).Sound := by
  refine h.withImages ?_ rfl rfl p v n b
  rw [show (s.onDev f).dev.img.images = s.dev.img.images ++ [r] from e]
  exact List.forall_mem_append.mpr ⟨h.images, List.forall_mem_singleton.mpr m⟩

/-- Stop images change with their cores left alone. -/
theorem State.Sound.mapImages {s : State} (h : s.Sound) {f : Device → Device} {g : ImageRec → ImageRec} (c : ∀ i, (g i).core = i.core)
    (e : (f s.dev).img.images = s.dev.img.images.map g := by rfl) (p : (f s.dev).spads = s.dev.spads := by rfl)
    (v : (f s.dev).timed.versions = s.dev.timed.versions := by rfl) (n : (f s.dev).now = s.dev.now := by rfl)
    (b : (f s.dev).trans.ptab = s.dev.trans.ptab := by rfl) : (s.onDev f).Sound := by
  refine h.withImages ?_ rfl rfl p v n b
  rw [show (s.onDev f).dev.img.images = s.dev.img.images.map g from e]
  refine List.forall_mem_map.mpr fun i hi => ?_
  rw [c i]
  exact h.images i hi

/-- A change of the history of instants, or of the counter. -/
theorem State.Sound.withHistory {s t : State} (h : s.Sound) (w : ∀ v ∈ t.dev.timed.versions, v.2.wf = true) (y : t.History)
    (k : t.dev.now < 2 ^ 56) (c : t.cores = s.cores := by rfl) (m : t.core.mem = s.core.mem := by rfl)
    (p : t.dev.spads = s.dev.spads := by rfl) (b : t.dev.trans.ptab = s.dev.trans.ptab := by rfl)
    (i : t.dev.img.images = s.dev.img.images := by rfl) : t.Sound where
  listed := c ▸ h.listed
  acting := m ▸ h.acting
  others := c ▸ h.others
  spads := p ▸ h.spads
  versions := w
  tables := b ▸ h.tables
  images := i ▸ h.images
  history := y
  clock := k

/-- A new version of the current instant goes before the history. -/
theorem State.Sound.newVersion {s t : State} (h : s.Sound) {m : Memory} (w : m.wf = true)
    (v : t.dev.timed.versions = (s.dev.now, m) :: s.dev.timed.versions) (n : t.dev.now = s.dev.now := by rfl)
    (c : t.cores = s.cores := by rfl) (a : t.core.mem = s.core.mem := by rfl) (p : t.dev.spads = s.dev.spads := by rfl)
    (b : t.dev.trans.ptab = s.dev.trans.ptab := by rfl) (i : t.dev.img.images = s.dev.img.images := by rfl) : t.Sound := by
  obtain ⟨hp, hle⟩ := h.history
  refine h.withHistory ?_ ⟨?_, ?_⟩ (n ▸ h.clock) c a p b i
  · rw [v]
    exact List.forall_mem_cons.mpr ⟨w, h.versions⟩
  · rw [v]
    exact List.pairwise_cons.mpr ⟨hle, hp⟩
  · rw [v, n]
    exact List.forall_mem_cons.mpr ⟨Nat.le_refl _, hle⟩

/-- A change of the acting core that keeps its memories canonical. -/
theorem State.Sound.withCore {s : State} (h : s.Sound) {c : Core} (m : c.mem.Canonical) : ({ s with core := c } : State).Sound :=
  h.core c m

/-- A change of a core that keeps its memories canonical. -/
theorem State.Sound.atCore {s : State} (h : s.Sound) {k : Nat} {f : Core → Core}
    (m : ∀ {c : Core}, c.mem.Canonical → (f c).mem.Canonical := by intro _ m; exact m) : (s.onCore k f).Sound :=
  h.putCore _ (m (h.coreAt k).2)

theorem State.Sound.coreAt_canonical {s : State} (h : s.Sound) {k : Nat} : (s.coreAt k).mem.Canonical := (h.coreAt k).2

/-- What another core does keeps the invariant if it keeps it wherever it acts. -/
theorem State.Sound.asOther {s : State} (h : s.Sound) {k : Nat} {f : State → State} (m : ∀ {t : State}, t.Sound → (f t).Sound) :
    (s.asCore k f).Sound := h.asCore k f m

/-- A change of every core that leaves its number and its memories alone. -/
theorem State.Sound.everyCore {s : State} (h : s.Sound) {f : Core → Core} (n : ∀ c, (f c).id = c.id := by intro; rfl)
    (m : ∀ c, (f c).mem = c.mem := by intro; rfl) :
    ({ s with core := f s.core, cores := s.cores.map (fun e => (e.1, f e.2)) } : State).Sound := by
  refine ⟨?_, (m s.core).symm ▸ h.acting, ?_, h.spads, h.versions, h.tables, h.images, h.history, h.clock⟩
  · refine List.forall_mem_map.mpr fun e he => ?_
    exact (n e.2).trans (h.listed e he)
  · refine List.forall_mem_map.mpr fun e he => ?_
    rw [m e.2]
    exact h.others e he

/-- Steps taken in turn keep the invariant if each does. -/
theorem State.Sound.foldl {α : Type} {f : State → α → State} (k : ∀ {t : State} {a : α}, t.Sound → (f t a).Sound) {s : State}
    (h : s.Sound) (l : List α) : (l.foldl f s).Sound := by
  induction l generalizing s with
  | nil => exact h
  | cons a l ih => exact ih (k h)

/-! #### Memories in canonical form -/

theorem Memory.wf_foldl {α : Type} {f : Memory → α → Memory} (k : ∀ {m : Memory} {a : α}, m.wf = true → (f m a).wf = true)
    {m : Memory} (w : m.wf = true) (l : List α) : (l.foldl f m).wf = true := by
  induction l generalizing m with
  | nil => exact w
  | cons a l ih => exact ih (k w)

/-- No address of a canonical memory is below its first one. -/
theorem Memory.le_of_wfFrom {m : Memory} {lo : Nat} (w : Memory.wfFrom lo m = true) : ∀ e ∈ m, lo ≤ e.1 := by
  induction m generalizing lo with
  | nil => intro e he; cases he
  | cons c m ih =>
    simp only [Memory.wfFrom, Bool.and_eq_true, decide_eq_true_eq] at w
    obtain ⟨⟨hlo, -⟩, hm⟩ := w
    refine List.forall_mem_cons.mpr ⟨hlo, fun e he => ?_⟩
    have := ih hm e he
    omega

theorem Memory.wfFrom_of_le {m : Memory} {lo hi : Nat} (w : Memory.wfFrom lo m = true) (b : ∀ e ∈ m, hi ≤ e.1) :
    Memory.wfFrom hi m = true := by
  cases m with
  | nil => rfl
  | cons c m =>
    simp only [Memory.wfFrom, Bool.and_eq_true, decide_eq_true_eq] at w ⊢
    obtain ⟨⟨-, hv⟩, hm⟩ := w
    exact ⟨⟨b c List.mem_cons_self, hv⟩, hm⟩

/-- Two canonical memories, the second above the first, are one. -/
theorem Memory.wfFrom_append {m n : Memory} {lo hi : Nat} (w : Memory.wfFrom lo m = true) (b : ∀ e ∈ m, e.1 < hi)
    (v : Memory.wfFrom hi n = true) (l : lo ≤ hi) : Memory.wfFrom lo (m ++ n) = true := by
  induction m generalizing lo with
  | nil => exact Memory.wfFrom_mono l v
  | cons c m ih =>
    obtain ⟨hc, hm⟩ := List.forall_mem_cons.mp b
    simp only [List.cons_append, Memory.wfFrom, Bool.and_eq_true, decide_eq_true_eq] at w ⊢
    exact ⟨w.1, ih w.2 hm hc⟩

/-- A canonical memory whose addresses are moved in order stays canonical. -/
theorem Memory.wfFrom_map {m : Memory} {lo lo' : Nat} {g : Nat → Nat} (w : Memory.wfFrom lo m = true) (l : ∀ e ∈ m, lo' ≤ g e.1)
    (b : ∀ e ∈ m, ∀ d ∈ m, e.1 < d.1 → g e.1 < g d.1) : Memory.wfFrom lo' (m.map (fun e => (g e.1, e.2))) = true := by
  induction m generalizing lo lo' with
  | nil => rfl
  | cons c m ih =>
    obtain ⟨hc, -⟩ := List.forall_mem_cons.mp l
    simp only [List.map_cons, Memory.wfFrom, Bool.and_eq_true, decide_eq_true_eq] at w ⊢
    obtain ⟨⟨-, hv⟩, hm⟩ := w
    refine ⟨⟨hc, hv⟩, ih hm (fun e he => ?_) fun e he d hd => b e (List.mem_cons_of_mem _ he) d (List.mem_cons_of_mem _ hd)⟩
    exact b c List.mem_cons_self e (List.mem_cons_of_mem _ he) (Memory.le_of_wfFrom hm e he)

theorem CoreMem.Canonical.setFrame {m : CoreMem} (h : m.Canonical) {f : Nat} {v : Frame} : (m.setFrame f v).Canonical := by
  unfold CoreMem.setFrame
  split
  · exact h
  · exact h

/-- Bytes written to IM. -/
theorem CoreMem.Canonical.writeIm {m : CoreMem} (h : m.Canonical) (a : Nat) (bs : List Byte) :
    ({ m with im := m.im.writeN a bs } : CoreMem).Canonical := ⟨Memory.wf_writeN a bs h.1, h.2⟩

theorem CoreMem.Canonical.reset {k : Nat} : (Core.reset k).mem.Canonical := ⟨rfl, rfl⟩

/-- The machine after reset is sound. -/
theorem State.Sound.afterReset : State.reset.Sound where
  listed := fun _ he => nomatch he
  acting := CoreMem.Canonical.reset
  others := fun _ he => nomatch he
  spads := fun _ he => nomatch he
  versions := fun _ he => nomatch he
  tables := rfl
  images := fun _ he => nomatch he
  history := ⟨List.Pairwise.nil, fun _ he => nomatch he⟩
  clock := Nat.two_pow_pos 56

/-! #### What answers, reports and messages leave -/

/-- The parts of the machine that no step of the boundary changes once the counter has advanced. -/
structure BoundaryView where
  now : Nat
  r : Regs
  mem : CoreMem
  csr : Csrs
  spads : Assoc Memory
  flight : List TStore
  lateReports : List Report
  acks : List Ack
  parts : Assoc Partition
  tcbs : List Tcb

def State.boundaryView (s : State) : BoundaryView where
  now := s.dev.now
  r := s.core.r
  mem := s.core.mem
  csr := s.core.csr
  spads := s.dev.spads
  flight := s.dev.timed.flight
  lateReports := s.dev.timed.lateReports
  acks := s.dev.timed.acks
  parts := s.dev.disp.parts
  tcbs := s.dev.disp.tcbs

/-- `t` differs from `s` in answers, reports and messages only: the view, the entries at the homes and the history stay. -/
structure State.Settles (s t : State) : Prop where
  sound : t.Sound
  view : t.boundaryView = s.boundaryView
  tense : t.dev.timed.tense = s.dev.timed.tense
  versions : t.dev.timed.versions = s.dev.timed.versions

theorem State.Settles.trans {s t u : State} (h : s.Settles t) (k : t.Settles u) : s.Settles u :=
  ⟨k.sound, k.view.trans h.view, k.tense.trans h.tense, k.versions.trans h.versions⟩

theorem State.Sound.settles {s : State} (h : s.Sound) : s.Settles s := ⟨h, rfl, rfl, rfl⟩

theorem State.Sound.foldl_settles {s : State} {α : Type} {f : State → α → State} (k : ∀ {t : State} {a : α}, t.Sound → t.Settles (f t a))
    (h : s.Sound) (l : List α) : s.Settles (l.foldl f s) := by
  induction l generalizing s with
  | nil => exact h.settles
  | cons a l ih => exact (k h).trans (ih (k h).sound)

section

variable {s : State}

/-! #### Shared operations on a core -/

theorem State.Sound.setVReg (h : s.Sound) {r : RegNo} {v : VReg} : (s.setVReg r v).Sound := h.frame

theorem State.Sound.setP (h : s.Sound) {r : BitVec 3} {v : BitVec 16} : (s.setP r v).Sound := h.frame

theorem CoreMem.Canonical.raise {c : Core} (h : c.mem.Canonical) {f : FpFlags} : (c.raise f).mem.Canonical := h

theorem State.Sound.dissolveGang (h : s.Sound) : s.dissolveGang.Sound := State.Sound.foldl (fun h1 => h1.atCore) h _

theorem State.Sound.waiting (h : s.Sound) {r : WaitReason} {obj : Word} : (s.waiting r obj).Sound := h.frame

theorem State.Sound.setLoop (h : s.Sound) {l : Fin 3} {v : LoopLevel} : (s.setLoop l v).Sound := h.frame

theorem CoreMem.Canonical.useBank {c : Core} (h : c.mem.Canonical) {hand : Bool} : (c.useBank hand).mem.Canonical := .ite h h

theorem State.Sound.goIdle (h : s.Sound) : s.goIdle.Sound := h.frame

theorem State.Sound.enterHandler (h : s.Sound) {cause : Fin 6} : (s.enterHandler cause).Sound :=
  h.leaveGang.withCore h.leaveGang.acting.useBank

theorem State.Sound.done (h : s.Sound) : Keeps s.done := h.finish _

theorem State.Sound.trap (h : s.Sound) {code : BitVec 8} {val val2 : Word} : Keeps (s.trap code val val2) := h.finish _

theorem State.Sound.stay (h : s.Sound) {r : WaitReason} {obj : Word} : Keeps (s.stay r obj) := h.waiting.finish _

theorem State.Sound.illegal (h : s.Sound) {i : Instr} : Keeps (s.illegal i) := h.trap

/-! #### Local memories and pending accesses -/

theorem State.Sound.spadMark (h : s.Sound) {cl : Nat} {full : Bool} {ws : List Nat} : (s.spadMark cl full ws).Sound := h.frame

theorem CoreMem.Canonical.tcmMark {c : Core} (h : c.mem.Canonical) {full : Bool} {ws : List Nat} :
    (c.tcmMark full ws).mem.Canonical :=
  h

theorem State.Sound.drainAtomics (h : s.Sound) : s.drainAtomics.Sound := h.drain _

theorem State.Sound.drainBefore (h : s.Sound) {no : Nat} : (s.drainBefore no).Sound := (h.drain _).loadsDone _

theorem State.Sound.settle (h : s.Sound) {p : Path} {off n : Nat} : (s.settle p off n).Sound := by
  unfold State.settle
  split
  · exact h.drainWords _ _
  · exact h

theorem State.Sound.settleAt (h : s.Sound) {a : Word} {n : Nat} : (s.settleAt a n).Sound := by
  unfold State.settleAt
  split
  · exact h.settle
  · exact h

/-! #### Timed memory as a core sees it -/

theorem State.Sound.countRemote (h : s.Sound) {sh part va key : Nat} : (s.countRemote sh part va key).Sound := by
  unfold State.countRemote
  split
  · exact h
  · exact .ite h h.frame

theorem CoreMem.Canonical.defer {c : Core} (h : c.mem.Canonical) {d : Deferred} : (c.defer d).mem.Canonical := h

theorem State.Sound.defer (h : s.Sound) {cause : BitVec 8} {a : Word} : (s.defer cause a).Sound := h.frame

theorem State.Sound.takeSeq (h : s.Sound) : s.takeSeq.Sound := h.frame

theorem State.Sound.send (h : s.Sound) {t : TStore} : (s.send t).Sound := h.frame

theorem State.Sound.sendTimed (h : s.Sound) {p : Path} {off n : Nat} {t : TStore} : (s.sendTimed p off n t).Sound := by
  unfold State.sendTimed
  split
  · exact .ite h.send h.defer
  · exact h.send

theorem State.Sound.beginRemote (h : s.Sound) {dst : RDst} {a : Word} {width : Nat} {inst : Option Nat} {stat : RStat} :
    (s.beginRemote dst a width inst stat).Sound :=
  h.frame

/-! #### Operands and stream ports -/

theorem CoreMem.Canonical.takeUnit {c : Core} (h : c.mem.Canonical) {i : Fin 4} : (c.takeUnit i).mem.Canonical := by
  unfold Core.takeUnit
  split
  · exact h
  · split <;> exact h

theorem State.Sound.takeUnits (h : s.Sound) {srcs : List RegNo} : (s.takeUnits srcs).Sound := by
  unfold State.takeUnits
  refine .ite ?_ (.ite ?_ h)
  · split
    · refine (State.Sound.ite ?_ h).withCore (State.Sound.ite ?_ h).acting.takeUnit
      · split
        · exact h.withCore h.acting.takeUnit
        · exact h
      · split
        · exact h.withCore h.acting.takeUnit
        · exact h
    · refine .ite ?_ h
      split
      · exact h.withCore h.acting.takeUnit
      · exact h
  · split
    · exact h.withCore h.acting.takeUnit
    · exact h

theorem State.Sound.append (h : s.Sound) {i : Fin 4} {u : VReg} : (s.append i u).Sound := by
  unfold State.append
  split
  · exact h
  · dsimp only
    split
    · exact .ite h.frame.takeSeq.sendTimed h.frame
    · exact h.frame

theorem State.Sound.setV (h : s.Sound) {r : RegNo} {p : BitVec 16} {x : VReg} : (s.setV r p x).Sound := by
  unfold State.setV
  refine .ite ?_ h.setVReg
  split
  · exact h.append
  · exact h

theorem State.Sound.withPorts (h : s.Sound) {srcs dsts : List RegNo} {old : Bool} {f : State → Result} (kf : ∀ {a : State}, a.Sound
    → Keeps (f a)) :
    Keeps (s.withPorts srcs dsts old f) := by
  unfold State.withPorts
  split
  · exact h.finish _
  · split
    · exact h.stay
    · exact kf h

theorem State.Sound.finishV (h : s.Sound) {srcs : List RegNo} {d : RegNo} {p : BitVec 16} {x : VReg} {fl : FpFlags} :
    Keeps (s.finishV srcs d p x fl) :=
  (h.takeUnits.setV.raise _).done

/-! #### Scalar integer instructions -/

theorem State.Sound.setDone (h : s.Sound) {d : RegNo} {v : Word} : Keeps (s.setDone d v) := (h.setG _ _).done

/-! #### Control flow -/

theorem State.Sound.branchIf (h : s.Sound) {taken : Bool} {off : BitVec 12} : Keeps (s.branchIf taken off) :=
  .ite (h.finish _) h.done

theorem State.Sound.pushRas (h : s.Sound) {d : RegNo} : (s.pushRas d).Sound := .ite h h.frame

theorem State.Sound.jumpReg (h : s.Sound) {s' : State} (hs' : s'.Sound) {v : Word} : Keeps (s.jumpReg v s') :=
  .ite h.trap (hs'.finish _)

theorem State.Sound.startLoop (h : s.Sound) {l : Fin 3} {len : Nat} {n rec : Word} : Keeps (s.startLoop l len n rec) :=
  .ite h.trap (.ite (h.frame.setLoop.finish _) (h.frame.setLoop.finish _))

theorem execLoop_keeps (h : s.Sound) {l : BitVec 2} {c : RegNo} {n : BitVec 6} : Keeps (execLoop l c n s) := by
  unfold execLoop
  split
  · exact h.startLoop
  · exact h.illegal

theorem execLoopx_keeps (h : s.Sound) {l : BitVec 2} {c : RegNo} {n : BitVec 6} {x : RegNo} : Keeps (execLoopx l c n x s) := by
  unfold execLoopx
  split
  · exact h.startLoop
  · exact h.illegal

/-! #### Messages -/

theorem State.Sound.sendOn (h : s.Sound) {p : Nat} {m : Message} : (s.sendOn p m).Sound := h.frame

theorem State.Sound.launch_settles (h : s.Sound) {m : Message} : s.Settles (s.launch m) := by
  unfold State.launch
  split
  · exact ⟨h.frame, rfl, rfl, rfl⟩
  split
  · exact h.settles
  split
  · exact h.settles
  · exact ⟨h.frame, rfl, rfl, rfl⟩

theorem State.Sound.launch (h : s.Sound) {m : Message} : (s.launch m).Sound := h.launch_settles.sound

theorem State.Sound.sendAccess (h : s.Sound) {c : Cls} {k key : Nat} : (s.sendAccess c k key).Sound := .ite h h.launch

theorem State.Sound.route_settles (h : s.Sound) {m : Message} : s.Settles (s.route m) := by
  unfold State.route
  split
  · exact ⟨h.frame, rfl, rfl, rfl⟩
  · exact h.launch_settles

theorem State.Sound.route (h : s.Sound) {m : Message} : (s.route m).Sound := h.route_settles.sound

theorem State.Sound.passGates (h : s.Sound) : s.passGates.Sound := State.Sound.foldl (fun h1 => h1.route) h.frame _

theorem State.Sound.post (h : s.Sound) {m : Message} : (s.post m).Sound := by
  unfold State.post
  split
  · exact .ite h.atCore h.route
  · exact h.route

theorem State.Sound.postC0 (h : s.Sound) {src dst : Nat} {b : Body} : (s.postC0 src dst b).Sound := h.post

theorem State.Sound.takeMsg (h : s.Sound) {n : Nat} : (s.takeMsg n).Sound := h.frame

theorem State.Sound.postReport (h : s.Sound) {k ep kind v reason : Nat} : (s.postReport k ep kind v reason).Sound := h.atCore.post

/-! #### Task control blocks -/

theorem State.Sound.onPart (h : s.Sound) {p : Nat} {f : Partition → Partition} : (s.onPart p f).Sound := h.frame

theorem State.Sound.count (h : s.Sound) {p off : Nat} : (s.count p off).Sound := h.onPart

theorem State.Sound.putTcb (h : s.Sound) {t : Tcb} : (s.putTcb t).Sound := h.frame

theorem State.Sound.signalSuccessors (h : s.Sound) {src : Nat} {t : Tcb} {pub : Nat} {poison abort : Bool} :
    (s.signalSuccessors src t pub poison abort).Sound := by
  unfold State.signalSuccessors
  split
  · exact h
  · refine State.Sound.foldl (fun h1 => ?_) h _
    split
    · exact h1
    · exact h1.postC0

theorem State.Sound.placeTask (h : s.Sound) {l : Loaded} {d : NodeDesc} {t : Tcb} : (s.placeTask l d t).Sound := h.frame

theorem State.Sound.writeInline (h : s.Sound) {t : Tcb} {bs : List Byte} : (s.writeInline t bs).Sound := h.frame

theorem State.Sound.release (h : s.Sound) {l : Loaded} {d : NodeDesc} {t : Tcb} : (s.release l d t).Sound := by
  unfold State.release
  refine .ite (State.Sound.ite h.count h).putTcb.signalSuccessors (State.Sound.placeTask ?_)
  split
  · exact (State.Sound.ite h.count h).putTcb.writeInline
  · exact (State.Sound.ite h.count h).putTcb

theorem State.Sound.hold (h : s.Sound) {b : Body} {full : Bool} : (s.hold b full).Sound := h.frame

theorem State.Sound.publishOn (h : s.Sound) {l : Loaded} {d : NodeDesc} {t0 : Tcb} {gen : BitVec 16} {nb : Nat} {inline : Option
    (List Byte)} {reply : Word} :
    (s.publishOn l d t0 gen nb inline reply).Sound :=
  .ite h.count (.ite h.hold (.ite h.count (.ite (State.Sound.ite h.count h).release (State.Sound.ite h.count h).putTcb)))

theorem State.Sound.signalOn (h : s.Sound) {l : Loaded} {d : NodeDesc} {t0 : Tcb} {fresh : Bool} {gen : BitVec 16} {pub : Nat}
    {poison abort : Bool} :
    (s.signalOn l d t0 fresh gen pub poison abort).Sound :=
  .ite h.count (.ite h.hold (.ite h.count (.ite (State.Sound.ite h.count h).release (State.Sound.ite h.count h).putTcb)))

theorem State.Sound.publishTo (h : s.Sound) {part node : Nat} {wid : Word} {gen : BitVec 16} {nb : Nat} {inline : Option (List
    Byte)} {reply : Word} :
    (s.publishTo part node wid gen nb inline reply).Sound := by
  unfold State.publishTo
  split
  · exact h.count
  · split
    · exact h.publishOn
    · exact h.publishOn
    · exact h.count.hold

theorem State.Sound.signalTo (h : s.Sound) {part node : Nat} {wid : Word} {gen : BitVec 16} {pub : Nat} {poison abort : Bool} :
    (s.signalTo part node wid gen pub poison abort).Sound := by
  unfold State.signalTo
  split
  · exact h.count
  · split
    · exact h.signalOn
    · exact h.signalOn
    · exact h.count.hold

theorem State.Sound.applyRecord (h : s.Sound) {b : Body} : (s.applyRecord b).Sound := by
  unfold State.applyRecord
  split
  · exact h.publishTo
  · exact h.signalTo
  · exact h

theorem State.Sound.applyTaskRecord (h : s.Sound) {part : Option Nat} {bs : List Byte} {window : Option Nat} :
    (s.applyTaskRecord part bs window).Sound := by
  unfold State.applyTaskRecord
  split
  · exact h
  · exact .ite h.count h.applyRecord

theorem State.Sound.retireTcb (h : s.Sound) {t : Tcb} {pub : Nat} {poison : Bool} : (s.retireTcb t pub poison).Sound := h.putTcb

theorem State.Sound.rerelease (h : s.Sound) {t : Tcb} : (s.rerelease t).Sound := by
  unfold State.rerelease
  split
  · exact h
  · exact h.putTcb.placeTask

theorem State.Sound.abortTask (h : s.Sound) {t : Tcb} : (s.abortTask t).Sound := h.retireTcb.signalSuccessors

theorem State.Sound.raiseVector (h : s.Sound) {v : Nat} : (s.raiseVector v).Sound := h.frame

theorem State.Sound.markHeld (h : s.Sound) {t : Tcb} : (s.markHeld t).Sound := h.putTcb.onPart.raiseVector

theorem State.Sound.applyPolicy (h : s.Sound) {t : Tcb} {cause : BitVec 8} {passed : Bool} :
    (s.applyPolicy t cause passed).Sound := by
  unfold State.applyPolicy
  split
  · exact h.markHeld
  · refine .ite (State.Sound.ite h.count h).abortTask (.ite (State.Sound.ite h.count h).rerelease ?_)
    split
    · exact .ite (State.Sound.ite h.count h).rerelease (State.Sound.ite h.count h).markHeld
    · exact (State.Sound.ite h.count h).retireTcb.signalSuccessors
    · exact (State.Sound.ite h.count h).abortTask
    · exact (State.Sound.ite h.count h).markHeld

theorem State.Sound.commandIgnored (h : s.Sound) {part : Nat} {b : Bool} : (s.commandIgnored part b).Sound := h.onPart

theorem State.Sound.ownerCommand (h : s.Sound) {part : Nat} {tok : Word} {act : State → Tcb → State} {mark : Tcb → Tcb} (kact : ∀
    {a : State}, a.Sound → ∀ {a_1 : Tcb}, (act a a_1).Sound) :
    (s.ownerCommand part tok act mark).Sound := by
  unfold State.ownerCommand
  split
  · exact .ite h.commandIgnored (.ite h.commandIgnored.putTcb (kact h.commandIgnored))
  · split
    · exact h.commandIgnored.putTcb
    · exact h.commandIgnored

theorem State.Sound.drel (h : s.Sound) {part : Nat} {tok : Word} : (s.drel part tok).Sound :=
  h.ownerCommand (fun h1 => h1.rerelease)

theorem State.Sound.dabort (h : s.Sound) {part : Nat} {tok : Word} : (s.dabort part tok).Sound :=
  h.ownerCommand (fun h1 => h1.abortTask)

theorem State.Sound.resumeOwners (h : s.Sound) : s.resumeOwners.Sound :=
  State.Sound.foldl (fun h1 => .ite h1.abortTask (.ite h1.rerelease h1)) h _

theorem State.Sound.dheld (h : s.Sound) {part : Nat} : (s.dheld part).2.Sound := by
  unfold State.dheld
  split
  · exact h
  · exact h.putTcb

/-! #### Ready queues -/

theorem State.Sound.ageAll (h : s.Sound) : s.ageAll.Sound := h.frame

theorem CoreMem.Canonical.startValues {c : Core} (h : c.mem.Canonical) : c.startValues.mem.Canonical := h

theorem CoreMem.Canonical.requestCode {c : Core} (h : c.mem.Canonical) {frame uid : Nat} :
    (c.requestCode frame uid).mem.Canonical :=
  .ite h h.setFrame

theorem State.Sound.stageImage (h : s.Sound) {k part image : Nat} : (s.stageImage k part image).Sound := by
  unfold State.stageImage
  exact (State.Sound.foldl (fun h1 => .ite h1 (.ite (h1.atCore (fun h2 => h2.tcmWrite _)) (h1.spadWrite _ _))) h _).onDisp _

theorem State.Sound.startTask (h : s.Sound) {k : Nat} {l : Loaded} {d : NodeDesc} {t : Tcb} : (s.startTask k l d t).Sound := by
  unfold State.startTask
  split
  · exact h.putTcb.stageImage
  · refine h.putTcb.stageImage.atCore fun m => CoreMem.Canonical.requestCode ?_
    exact m

theorem State.Sound.adopt (h : s.Sound) {k : Nat} {c : Cont} : (s.adopt k c).Sound :=
  .ite h (.ite h.atCore (h.atCore.onTimed _ rfl))

theorem State.Sound.resumeCont (h : s.Sound) {k : Nat} {c : Cont} : (s.resumeCont k c).Sound := by
  unfold State.resumeCont
  extract_lets s1
  have h1 : s1.Sound := by
    unfold s1
    split
    · exact h.putTcb
    · exact h
  split
  · exact h1.atCore.adopt
  · extract_lets s2 loaded
    have h2 : s2.Sound := h1.stageImage
    split
    · exact h2.atCore.adopt
    · refine State.Sound.adopt (h2.atCore fun m => CoreMem.Canonical.requestCode ?_)
      exact m

theorem State.Sound.runRecord (h : s.Sound) {k : Nat} {r : QRec} : (s.runRecord k r).Sound := by
  unfold State.runRecord
  split
  · exact h.resumeCont
  · split
    · exact h.startTask
    · exact h

/-! #### Contexts leaving a core -/

theorem State.Sound.fenced (h : s.Sound) {r : Scope} : (s.fenced r).Sound := .ite h h.drainAll

theorem State.Sound.freeCore {s0 : State} (h : s0.Sound) : s0.freeCore.Sound := (h.withCore h.acting.useBank).goIdle.frame

theorem State.Sound.parkContext {s0 : State} (h : s0.Sound) {code : BitVec 8} {obj mask : Word} :
    (s0.parkContext code obj mask).Sound := by
  unfold State.parkContext
  dsimp only
  split
  · exact h.leaveGang.drainAtomics.freeCore
  · refine (State.Sound.onDisp ?_ _).freeCore
    split
    · exact h.leaveGang.drainAtomics.putTcb
    · exact h.leaveGang.drainAtomics

theorem State.Sound.retireContext {s0 : State} (h : s0.Sound) : s0.retireContext.Sound := by
  unfold State.retireContext
  dsimp only
  split
  · exact h.leaveGang.freeCore
  · split
    · exact h.leaveGang.freeCore
    · exact (State.Sound.ite h.leaveGang.signalSuccessors.postReport h.leaveGang.signalSuccessors).retireTcb.freeCore

theorem State.Sound.performLeave (h : s.Sound) {l : Leave} : (s.performLeave l).Sound := by
  unfold State.performLeave
  split
  · exact h.frame.advancePc.parkContext
  · exact h.frame.advancePc.parkContext
  · exact h.frame.advancePc.retireContext

theorem State.Sound.finishLeave (h : s.Sound) {l : Leave} : (s.finishLeave l).Sound := .ite h.frame h.performLeave

theorem State.Sound.endContext {s0 : State} (h : s0.Sound) {cause : BitVec 8} : (s0.endContext cause).Sound := by
  unfold State.endContext
  dsimp only
  split
  · exact h.drainAtomics
  · refine State.Sound.onTimed ?_ _ rfl
    split
    · exact h.drainAtomics.frame.retireTcb
    · exact h.drainAtomics.frame

/-! #### Homes and replies -/

theorem applyAtomics_wf {m : Memory} (w : m.wf = true) (ts : List TStore) : (applyAtomics m ts).1.wf = true := by
  induction ts generalizing m with
  | nil => exact w
  | cons t ts ih =>
    unfold applyAtomics
    split
    · exact ih w
    · exact ih (Memory.wf_writeN _ _ w)

theorem State.Sound.tellPart (h : s.Sound) {home device core : Nat} {b : Body} : (s.tellPart home device core b).Sound := h.route

theorem State.Sound.countTie_settles (h : s.Sound) {sorted : List TStore} {t : TStore} : s.Settles (s.countTie sorted t) := by
  unfold State.countTie
  split
  · exact h.settles
  · have counted {f : Timed → Assoc Word} : s.Settles (s.onTimed (fun m => { m with tieCount := f m })) := ⟨h.frame, rfl, rfl, rfl⟩
    dsimp only
    split
    · exact counted
    · split
      · exact ⟨h.frame, rfl, rfl, rfl⟩
      · exact counted.trans counted.sound.route_settles

/-- A change of a core's engines. -/
theorem State.Sound.onCore_eng_settles (h : s.Sound) (k : Nat) (f : Core → Engines) :
    s.Settles (s.onCore k (fun c => { c with eng := f c })) := by
  refine ⟨h.atCore, ?_, ?_, ?_⟩ <;> unfold State.onCore State.putCore <;> split
  next e =>
    have acting : s.coreAt k = s.core := if_pos ((h.numbered k).symm.trans e)
    rw [acting]
    rfl
  all_goals rfl

theorem State.Sound.answerAtomic_settles (h : s.Sound) {a : AtomOp} {old : List Byte} {f : FpFlags} :
    s.Settles (s.answerAtomic a old f) := h.onCore_eng_settles a.core _

theorem State.Sound.answerParked (h : s.Sound) {a : AtomOp} {old : List Byte} {f : FpFlags} : (s.answerParked a old f).Sound :=
  h.frame

theorem State.Sound.answer (h : s.Sound) {device core tag : Nat} {bs : List Byte} {cause : BitVec 8} :
    (s.answer device core tag bs cause).Sound :=
  h.route

theorem State.Sound.replyAtomic_settles (h : s.Sound) {t : TStore} {a : AtomOp} {old : List Byte} {f : FpFlags} :
    s.Settles (s.replyAtomic t a old f) := by
  unfold State.replyAtomic
  split
  · have answered : s.Settles (s.answerAtomic a old f) := h.answerAtomic_settles
    exact answered.trans ⟨answered.sound.answerParked, rfl, rfl, rfl⟩
  · exact h.route_settles

/-- The due plain stores of this part, in the order of their keys. -/
def Timed.duePlain (m : Timed) (inst : Nat) : List TStore :=
  (sortBy TStore.key ((m.tense.filter (fun t => decide (t.vis = inst))).filter (fun t => t.atomic.isNone))).filter (fun t => ownKey t.base)

/-- The due atomics of this part, in their order. -/
def Timed.dueAtomics (m : Timed) (inst : Nat) : List TStore :=
  sortBy TStore.rank ((m.tense.filter (fun t => decide (t.vis = inst))).filter (fun t => t.atomic.isSome && ownKey t.base))

/-- What the homes make of what was visible before an instant (R73). -/
def Timed.applied (m : Timed) (inst : Nat) : Memory :=
  (applyAtomics ((m.duePlain inst).foldl (fun v t => v.writeAll t.bytesAt) (m.visible inst)) (m.dueAtomics inst)).1

/-- The homes apply an instant: the view stays, what is due leaves the homes, and becomes a version if there is any; then the
ties are counted and the atomics answered. -/
theorem State.Sound.applyInstant_settles (h : s.Sound) {inst : Nat} (e : inst = s.dev.now) :
    ∃ u : State, u.Settles (s.applyInstant inst) ∧ u.boundaryView = s.boundaryView ∧
      u.dev.timed.tense = s.dev.timed.tense.filter (fun t => decide (t.vis ≠ inst)) ∧
      u.dev.timed.versions =
        if (s.dev.timed.tense.filter (fun t => decide (t.vis = inst))).isEmpty then s.dev.timed.versions
        else (inst, s.dev.timed.applied inst) :: s.dev.timed.versions := by
  subst e
  unfold State.applyInstant
  extract_lets m due all plain atoms v0 v1 r far lines late now s1 s2 s3
  have wf : (s.dev.timed.applied s.dev.now).wf = true :=
    applyAtomics_wf (Memory.wf_foldl (fun w => Memory.wf_writeAll _ w) (h.visible s.dev.now) _) _
  have h1 : s1.Sound := by
    by_cases d : due.isEmpty
    · exact h.frame (v := if_pos d)
    · exact h.newVersion wf (if_neg d)
  have h2 : s1.Settles s2 := h1.foldl_settles (fun h => h.countTie_settles) all
  have h3 : s2.Settles s3 := h2.sound.foldl_settles (fun h => h.replyAtomic_settles) r.2
  refine ⟨s1, h2.trans (h3.trans (h3.sound.foldl_settles (fun h => ?_) _)), rfl, rfl, rfl⟩
  split
  · exact h.replyAtomic_settles
  · exact h.settles

theorem State.Sound.applyInstant (h : s.Sound) {inst : Nat} (e : inst = s.dev.now) : (s.applyInstant inst).Sound := by
  obtain ⟨u, settled, -⟩ := h.applyInstant_settles e
  exact settled.sound

theorem State.Sound.tellCore (h : s.Sound) {t : TStore} {key : Nat} {late dropped : Bool} :
    (s.tellCore t key late dropped).Sound := by
  unfold State.tellCore
  refine .ite h ?_
  split
  · exact h.frame
  · exact .ite h.tellPart.tellPart h.tellPart

theorem State.Sound.acceptStore (h : s.Sound) {t : TStore} {key : Nat} : (s.acceptStore t key).Sound := h.frame.tellCore

theorem State.Sound.setRemote (h : s.Sound) {k tag : Nat} {st : RStat} : (s.setRemote k tag st).Sound := by
  unfold State.setRemote
  split
  · exact h.atCore
  · exact h.frame

theorem State.Sound.writeReply (h : s.Sound) {d : RDst} {hand : Bool} {width : Nat} {bs : List Byte} :
    (s.writeReply d hand width bs).Sound := by
  unfold State.writeReply
  split
  · exact h.writeScalar _ _ _
  · exact h.writeScalar _ _ _
  · exact h.setVReg
  · split
    · exact h.append
    · exact h

theorem State.Sound.addStride (h : s.Sound) {r : Remote} : (s.addStride r).Sound := by
  unfold State.addStride
  split
  · exact .ite h (h.writeScalar _ _ _)
  · exact h

theorem State.Sound.replyHere (h : s.Sound) {r : Remote} : (s.replyHere r).Sound := by
  unfold State.replyHere
  split
  · exact h.frame.writeReply.addStride.raise _
  · exact (State.Sound.ite h.frame h.frame).addStride
  · exact h

theorem CoreMem.Canonical.pendCause {c : Core} (h : c.mem.Canonical) {i : Fin 6} {v : Word} : (c.pendCause i v).mem.Canonical :=
  .ite h h

theorem CoreMem.Canonical.lateReport {c : Core} (h : c.mem.Canonical) {r : Report} : (c.lateReport r).mem.Canonical := by
  unfold Core.lateReport
  refine .ite (CoreMem.Canonical.pendCause ?_) h
  exact h

theorem State.Sound.onParked (h : s.Sound) {run : Nat} {f : Cont → Cont} : (s.onParked run f).Sound := h.frame

theorem State.Sound.deferTask (h : s.Sound) {run : Nat} {d : Deferred} : (s.deferTask run d).Sound := by
  unfold State.deferTask
  split
  · exact h.atCore
  · exact h.onParked

theorem State.Sound.lateDrop (h : s.Sound) {r : Report} : (s.lateDrop r).Sound := .ite h.deferTask h

theorem CoreMem.Canonical.tieReport {c : Core} (h : c.mem.Canonical) {r : Report} : (c.tieReport r).mem.Canonical := by
  unfold Core.tieReport
  refine .ite (CoreMem.Canonical.pendCause ?_) h
  exact h

theorem State.Sound.broadcast (h : s.Sound) {t : Nat} : (s.broadcast t).Sound := .ite h h.frame

/-! #### Receive queues and splices -/

theorem State.Sound.localWrite (h : s.Sound) {k : Nat} {tcm : Bool} {bs : List (Nat × Byte)} : (s.localWrite k tcm bs).Sound :=
  .ite (h.atCore (fun h1 => h1.tcmWrite _)) (h.spadWrite _ _)

theorem State.Sound.localMark (h : s.Sound) {k : Nat} {tcm full : Bool} {ws : List Nat} : (s.localMark k tcm full ws).Sound :=
  .ite h.atCore h.spadMark

theorem State.Sound.niStore (h : s.Sound) {k : Nat} {a : Word} {bs : List Byte} : (s.niStore k a bs).Sound := h.atCore.send

theorem State.Sound.niWrite (h : s.Sound) {k : Nat} {a : Word} {bs : List Byte} : (s.niWrite k a bs).Sound := by
  unfold State.niWrite
  split
  · exact h.localWrite
  · exact h.localWrite
  · exact State.Sound.foldl (fun h1 => h1.niStore) h _

theorem State.Sound.onQueue (h : s.Sound) {k : Nat} {q : Fin 8} {f : Queue → Queue} : (s.onQueue k q f).Sound := h.atCore

theorem State.Sound.refill (h : s.Sound) {k n : Nat} {q : Fin 8} : (State.refill k q n s).Sound := by
  induction n generalizing s with
  | zero => exact h
  | succ n ih =>
    unfold State.refill
    dsimp only
    split
    · exact h
    · exact .ite (ih h.onQueue) h

theorem State.Sound.drainRing (h : s.Sound) {k : Nat} {q : Fin 8} : (s.drainRing k q).Sound := .ite h h.refill

theorem State.Sound.emptyRing (h : s.Sound) {k n : Nat} {q : Fin 8} {t : State} (e : State.emptyRing k q n s = some t) : t.Sound := by
  induction n generalizing s with
  | zero => cases e; exact h
  | succ n ih =>
    unfold State.emptyRing at e
    dsimp only at e
    split at e
    · cases e; exact h
    · split at e
      · exact ih h.onQueue e
      · cases e

theorem State.Sound.enqueue (h : s.Sound) {k : Nat} {q : Fin 8} {r : Record} : (s.enqueue k q r).Sound :=
  .ite ((State.Sound.ite h.onQueue h.niWrite.onQueue).atCore (fun h1 => h1.pendCause)) (.ite h.onQueue h.niWrite.onQueue)

theorem State.Sound.deliver (h : s.Sound) {k : Nat} {q : Fin 8} {r : Record} : (s.deliver k q r).Sound :=
  .ite h.onQueue.postC0 h.enqueue

theorem State.Sound.postSource (h : s.Sound) {k src : Nat} {b : Body} : (s.postSource k src b).Sound := h.post

theorem State.Sound.reportSeam (h : s.Sound) {k : Nat} {q : Fin 8} {src : Nat} : (s.reportSeam k q src).Sound := h.atCore.postSource

theorem State.Sound.arrive (h : s.Sound) {k : Nat} {q : Fin 8} {r : Record} : (s.arrive k q r).Sound :=
  .ite h.deliver (.ite (.ite h.deliver (.ite h.onQueue.deliver.reportSeam h.onQueue)) h.onQueue.deliver)

theorem State.Sound.seamAt (h : s.Sound) {k : Nat} {q : Fin 8} {src : Nat} : (s.seamAt k q src).Sound :=
  .ite h.onQueue (State.Sound.foldl (fun h1 => h1.reportSeam) (State.Sound.foldl (fun h1 => h1.deliver) h.onQueue _) _)

theorem State.Sound.stage (h : s.Sound) {k : Nat} {m : Message} : (s.stage k m).Sound := h.atCore

theorem State.Sound.emitRecord (h : s.Sound) {k : Nat} {r : Fin 4} {payload : List Byte} {len : Nat} {kind : BitVec 3} :
    (s.emitRecord k r payload len kind).Sound := by
  unfold State.emitRecord
  dsimp only
  split
  · exact h
  · exact h.atCore.stage

theorem State.Sound.emitSeam (h : s.Sound) {k : Nat} {r : Fin 4} : (s.emitSeam k r).Sound := by
  unfold State.emitSeam
  split
  · exact h
  · exact h.stage

theorem State.Sound.emitAll (h : s.Sound) {k : Nat} {payload : List Byte} {kind : BitVec 3} : (s.emitAll k payload kind).Sound :=
  State.Sound.foldl (fun h1 => h1.emitRecord) h _

theorem State.Sound.popSplice (h : s.Sound) {k : Nat} {serial : BitVec 32} : (s.popSplice k serial).Sound := by
  unfold State.popSplice
  refine State.Sound.foldl (fun h1 => ?_) h _
  split
  · exact .ite h1.onQueue.drainRing h1
  · exact h1

theorem State.Sound.abortTaskNow (h : s.Sound) {run : Nat} : (s.abortTaskNow run).Sound := by
  unfold State.abortTaskNow
  split
  · exact (h.actAs _).endContext.freeCore.actAs _
  · split
    · exact h
    · refine State.Sound.onTimed ?_ _ rfl
      split
      · exact h.frame.atCore.retireTcb
      · exact h.frame.atCore

theorem State.Sound.abortPlaced (h : s.Sound) {k run queue : Nat} : (s.abortPlaced k run queue).Sound := by
  unfold State.abortPlaced
  exact h.abortTaskNow.atCore

theorem State.Sound.failSplice (h : s.Sound) {k : Nat} {r : Record} {reason : Nat} : (s.failSplice k r reason).Sound := by
  unfold State.failSplice
  refine (State.Sound.popSplice ?_).emitAll.postReport
  split
  · split
    · exact h.abortPlaced
    · exact h
  · exact h

theorem State.Sound.commitInsert (h : s.Sound) {k : Nat} {r : Record} {placed : Nat} : (s.commitInsert k r placed).Sound :=
  h.emitSeam.atCore.atCore.postReport

theorem State.Sound.commitElide (h : s.Sound) {k : Nat} {p : Prep} : (s.commitElide k p).Sound := by
  unfold State.commitElide
  exact h.postSource.atCore

theorem State.Sound.commitRebind (h : s.Sound) {k : Nat} {r : Record} : (s.commitRebind k r).Sound := h.atCore.postReport

theorem State.Sound.commitSplice (h : s.Sound) {k : Nat} {p : Prep} : (s.commitSplice k p).Sound := by
  unfold State.commitSplice
  split
  · exact h.popSplice.commitInsert
  · exact h.popSplice.commitElide
  · exact h.popSplice.commitRebind

theorem State.Sound.takeBlock (h : s.Sound) {k off : Nat} {bs : List Byte} : (s.takeBlock k off bs).Sound :=
  h.localMark.localWrite.localMark

theorem State.Sound.finishElide (h : s.Sound) {k : Nat} {p : Prep} : (s.finishElide k p).Sound := by
  unfold State.finishElide
  refine (State.Sound.emitSeam ?_).atCore
  split
  · exact .ite h (.ite h.takeBlock h.post)
  · exact h

/-! #### Engines -/

theorem State.Sound.roPut (h : s.Sound) {sh key : Nat} {line : List Byte} : (s.roPut sh key line).Sound := h.frame

theorem State.Sound.noteRead (h : s.Sound) {r : Reader} {a : Word} {inst : Nat} : (s.noteRead r a inst).Sound := by
  unfold State.noteRead
  split
  · split
    · exact h.countRemote.sendAccess
    · exact h
  · split
    · refine .ite h ?_
      split
      · exact h.countRemote.roPut.sendAccess
      · exact h
    · exact h
  · exact h

theorem State.Sound.noteReadN (h : s.Sound) {r : Reader} {a : Word} {inst n : Nat} : (s.noteReadN r a inst n).Sound :=
  State.Sound.foldl (fun h1 => h1.noteRead) h _

theorem State.Sound.forReader (h : s.Sound) {r : Reader} {run : State → State} {park : Cont → Cont} (krun : ∀ {a : State}, a.Sound
    → (run a).Sound) :
    (s.forReader r run park).Sound := by
  unfold State.forReader
  refine .ite ?_ (.ite (krun h) h)
  split
  · exact h.asOther (fun h1 => krun h1)
  · exact h.onParked

theorem State.Sound.deferFor (h : s.Sound) {r : Reader} {d : Deferred} : (s.deferFor r d).Sound := h.forReader (fun h1 => h1.frame)

theorem State.Sound.raiseFor (h : s.Sound) {r : Reader} {f : FpFlags} : (s.raiseFor r f).Sound := h.forReader (fun h1 => h1.raise _)

theorem State.Sound.dropCopy (h : s.Sound) {tag : Nat} : (s.dropCopy tag).Sound := h.frame

theorem State.Sound.finishCopy (h : s.Sound) {x : Copy} : (s.finishCopy x).Sound :=
  .ite (h.dropCopy.raiseFor.withCore h.dropCopy.raiseFor.acting.pendCause) h.dropCopy.raiseFor

theorem State.Sound.clearFor (h : s.Sound) {x : Copy} : (s.clearFor x).Sound := by
  unfold State.clearFor
  refine .ite ?_ h
  split
  · exact h.localMark
  · exact h

theorem State.Sound.acceptCopy (h : s.Sound) {x : Copy} : (s.acceptCopy x).Sound := .ite h.clearFor.finishCopy (h.clearFor.onEng _)

theorem State.Sound.setCopy (h : s.Sound) {x : Copy} : (s.setCopy x).Sound := h.frame

theorem State.Sound.abandonCopy (h : s.Sound) {x : Copy} {cause : BitVec 8} {a : Word} : (s.abandonCopy x cause a).Sound :=
  h.setCopy.deferFor

theorem State.Sound.dropFailed (h : s.Sound) {d : Deferred} : (s.dropFailed d).Sound := by
  unfold State.dropFailed
  split
  · exact h.frame
  · exact h

theorem State.Sound.beforeCopy (h : s.Sound) {x : Copy} : (s.beforeCopy x).Sound := by
  unfold State.beforeCopy
  split
  · exact .ite h h.drainBefore
  · exact h

theorem State.Sound.copyRead {s0 : State} (h : s0.Sound) {x : Copy} {w : Nat} : (s0.copyRead x w).Sound := by
  unfold State.copyRead
  refine .ite h ?_
  split
  · exact h
  · exact h.beforeCopy.noteRead.abandonCopy
  · exact h.beforeCopy.noteRead.setCopy

theorem State.Sound.copyLocal (h : s.Sound) {k : Nat} {tcm : Bool} {bs : List (Nat × Byte)} : (s.copyLocal k tcm bs).Sound :=
  .ite (h.atCore (fun h1 => h1.tcmWrite _)) h.localWrite

theorem State.Sound.copyWrite (h : s.Sound) {x : Copy} {w : Nat} {bs : List Byte} : (s.copyWrite x w bs).Sound := by
  unfold State.copyWrite
  split
  · exact .ite h.abandonCopy (h.drain _).copyLocal.localMark.setCopy
  · dsimp only
    split
    · exact .ite h.abandonCopy h.send.setCopy
    · exact h.send.setCopy

theorem State.Sound.copyWord (h : s.Sound) {x : Copy} {w : Nat} : (s.copyWord x w).Sound := by
  unfold State.copyWord
  refine .ite h ?_
  split
  · exact h.copyWrite
  · dsimp only
    split
    · exact h
    · exact h.beforeCopy.noteRead.abandonCopy
    · exact h.beforeCopy.noteRead.copyWrite

theorem State.Sound.finishWritten (h : s.Sound) : s.finishWritten.Sound := State.Sound.foldl (fun h1 => h1.finishCopy) h _

theorem State.Sound.squashCopies (h : s.Sound) : s.squashCopies.Sound := h.finishWritten.frame

theorem State.Sound.reissue {s0 : State} (h : s0.Sound) : s0.reissue.Sound := by
  unfold State.reissue
  exact (State.Sound.foldl (fun h1 => h1.clearFor) h _).onEng _

theorem State.Sound.fetchUnit (h : s.Sound) {i : Fin 4} : (s.fetchUnit i).Sound := by
  unfold State.fetchUnit
  split
  · exact h
  · refine .ite h (.ite h ?_)
    split
    · exact h
    · exact h.frame.noteRead
    · exact h.frame.noteRead

theorem State.Sound.performAppend (h : s.Sound) {i : Fin 4} : (s.performAppend i).Sound := by
  unfold State.performAppend
  split
  · exact h
  · split
    · exact h
    · refine .ite h.frame.deferFor ?_
      split
      · exact h.frame.localWrite.localMark
      · exact h.frame.localWrite.localMark
      · exact h.frame

theorem State.Sound.unbind (h : s.Sound) {i : Fin 4} : (s.unbind i).Sound := by
  unfold State.unbind
  split
  · exact h
  · exact h.frame

theorem State.Sound.noteTable (h : s.Sound) {l : TabLoad} {n : Nat} : (s.noteTable l n).Sound := .ite h h.noteReadN

theorem State.Sound.completeDtld (h : s.Sound) : s.completeDtld.Sound := by
  unfold State.completeDtld
  split
  · exact h
  · split
    · exact h
    · exact h.frame.deferFor
    · exact h.noteTable.onEng _

theorem State.Sound.completeSegld (h : s.Sound) : s.completeSegld.Sound := by
  unfold State.completeSegld
  split
  · exact h
  · split
    · exact h
    · exact h.frame.deferFor
    · exact h.noteTable.onEng _

theorem CoreMem.Canonical.fillFrame {c : Core} (h : c.mem.Canonical) {f : Nat} {seg : Option Nat} {bs : List Byte} :
    (c.fillFrame f seg bs).mem.Canonical := (h.writeIm _ _).setFrame

theorem State.Sound.landClause (h : s.Sound) {f c : Nat} : (s.landClause f c).Sound := by
  have write (bs : List Byte) (v : Frame) : (s.onMem (fun m => { m with im := m.im.writeN (f * 4096 + 8 * c) bs }.setFrame f v)).Sound :=
    h.onMem _ fun m => (m.writeIm _ _).setFrame
  unfold State.landClause
  split
  · refine .ite h (.ite h ?_)
    split
    · exact write _ _
    · split
      · exact (write _ _).noteReadN
      · exact h
  · exact h

theorem State.Sound.completeFetch (h : s.Sound) {f : Nat} : (s.completeFetch f).Sound := by
  unfold State.completeFetch
  split
  · split
    · exact .ite h (h.withCore h.acting.fillFrame)
    · split
      · exact h
      · exact h.onMem _ (fun h1 => h1.setFrame)
      · exact (h.withCore h.acting.fillFrame).noteReadN
  · exact h

/-! #### Page tables, moves and voltage domains -/

theorem State.Sound.setShReg (h : s.Sound) {sh off : Nat} {v : Word} : (s.setShReg sh off v).Sound := h.frame

theorem State.Sound.commandStatus (h : s.Sound) {sh off : Nat} {reason : Option Nat} : (s.commandStatus sh off reason).Sound := by
  unfold State.commandStatus
  split <;> exact h.setShReg

/-- Frames cleared in every version of the history (R293). -/
theorem State.Sound.clearFrames (h : s.Sound) {first n : Nat} : (s.clearFrames first n).Sound := by
  obtain ⟨hp, hle⟩ := h.history
  refine h.withHistory ?_ ⟨?_, ?_⟩ h.clock
  · exact List.forall_mem_map.mpr fun v hv => Memory.wf_filter _ (h.versions v hv)
  · exact List.pairwise_map.mpr hp
  · exact List.forall_mem_map.mpr hle

@[simp] theorem State.clearFrames_now (s : State) (first n : Nat) : (s.clearFrames first n).dev.now = s.dev.now := rfl

theorem State.Sound.startMap (h : s.Sound) {part sh : Nat} {v : Word} : (s.startMap part sh v).Sound := by
  have mapped {m : Memory} (w : m.wf = true) (b : List MapCmd) :
      (s.onDev (fun d => { d with trans := { d.trans with ptab := m, busy := b } })).Sound := h.withTables w
  unfold State.startMap
  split
  · exact h
  · dsimp only
    split
    · exact h
    · refine .ite (State.Sound.clearFrames (mapped (Memory.wf_writeN _ _ ?_) _)) (mapped (Memory.wf_writeN _ _ ?_) _)
      all_goals
        split
        · exact Memory.wf_writeN _ _ h.tables
        · exact h.tables

theorem State.Sound.tmCommand (h : s.Sound) {part : Option Nat} {sh : Nat} {v : Word} : (s.tmCommand part sh v).Sound := by
  unfold State.tmCommand
  split
  · exact h.commandStatus
  · exact h.commandStatus.startMap

theorem State.Sound.tmComplete (h : s.Sound) {sh : Nat} : (s.tmComplete sh).Sound := h.frame

theorem State.Sound.startMove (h : s.Sound) {sh part va frame inst : Nat} : (s.startMove sh part va frame inst).Sound := by
  unfold State.startMove
  split
  · exact h
  · split
    exact h.frame

theorem State.Sound.pmCommand (h : s.Sound) {part : Option Nat} {sh : Nat} {v : Word} : (s.pmCommand part sh v).Sound := by
  unfold State.pmCommand
  refine .ite h ?_
  split
  · split
    · exact h.commandStatus
    · exact h.commandStatus.startMove
  · dsimp only
    split
    · exact h.commandStatus
    · exact h.commandStatus.startMove

theorem State.Sound.onRemotes (h : s.Sound) {f : Remote → Remote} : (s.onRemotes f).Sound :=
  (h.everyCore (f := fun c => { c with eng := { c.eng with remote := c.eng.remote.map f } })).frame

/-- A page carried to its new frame makes a version of the instant that begins (R296). -/
theorem State.Sound.carryPage (h : s.Sound) {m : Move} (e : m.inst = s.dev.now) : (s.carryPage m).Sound := by
  refine State.Sound.onDev (State.Sound.onRemotes (h.newVersion (m := Memory.writeAll
    ((s.dev.timed.visible m.inst).filter (fun b => !m.inNew b.1))
    (((s.dev.timed.visible (m.inst - 1)).filter (fun b => m.inOld b.1)).map (fun b => (m.carried b.1, b.2)))) ?_ ?_)) _ rfl rfl rfl rfl rfl
  · exact Memory.wf_writeAll _ (Memory.wf_filter _ (h.visible _))
  · rw [← e]
    rfl

@[simp] theorem State.carryPage_now (s : State) (m : Move) : (s.carryPage m).dev.now = s.dev.now := rfl

theorem foldl_carryPage (ms : List Move) (h : s.Sound) (e : ∀ m ∈ ms, m.inst = s.dev.now) :
    (ms.foldl (fun s m => s.carryPage m) s).Sound ∧ (ms.foldl (fun s m => s.carryPage m) s).dev.now = s.dev.now := by
  induction ms generalizing s with
  | nil => exact ⟨h, rfl⟩
  | cons m ms ih =>
    obtain ⟨em, ems⟩ := List.forall_mem_cons.mp e
    exact ih (h.carryPage em) ems

/-- The pages of an instant that begins are carried in the instant. -/
theorem State.Sound.carryPages (h : s.Sound) : (s.carryPages s.dev.now).Sound ∧ (s.carryPages s.dev.now).dev.now = s.dev.now :=
  foldl_carryPage _ h fun _ hm => of_decide_eq_true (List.mem_filter.mp hm).2

theorem State.Sound.onMove (h : s.Sound) {n : Nat} {f : Move → Move} : (s.onMove n f).Sound := by
  unfold State.onMove
  split
  · exact h
  · exact h.frame

theorem State.Sound.endMove (h : s.Sound) {n : Nat} {m : Move} : (s.endMove n m).Sound := by
  unfold State.endMove
  extract_lets e e' s1
  have renamed : s1.Sound := h.withTables (Memory.wf_writeN _ _ h.tables)
  exact renamed.clearFrames.onTimed _ rfl

theorem State.Sound.setDomain (h : s.Sound) {v : VoltDomain} : (s.setDomain v).Sound := h.frame

theorem State.Sound.vdRequest (h : s.Sound) {part : Option Nat} {sh : Nat} {w : Word} : (s.vdRequest part sh w).Sound := by
  unfold State.vdRequest
  split
  · exact h
  · exact .ite h.setDomain (.ite h.setDomain h.setDomain)

theorem State.Sound.vdDrained (h : s.Sound) {sh d : Nat} : (s.vdDrained sh d).Sound := .ite h.setDomain h

theorem State.Sound.openGate (h : s.Sound) {sh d : Nat} : (s.openGate sh d).Sound :=
  (State.Sound.frame (h.everyCore (f := fun c => { c with eng := { c.eng with
    remote := c.eng.remote.map (fun r => if s.inDomain sh d c.id then { r with gate := false } else r) } }))).passGates

theorem State.Sound.vdSwitched (h : s.Sound) {sh d : Nat} : (s.vdSwitched sh d).Sound := by
  unfold State.vdSwitched
  refine .ite h ?_
  split
  · exact h.setDomain.openGate.setDomain
  · exact h.setDomain.openGate

/-! #### Images and moves of contexts -/

/-- The cells of a range of DRAM are a canonical memory. -/
theorem State.Sound.dramCells_wf (h : s.Sound) (phys n : Nat) : (s.dramCells phys n).wf = true := by
  refine Memory.wfFrom_map (g := fun a => a - dramKey phys) (Memory.wf_filter _ (h.visible s.dev.now)) (fun _ _ => Nat.zero_le _)
    fun e he d _ l => ?_
  have low := of_decide_eq_true (List.mem_filter.mp he).2
  exact Nat.sub_lt_sub_right low.1 l

theorem State.dramCells_lt (s : State) (phys n : Nat) : ∀ e ∈ s.dramCells phys n, e.1 < n := by
  refine List.forall_mem_map.mpr fun e he => ?_
  have in_range := of_decide_eq_true (List.mem_filter.mp he).2
  dsimp only
  omega

/-- The current instant's bytes rewritten (R302, R342). -/
theorem State.Sound.rewrite (h : s.Sound) {f : Memory → Memory} (k : ∀ {m : Memory}, m.wf = true → (f m).wf = true) {now : Nat}
    (n : now = s.dev.now) : (s.onTimed (fun t => t.rewrite now f)).Sound := by
  subst n
  obtain ⟨hp, hle⟩ := h.history
  cases e : s.dev.timed.versions with
  | nil => exact h.newVersion (k Memory.wf_nil) (by simp [State.onTimed, Timed.rewrite, e])
  | cons v rest =>
    by_cases q : v.1 = s.dev.now
    · have vs : (s.onTimed (fun t => t.rewrite s.dev.now f)).dev.timed.versions = (v.1, f v.2) :: rest := by
        simp [State.onTimed, Timed.rewrite, e, q]
      have hw := h.versions
      rw [e] at hp hle hw
      obtain ⟨wv, wr⟩ := List.forall_mem_cons.mp hw
      obtain ⟨lv, lr⟩ := List.forall_mem_cons.mp hle
      refine h.withHistory ?_ ⟨?_, ?_⟩ h.clock <;> rw [vs]
      · exact List.forall_mem_cons.mpr ⟨k wv, wr⟩
      · exact List.pairwise_cons.mpr (List.pairwise_cons.mp hp)
      · exact List.forall_mem_cons.mpr ⟨lv, lr⟩
    · exact h.newVersion (k (h.visible s.dev.now)) (by simp [State.onTimed, Timed.rewrite, e, q])

theorem State.Sound.nisError (h : s.Sound) : s.nisError.Sound := h.frame

theorem State.Sound.nisSpill (h : s.Sound) {v : Word} : (s.nisSpill v).Sound := .ite h (.ite h.nisError h.niWrite.frame)

theorem State.Sound.nisReinject (h : s.Sound) {v : Word} : (s.nisReinject v).Sound := .ite h (.ite h.nisError h.frame)

theorem State.Sound.nisDone (h : s.Sound) : s.nisDone.Sound := .ite h (.ite h.frame (.ite h (.ite h.nisError (.ite h h.frame))))

theorem State.Sound.writeImage (h : s.Sound) {r : ImageRec} : (s.writeImage r).Sound := (h.dramWrite _ _).dramWrite _ _

theorem State.Sound.setTcb (h : s.Sound) {st : TcbState} : (s.setTcb st).Sound := by
  unfold State.setTcb
  split
  · exact h.putTcb
  · exact h

theorem State.Sound.stopHere (h : s.Sound) {reason : BitVec 8} {base ctxbuf : Nat} : (s.stopHere reason base ctxbuf).Sound := by
  have squashed := h.leaveGang.drainAll.squashCopies
  unfold State.stopHere
  dsimp only
  refine State.Sound.pushImage (State.Sound.setTcb (State.Sound.onX (State.Sound.withCore squashed ?_) _)) ?_
  · exact squashed.acting
  · exact squashed.acting

theorem State.Sound.onImage (h : s.Sound) {k : Nat} {f : ImageRec → ImageRec} (c : ∀ i, (f i).core = i.core := by intro; rfl) :
    (s.onImage k f).Sound := by
  refine h.mapImages fun i => ?_
  split
  · exact c i
  · rfl

theorem State.Sound.logArrival (h : s.Sound) {k : Nat} {m : Message} : (s.logArrival k m).Sound := by
  unfold State.logArrival
  split
  · exact h
  · split
    · exact h.onImage.dramWrite _ _
    · exact h.onImage

/-- A share of the scratchpad between what stands below it and above it. -/
theorem State.Sound.loadShare (h : s.Sound) {base k : Nat} : (s.loadShare base k).Sound := by
  refine h.withSpads fun e he => ?_
  rcases mem_aset he with r | r
  · rw [r]
    have old := h.spad (clusterOf k)
    have share := Memory.wfFrom_map (lo' := localIndex k * 0x40000) (g := fun a => localIndex k * 0x40000 + a)
      (h.dramCells_wf (base + 0x2E000) 0x40000) (fun _ _ => Nat.le_add_right _ _) (fun _ _ _ _ l => Nat.add_lt_add_left l _)
    have above := Memory.wfFrom_of_le (hi := localIndex k * 0x40000 + 0x40000)
      (Memory.wf_filter (fun b => decide (localIndex k * 0x40000 + 0x40000 ≤ b.1)) old)
      (fun e he => of_decide_eq_true (List.mem_filter.mp he).2)
    have below := Memory.wf_filter (fun b => decide (b.1 < localIndex k * 0x40000)) old
    have both := Memory.wfFrom_append share (List.forall_mem_map.mpr fun e he =>
      Nat.add_lt_add_left (s.dramCells_lt _ _ e he) (localIndex k * 0x40000)) above (Nat.le_add_right _ _)
    rw [List.append_assoc]
    exact Memory.wfFrom_append below (fun e he => of_decide_eq_true (List.mem_filter.mp he).2) both (Nat.zero_le _)
  · exact h.spads e r

theorem State.Sound.resumeImage (h : s.Sound) {r : ImageRec} {base ctxbuf k : Nat} : (s.resumeImage r base ctxbuf k).Sound := by
  unfold State.resumeImage
  dsimp only
  refine State.Sound.mapImages (State.Sound.asOther (State.Sound.putCore h.loadShare _ ?_) fun h => h.reissue.setTcb) fun i => ?_
  · exact ⟨h.dramCells_wf _ _, h.dramCells_wf _ _⟩
  · split <;> rfl

theorem CoreMem.Canonical.servedBy {l p : Core} (hp : p.mem.Canonical) : (l.servedBy p).mem.Canonical := hp

theorem State.Sound.swap (h : s.Sound) {k l : Nat} : (s.swap k l).Sound := by
  unfold State.swap
  exact ((h.putCore _ (h.coreAt_canonical.servedBy)).putCore _ (h.coreAt_canonical.servedBy)).onDev _ rfl rfl rfl rfl rfl

theorem State.Sound.swapForRestore (h : s.Sound) {k l : Nat} : (s.swapForRestore k l).Sound := by
  refine State.Sound.atCore (State.Sound.putCore (h.swap (k := k) (l := l)) _ ?_)
  exact h.coreAt_canonical (k := k)

theorem State.Sound.sendMarkers (h : s.Sound) {n : Nat} : (s.sendMarkers n).Sound := by
  unfold State.sendMarkers
  split
  · exact h
  · exact .ite h h.frame

theorem State.Sound.takeMarker (h : s.Sound) {n : Nat} {cls : Cls} : (s.takeMarker n cls).Sound := by
  unfold State.takeMarker
  split
  · exact h
  · exact .ite h h.frame

theorem State.Sound.forward (h : s.Sound) {n : Nat} : (s.forward n).Sound := by
  unfold State.forward
  split
  · exact h
  · exact .ite h.frame h

theorem State.Sound.pushCmd (h : s.Sound) {c : ImgCmd} : (s.pushCmd c).Sound := h.frame

theorem State.Sound.dropCmd (h : s.Sound) {sh : Nat} : (s.dropCmd sh).Sound := h.frame

theorem State.Sound.scCommand (h : s.Sound) {w : Writer} {sh : Nat} {v : Word} : (s.scCommand w sh v).Sound := by
  unfold State.scCommand
  split
  · split
    · exact h.commandStatus
    · exact h.commandStatus.pushCmd
  · split
    · exact h.commandStatus
    · exact .ite h.commandStatus.pushCmd h.commandStatus.pushCmd.swapForRestore
  · exact h.commandStatus

theorem State.Sound.stopNow (h : s.Sound) {sh : Nat} : (s.stopNow sh).Sound := by
  unfold State.stopNow
  split
  · exact h
  · exact .ite h (h.asOther (fun h1 => h1.stopHere))

theorem State.Sound.deadlineRestore (h : s.Sound) {c : ImgCmd} : (s.deadlineRestore c).Sound := by
  unfold State.deadlineRestore
  split
  · dsimp only
    split
    · exact h.dropCmd.commandStatus
    · exact h.dropCmd.commandStatus.pushCmd
  · dsimp only
    split
    · exact h.dropCmd.commandStatus
    · exact h.dropCmd.commandStatus.pushCmd.swapForRestore

theorem State.Sound.streamImage (h : s.Sound) {sh : Nat} : (s.streamImage sh).Sound := by
  unfold State.streamImage
  split
  · exact h
  · split
    · exact h
    · exact .ite h (.ite h.writeImage.onImage.deadlineRestore h.writeImage.onImage.dropCmd)

theorem State.Sound.restoreNow (h : s.Sound) {sh : Nat} : (s.restoreNow sh).Sound := by
  unfold State.restoreNow
  split
  · exact h
  · split
    · exact h.dropCmd
    · exact h.dropCmd.resumeImage

theorem State.Sound.mgCommand (h : s.Sound) {w : Writer} {sh : Nat} {v : Word} : (s.mgCommand w sh v).Sound := by
  unfold State.mgCommand
  split
  · dsimp only
    split
    · exact h.commandStatus
    · exact h.commandStatus.pushCmd.atCore
  · dsimp only
    split
    · exact h.commandStatus
    · exact h

theorem CoreMem.Canonical.takePages {b a : Core} (h : b.mem.Canonical) : (b.takePages a).mem.Canonical :=
  ⟨Memory.wf_foldl (fun w => Memory.wf_writeN _ _ w) h.1 _, Memory.wf_foldl (fun w => Memory.wf_writeN _ _ w) h.2 _⟩

theorem CoreMem.Canonical.takeContext {b : Core} (h : b.mem.Canonical) {a : Core} : (b.takeContext a).mem.Canonical :=
  h.takePages.startValues

theorem State.Sound.moveNow (h : s.Sound) {sh : Nat} : (s.moveNow sh).Sound := by
  unfold State.moveNow
  split
  · exact h
  · exact .ite h ((h.asOther (fun h1 => h1.drainAll)).putCore _ ((h.asOther (fun h1 =>
    h1.drainAll)).coreAt_canonical.takeContext)).swap.atCore.dropCmd

/-- The body is put in for the bare name: compared with an application of it, the match inside would have the kernel run
`firmwareArea` on its large numbers. -/
theorem State.Sound.deadlineStop (h : s.Sound) {k : Nat} : (s.deadlineStop k).Sound := by
  have body : @State.deadlineStop = @State.deadlineStop := rfl
  conv_rhs at body => delta State.deadlineStop
  rw [body]
  beta_reduce
  generalize s.firmwareArea k = area
  cases area with
  | none => exact h
  | some a => exact h.pushCmd

/-! #### Loader, host, ports, firmware and power -/

theorem State.Sound.configure (h : s.Sound) {bs : List Byte} : (s.configure bs).Sound := h.frame

theorem State.Sound.bindLoaded (h : s.Sound) {b : QueueBinding} {t : State} (e : s.bindLoaded b = some t) : t.Sound := by
  unfold State.bindLoaded at e
  obtain ⟨u, eu, rfl⟩ := Option.map_eq_some_iff.mp e
  exact (h.emptyRing eu).onQueue

theorem Trans.ensure_wf {t : Trans} (w : t.ptab.wf = true) (root va lvl : Nat) (free : List Nat) :
    (t.ensure root va lvl free).1.ptab.wf = true := by
  induction lvl generalizing free with
  | zero => exact w
  | succ lvl ih =>
    unfold Trans.ensure
    generalize List.replicate 4096 (0 : Byte) = zeros
    dsimp only
    split
    · exact ih free
    · split
      · exact Memory.wf_writeN _ _ (Memory.wf_writeN _ _ (ih free))
      · exact ih free

theorem mapPages_wf (root : Nat) (ps fs free : List Nat) {t : Trans} (w : t.ptab.wf = true) : (mapPages root ps fs free t).ptab.wf = true := by
  induction ps generalizing fs free t with
  | nil => exact w
  | cons p ps ih =>
    cases fs with
    | nil => exact w
    | cons f fs =>
      unfold mapPages
      refine ih _ _ ?_
      split
      · exact Memory.wf_writeN _ _ (Trans.ensure_wf w ..)
      · exact Trans.ensure_wf w ..

theorem foldl_clearFrames_now (s : State) (ps : List Nat) (f : Nat → Nat) :
    (ps.foldl (fun s p => s.clearFrames (f p) 1) s).dev.now = s.dev.now := by
  induction ps generalizing s with
  | nil => rfl
  | cons p ps ih => exact ih _

theorem State.Sound.loadImage (h : s.Sound) {part : Nat} {i : Image} {c : LoadChoice} : (s.loadImage part i c).Sound := by
  unfold State.loadImage
  split
  · exact h
  · refine .ite h ?_
    extract_lets no base frames pages frameOf tmpls staged s1 s2 put s3
    have h1 : s1.Sound := h.withTables (mapPages_wf _ _ _ _ h.tables)
    have h2 : s2.Sound := State.Sound.foldl (fun h => h.clearFrames) h1 _
    have put_wf {m : Memory} {g : Segment} (w : m.wf = true) : (put m g).wf = true := by
      unfold put
      split
      · exact Memory.wf_writeN _ _ w
      · exact Memory.wf_writeAll _ w
      · exact w
    have h3 : s3.Sound := h2.rewrite (fun w => Memory.wf_foldl put_wf w _) (foldl_clearFrames_now s1 pages frameOf).symm
    refine State.Sound.foldl (fun {t a} h => ?_) h3 _
    cases e : t.bindLoaded a with
    | none => exact h
    | some u => exact h.bindLoaded e

theorem State.Sound.hostDrop (h : s.Sound) : s.hostDrop.Sound := h.setShReg

theorem State.Sound.hostEnqueue (h : s.Sound) {port off : Nat} {bs : List Byte} : (s.hostEnqueue port off bs).Sound := by
  unfold State.hostEnqueue
  split
  · dsimp only
    split
    · exact h.postC0
    · exact h.hostDrop
  · dsimp only
    split <;> exact h.hostDrop

theorem State.Sound.hostMailbox (h : s.Sound) {port off : Nat} {bs : List Byte} : (s.hostMailbox port off bs).Sound :=
  .ite h.postC0 h.hostDrop

theorem State.Sound.hostStore (h : s.Sound) {port : Nat} {a : Word} {inst key : Nat} {bs : List Byte} :
    (s.hostStore port a inst key bs).Sound :=
  h.setShReg.send

theorem State.Sound.hostStart (h : s.Sound) {port : Nat} {toHost : Bool} : (s.hostStart port toHost).Sound :=
  .ite h (.ite h.frame.setShReg (State.Sound.foldl (fun h1 => h1.hostStore) h.frame.setShReg _))

theorem State.Sound.hostRefused (h : s.Sound) {port : Nat} {a : Word} {cause : BitVec 8} : (s.hostRefused port a cause).Sound :=
  h.frame

theorem State.Sound.hostDone (h : s.Sound) {port : Nat} : (s.hostDone port).Sound := by
  unfold State.hostDone
  split
  · exact h
  · exact .ite h ((State.Sound.ite (State.Sound.foldl (fun h1 => h1.sendAccess) h _) h).setShReg.onDev _ rfl rfl rfl rfl
    rfl).raiseVector

theorem State.Sound.onPort (h : s.Sound) {p : Nat} {f : Port → Port} : (s.onPort p f).Sound := h.frame

theorem State.Sound.portCount (h : s.Sound) {p off n : Nat} : (s.portCount p off n).Sound := h.setShReg

theorem State.Sound.enterPart (h : s.Sound) {m : Message} : (s.enterPart m).Sound := by
  unfold State.enterPart
  split
  · exact h
  · exact h
  · exact h
  · exact h
  · exact h
  · exact h.frame
  · exact h.frame
  · exact .ite h.takeBlock h
  · exact h.route

theorem State.Sound.portFails (h : s.Sound) {p : Nat} : (s.portFails p).Sound := .ite h.portCount.portCount.onPort.raiseVector h

theorem State.Sound.linkReply (h : s.Sound) {p : Nat} {r : LinkReply} : (s.linkReply p r).Sound := by
  unfold State.linkReply
  split
  · split
    · exact h
    · exact h.onPort.passGates
  · split
    · exact h
    · exact .ite h.portFails h.portCount.onPort.passGates

theorem State.Sound.flit (h : s.Sound) {p : Nat} {seq : BitVec 12} {b : FlitBody} : (s.flit p seq b).Sound := by
  unfold State.flit
  refine .ite (.ite h.portCount.onPort (.ite ?_ (State.Sound.passGates ?_).onPort)) h
  · split
    · split
      · exact h.onPort.linkReply.passGates.onPort.enterPart
      · exact h.onPort.linkReply.passGates.onPort
    · split
      · exact h.onPort.passGates.onPort.enterPart
      · exact h.onPort.passGates.onPort
  · split
    · exact h.onPort.linkReply
    · exact h.onPort

theorem State.Sound.portUp (h : s.Sound) {p : Nat} {lanes : BitVec 4} : (s.portUp p lanes).Sound :=
  .ite h.onPort.raiseVector.passGates h

theorem State.Sound.takeOver (h : s.Sound) {device o p : Nat} : (s.takeOver device o p).Sound := by
  unfold State.takeOver
  exact h.onPort.onPort

theorem State.Sound.reroute (h : s.Sound) {device p : Nat} : (s.reroute device p).Sound := by
  unfold State.reroute
  split
  · split
    · exact (h.dramWrite _ _).passGates
    · exact .ite (h.dramWrite _ _).takeOver.passGates (h.dramWrite _ _).passGates
  · split
    · exact (h.dramWrite _ _).passGates
    · exact .ite (h.dramWrite _ _).takeOver.passGates (h.dramWrite _ _).passGates

theorem State.Sound.inboundLoad (h : s.Sound) {r : FabricReq} {key width : Nat} {inst : Option Nat} :
    (s.inboundLoad r key width inst).Sound := by
  unfold State.inboundLoad
  refine .ite h ?_
  split
  · exact h.answer
  · exact h.answer
  · exact h

theorem State.Sound.inbound (h : s.Sound) {r : FabricReq} : (s.inbound r).Sound := by
  unfold State.inbound
  split
  · exact h.frame.answer
  · split
    · exact h.answer
    · split
      · split
        · dsimp only
          split
          · exact h.answer
          · exact .ite h.answer h.inboundLoad
        · dsimp only
          split
          · exact h.answer
          · exact .ite h.answer h.send
        · dsimp only
          split
          · exact h.answer
          · exact .ite h.answer h.send
        · dsimp only
          split
          · exact h.answer
          · exact .ite h.answer h
      · split
        · dsimp only
          split
          · exact h.answer
          · exact .ite h.answer h.inboundLoad
        · dsimp only
          split
          · exact h.answer
          · exact .ite h.answer h.send
        · dsimp only
          split
          · exact h.answer
          · exact .ite h.answer h.send
        · dsimp only
          split
          · exact h.answer
          · exact .ite h.answer h

theorem State.Sound.setLock (h : s.Sound) {locked : Bool} : (s.setLock locked).Sound := .ite h h.setShReg.raiseVector

theorem State.Sound.writePeriod (h : s.Sound) {v : Word} : (s.writePeriod v).Sound :=
  .ite h.setShReg (h.setShReg.onDev _ rfl rfl rfl rfl rfl)

theorem State.Sound.sendBeacons (h : s.Sound) {inst period : Nat} : (s.sendBeacons inst period).Sound :=
  State.Sound.foldl (fun h1 => h1.sendOn) h _

theorem State.Sound.beacon (h : s.Sound) {port inst period : Nat} {offset : BitVec 32} : (s.beacon port inst period offset).Sound :=
  .ite h (.ite h.frame.setLock.sendBeacons (h.frame.setLock.onDev _ rfl rfl rfl rfl rfl).setShReg.sendBeacons)

theorem State.Sound.setFw (h : s.Sound) {phase reason : Nat} : (s.setFw phase reason).Sound := h.setShReg

theorem State.Sound.endUpdate (h : s.Sound) {phase reason : Nat} : (s.endUpdate phase reason).Sound :=
  h.setFw.raiseVector.resumeOwners

theorem State.Sound.advanceUpdate (h : s.Sound) {sig ver fmt : Bool} {version : BitVec 32} :
    (s.advanceUpdate sig ver fmt version).Sound := by
  unfold State.advanceUpdate
  split
  · exact h.setFw
  · exact .ite h.endUpdate (.ite h.endUpdate (.ite h.endUpdate (h.setFw.onDev _ rfl rfl rfl rfl rfl)))
  · exact h.setFw.onDev _ rfl rfl rfl rfl rfl
  · exact h.setFw
  · exact h
  · exact h.setFw

theorem State.Sound.heartbeat (h : s.Sound) : s.heartbeat.Sound := .ite h.frame.endUpdate h

theorem State.Sound.rollBack (h : s.Sound) : s.rollBack.Sound := .ite h.frame.endUpdate h

theorem State.Sound.reconfigure (h : s.Sound) {sh : Nat} : (s.reconfigure sh).Sound := .ite h.endUpdate h.configure.endUpdate

theorem State.Sound.fwCommand (h : s.Sound) {sh : Nat} {v : Word} : (s.fwCommand sh v).Sound :=
  .ite h.setFw (.ite h (.ite h.setFw h.reconfigure))

theorem State.Sound.tripHere (h : s.Sound) : s.tripHere.Sound := (h.leaveGang.finishWritten.onEng _).setTcb

theorem State.Sound.untripHere (h : s.Sound) : s.untripHere.Sound := .ite h (State.Sound.foldl (fun h1 => h1.clearFor) h _).setTcb

theorem State.Sound.onShingle (h : s.Sound) {sh : Nat} {f : State → State} (kf : ∀ {a : State}, a.Sound → (f a).Sound) :
    (s.onShingle sh f).Sound :=
  State.Sound.foldl (fun h1 => h1.asOther (fun h2 => kf h2)) h _

theorem State.Sound.trip (h : s.Sound) {sh : Nat} {tj : ℤ} : (s.trip sh tj).Sound :=
  .ite (h.onShingle (fun h1 => h1.tripHere)).setShReg.setShReg.raiseVector h

theorem State.Sound.tripReset (h : s.Sound) {sh : Nat} {hottest : ℤ} : (s.tripReset sh hottest).Sound :=
  .ite (.ite h.setShReg.setShReg (h.setShReg.setShReg.onShingle (fun h1 => h1.untripHere))) h

theorem State.Sound.unpowered : s.unpowered.Sound := State.Sound.afterReset.frame

theorem State.Sound.bringUp (h : s.Sound) {ok : List Bool} {locked : Bool} {c : BootConfig} : (s.bringUp ok locked c).Sound := by
  unfold State.bringUp
  refine .ite h ?_
  have counting : (if locked then c.instant % 2 ^ 56 else 0) < 2 ^ 56 := by
    split
    · exact Nat.mod_lt _ (Nat.two_pow_pos 56)
    · exact Nat.two_pow_pos 56
  have up := State.Sound.afterReset.withHistory (t := { State.reset with
      agenda := s.agenda
      dev := { Device.reset with tick := s.dev.tick, now := if locked then c.instant % 2 ^ 56 else 0, out := { Device.reset.out with
        controller := c.controller % 32, fwSlot := !(ok.getD 1 true), fwVersion := c.version, measured := [c.version] } } })
    (fun _ he => nomatch he) ⟨List.Pairwise.nil, fun _ he => nomatch he⟩ counting
  dsimp only
  split
  · exact up.frame
  · exact (State.Sound.ite up.setShReg up.raiseVector).configure.raiseVector

/-! #### Parking -/

theorem State.Sound.parkWaiting (h : s.Sound) : s.parkWaiting.Sound := by
  unfold State.parkWaiting
  split
  · exact h
  · split
    · exact h
    · exact .ite h.parkContext h

theorem State.Sound.parkAtOnce (h : s.Sound) : s.parkAtOnce.Sound := by
  unfold State.parkAtOnce
  split
  · exact .ite h.parkWaiting h
  · exact h

/-! #### Vector instructions -/

theorem State.Sound.vec1 (h : s.Sound) {d a : RegNo} {p : BitVec 3} {f : VReg → VReg} : Keeps (s.vec1 d a p f) :=
  h.withPorts (fun h1 => h1.finishV)

theorem State.Sound.vec2 (h : s.Sound) {d a b : RegNo} {p : BitVec 3} {f : VReg → VReg → VReg} : Keeps (s.vec2 d a b p f) :=
  h.withPorts (fun h1 => h1.finishV)

theorem State.Sound.compareInt (h : s.Sound) {d : BitVec 3} {a b : RegNo} {p : BitVec 3} {l : BitVec 2} {f : {n : Nat} → BitVec n →
    BitVec n → Bool} :
    Keeps (s.compareInt d a b p l f) :=
  h.withPorts (fun h1 => h1.takeUnits.setP.done)

theorem State.Sound.compareFp (h : s.Sound) {d : BitVec 3} {a b : RegNo} {p : BitVec 3} {l : BitVec 2} {f : Fp → Fp → Bool ×
    FpFlags} :
    Keeps (s.compareFp d a b p l f) :=
  h.withPorts (fun h1 => (h1.takeUnits.setP.raise _).done)

theorem State.Sound.finishFp (h : s.Sound) {srcs : List RegNo} {d : RegNo} {p : BitVec 16} {l : BitVec 2} {xs : List (Fp ×
    FpFlags)} :
    Keeps (s.finishFp srcs d p l xs) :=
  h.finishV

theorem State.Sound.fp2 (h : s.Sound) {d a b : RegNo} {p : BitVec 3} {l : BitVec 2} {f : Fp → Fp → Fp × FpFlags} :
    Keeps (s.fp2 d a b p l f) :=
  h.withPorts (fun h1 => h1.finishFp)

theorem State.Sound.fp1 (h : s.Sound) {d a : RegNo} {p : BitVec 3} {l : BitVec 2} {f : Fp → Fp × FpFlags} :
    Keeps (s.fp1 d a p l f) :=
  h.withPorts (fun h1 => h1.finishFp)

theorem State.Sound.fp3 (h : s.Sound) {d a b c : RegNo} {l : BitVec 2} {f : Fp → Fp → Fp → Fp × FpFlags} :
    Keeps (s.fp3 d a b c l f) :=
  h.withPorts (fun h1 => h1.finishFp)

theorem State.Sound.vec3 (h : s.Sound) {d a b c : RegNo} {f : VReg → VReg → VReg → VReg} : Keeps (s.vec3 d a b c f) :=
  h.withPorts (fun h1 => h1.finishV)

theorem State.Sound.reduce (h : s.Sound) {d a : RegNo} {p : BitVec 3} {l : BitVec 2} {f : List (BitVec (laneBits l)) → Word} :
    Keeps (s.reduce d a p l f) :=
  h.withPorts (fun h1 => h1.finishV)

theorem State.Sound.dot8 (h : s.Sound) {d a b : RegNo} {p : BitVec 3} {signed : Bool} : Keeps (s.dot8 d a b p signed) :=
  h.withPorts (fun h1 => h1.finishV)

/-! #### Matrix unit -/

theorem State.Sound.setSlot (h : s.Sound) {n : Fin 16} {t : Slot} : (s.setSlot n t).Sound := h.frame

theorem State.Sound.setAcc (h : s.Sound) {n : Fin 4} {a : Acc} : (s.setAcc n a).Sound := h.frame

theorem State.Sound.slotFault (h : s.Sound) {n : Nat} : Keeps (s.slotFault n) := h.trap

theorem State.Sound.matrixDone (h : s.Sound) {f : FpFlags} : Keeps (s.matrixDone f) := h.frame.done

theorem execMrel_keeps (h : s.Sound) {p : BitVec 4} : Keeps (execMrel p s) := by
  unfold execMrel
  dsimp only
  split
  · exact h.slotFault
  · exact h.stay
  · exact h.setSlot.done

theorem execMload_keeps (h : s.Sound) {p : BitVec 4} {g k : RegNo} : Keeps (execMload p g k s) := by
  unfold execMload
  refine .ite h.slotFault ?_
  split
  · exact h.finish _
  · refine .ite h.trap (.ite h.trap (.ite h.stay ?_))
    split
    · exact h.defer.done
    · exact ((State.Sound.foldl (fun h1 => h1.settleAt) h _).setSlot.onMat _).done

theorem State.Sound.runMma (h : s.Sound) {p : Fin 4} {a b : Slot} {formed : Nat → Bool} {integer : Bool} {c : BitVec 1} :
    Keeps (s.runMma p a b formed integer c) :=
  .ite h.stay h.setAcc.matrixDone

theorem execMma_keeps (h : s.Sound) {p q s2 : BitVec 4} {c : BitVec 1} : Keeps (execMma p q s2 c s) := by
  unfold execMma
  refine .ite h.slotFault (.ite h.slotFault ?_)
  split
  · exact h.slotFault
  · exact .ite h.slotFault (.ite h.slotFault (.ite h.trap (.ite h.slotFault (.ite h.stay (.ite h.stay h.runMma)))))

theorem execMmas_keeps (h : s.Sound) {p q s2 : BitVec 4} {g : RegNo} {x c : BitVec 1} : Keeps (execMmas p q s2 g x c s) := by
  unfold execMmas
  refine .ite h.slotFault (.ite h.slotFault (.ite h.slotFault ?_))
  split
  · dsimp only
    split
    · exact h.finish _
    · refine .ite h.slotFault ?_
      split
      · exact h.slotFault
      · refine .ite h.slotFault ?_
        split
        · exact h.finish _
        · exact h.stay
  · dsimp only
    split
    · exact h.finish _
    · refine .ite h.slotFault ?_
      split
      · exact h.slotFault
      · refine .ite h.slotFault ?_
        split
        · exact h.finish _
        · exact .ite h.stay (h.drain _).setSlot.runMma

theorem execMscale_keeps (h : s.Sound) {q : BitVec 4} {g : RegNo} {l : BitVec 2} : Keeps (execMscale q g l s) := by
  unfold execMscale
  refine .ite h.slotFault (.ite h.trap ?_)
  split
  · exact h.finish _
  · refine .ite h.stay ?_
    split
    · dsimp only
      split
      · exact h.stay
      · exact h.settleAt.defer.done
      · exact h.settleAt.noteReadN.setSlot.matrixDone
    · dsimp only
      split
      · exact h.stay
      · exact h.settleAt.defer.done
      · exact h.settleAt.noteReadN.setSlot.matrixDone

theorem State.Sound.sendPiece (h : s.Sound) {t : TStore} {a : Word} {bs : List Byte} {i key : Nat} :
    (s.sendPiece t a bs i key).Sound := by
  unfold State.sendPiece
  split
  · exact h.send.countRemote
  · exact h.send

theorem State.Sound.sendTile (h : s.Sound) {p : Path} {a : Word} {off : Nat} {t : TStore} {bs : List Byte} {f : FpFlags} :
    Keeps (s.sendTile p a off t bs f) := by
  unfold State.sendTile
  split
  · exact h.takeSeq.defer.done
  · exact (State.Sound.foldl (fun h1 => h1.sendPiece) h.takeSeq _).matrixDone

theorem execMstore_keeps (h : s.Sound) {p : BitVec 4} {g k : RegNo} : Keeps (execMstore p g k s) := by
  unfold execMstore
  refine .ite h.illegal ?_
  split
  · exact h.finish _
  · refine .ite h.stay ?_
    split
    · split
      · exact .ite h.sendTile (.ite h.defer.done (h.localStore _ _ _).matrixDone)
      · exact h.matrixDone
    · split
      · exact .ite h.sendTile (.ite h.defer.done (h.localStore _ _ _).matrixDone)
      · exact h.matrixDone

/-! #### Device registers -/

theorem State.Sound.startDigest (h : s.Sound) {part : Option Nat} {v : Word} : (s.startDigest part v).Sound := by
  unfold State.startDigest
  split
  · exact h
  · split
    · exact h
    · exact .ite h (.ite h.onPart h.onPart)

theorem State.Sound.endDigest (h : s.Sound) {p : Nat} : (s.endDigest p).Sound := by
  unfold State.endDigest
  split
  · exact h
  · exact .ite h.onPart h

theorem State.Sound.writeExclusion (h : s.Sound) {part : Option Nat} {off : Nat} {v : Word} :
    (s.writeExclusion part off v).Sound := by
  unfold State.writeExclusion
  split
  · exact h
  · exact h.onPart

theorem State.Sound.readReg (h : s.Sound) {src : RegSrc} {sh off : Nat} : (s.readReg src sh off).2.Sound := by
  unfold State.readReg
  split
  · split
    · split
      · exact h.dheld
      · exact h
    · exact h
  · exact h

theorem State.Sound.readBytes (h : s.Sound) {src : RegSrc} {sh off n : Nat} : (s.readBytes src sh off n).2.Sound := by
  unfold State.readBytes
  dsimp only
  split
  · exact h.readReg
  · exact h.readReg.readReg

theorem State.Sound.writePart (h : s.Sound) {part : Option Nat} {off : Nat} {v : Word} : (s.writePart part off v).Sound := by
  unfold State.writePart
  split
  · exact h
  · split
    · exact h.drel
    · exact h.dabort
    · exact h.onPart
    · exact h.onPart
    · exact h.startDigest
    · exact .ite h.onPart (.ite h.writeExclusion h)

theorem State.Sound.writeReg (h : s.Sound) {src : RegSrc} {sh off : Nat} {v : Word} : (s.writeReg src sh off v).Sound := by
  unfold State.writeReg
  refine .ite h (.ite ?_ (.ite (.ite h (.ite h.setShReg (.ite h ?_))) (.ite h.writePart (.ite ?_ (.ite ?_ (.ite (.ite h (.ite (.ite
    h.setShReg h) (.ite h.setShReg (.ite h.setShReg h)))) (.ite ?_ ?_)))))))
  · split
    · exact h.tripReset
    · exact .ite h.setShReg h
    · exact .ite h.setShReg h
  · split
    · exact h.setShReg
    · exact h.setShReg
    · exact h.setShReg
    · exact h.setShReg
    · exact .ite h.hostStart (.ite h.hostStart h)
    · exact h.setShReg
    · exact h
  · split
    · exact h.setShReg
    · exact h.setShReg
    · exact h.setShReg
    · exact h.setShReg
    · exact h.setShReg
    · exact h.tmCommand
    · exact h.pmCommand
    · exact h.vdRequest
    · exact h
  · split
    · exact h.mgCommand
    · exact h.setShReg
    · exact h.setShReg
    · exact h.setShReg
    · exact h.setShReg
    · exact h.scCommand
    · exact h
  · split
    · exact h.onTimed _ (by split <;> rfl)
    · split
      · exact h.writePeriod
      · exact h.setShReg
      · exact h.setShReg
      · exact h
  · split
    · exact h.setShReg
    · exact h.fwCommand
    · exact h.heartbeat
    · exact h

theorem State.Sound.writeRegs (h : s.Sound) {src : RegSrc} {sh off : Nat} {vs : List Word} : (s.writeRegs src sh off vs).Sound := by
  induction vs generalizing s off with
  | nil => exact h
  | cons v vs ih => exact ih h.writeReg

theorem State.Sound.writeBytes (h : s.Sound) {src : RegSrc} {sh off : Nat} {bs : List Byte} :
    (s.writeBytes src sh off bs).Sound := by
  unfold State.writeBytes
  refine .ite (.ite h.writeRegs h) ?_
  split
  · exact h.hostDrop
  · exact h

/-! #### The DEV path -/

theorem CoreMem.Canonical.windowSetByte {c : Core} (h : c.mem.Canonical) {off : Nat} {b : Byte} :
    (c.windowSetByte off b).mem.Canonical := by
  unfold Core.windowSetByte
  split
  · exact h
  · split
    · exact h
    · split <;> exact h

theorem State.Sound.windowSetWord (h : s.Sound) {off : Nat} {v : Word} : (s.windowSetWord off v).Sound := by
  unfold State.windowSetWord
  split
  · exact h.frame
  · split
    · exact h.frame
    · split
      · exact h.frame
      · exact .ite (.ite h.squashCopies (.ite h.reissue h)) h

theorem State.Sound.devRead (h : s.Sound) {off n : Nat} : (s.devRead off n).2.Sound := by
  unfold State.devRead
  split
  · exact h.readBytes
  · exact h

theorem State.Sound.devWriteReg (h : s.Sound) {off : Nat} {bs : List (Nat × Byte)} : (s.devWriteReg off bs).Sound :=
  .ite h (.ite h.writeReg h.windowSetWord)

theorem CoreMem.Canonical.foldl {α : Type} {f : Core → α → Core} (k : ∀ {c : Core} {a : α}, c.mem.Canonical → (f c a).mem.Canonical)
    {c : Core} (h : c.mem.Canonical) (l : List α) : (l.foldl f c).mem.Canonical := by
  induction l generalizing c with
  | nil => exact h
  | cons a l ih => exact ih (k h)

theorem State.Sound.devWrite (h : s.Sound) {off n : Nat} {bs : List (Nat × Byte)} : (s.devWrite off n bs).Sound :=
  .ite (.ite h.devWriteReg.devWriteReg h.devWriteReg) (h.withCore (CoreMem.Canonical.foldl (fun h => h.windowSetByte) h.acting bs))

/-! #### Loads, stores and atomics -/

theorem State.Sound.mayBeLate (h : s.Sound) {dst : RDst} {p : Path} {off n : Nat} {a : Word} {im : BitVec 2} :
    (s.mayBeLate dst p off n a im).Sound :=
  .ite h.frame h

theorem State.Sound.markDst (h : s.Sound) {dst : RDst} : (s.markDst dst).Sound := by
  unfold State.markDst
  split
  · exact h.setG _ _
  · exact h.setVReg
  · exact h

theorem State.Sound.pendLoad (h : s.Sound) {dst : RDst} {p : Path} {off n : Nat} {a : Word} : (s.pendLoad dst p off n a).Sound := by
  unfold State.pendLoad
  exact h.markDst.onEng _

theorem State.Sound.loadFrom (h : s.Sound) {dst : RDst} {p : Path} {off n : Nat} {a : Word} {im : BitVec 2} :
    Keeps (s.loadFrom dst p off n a im) := by
  unfold State.loadFrom
  refine .ite ?_ (.ite ?_ (.ite ?_ (.ite h.stay ?_)))
  · split
    · exact h.finish _
    · exact .ite h.stay h.beginRemote.done
  · split
    · exact h.writeReply.done
    · exact .ite h.stay h.beginRemote.done
  · split
    · exact h.stay
    · exact h.devRead.writeReply.done
  · split
    · split
      · dsimp only
        split
        · exact h.settle.stay
        · exact h.defer.done
      · split
        · dsimp only
          split
          · exact h.settle.stay
          · exact h.pendLoad.done
        · dsimp only
          split
          · exact h.settle.stay
          · exact h.settle.writeReply.mayBeLate.done
    · split
      · exact h.settle.stay
      · exact .ite h.defer.done (.ite h.pendLoad.done h.settle.writeReply.mayBeLate.done)

theorem State.Sound.scalarLoad (h : s.Sound) {t b : RegNo} {im : BitVec 2} {zeroExt : Bool} {o : BitVec 10} {n : Nat} :
    Keeps (s.scalarLoad t b im zeroExt o n) := by
  unfold State.scalarLoad
  dsimp only
  split
  · exact h.finish _
  · split
    · exact h.loadFrom
    · exact h.trap

theorem execVld_keeps (h : s.Sound) {t b : RegNo} {i : BitVec 2} {p : BitVec 3} {o : BitVec 10} : Keeps (execVld t b i p o s) := by
  unfold execVld
  refine .ite (h.finish _) ?_
  split
  · exact h.finish _
  · split
    · exact h.loadFrom
    · exact h.trap

theorem State.Sound.storeTo (h : s.Sound) {p : Path} {off n : Nat} {a : Word} {im : BitVec 2} {drop : Bool} {bs : List (Nat ×
    Byte)} {take : State → State} (ktake : ∀ {a : State}, a.Sound → (take a).Sound) :
    Keeps (s.storeTo p off n a im drop bs take) := by
  unfold State.storeTo
  refine .ite ?_ (.ite ?_ (.ite h.stay (.ite (ktake h).defer.done ((ktake h).localStore _ _ _).done)))
  · split
    · exact h.finish _
    · exact .ite (ktake h).takeSeq.done (ktake h).takeSeq.sendTimed.done
  · split
    · exact h.stay
    · exact (ktake h).devWrite.done

theorem State.Sound.scalarStore (h : s.Sound) {t b : RegNo} {im : BitVec 2} {drop : Bool} {o : BitVec 10} {n : Nat} :
    Keeps (s.scalarStore t b im drop o n) := by
  unfold State.scalarStore
  dsimp only
  split
  · exact h.finish _
  · split
    · exact h.storeTo (fun h1 => h1)
    · exact h.trap

theorem execVst_keeps (h : s.Sound) {t b : RegNo} {i : BitVec 2} {p : BitVec 3} {o : BitVec 10} : Keeps (execVst t b i p o s) := by
  unfold execVst
  refine .ite (h.finish _) ?_
  split
  · exact h.finish _
  · split
    · exact h.stay
    · split
      · exact h.storeTo (fun h1 => h1.takeUnits)
      · exact h.trap

theorem State.Sound.atomicTcm {s0 : State} (h : s0.Sound) {off : Nat} {t : RegNo} {op : AtomOp} : (s0.atomicTcm off t op).Sound :=
  ((h.settle.withCore (h.settle.acting.tcmWrite _)).setG _ _).raise _

theorem State.Sound.atomicSpad (h : s.Sound) {off : Nat} {t : RegNo} {op : AtomOp} : (s.atomicSpad off t op).Sound :=
  (h.setG _ _).onEng _

theorem State.Sound.atomic (h : s.Sound) {ins : Instr} {t b x : RegNo} {im : BitVec 2} {fn : BitVec 4} {wide : Bool} :
    Keeps (s.atomic ins t b x im fn wide) := by
  unfold State.atomic
  refine .ite h.illegal ?_
  split
  · exact h.finish _
  · split
    · exact h.trap
    · refine .ite ?_ (.ite h.atomicTcm.done (.ite h.defer.done h.atomicSpad.done))
      split
      · exact h.finish _
      · exact .ite h.stay (.ite h.takeSeq.beginRemote.done h.takeSeq.beginRemote.sendTimed.done)

/-! #### Fences and status words -/

theorem execRds_keeps (h : s.Sound) {d : RegNo} {n : BitVec 12} : Keeps (execRds d n s) := by
  unfold execRds
  split
  · exact h.illegal
  · exact .ite h.stay (h.setG _ _).done

theorem State.Sound.suspendedCount (h : s.Sound) {k : Fin 3} {v : Word} : (s.suspendedCount k v).Sound := .ite h.frame h

theorem State.Sound.writeStatus (h : s.Sound) {n : StatusName} {v : Word} {t : State} (e : s.writeStatus n v = some t) : t.Sound := by
  cases n <;> cases e
  case lc => exact h.frame.setLoop.suspendedCount
  all_goals exact h.frame

theorem execWrs_keeps (h : s.Sound) {a : RegNo} {n : BitVec 12} : Keeps (execWrs a n s) := by
  unfold execWrs
  split
  · exact h.illegal
  · split
    · exact h.illegal
    · rename_i e1
      exact .ite h.stay (h.writeStatus e1).done

theorem execQrd_keeps (h : s.Sound) {q : BitVec 3} {n : BitVec 12} : Keeps (execQrd q n s) := by
  unfold execQrd
  split
  · exact h.illegal
  · exact h.frame.done

theorem execQst_keeps (h : s.Sound) {q : BitVec 3} {a : RegNo} {o : BitVec 10} : Keeps (execQst q a o s) := by
  unfold execQst
  split
  · dsimp only
    split
    · exact h.finish _
    · refine .ite h.trap ?_
      split
      · exact (h.localStore _ _ _).done
      · exact h.takeSeq.sendTimed.done
      · exact h.trap
  · dsimp only
    split
    · exact h.finish _
    · refine .ite h.trap ?_
      split
      · exact (h.localStore _ _ _).done
      · exact h.sendTimed.done
      · exact h.trap

/-! #### Copies, streams, code and tables as instructions -/

theorem execXcopy_keeps (h : s.Sound) {d a b c : RegNo} : Keeps (execXcopy d a b c s) := by
  unfold execXcopy
  split
  · split
    · dsimp only
      split
      · exact h.finish _
      · exact h.stay
    · dsimp only
      split
      · exact h.finish _
      · exact .ite h.stay (.ite h.stay ((((State.Sound.ite (State.Sound.ite h.settleAt h).takeSeq (.ite h.settleAt h)).onX _).onEng
        _).acceptCopy.setG _ _).done)
  · split
    · dsimp only
      split
      · exact h.finish _
      · exact h.stay
    · dsimp only
      split
      · exact h.finish _
      · exact .ite h.stay (.ite h.stay ((((State.Sound.ite (State.Sound.ite h.settleAt h).takeSeq (.ite h.settleAt h)).onX _).onEng
        _).acceptCopy.setG _ _).done)

theorem execXstat_keeps (h : s.Sound) {d a : RegNo} : Keeps (execXstat d a s) := by
  unfold execXstat
  refine .ite (h.setG _ _).done ?_
  split
  · exact (h.setG _ _).done
  · exact .ite h.stay (h.setG _ _).done

theorem execXwait_keeps (h : s.Sound) {d : RegNo} : Keeps (execXwait d s) := by
  unfold execXwait
  refine .ite h.done ?_
  split
  · exact h.stay
  · exact h.done

theorem execSbind_keeps (h : s.Sound) {d a b : RegNo} : Keeps (execSbind d a b s) := by
  unfold execSbind
  split
  · exact h.illegal
  · split
    · exact h.finish _
    · exact h.frame.done

theorem execSunbind_keeps (h : s.Sound) {d : RegNo} : Keeps (execSunbind d s) := by
  unfold execSunbind
  split
  · exact h.illegal
  · split
    · exact h.done
    · exact .ite h.stay h.unbind.done

theorem execSstat_keeps (h : s.Sound) {d a : RegNo} : Keeps (execSstat d a s) := by
  unfold execSstat
  split
  · exact h.illegal
  · split <;> exact (h.setG _ _).done

theorem execCfetch_keeps (h : s.Sound) {a : RegNo} {f : BitVec 4} : Keeps (execCfetch a f s) := by
  unfold execCfetch
  split
  · exact h.finish _
  · exact ((h.onMem _ (fun h1 => h1.setFrame)).onX _).done

theorem execDtld_keeps (h : s.Sound) {a : RegNo} {v : BitVec 1} {n : BitVec 8} {t : BitVec 2} : Keeps (execDtld a v n t s) := by
  unfold execDtld
  split
  · exact h.finish _
  · exact .ite h.stay (.ite h.defer.done (((h.settleAt.drain _).loadsDone _).onEng _).done)

theorem execSegld_keeps (h : s.Sound) {a : RegNo} {t : BitVec 2} : Keeps (execSegld a t s) := by
  unfold execSegld
  refine .ite h.trap ?_
  split
  · exact h.finish _
  · exact .ite h.defer.done (h.settleAt.onEng _).done

/-! #### Task instructions -/

theorem State.Sound.toOwner (h : s.Sound) {node : Nat} {b : Body} : (s.toOwner node b).Sound := h.postC0

theorem execTspawn_keeps (h : s.Sound) {d : RegNo} : Keeps (execTspawn d s) := by
  unfold execTspawn
  split
  · exact h.finish _
  · exact h.settleAt.toOwner.done

theorem State.Sound.retireAs (h : s.Sound) {i : Instr} {pre : State → State} (kpre : ∀ {a : State}, a.Sound → (pre a).Sound) :
    Keeps (s.retireAs i pre) :=
  .ite h.illegal (.ite h.stay (kpre (State.Sound.foldl (fun h1 => h1.unbind) h.drainAll _)).finishLeave)

theorem execTarg_keeps (h : s.Sound) {d a : RegNo} : Keeps (execTarg d a s) := by
  unfold execTarg
  split <;> exact (h.setG _ _).done

/-! #### Message instructions -/

theorem execSend_keeps (h : s.Sound) {d a : RegNo} : Keeps (execSend d a s) := by
  unfold execSend
  split
  · dsimp only
    split
    · exact h.finish _
    · exact .ite h.trap h.stay
  · dsimp only
    split
    · exact h.finish _
    · exact .ite h.trap (.ite h.settleAt.emitRecord.done h.settleAt.stage.done)

theorem State.Sound.sendSplice (h : s.Sound) {op : Byte} {d a : RegNo} : Keeps (s.sendSplice op d a) := by
  unfold State.sendSplice
  split
  · exact h.finish _
  · exact .ite h.trap (.ite h.stay h.settleAt.emitRecord.done)

theorem State.Sound.handleMarker (h : s.Sound) {q : Fin 8} {r : Record} {t : State} (e : s.handleMarker q r = some t) : t.Sound := by
  unfold State.handleMarker at e
  dsimp only at e
  split at e
  · cases e
    exact h.onQueue.drainRing
  split at e
  · cases e
    exact h.onQueue
  split at e
  · split at e
    · cases e
    · cases e
      exact h.emitAll.popSplice
  split at e
  · cases e
    exact h.onQueue
  split at e
  · cases e
    exact h.onQueue.onQueue.atCore fun m => m.pendCause
  · cases e
    exact h.onQueue.failSplice

theorem State.Sound.queueHead (h : s.Sound) {q : Fin 8} {t : State} (e : s.queueHead q = .handled t) : t.Sound := by
  unfold State.queueHead at e
  split at e
  · cases e
  split at e
  · cases e
  split at e
  · split at e
    next u m => cases e; exact h.handleMarker m
    next => cases e
  · cases e

theorem State.Sound.popHead (h : s.Sound) {q : Fin 8} {r : Record} : (s.popHead q r).Sound := .ite h.popSplice h.onQueue.drainRing

theorem State.Sound.awaitRecord (h : s.Sound) {q : Fin 8} : Keeps (s.awaitRecord q) :=
  State.Sound.ite (h.waiting.finish _) (h.waiting.finish _).parkAtOnce

theorem State.Sound.elideEnd (h : s.Sound) {q : Fin 8} {i : Instr} : Keeps (s.elideEnd q i) := by
  unfold State.elideEnd
  refine h.retireAs (fun h1 => ?_)
  dsimp only
  split
  · exact h1.onQueue.finishElide
  · exact h1.onQueue

theorem State.Sound.takeHead {s0 : State} (h : s0.Sound) {v : Word} {i : Instr} {take : State → Fin 8 → Record → Result} (ktake : ∀
    {a : State}, a.Sound → ∀ {a_1 : Fin 8} {a_2 : Record}, Keeps (take a a_1 a_2)) :
    Keeps (s0.takeHead v i take) := by
  unfold State.takeHead
  split
  · exact h.trap
  · dsimp only
    split
    · exact h.drainRing.awaitRecord
    · rename_i e1
      exact (h.drainRing.queueHead e1).stay
    · exact h.drainRing.elideEnd
    · exact ktake h.drainRing

theorem execRecv_keeps (h : s.Sound) {d a b : RegNo} : Keeps (execRecv d a b s) := by
  unfold execRecv
  split
  · exact h.finish _
  · exact h.takeHead (fun h1 => ((h1.settleAt.withCore (h1.settleAt.acting.tcmWrite _).tcmMark).popHead.setG _ _).done)

theorem State.Sound.addInto (h : s.Sound) {d : RegNo} {bs : List Byte} {j : Nat} : (State.addInto d bs s j).Sound :=
  h.setVReg.raise _

theorem execRecvadd_keeps (h : s.Sound) {d a : RegNo} : Keeps (execRecvadd d a s) := by
  unfold execRecvadd
  refine .ite h.illegal ?_
  split
  · exact h.finish _
  · exact h.takeHead (fun h1 => .ite h1.trap (State.Sound.foldl (fun h2 => h2.addInto) h1 _).popHead.done)

theorem State.Sound.bindQueue (h : s.Sound) {q : Fin 8} {v ring node : Word} : Keeps (s.bindQueue q v ring node) := by
  unfold State.bindQueue
  split
  · exact h.stay
  · rename_i e
    exact (h.emptyRing e).onQueue.done

theorem State.Sound.bindRoute (h : s.Sound) {r : Fin 4} {v : Word} : Keeps (s.bindRoute r v) := by
  unfold State.bindRoute
  split
  · exact .ite h.frame.done h.trap
  · exact h.frame.done

theorem execQbind_keeps (h : s.Sound) {d a b : RegNo} : Keeps (execQbind d a b s) := by
  unfold execQbind
  dsimp only
  split
  · exact h.finish _
  · exact .ite h.trap (.ite (.ite (.ite h.trap h.onQueue.done) h.bindQueue) (.ite h.bindRoute h.frame.done))

/-! #### Splice instructions -/

theorem CoreMem.Canonical.requestSegment {c : Core} (h : c.mem.Canonical) {frame uid : Nat} :
    (c.requestSegment frame uid).mem.Canonical :=
  .ite h h.setFrame

theorem State.Sound.beginPrep (h : s.Sound) {q : Fin 8} {block : Word} {r : Record} : (s.beginPrep q block r).Sound := by
  unfold State.beginPrep
  refine .ite h.frame ?_
  split
  · exact h.frame.withCore (CoreMem.Canonical.requestSegment (by exact h.acting))
  · exact h.frame

theorem execSplPrep_keeps (h : s.Sound) {d a b : RegNo} : Keeps (execSplPrep d a b s) := by
  unfold execSplPrep
  split
  · exact h.trap
  · split
    · exact h.finish _
    · exact (h.beginPrep.setG _ _).done

theorem State.Sound.clearPrep (h : s.Sound) : s.clearPrep.Sound := h.frame

theorem execSplCmt_keeps (h : s.Sound) {d : RegNo} : Keeps (execSplCmt d s) := by
  unfold execSplCmt
  split
  · exact h.trap
  · exact .ite (h.clearPrep.setG _ _).done (.ite h.stay (.ite (h.failSplice.clearPrep.setG _ _).done (h.commitSplice.clearPrep.setG
    _ _).done))

theorem execSplAbt_keeps (h : s.Sound) : Keeps (execSplAbt s) := by
  unfold execSplAbt
  split
  · exact h.trap
  · exact .ite h.clearPrep.done h.failSplice.clearPrep.done

theorem State.Sound.startInsert (h : s.Sound) {k c : Nat} {p : Prep} {l : Loaded} {d : NodeDesc} {slot : Nat} {gen : BitVec 16} :
    (s.startInsert k c p l d slot gen).Sound :=
  h.putTcb.writeInline.startTask.atCore.localWrite

theorem State.Sound.placeInsert (h : s.Sound) {k : Nat} {p : Prep} : (s.placeInsert k p).Sound := by
  unfold State.placeInsert
  split
  · dsimp only
    split
    · split
      · exact h.atCore
      · split
        · exact h
        · rename_i e4
          exact .ite (h.emptyRing e4).startInsert.atCore (h.emptyRing e4).startInsert.atCore
    · exact h.atCore
  · dsimp only
    split
    · split
      · exact h.atCore
      · split
        · exact h
        · rename_i e4
          exact .ite (h.emptyRing e4).startInsert.atCore (h.emptyRing e4).startInsert.atCore
    · exact h.atCore

theorem State.Sound.advancePrep (h : s.Sound) {k : Nat} : (s.advancePrep k).Sound := by
  unfold State.advancePrep
  split
  · exact h
  · refine .ite h (.ite ?_ ?_)
    · split
      · exact h.placeInsert
      · exact .ite h.atCore h
    · split
      · exact h.atCore
      · split
        · exact h
        · exact h.atCore

theorem State.Sound.rebound (h : s.Sound) : s.rebound.Sound := by
  unfold State.rebound
  split
  · split <;> exact h.frame
  · exact h

/-! #### Gangs and group boundaries -/

theorem State.Sound.formGang (h : s.Sound) {m : Word} : (s.formGang m).Sound := State.Sound.foldl (fun h1 => h1.atCore) h _

theorem State.Sound.nextGroup (h : s.Sound) {x : Ctx} : (s.nextGroup x).Sound := by
  unfold State.nextGroup
  split
  · exact h.frame.putTcb
  · exact h.frame

theorem State.Sound.untilRel (h : s.Sound) {rel : Nat} : Keeps (s.untilRel rel) := State.Sound.ite (h.finish _) ((h.finish _).onX _)

theorem execYield_keeps (h : s.Sound) {a : RegNo} : Keeps (execYield a s) := by
  unfold execYield
  refine .ite h.illegal ?_
  split
  · exact h.done
  · exact .ite h.stay (.ite h.fenced.nextGroup.leaveGang.untilRel (.ite ((h.fenced.nextGroup.leaveGang.onX _).finish _) (.ite (.ite
    h.trap h.fenced.nextGroup.leaveGang.finishLeave) h.fenced.nextGroup.leaveGang.untilRel)))

/-! #### CSRs and system instructions -/

theorem State.Sound.writeCsr (h : s.Sound) {n : Nat} {v : Word} : (s.writeCsr n v).Sound := by
  unfold State.writeCsr
  split
  · exact h.frame
  · exact h.frame
  · exact h.frame
  · exact h.frame
  · exact h.frame
  · exact h.frame
  · exact h.frame
  · exact h.frame
  · exact .ite h.nisSpill (.ite h.nisReinject h)
  · exact h.endContext
  · exact h.frame
  · exact h.frame
  · exact h.frame
  · exact h.frame
  · exact h.frame
  · exact h.frame
  · exact h.frame
  · split
    · exact h.frame
    · exact h

theorem State.Sound.privileged (h : s.Sound) {i : Instr} {f : State → Result} (kf : ∀ {a : State}, a.Sound → Keeps (f a)) :
    Keeps (s.privileged i f) :=
  .ite h.trap (kf h)

theorem State.Sound.onAssigned (h : s.Sound) {i : Instr} {n : BitVec 12} {f : State → Result} (kf : ∀ {a : State}, a.Sound → Keeps
    (f a)) :
    Keeps (s.onAssigned i n f) :=
  h.privileged (fun h1 => .ite (kf h1) h1.illegal)

theorem CoreMem.Canonical.takeEvent {c : Core} (h : c.mem.Canonical) {code : BitVec 8} {v : Word} {d : Core}
    (e : c.takeEvent = some (code, v, d)) : d.mem.Canonical := by
  unfold Core.takeEvent at e
  split at e
  · cases e
    exact h
  split at e
  · cases e
    exact h
  · cases e

theorem execWfi_keeps (h : s.Sound) : Keeps (execWfi s) := by
  unfold execWfi
  refine h.privileged (fun h1 => ?_)
  split
  · rename_i e
    exact .ite h1.done ((h1.withCore (h1.acting.takeEvent e)).finish _)
  · exact .ite h1.done h1.stay

/-! #### What is taken at a clause boundary -/

theorem execIllegalWordIssue_keeps (h : s.Sound) {r : Reject} : Keeps (execIllegalWordIssue r s) := by
  unfold execIllegalWordIssue
  split <;> exact h.trap

theorem execDeferredFaultTake_keeps (h : s.Sound) : Keeps (execDeferredFaultTake s) := by
  unfold execDeferredFaultTake
  split
  · exact h
  · exact .ite (h.frame.dropFailed.enterTrap _ _ _ _) h

theorem execSystemEventTake_keeps (h : s.Sound) : Keeps (execSystemEventTake s) := by
  unfold execSystemEventTake
  split
  · exact h
  next e =>
    have taken := h.acting.takeEvent e
    refine .ite (State.Sound.enterTrap (State.Sound.withCore h ?_) _ _ _ _) h
    exact taken

theorem execUserInterruptEntry_keeps (h : s.Sound) : Keeps (execUserInterruptEntry s) := by
  unfold execUserInterruptEntry
  split
  · exact h
  · exact .ite h.enterHandler h

/-! #### Steps of the homes and the counter -/

/-- The counter takes its next value while it has one: what is visible stays of the past. -/
theorem State.Sound.advanceInstant (h : s.Sound) (n : s.dev.now + 1 < 2 ^ 56) : s.advanceInstant.Sound := by
  obtain ⟨hp, hle⟩ := h.history
  have next := h.withHistory (t := s.onDev (fun d => { d with
      now := s.dev.now + 1, ending := false, iperiodNext := none,
      missed := if (s.dev.now + 1) % 64 = 0 ∧ !s.isMaster then d.missed + 1 else d.missed }))
    h.versions ⟨hp, fun v hv => Nat.le_succ_of_le (hle v hv)⟩ n
  unfold State.advanceInstant
  split
  · exact next.setShReg
  · exact next

theorem State.Sound.reclaimDue (h : s.Sound) : s.reclaimDue.Sound := h.frame

theorem State.broadcast_now (s : State) (t : Nat) : (s.broadcast t).dev.now = s.dev.now := by
  unfold State.broadcast
  split <;> rfl

/-- The new instant has begun, and nothing of it is visible yet. -/
def State.boundaryBegun (s : State) : State := (s.reclaimDue.broadcast s.dev.now).advanceInstant

theorem State.Sound.boundaryBegun (h : s.Sound) (n : s.dev.now + 1 < 2 ^ 56) : s.boundaryBegun.Sound := by
  refine h.reclaimDue.broadcast.advanceInstant ?_
  rw [State.broadcast_now]
  exact n

/-- The boundary as a whole: the pages of the new instant are carried, and the homes apply it. -/
def State.afterBoundary (s : State) : State :=
  let s2 := (s.boundaryBegun.carryPages s.boundaryBegun.dev.now).applyInstant s.boundaryBegun.dev.now
  s2.onDisp (fun d => { d with recs := d.recs.map s2.atHead })

theorem State.Sound.afterBoundary (h : s.Sound) (n : s.dev.now + 1 < 2 ^ 56) : s.afterBoundary.Sound := by
  unfold State.afterBoundary
  obtain ⟨carried, at_now⟩ := (h.boundaryBegun n).carryPages
  have applied := carried.applyInstant at_now.symm
  exact applied.onDisp _

theorem execInstantBoundary_next (n : s.dev.now + 1 < 2 ^ 56) : execInstantBoundary s = .next s.afterBoundary := by
  refine if_neg ?_
  unfold lastInstant
  omega

theorem execInstantBoundary_last (n : s.dev.now + 1 = 2 ^ 56) : execInstantBoundary s = .next s := by
  refine if_pos ?_
  unfold lastInstant
  omega

theorem execInstantBoundary_keeps (h : s.Sound) : Keeps (execInstantBoundary s) := by
  rcases Nat.lt_or_eq_of_le (Nat.succ_le_of_lt h.clock) with n | n
  · rw [execInstantBoundary_next n]
    exact h.afterBoundary n
  · rw [execInstantBoundary_last n]
    exact h

theorem State.Sound.storeFault (h : s.Sound) {t : TStore} {cause : BitVec 8} : (s.storeFault t cause).Sound := by
  unfold State.storeFault
  split
  · exact h.answer
  · exact h.hostRefused
  · exact h
  · split
    · exact h.setRemote
    · refine h.asOther (fun h1 => ?_)
      split
      · exact .ite h1 h1.abandonCopy
      · exact h1
    · exact h.asOther (fun h1 => h1.deferFor)

theorem execHomeStoreAccept_keeps (h : s.Sound) {n : Nat} : Keeps (execHomeStoreAccept n s) := by
  unfold execHomeStoreAccept
  split
  · exact h
  · split
    · exact h
    · exact .ite h (.ite h.frame.storeFault (.ite h (.ite h.frame.storeFault h.frame.sendAccess.acceptStore)))

theorem execHomeLoadRequest_keeps (h : s.Sound) {core tag : Nat} : Keeps (execHomeLoadRequest core tag s) := by
  unfold execHomeLoadRequest
  split
  · exact h
  · split
    · exact .ite h h.sendAccess.setRemote
    · exact h

theorem execRoCacheFill_keeps (h : s.Sound) {core tag : Nat} : Keeps (execRoCacheFill core tag s) := by
  unfold execRoCacheFill
  split
  · exact h
  · split
    · refine .ite h ?_
      split
      · exact h.sendAccess.roPut.setRemote
      · exact h.setRemote
    · exact h

theorem execStoreAck_keeps (h : s.Sound) {n : Nat} : Keeps (execStoreAck n s) := by
  unfold execStoreAck
  split
  · exact h
  · exact .ite h h.frame

theorem execLateReport_keeps (h : s.Sound) {n : Nat} : Keeps (execLateReport n s) := by
  unfold execLateReport
  split
  · exact h
  · exact .ite h (h.frame.atCore (fun h1 => h1.lateReport)).lateDrop

theorem execTieReport_keeps (h : s.Sound) {n : Nat} : Keeps (execTieReport n s) := by
  unfold execTieReport
  split
  · exact h
  · exact .ite h (h.frame.atCore (fun h1 => h1.tieReport))

theorem State.Sound.replyBank (h : s.Sound) {k : Nat} {r : Remote} : (s.replyBank k r).Sound := by
  unfold State.replyBank
  refine h.asOther (fun h1 => ?_)
  split
  · exact h1.writeReply.addStride
  · exact h1.addStride

theorem State.Sound.replyParked (h : s.Sound) {k : Nat} {r : Remote} : (s.replyParked k r).Sound := by
  unfold State.replyParked
  exact (State.Sound.ite h.replyBank h).onDisp _

theorem execRemoteReply_keeps (h : s.Sound) {core tag : Nat} : Keeps (execRemoteReply core tag s) := by
  unfold execRemoteReply
  split
  · exact .ite (h.asOther (fun h1 => h1.replyHere)) h
  · split
    · exact h
    · exact .ite h.replyParked h

theorem execTaskPurgeSend_keeps (h : s.Sound) {n : Nat} : Keeps (execTaskPurgeSend n s) := by
  unfold execTaskPurgeSend
  split
  · exact h
  · exact .ite h (State.Sound.foldl (fun h1 => h1.route) h.frame _)

theorem execPurgeApply_keeps (h : s.Sound) {n home : Nat} : Keeps (execPurgeApply n home s) := by
  unfold execPurgeApply
  split
  · exact h
  · exact .ite h h.frame

theorem execFaultPolicyApply_keeps (h : s.Sound) {n : Nat} : Keeps (execFaultPolicyApply n s) := by
  unfold execFaultPolicyApply
  split
  · exact h
  · refine .ite h (.ite h.frame ?_)
    split
    · exact h.frame.applyPolicy
    · exact h.frame

/-! #### Steps of the network interfaces -/

theorem State.Sound.logTaken (h : s.Sound) {k n : Nat} : (s.logTaken k n).Sound := by
  unfold State.logTaken
  split
  · exact h.takeMsg.logArrival
  · exact h

theorem execRecordArrival_keeps (h : s.Sound) {n : Nat} : Keeps (execRecordArrival n s) := by
  unfold execRecordArrival
  split
  · exact .ite h (.ite h.takeMsg (.ite h.logTaken (.ite h.takeMsg.arrive h)))
  · exact h

theorem CoreMem.Canonical.mailboxArrival {c : Core} (h : c.mem.Canonical) {w : BitVec 2} {v : Word} :
    (c.mailboxArrival w v).mem.Canonical := by
  refine CoreMem.Canonical.pendCause ?_
  exact h

theorem execMailboxWrite_keeps (h : s.Sound) {n : Nat} : Keeps (execMailboxWrite n s) := by
  unfold execMailboxWrite
  split
  · exact .ite (h.takeMsg.atCore (fun h1 => h1.mailboxArrival)) h.takeMsg
  · exact h

theorem State.Sound.expireSplice (h : s.Sound) {k : Nat} {r : Record} : (s.expireSplice k r).Sound := by
  unfold State.expireSplice
  exact h.failSplice.atCore

theorem execSpliceWatchdogExpiry_keeps (h : s.Sound) {core queue : Nat} : Keeps (execSpliceWatchdogExpiry core queue s) := by
  unfold execSpliceWatchdogExpiry
  refine .ite ?_ h
  dsimp only
  split
  · exact h
  · refine .ite h ?_
    split
    · exact h
    · exact .ite h.expireSplice h

theorem State.Sound.queueSeam (h : s.Sound) {k : Nat} {q : Fin 8} {src : Nat} : (s.queueSeam k q src).Sound := by
  unfold State.queueSeam
  exact h.enqueue.atCore

theorem execSeamArrival_keeps (h : s.Sound) {n : Nat} : Keeps (execSeamArrival n s) := by
  unfold execSeamArrival
  split
  · exact .ite h (.ite h.logTaken (.ite (.ite h.takeMsg.queueSeam h) (.ite h.takeMsg.seamAt h)))
  · exact h

theorem execSeamSeenReport_keeps (h : s.Sound) {n : Nat} : Keeps (execSeamSeenReport n s) := by
  unfold execSeamSeenReport
  split
  · exact .ite h.takeMsg.atCore h.takeMsg
  · exact h

theorem State.Sound.applyLink (h : s.Sound) {src oldEp newEp asker serial reply : Nat} :
    (s.applyLink src oldEp newEp asker serial reply).Sound :=
  (State.Sound.ite h.emitSeam.atCore h).post

theorem execSpliceLink_keeps (h : s.Sound) {n : Nat} : Keeps (execSpliceLink n s) := by
  unfold execSpliceLink
  split
  · exact .ite h.takeMsg.applyLink h.takeMsg
  · exact h

theorem execLinkAck_keeps (h : s.Sound) {n : Nat} : Keeps (execLinkAck n s) := by
  unfold execLinkAck
  split
  · exact h.takeMsg.postReport
  · exact h

theorem State.Sound.refuseSend (h : s.Sound) {k run : Nat} : (s.refuseSend k run).Sound := .ite h.deferTask (.ite h.atCore h)

theorem State.Sound.unstage (h : s.Sound) {k n : Nat} : (s.unstage k n).Sound := h.atCore

theorem execStagedMessageSent_keeps (h : s.Sound) {core n : Nat} : Keeps (execStagedMessageSent core n s) := by
  unfold execStagedMessageSent
  dsimp only
  split
  · exact h
  · exact .ite h (.ite h.unstage.route (.ite h.unstage.refuseSend (.ite h.unstage.route h)))

/-! #### Steps of the device and the outside -/

theorem State.Sound.walkLoad (h : s.Sound) {k tag : Nat} {r : Remote} : (s.walkLoad k tag r).Sound := by
  unfold State.walkLoad
  dsimp only
  split
  · exact h.setRemote.countRemote
  · exact h.setRemote

theorem State.Sound.walkStore (h : s.Sound) {n : Nat} {t : TStore} : (s.walkStore n t).Sound := by
  unfold State.walkStore
  split
  · exact h.frame.countRemote
  · exact h.frame.storeFault

theorem execPageWalk_keeps (h : s.Sound) {w : WalkRef} : Keeps (execPageWalk w s) := by
  unfold execPageWalk
  split
  · split
    · exact .ite h.walkLoad h
    · exact h
  · split
    · exact .ite h.walkStore h
    · exact h

theorem State.Sound.regWrite (h : s.Sound) {src : RegSrc} {sh off : Nat} {v : Word} : (s.regWrite src sh off v).Sound := by
  unfold State.regWrite
  split <;> exact .ite h.writeReg h

theorem execRegisterWrite_keeps (h : s.Sound) {src : RegSrc} {shingle offset : Nat} {bytes : List Byte} :
    Keeps (execRegisterWrite src shingle offset bytes s) := by
  unfold execRegisterWrite
  split <;> exact .ite h.writeBytes h

theorem execMoveComplete_keeps (h : s.Sound) {n : Nat} : Keeps (execMoveComplete n s) := by
  unfold execMoveComplete
  split
  · exact h
  · split
    · exact h
    · exact .ite h.endMove h

theorem execDispenserHomeMove_keeps (h : s.Sound) {part va frame inst : Nat} :
    Keeps (execDispenserHomeMove part va frame inst s) := by
  unfold execDispenserHomeMove
  split
  · exact .ite h h.setShReg.setShReg.setShReg.pmCommand
  · exact h

theorem CoreMem.foldl_setFrame {m : CoreMem} (h : m.Canonical) (fs : List Nat) (v : Frame) :
    (fs.foldl (fun m f => m.setFrame f v) m).Canonical := by
  induction fs generalizing m with
  | nil => exact h
  | cons f fs ih => exact ih h.setFrame

theorem CoreMem.Canonical.reload {m : CoreMem} (h : m.Canonical) {i : SupImage} : (m.reload i).Canonical :=
  CoreMem.foldl_setFrame ⟨Memory.wf_foldl (fun w => Memory.wf_writeAll _ w) h.1 _, Memory.wf_foldl (fun w => Memory.wf_writeAll _ w) h.2 _⟩ _ _

theorem State.Sound.reloadSupervisor (h : s.Sound) {i : SupImage} : (s.reloadSupervisor i).Sound :=
  State.Sound.foldl (fun h1 => h1.writeCsr) ((h.onMem _ (fun h1 => h1.reload)).onCsr _) _

theorem State.Sound.ridgeRecover (h : s.Sound) {k : Nat} {cause : BitVec 8} {i : SupImage} : (s.ridgeRecover k cause i).Sound := by
  refine h.asOther fun h => State.Sound.reloadSupervisor (State.Sound.onX (State.Sound.freeCore (State.Sound.endContext ?_)) _)
  exact h.leaveGang.pushImage h.leaveGang.acting

theorem State.Sound.windowAt (h : s.Sound) {k : Nat} {sup : Bool} {v : Word} {i : SupImage} : (s.windowAt k sup v i).Sound :=
  .ite h (.ite h.ridgeRecover h.atCore)

theorem State.Sound.evaluate (h : s.Sound) {cl : Nat} {tj : ℤ} {pw : Nat} {hot drawing : List Nat → List Nat} :
    (s.evaluate cl tj pw hot drawing).Sound :=
  h.frame.setShReg

theorem State.Sound.requestMove (h : s.Sound) {why : BitVec 2} {k : Nat} : (s.requestMove why k).Sound := by
  unfold State.requestMove
  dsimp only
  split
  · exact h
  · refine .ite h ?_
    split
    · exact h
    · exact h.atCore

theorem execMigrationDeadline_keeps (h : s.Sound) {core : Nat} : Keeps (execMigrationDeadline core s) := by
  unfold execMigrationDeadline
  split
  · exact h
  · exact .ite h.deadlineStop h

theorem State.Sound.hostStep (h : s.Sound) {port : Nat} {f : State → State} (kf : ∀ {a : State}, a.Sound → (f a).Sound) :
    Keeps (s.hostStep port f) :=
  .ite (kf h) h

theorem execPowerLoss_keeps : Keeps (execPowerLoss s) := State.Sound.unpowered (s := s)

/-! #### Steps of dispatch and the engines -/

theorem State.Sound.atOwner (h : s.Sound) {n : Nat} {f : State → Body → State} (kf : ∀ {a : State}, a.Sound → ∀ {a_1 : Body}, (f a
    a_1).Sound) :
    Keeps (s.atOwner n f) := by
  unfold State.atOwner
  split
  · exact h
  · exact .ite h (kf h.takeMsg)

theorem execPublish_keeps (h : s.Sound) {n : Nat} : Keeps (execPublish n s) := by
  unfold execPublish
  split
  · exact h.atOwner (fun h1 => h1.applyRecord)
  · exact h.atOwner (fun h1 => h1.applyTaskRecord)
  · exact h

theorem execSignal_keeps (h : s.Sound) {n : Nat} : Keeps (execSignal n s) := by
  unfold execSignal
  split
  · exact h.atOwner (fun h1 => h1.applyRecord)
  · exact h

theorem execHeldGenerationApply_keeps (h : s.Sound) {n : Nat} : Keeps (execHeldGenerationApply n s) := by
  unfold execHeldGenerationApply
  split
  · exact h
  · exact .ite h h.frame.applyRecord

theorem execTcbReclaim_keeps (h : s.Sound) {n : Nat} : Keeps (execTcbReclaim n s) := by
  unfold execTcbReclaim
  split
  · exact h
  · exact .ite h.frame h

theorem State.Sound.setRec (h : s.Sound) {n : Nat} {r : QRec} : (s.setRec n r).Sound := h.frame

theorem execClusterRecordArrival_keeps (h : s.Sound) {n : Nat} : Keeps (execClusterRecordArrival n s) := by
  unfold execClusterRecordArrival
  split
  · exact h
  · exact .ite h (.ite h.setRec (.ite h.setRec (.ite h h.setRec.count)))

theorem execOverflowReturn_keeps (h : s.Sound) {n : Nat} : Keeps (execOverflowReturn n s) := by
  unfold execOverflowReturn
  split
  · exact h
  · exact .ite h.setRec h

theorem execTakeRecord_keeps (h : s.Sound) {core : Nat} : Keeps (execTakeRecord core s) := by
  unfold execTakeRecord
  refine .ite ?_ h
  dsimp only
  split
  · exact h
  · exact (h.ageAll.onDisp _).runRecord

theorem execPriorityAging_keeps (h : s.Sound) {n : Nat} : Keeps (execPriorityAging n s) := by
  unfold execPriorityAging
  split
  · exact h
  · exact .ite h.setRec h

theorem execNearHintExpiry_keeps (h : s.Sound) {n : Nat} : Keeps (execNearHintExpiry n s) := by
  unfold execNearHintExpiry
  split
  · exact h
  · split
    · exact .ite h.setRec h
    · exact h

theorem execYieldResume_keeps (h : s.Sound) {core : Nat} : Keeps (execYieldResume core s) := by
  unfold execYieldResume
  split
  · exact .ite h.atCore h
  · exact h

theorem execGangWaitSplit_keeps (h : s.Sound) {core : Nat} : Keeps (execGangWaitSplit core s) := by
  unfold execGangWaitSplit
  split
  · exact .ite (h.leaveGangOf _ _) h
  · exact h

theorem execFuseTimeout_keeps (h : s.Sound) {core : Nat} : Keeps (execFuseTimeout core s) := by
  unfold execFuseTimeout
  split
  · exact .ite h.atCore h
  · exact h

theorem State.Sound.engineStep (h : s.Sound) {core : Nat} {f : State → State} (kf : ∀ {a : State}, a.Sound → (f a).Sound) :
    Keeps (s.engineStep core f) :=
  .ite (h.asOther (fun h1 => kf h1)) h

theorem execCopyAccept_keeps (h : s.Sound) {core : Nat} : Keeps (execCopyAccept core s) := by
  unfold execCopyAccept
  refine h.engineStep (fun h1 => ?_)
  split
  · exact .ite h1.frame h1
  · exact h1

theorem execCopyComplete_keeps (h : s.Sound) {core tag : Nat} : Keeps (execCopyComplete core tag s) := by
  unfold execCopyComplete
  refine h.engineStep (fun h1 => ?_)
  split
  · exact .ite h1.finishCopy h1
  · exact h1

theorem execCodeFetchComplete_keeps (h : s.Sound) {core frame : Nat} {clause : Option Nat} :
    Keeps (execCodeFetchComplete core frame clause s) := by
  unfold execCodeFetchComplete
  refine h.engineStep (fun h1 => .ite h1 ?_)
  split
  · exact h1.landClause
  · exact h1.completeFetch

theorem State.Sound.dropLoad (h : s.Sound) {slot : Nat} : (s.dropLoad slot).Sound := h.frame

theorem execMloadLand_keeps (h : s.Sound) {core slot : Nat} : Keeps (execMloadLand core slot s) := by
  refine h.engineStep fun h => ?_
  split
  · exact h
  · extract_lets i
    split
    · exact h
    · exact (h.dropLoad.onMat _).deferFor
    · exact (State.Sound.foldl (fun h => .ite h h.noteReadN) h _).dropLoad.onMat _

theorem State.Sound.performLoad (h : s.Sound) {n w : Nat} : (s.performLoad n w).Sound := by
  unfold State.performLoad
  split
  · exact h
  · exact .ite (h.frame.takeWord _ _) h

theorem execBankAccessPerformed_keeps (h : s.Sound) {core : Nat} {b : BankRef} : Keeps (execBankAccessPerformed core b s) := by
  unfold execBankAccessPerformed
  refine h.engineStep (fun h1 => ?_)
  split
  · split
    · exact h1
    · exact .ite h1 (h1.frame.performStore _ _)
  · exact h1.performLoad
  · split
    · exact .ite h1.copyRead h1
    · exact h1
  · split
    · exact .ite h1.copyWord h1
    · exact h1
  · split
    · exact h1.performAppend
    · exact h1

theorem execStreamDataArrival_keeps (h : s.Sound) {core port : Nat} : Keeps (execStreamDataArrival core port s) := by
  unfold execStreamDataArrival
  refine h.engineStep (fun h1 => ?_)
  split
  · exact h1.fetchUnit
  · exact h1

theorem execMatrixInstructionDone_keeps (h : s.Sound) {core : Nat} : Keeps (execMatrixInstructionDone core s) := by
  unfold execMatrixInstructionDone
  refine h.engineStep (fun h1 => ?_)
  split
  · exact h1
  · exact h1.frame.raise _

/-! #### Every instruction -/

/-- Every instruction and every step without a word keeps the invariant. -/
theorem exec_keeps (h : s.Sound) {i : Instr} : Keeps (exec i s) := by
  unfold exec
  cases i with
  | add | sub | and | or | xor | andn | shl | shr | sra | rol | slt | sltn | min | max | minn | maxn | sel | addi
  | andi | ori | xori | shli | shri | srai | roli | movi | movs | mul | mulh | mulhn | div | divn | rem | remn | clz
  | ctz | pop | brev | sext | zext | bext | bins => exact h.setDone
  | vadd | vsub | vmul | vmulh | vmulhn | vmin | vmax | vminn | vmaxn | vand | vor | vxor | vandn | vshl | vshr | vsra
  | vadds | vaddsn | vsubs | vsubsn | vavg | vavgn | vshuf | vzip | vunzip | vsel => exact h.vec2
  | vabs | vneg | vrot | vmov | vpop | vclz | vctz => exact h.vec1
  | vcmpeq | vcmpne | vcmplt | vcmple | vcmpltn | vcmplen => exact h.compareInt
  | vfcmpeq | vfcmplt | vfcmple | vfcmpun => exact h.compareFp
  | vfadd | vfsub | vfmul | vfmin | vfmax => exact h.fp2
  | vfabs | vfneg | vfrcp | vfrsq => exact h.fp1
  | vfma | vfms | vfnma | vfnms => exact h.fp3
  | vmac | vmacn => exact h.vec3
  | vsplat | vins | vfredadd => exact h.withPorts (fun h1 => h1.finishV)
  | vext => exact h.withPorts (fun h1 => h1.takeUnits.setDone)
  | vredadd | vredmin | vredmax | vredminn | vredmaxn => exact h.reduce
  | vdot8 | vdot8n => exact h.dot8
  | vcvt => exact .ite h.illegal (h.withPorts (fun h1 => h1.finishV))
  | vdec | venc | segev => exact h.withPorts (fun h1 => .ite h1.stay h1.finishV)
  | beq | bne | blt | bge | bltn | bgen | bpany | bpnone => exact h.branchIf
  | jal => exact (h.setG _ _).pushRas.finish _
  | j | trap => exact h.finish _
  | jr => exact h.jumpReg h
  | jalr => exact h.jumpReg (h.setG _ _).pushRas
  | ret => exact h.jumpReg h.frame
  | fjmp => exact .ite (h.jumpReg h) h.trap
  | loop => exact execLoop_keeps h
  | loopx => exact execLoopx_keeps h
  | fuse => exact .ite h.frame.done (.ite h.frame.done (.ite h.frame.done (.ite h.formGang.done h.frame.stay)))
  | split => exact h.dissolveGang.done
  | yield => exact execYield_keeps h
  | park => exact .ite h.illegal (.ite h.trap (.ite h.trap (.ite h.stay h.drainAll.finishLeave)))
  | ldb | ldh | ldw | ldd => exact h.scalarLoad
  | stb | sth | stw | std => exact h.scalarStore
  | vld => exact execVld_keeps h
  | vst => exact execVst_keeps h
  | aadd | aand | aor | axor | amin | amax | aminn | amaxn | aswap | acas | afadd => exact h.atomic
  | fence => exact .ite h.stay h.fenced.done
  | seti | uien | uidis => exact h.frame.done
  | rds => exact execRds_keeps h
  | wrs => exact execWrs_keeps h
  | qrd => exact execQrd_keeps h
  | qst => exact execQst_keeps h
  | xcopy => exact execXcopy_keeps h
  | xstat => exact execXstat_keeps h
  | xwait => exact execXwait_keeps h
  | sbind => exact execSbind_keeps h
  | sunbind => exact execSunbind_keeps h
  | sstat => exact execSstat_keeps h
  | cfetch => exact execCfetch_keeps h
  | cstat | qstat => exact (h.setG _ _).done
  | dtld => exact execDtld_keeps h
  | segld => exact execSegld_keeps h
  | mclaim => exact .ite h.setSlot.done h.slotFault
  | mrel => exact execMrel_keeps h
  | mload => exact execMload_keeps h
  | mstore => exact execMstore_keeps h
  | mzero | mtr => exact h.setAcc.done
  | mma => exact execMma_keeps h
  | mmas => exact execMmas_keeps h
  | mscale => exact execMscale_keeps h
  | mcvt => exact .ite h.illegal (.ite h.slotFault (.ite h.stay h.setSlot.matrixDone))
  | tspawn => exact execTspawn_keeps h
  | tpub | tsig => exact h.toOwner.done
  | tret => exact h.retireAs (fun h1 => h1)
  | targ => exact execTarg_keeps h
  | send => exact execSend_keeps h
  | recv => exact execRecv_keeps h
  | recvadd => exact execRecvadd_keeps h
  | qbind => exact execQbind_keeps h
  | spliceIns | spliceEli | spliceReb => exact h.sendSplice
  | splPrep => exact execSplPrep_keeps h
  | splCmt => exact execSplCmt_keeps h
  | splAbt => exact execSplAbt_keeps h
  | uiret => exact .ite (h.rebound.finish _) h.illegal
  | csrr => exact h.onAssigned (fun h1 => (h1.setG _ _).done)
  | csrw | csrs | csrc => exact h.onAssigned (fun h1 => h1.writeCsr.done)
  | xret => exact h.privileged (fun h1 => h1.finish _)
  | wfi => exact execWfi_keeps h
  | illegalWordIssue => exact execIllegalWordIssue_keeps h
  | doubleTrapRecovery => exact .ite h.ridgeRecover h
  | deferredFaultTake => exact execDeferredFaultTake_keeps h
  | systemEventTake => exact execSystemEventTake_keeps h
  | userInterruptEntry => exact execUserInterruptEntry_keeps h
  | instantBoundary => exact execInstantBoundary_keeps h
  | homeStoreAccept => exact execHomeStoreAccept_keeps h
  | homeLoadRequest => exact execHomeLoadRequest_keeps h
  | roCacheFill => exact execRoCacheFill_keeps h
  | storeAck => exact execStoreAck_keeps h
  | lateReport => exact execLateReport_keeps h
  | tieReport => exact execTieReport_keeps h
  | remoteReply => exact execRemoteReply_keeps h
  | taskPurgeSend => exact execTaskPurgeSend_keeps h
  | purgeApply => exact execPurgeApply_keeps h
  | faultPolicyApply => exact execFaultPolicyApply_keeps h
  | publish => exact execPublish_keeps h
  | signal => exact execSignal_keeps h
  | heldGenerationApply => exact execHeldGenerationApply_keeps h
  | tcbReclaim => exact execTcbReclaim_keeps h
  | clusterRecordArrival => exact execClusterRecordArrival_keeps h
  | overflowReturn => exact execOverflowReturn_keeps h
  | takeRecord => exact execTakeRecord_keeps h
  | priorityAging => exact execPriorityAging_keeps h
  | nearHintExpiry => exact execNearHintExpiry_keeps h
  | autoPark => exact .ite (h.asOther (fun h1 => h1.parkWaiting)) h
  | yieldResume => exact execYieldResume_keeps h
  | gangWaitSplit => exact execGangWaitSplit_keeps h
  | fuseTimeout => exact execFuseTimeout_keeps h
  | copyAccept => exact execCopyAccept_keeps h
  | copyComplete => exact execCopyComplete_keeps h
  | codeFetchComplete => exact execCodeFetchComplete_keeps h
  | dtldComplete => exact h.engineStep (fun h1 => h1.completeDtld)
  | segldComplete => exact h.engineStep (fun h1 => h1.completeSegld)
  | mloadLand => exact execMloadLand_keeps h
  | recordArrival => exact execRecordArrival_keeps h
  | mailboxWrite => exact execMailboxWrite_keeps h
  | spliceWatchdogExpiry => exact execSpliceWatchdogExpiry_keeps h
  | splicePrepEnd => exact .ite h.advancePrep h
  | seamArrival => exact execSeamArrival_keeps h
  | seamSeenReport => exact execSeamSeenReport_keeps h
  | spliceLink => exact execSpliceLink_keeps h
  | linkAck => exact execLinkAck_keeps h
  | flitReceive => exact h.flit
  | portDown => exact h.portFails
  | portReroute => exact h.reroute
  | fabricInboundRequest => exact h.inbound
  | timeBeacon => exact h.beacon
  | beaconSend => exact .ite h.sendBeacons h
  | lockLoss => exact .ite h.setLock h
  | pageWalk => exact execPageWalk_keeps h
  | tmcmdMap | tmcmdUnmap | sccmdStop | sccmdRestore | exclusionWrite => exact .ite h.regWrite h
  | tmCommandComplete => exact h.tmComplete
  | pmcmdMove | vdreqWrite | mgcmdMove | drelWrite | dabortWrite | digestStart => exact h.regWrite
  | homeHandover | handoverApply => exact h.onMove
  | moveComplete => exact execMoveComplete_keeps h
  | dispenserHomeMove => exact execDispenserHomeMove_keeps h
  | vdDrainDone => exact h.vdDrained
  | vdSwitchDone => exact h.vdSwitched
  | droopDetect => exact State.Sound.foldl (fun h1 => h1.windowAt) h.frame _
  | coreArrayError => exact h.windowAt
  | clusterWithhold => exact .ite (State.Sound.foldl (fun h1 => h1.requestMove) h.evaluate _) h.evaluate
  | clusterUnwithhold => exact h.evaluate
  | starvationGrant => exact h.frame
  | xmigRidgeWrite => exact .ite h.atCore h
  | migrationDeadline => exact execMigrationDeadline_keeps h
  | xtendWrite => exact h.endContext
  | xnisSpill => exact h.nisSpill
  | xnisReinject => exact h.nisReinject
  | copySquash => exact .ite h h.squashCopies
  | copyReissue => exact h.reissue
  | coreStop => exact h.stopNow
  | imageStreamDone => exact h.streamImage
  | restoreDone => exact h.restoreNow
  | mgcmdDone => exact h.moveNow
  | stragglerForward => exact h.forward
  | drainMarkerSend => exact h.sendMarkers
  | drainMarker => exact h.takeMarker
  | dheldRead => exact h.readReg
  | digestDone => exact h.endDigest
  | hostEnqueueWrite => exact h.hostStep (fun h1 => h1.hostEnqueue)
  | hostMailboxWrite => exact h.hostStep (fun h1 => h1.hostMailbox)
  | hostCopyToModule | hostCopyToHost => exact h.hostStep (fun h1 => h1.hostStart)
  | hostCopyDone => exact h.hostDone
  | fwUpdate => exact h.advanceUpdate
  | fwReconfigure => exact .ite h.fwCommand h
  | fwHeartbeat => exact h.heartbeat
  | fwHeartbeatTimeout => exact h.rollBack
  | iperiodWrite => exact h.writePeriod
  | thermalTrip => exact h.trip
  | triprstWrite => exact h.tripReset
  | powerOn => exact h.bringUp
  | powerLoss => exact execPowerLoss_keeps
  | registerWrite => exact execRegisterWrite_keeps h
  | bankAccessPerformed => exact execBankAccessPerformed_keeps h
  | streamDataArrival => exact execStreamDataArrival_keeps h
  | matrixInstructionDone => exact execMatrixInstructionDone_keeps h
  | xnisCommandDone => exact h.asOther (fun h1 => h1.nisDone)
  | stagedMessageSent => exact execStagedMessageSent_keeps h
  | purlinPortUp => exact h.portUp
  | imageLoad => exact h.loadImage

/-! #### Issue -/

theorem CoreMem.Canonical.capture {c : Core} (h : c.mem.Canonical) {a w : Nat} : (c.capture a w).mem.Canonical := .ite h h

theorem State.Sound.loadsUsed (h : s.Sound) {i : Instr} : (s.loadsUsed i).Sound := (h.drain _).loadsDone _

theorem State.Sound.stayPending (h : s.Sound) {m : Remote} : (s.stayPending m).Sound := by
  unfold State.stayPending
  split
  · exact .ite h.waiting h.waiting
  · exact h.waiting

theorem State.Sound.issueWord (h : s.Sound) {w : IWord} {i : Option Instr} : Keeps (s.issueWord w i) := by
  unfold State.issueWord
  split
  · exact exec_keeps h
  · split
    · exact h.stayPending
    · exact exec_keeps h.loadsUsed

theorem State.Sound.forWord1 {sm : State} (h : sm.Sound) : (sm.forWord1 s).Sound := h.frame

theorem State.Sound.joinPair {sm sa : State} (hsa : sa.Sound) {a : Instr} : (State.joinPair a sm sa).Sound := by
  unfold State.joinPair
  refine State.Sound.onX ?_ _
  split
  · exact hsa.frame.performLeave
  · exact hsa.frame.applyFlow _

theorem State.Sound.issuePair (h : s.Sound) {m : Instr} {w1 : IWord} : Keeps (s.issuePair m w1) := by
  unfold State.issuePair
  split
  · exact trivial
  · exact trivial
  next sm em =>
    have hm : sm.Sound := (exec_keeps h.frame).of_next em
    split
    · exact h.enterTrap _ _ _ _
    · split
      · exact exec_keeps h
      · split
        · exact trivial
        · exact trivial
        next sa esa =>
          have ha : sa.Sound := (exec_keeps (hm.forWord1)).of_next esa
          cases sa.core.x.flow with
          | trap => exact h.enterTrap _ _ _ _
          | stay =>
            cases sm.core.x.flow with
            | stay => exact State.Sound.parkAtOnce (hm.onX _)
            | _ => exact h.frame
          | _ =>
            cases sm.core.x.flow with
            | stay => exact State.Sound.parkAtOnce (hm.onX _)
            | _ => exact ha.joinPair

theorem State.Sound.issueWords (h : s.Sound) {m : Instr} {w1 : IWord} : Keeps (s.issueWords m w1) := by
  unfold State.issueWords
  refine .ite h.issuePair ?_
  split
  · exact h.stayPending
  · split
    · exact h.loadsUsed.issuePair
    · split
      · exact h.stayPending
      · exact h.loadsUsed.loadsUsed.issuePair

theorem State.Sound.issueClause (h : s.Sound) {w : Nat} : Keeps (s.issueClause w) := by
  unfold State.issueClause
  refine .ite h.issueWord (.ite h.issueWord (.ite (exec_keeps h) ?_))
  split
  · exact exec_keeps h
  · exact h.issueWords

theorem State.Sound.issueAlone (h : s.Sound) : Keeps s.issueAlone := by
  unfold State.issueAlone
  split
  · exact exec_keeps h
  · exact .ite h (.ite (exec_keeps h) ((h.withCore h.acting.capture).onX _).issueClause)

theorem State.Sound.issueAs (h : s.Sound) {k w : Nat} : Keeps (s.issueAs k w) :=
  ((h.actAs _).withCore (h.actAs _).acting.capture).issueClause

theorem State.Sound.blockedMembers (h : s.Sound) {w : Nat} {ks : List Nat} {t : State} {b : Bool}
    (e : Machine.blockedMembers w ks s = (t, b)) : t.Sound := by
  suffices k : (Machine.blockedMembers w ks s).1.Sound by rw [e] at k; exact k
  clear e
  induction ks generalizing s with
  | nil => exact h
  | cons k ks ih =>
    unfold Machine.blockedMembers
    split
    next u eu =>
      split
      · exact ih (h.issueAs.of_next eu)
      · exact ih (.ite (h.atCore fun m => m) h)
    · exact ih h

theorem gangIssue_keeps {s0 : State} (h0 : s0.Sound) (h : s.Sound) {w : Nat} {ks : List Nat} : Keeps (gangIssue w s0 ks s) := by
  induction ks generalizing s with
  | nil => exact h
  | cons k ks ih =>
    unfold gangIssue
    split
    · exact trivial
    · exact trivial
    next u eu => exact .ite (h0.actAs _).frame (ih (h.issueAs.of_next eu))

theorem State.Sound.splitApart (h : s.Sound) {before : State} {w : Nat} {members : List Nat} :
    (s.splitApart before w members).Sound := by
  unfold State.splitApart
  split
  · exact h
  · exact State.Sound.foldl (fun h1 => .ite h1 (h1.leaveGangOf _ _)) h _

theorem State.Sound.gangClause (h : s.Sound) {members : List Nat} : Keeps (s.gangClause members) := by
  unfold State.gangClause
  refine .ite (h.actAs _).issueAlone ?_
  dsimp only
  split
  · rename_i e
    exact (h.blockedMembers e).actAs _
  · split
    · rename_i e1
      exact (((gangIssue_keeps h h).of_next e1).splitApart).actAs _
    · exact gangIssue_keeps h h

theorem State.Sound.issueGang (h : s.Sound) : Keeps s.issueGang := by
  unfold State.issueGang
  dsimp only
  split
  · exact (h.actAs _).issueAlone
  · split
    · exact .ite h.gangClause (h.actAs _).issueAlone
    · exact h.gangClause

theorem State.Sound.tickMembers (h : s.Sound) : s.tickMembers.Sound := State.Sound.foldl (fun h1 => h1.atCore) h _

theorem State.Sound.issue (h : s.Sound) : Keeps s.issue :=
  .ite (exec_keeps h.tickCore) (.ite h (.ite h.tickCore.issueAlone (.ite h (.ite h.tickMembers.tickCore.issueGang h))))

theorem State.Sound.act (h : s.Sound) : Keeps s.act := by
  unfold State.act
  split
  · exact .ite h h.issue
  · refine .ite h.frame ?_
    split
    · exact .ite (h.frame.actAs _).issue h.frame
    · exact .ite (exec_keeps h.frame.tickDev) h.frame

theorem stepState_keeps (h : s.Sound) : Keeps (stepState s) := .ite h.act (.ite trivial (.ite trivial h.act))

/-! #### One step -/

theorem step_keeps (h : s.Sound) : Keeps (step s) := stepState_keeps h

end

end Sys2Proof.Machine
end

section
/-! CERTIFICATE. The invariant of the machine. -/

open Sys2Proof Sys2Proof.Machine

/-- Settles O58: every function that makes a state keeps the invariant, and a step is one of them. -/
theorem soundKept : Obligations.SoundKept := fun _ _ h e => (step_keeps h).of_next e

end

section
/-! SUPPORT. The machine after reset (R2, R57, R191, R192, R253 to R255). -/

namespace Sys2Proof.Machine

/-- Every core is at its reset values, the acting one too. -/
theorem State.coreAt_reset (k : Nat) : State.reset.coreAt k = Core.reset k := by
  unfold State.coreAt
  split
  next e => rw [e]; rfl
  · rfl

theorem Regs.readG_reset (r : RegNo) : Regs.reset.readG r = 0 := by
  unfold Regs.readG
  split
  · rfl
  · exact Vector.getElem_replicate _

theorem Regs.readV_reset (r : RegNo) : Regs.reset.readV r = 0 := Vector.getElem_replicate _

theorem Matrix.slots_reset (k : Fin 16) : Matrix.reset.slots[k] = .reset := Vector.getElem_replicate _

theorem Matrix.accs_reset (k : Fin 4) : Matrix.reset.accs[k] = ⟨.z, []⟩ := Vector.getElem_replicate _

theorem CoreMem.frames_reset (k : Fin 16) : CoreMem.reset.frames[k] = .empty := Vector.getElem_replicate _

theorem Engines.streams_reset (k : Fin 4) : Engines.reset.streams[k] = none := Vector.getElem_replicate _

theorem Engines.tabs_reset (k : Fin 4) : Engines.reset.tabs[k] = ⟨[], none⟩ := Vector.getElem_replicate _

theorem Engines.segs_reset (k : Fin 4) : Engines.reset.segs[k] = [] := Vector.getElem_replicate _

theorem Ni.queues_reset (k : Fin 8) : Ni.reset.queues[k] = .unbound := Vector.getElem_replicate _

theorem ExecState.loops_reset (k : Fin 3) : ExecState.reset.loops[k] = .idle := Vector.getElem_replicate _

end Sys2Proof.Machine
end

section
/-! CERTIFICATE. What reset leaves. -/

open Sys2Proof Sys2Proof.Machine

/-- Settles O57: the scalar fields by evaluation, the arrays by what each holds at every place. -/
theorem resetValues : Obligations.ResetValues := by
  refine ⟨rfl, rfl, rfl, rfl, rfl, rfl, rfl, fun k => ?_, rfl, rfl, rfl, Regs.readG_reset, Regs.readV_reset, fun k => ⟨?_, ?_⟩,
    fun k => ⟨?_, Engines.streams_reset k⟩, fun k => ⟨?_, ?_, fun a => ?_⟩, fun k => ?_, fun a => ⟨rfl, rfl, List.not_mem_nil⟩,
    State.coreAt_reset, rfl, rfl, rfl, fun _ => rfl, State.Sound.afterReset⟩
  · exact congrArg LoopLevel.active (ExecState.loops_reset k)
  · exact CoreMem.frames_reset k
  · exact congrArg Slot.st (Matrix.slots_reset k)
  · exact congrArg Acc.kind (Matrix.accs_reset k)
  · exact congrArg DecTab.entries (Engines.tabs_reset k)
  · exact congrArg DecTab.nan (Engines.tabs_reset k)
  · exact congrArg (Memory.read · a) (Engines.segs_reset k)
  · exact congrArg Queue.bound (Ni.queues_reset k)

end

section
/-! SUPPORT. The instant boundary (R7, R68, R73, R270, R277): `State.boundaryBegun`, in which the owners reclaim, the horizon is
broadcast and the counter advances, and then what `State.afterBoundary` adds, where the pages of the new instant are carried
and the homes apply it. -/

namespace Sys2Proof.Machine

/-! #### The order of the due stores (R73) -/

theorem insertBy_perm (f : TStore → Nat) (e : TStore) (l : List TStore) : (insertBy f e l).Perm (e :: l) := by
  induction l with
  | nil => exact .refl _
  | cons x l ih =>
    unfold insertBy
    split
    · exact .refl _
    · exact (ih.cons x).trans (.swap e x l)

theorem insertBy_pairwise {f : TStore → Nat} (e : TStore) {l : List TStore} (h : l.Pairwise (fun a b => f a ≤ f b)) :
    (insertBy f e l).Pairwise (fun a b => f a ≤ f b) := by
  induction l with
  | nil => exact List.pairwise_singleton _ _
  | cons x l ih =>
    obtain ⟨hx, hl⟩ := List.pairwise_cons.mp h
    unfold insertBy
    split
    next lt =>
      exact List.pairwise_cons.mpr ⟨List.forall_mem_cons.mpr ⟨lt.le, fun y hy => lt.le.trans (hx y hy)⟩, h⟩
    next ge =>
      refine List.pairwise_cons.mpr ⟨fun y hy => ?_, ih hl⟩
      rcases List.mem_cons.mp ((insertBy_perm f e l).mem_iff.mp hy) with rfl | hy
      · exact Nat.le_of_not_lt ge
      · exact hx y hy

theorem foldl_insertBy_perm (f : TStore → Nat) (l acc : List TStore) :
    (l.foldl (fun acc e => insertBy f e acc) acc).Perm (l ++ acc) := by
  induction l generalizing acc with
  | nil => exact .refl _
  | cons e l ih => exact (ih _).trans (((insertBy_perm f e acc).append_left l).trans List.perm_middle)

theorem foldl_insertBy_pairwise {f : TStore → Nat} (l : List TStore) {acc : List TStore} (h : acc.Pairwise (fun a b => f a ≤ f b)) :
    (l.foldl (fun acc e => insertBy f e acc) acc).Pairwise (fun a b => f a ≤ f b) := by
  induction l generalizing acc with
  | nil => exact h
  | cons e l ih => exact ih (insertBy_pairwise e h)

theorem sortBy_pairwise (f : TStore → Nat) (l : List TStore) : (sortBy f l).Pairwise (fun a b => f a ≤ f b) :=
  foldl_insertBy_pairwise l List.Pairwise.nil

theorem mem_sortBy {f : TStore → Nat} {l : List TStore} {e : TStore} : e ∈ sortBy f l ↔ e ∈ l := by
  have perm := foldl_insertBy_perm f l []
  rw [List.append_nil] at perm
  exact perm.mem_iff

theorem Timed.mem_duePlain {m : Timed} {inst : Nat} {e : TStore} :
    e ∈ m.duePlain inst ↔ e ∈ m.tense ∧ e.vis = inst ∧ e.atomic = none ∧ ownKey e.base = true := by
  simp [Timed.duePlain, mem_sortBy, and_assoc, and_left_comm]

theorem Timed.mem_dueAtomics {m : Timed} {inst : Nat} {e : TStore} :
    e ∈ m.dueAtomics inst ↔ e ∈ m.tense ∧ e.vis = inst ∧ e.atomic.isSome ∧ ownKey e.base = true := by
  simp [Timed.dueAtomics, mem_sortBy, and_left_comm, and_comm]

theorem Timed.duePlain_pairwise (m : Timed) (inst : Nat) : (m.duePlain inst).Pairwise (fun a b => a.key ≤ b.key) :=
  (sortBy_pairwise _ _).filter _

/-! #### Bytes after the due stores -/

/-- Plain stores written one after another. -/
def Memory.applyPlain (m : Memory) (l : List TStore) : Memory := l.foldl (fun v e => v.writeAll e.bytesAt) m

theorem Memory.read_applyPlain_out {m : Memory} (w : m.wf = true) {k : Nat} {l : List TStore} (h : ∀ e ∈ l, ∀ b, (k, b) ∉ e.bytesAt) :
    (m.applyPlain l).read k = m.read k := by
  induction l generalizing m with
  | nil => rfl
  | cons e l ih =>
    obtain ⟨he, hl⟩ := List.forall_mem_cons.mp h
    exact (ih (Memory.wf_writeAll _ w) hl).trans (Memory.read_writeAll_out k _ w he)

/-- Of stores in the order of their keys, the greatest key gives the byte. -/
theorem Memory.read_applyPlain_in {m : Memory} (w : m.wf = true) {k : Nat} {b : Byte} {e : TStore} {l : List TStore}
    (sorted : l.Pairwise (fun a b => a.key ≤ b.key)) (he : e ∈ l) (hb : (k, b) ∈ e.bytesAt) (one : ∀ y, (k, y) ∈ e.bytesAt → y = b)
    (last : ∀ f ∈ l, ∀ y, (k, y) ∈ f.bytesAt → f ≠ e → f.key < e.key) : (m.applyPlain l).read k = b := by
  induction l generalizing m with
  | nil => cases he
  | cons x l ih =>
    obtain ⟨hx, hl⟩ := List.pairwise_cons.mp sorted
    obtain ⟨-, last'⟩ := List.forall_mem_cons.mp last
    have wx : (m.writeAll x.bytesAt).wf = true := Memory.wf_writeAll _ w
    by_cases later : e ∈ l
    · exact ih wx hl later last'
    · obtain rfl : e = x := (List.mem_cons.mp he).resolve_right later
      refine (Memory.read_applyPlain_out wx fun f hf y hy => ?_).trans (Memory.read_writeAll_in k b _ w hb one)
      exact Nat.not_lt_of_le (hx f hf) (last' f hf y hy (fun same => later (same ▸ hf)))

/-! #### The history of instants -/

theorem Timed.visible_congr {m n : Timed} (e : n.versions = m.versions) (inst : Nat) : n.visible inst = m.visible inst := by
  unfold Timed.visible
  rw [e]

/-- What later instants add is not visible before them (R68). -/
theorem Timed.visible_append {m n : Timed} {new : List (Nat × Memory)} (e : n.versions = new ++ m.versions) {inst : Nat}
    (later : ∀ v ∈ new, inst < v.1) : n.visible inst = m.visible inst := by
  have skipped : new.find? (fun v => decide (v.1 ≤ inst)) = none := by
    refine List.find?_eq_none.mpr fun v hv => ?_
    have := later v hv
    simp only [decide_eq_true_eq]
    omega
  unfold Timed.visible
  rw [e, List.find?_append, skipped, Option.none_or]

theorem Timed.visible_cons {m : Timed} {inst : Nat} {v : Memory} {old : List (Nat × Memory)} (e : m.versions = (inst, v) :: old) :
    m.visible inst = v := by
  have found : m.versions.find? (fun v => decide (v.1 ≤ inst)) = some (inst, v) := by
    rw [e]
    exact List.find?_cons_of_pos (decide_eq_true (Nat.le_refl inst))
  unfold Timed.visible
  rw [found]

/-- With no atomic due, the plain stores are all that the homes apply. -/
theorem Timed.applied_eq_applyPlain {m : Timed} {inst : Nat} (none_due : m.dueAtomics inst = []) :
    m.applied inst = (m.visible inst).applyPlain (m.duePlain inst) := by
  unfold Timed.applied
  rw [none_due]
  rfl

/-- `t` follows `s` within an instant: the view stays, and the history has grown by versions of the instant only. -/
structure State.Extends (s t : State) : Prop where
  view : t.boundaryView = s.boundaryView
  versions : ∃ new : List (Nat × Memory), t.dev.timed.versions = new ++ s.dev.timed.versions ∧ ∀ v ∈ new, v.1 = s.dev.now

theorem State.Extends.refl (s : State) : s.Extends s := ⟨rfl, [], rfl, fun _ hv => nomatch hv⟩

theorem State.Extends.now {s t : State} (h : s.Extends t) : t.dev.now = s.dev.now := congrArg BoundaryView.now h.view

theorem State.Extends.trans {s t u : State} (h : s.Extends t) (k : t.Extends u) : s.Extends u := by
  obtain ⟨new, e, at_now⟩ := h.versions
  obtain ⟨newer, e', at_now'⟩ := k.versions
  refine ⟨k.view.trans h.view, newer ++ new, ?_, ?_⟩
  · rw [e', e, List.append_assoc]
  · exact List.forall_mem_append.mpr ⟨fun v hv => (at_now' v hv).trans h.now, at_now⟩

theorem State.Settles.toExtends {s t : State} (h : s.Settles t) : s.Extends t := ⟨h.view, [], h.versions, fun _ hv => nomatch hv⟩

theorem State.carryPage_extends {s : State} {m : Move} (e : m.inst = s.dev.now) : s.Extends (s.carryPage m) :=
  ⟨rfl, [(m.inst, _)], rfl, List.forall_mem_singleton.mpr e⟩

theorem foldl_carryPage_extends (ms : List Move) {s : State} (e : ∀ m ∈ ms, m.inst = s.dev.now) :
    s.Extends (ms.foldl (fun s m => s.carryPage m) s) := by
  induction ms generalizing s with
  | nil => exact .refl s
  | cons m ms ih =>
    obtain ⟨em, ems⟩ := List.forall_mem_cons.mp e
    exact (State.carryPage_extends em).trans (ih ems)

theorem State.onRecs_extends (s : State) (f : List QRec → List QRec) : s.Extends (s.onDisp (fun d => { d with recs := f d.recs })) :=
  ⟨rfl, [], rfl, fun _ hv => nomatch hv⟩

theorem State.carryPages_extends (s : State) : s.Extends (s.carryPages s.dev.now) :=
  foldl_carryPage_extends _ fun _ hm => of_decide_eq_true (List.mem_filter.mp hm).2

theorem State.carryPages_of_no_move {s : State} (still : s.dev.trans.moves = []) (inst : Nat) : s.carryPages inst = s := by
  unfold State.carryPages
  rw [still]
  rfl

theorem State.Sound.applyInstant_extends {s : State} (h : s.Sound) {inst : Nat} (e : inst = s.dev.now) :
    s.Extends (s.applyInstant inst) := by
  obtain ⟨u, settled, view, -, versions⟩ := h.applyInstant_settles e
  refine State.Extends.trans ⟨view, ?_⟩ settled.toExtends
  rw [versions]
  split
  · exact ⟨[], rfl, fun _ hv => nomatch hv⟩
  · exact ⟨[(inst, _)], rfl, List.forall_mem_singleton.mpr e⟩

/-- With no atomic due, what an instant makes visible is what was visible with its due plain stores written over it. -/
theorem State.Sound.applyInstant_visible {s : State} (h : s.Sound) {inst : Nat} (e : inst = s.dev.now)
    (none_due : s.dev.timed.dueAtomics inst = []) :
    (s.applyInstant inst).dev.timed.visible inst = (s.dev.timed.visible inst).applyPlain (s.dev.timed.duePlain inst) := by
  obtain ⟨u, settled, -, -, versions⟩ := h.applyInstant_settles e
  rw [Timed.visible_congr settled.versions]
  split at versions
  next nothing =>
    have plain : s.dev.timed.duePlain inst = [] := by
      unfold Timed.duePlain
      rw [List.isEmpty_iff.mp nothing]
      rfl
    rw [Timed.visible_congr versions, plain]
    rfl
  · rw [Timed.visible_cons versions, Timed.applied_eq_applyPlain none_due]

theorem State.Sound.applyInstant_tense {s : State} (h : s.Sound) {inst : Nat} (e : inst = s.dev.now) :
    (s.applyInstant inst).dev.timed.tense = s.dev.timed.tense.filter (fun t => decide (t.vis ≠ inst)) := by
  obtain ⟨u, settled, -, tense, -⟩ := h.applyInstant_settles e
  exact settled.tense.trans tense

/-! #### The instant that begins -/

/-- A partition as the end of an instant leaves it, where `h` is what its tree brings (R277). -/
def Partition.told (q : Partition) (h : Nat) : Partition := { q with horizon := q.horizon1, horizon1 := max q.horizon1 h }

/-- What the tree of a partition brings at the end of the instant (R277). -/
def State.treeRel (s : State) (p : Nat) : Nat :=
  match s.lowestRel p with | some r => min s.dev.now r | none => s.dev.now

/-- What of the machine has changed when the counter has advanced. -/
theorem State.boundaryBegun_view (s : State) : s.boundaryBegun.boundaryView = { s.boundaryView with
    now := s.dev.now + 1
    parts := if s.quiesced then s.dev.disp.parts else s.dev.disp.parts.map (fun e => (e.1, e.2.told (s.reclaimDue.treeRel e.1)))
    tcbs := s.dev.disp.tcbs.map (fun t => if s.reclaims t then t.reclaimed else t) } := by
  unfold State.boundaryBegun State.advanceInstant State.broadcast
  rw [show s.reclaimDue.quiesced = s.quiesced from rfl]
  split <;> split <;> rfl

theorem State.boundaryBegun_timed (s : State) : s.boundaryBegun.dev.timed = s.dev.timed := by
  unfold State.boundaryBegun State.advanceInstant State.broadcast
  split <;> split <;> rfl

theorem State.boundaryBegun_moves (s : State) : s.boundaryBegun.dev.trans.moves = s.dev.trans.moves := by
  unfold State.boundaryBegun State.advanceInstant State.broadcast
  split <;> split <;> rfl

theorem State.boundaryBegun_now (s : State) : s.boundaryBegun.dev.now = s.dev.now + 1 := congrArg BoundaryView.now s.boundaryBegun_view

theorem aget_map {α β : Type} (g : Nat → α → β) (t : Assoc α) (p : Nat) :
    aget (t.map (fun e => (e.1, g e.1 e.2))) p = (aget t p).map (g p) := by
  induction t with
  | nil => rfl
  | cons e t ih =>
    simp only [List.map_cons, aget]
    split
    next eq => rw [eq]; rfl
    split
    · rfl
    · exact ih

theorem State.lowestRel_of_no_task {s : State} {p : Nat} (h : ∀ z ∈ s.dev.disp.tcbs, z.part ≠ p) : s.lowestRel p = none := by
  unfold State.lowestRel
  rw [List.filter_eq_nil_iff.mpr fun z hz => by simp [h z hz]]
  rfl

/-- A partition with no task takes the instant itself for its horizon. -/
theorem State.reclaimDue_treeRel_of_no_task {s : State} {p : Nat} (h : ∀ z ∈ s.dev.disp.tcbs, z.part ≠ p) :
    s.reclaimDue.treeRel p = s.dev.now := by
  have none : s.reclaimDue.lowestRel p = none := State.lowestRel_of_no_task <| List.forall_mem_map.mpr fun z hz => by
    split <;> exact h z hz
  unfold State.treeRel
  rw [none]
  rfl

/-- What reclaims a slot (R270). -/
theorem State.reclaims_of_due {s : State} (runs : s.quiesced = false) (n : s.dev.now + 1 < 2 ^ 56) {z : Tcb} {q : Partition}
    (e : s.partition z.part = some q) (retired : z.st = .retired) (past : z.pub + 256 ≤ q.horizon) : s.reclaims z = true := by
  have before : s.dev.now < lastInstant := by unfold lastInstant; omega
  simp [State.reclaims, e, runs, retired, past, before]

/-! #### The boundary as a whole -/

theorem State.Sound.afterBoundary_extends {s : State} (h : s.Sound) (n : s.dev.now + 1 < 2 ^ 56) :
    s.boundaryBegun.Extends s.afterBoundary := by
  obtain ⟨carried, at_now⟩ := (h.boundaryBegun n).carryPages
  have applied := s.boundaryBegun.carryPages_extends.trans (carried.applyInstant_extends at_now.symm)
  exact applied.trans (State.onRecs_extends _ _)

theorem State.afterBoundary_of_no_move {s : State} (still : s.dev.trans.moves = []) :
    s.afterBoundary.dev.timed = (s.boundaryBegun.applyInstant (s.dev.now + 1)).dev.timed := by
  unfold State.afterBoundary
  rw [State.carryPages_of_no_move (s.boundaryBegun_moves.trans still), s.boundaryBegun_now]
  rfl

/-- The instants that have been keep what they made visible (R7, R68). -/
theorem State.Sound.afterBoundary_past {s : State} (h : s.Sound) (n : s.dev.now + 1 < 2 ^ 56) {inst : Nat} (past : inst ≤ s.dev.now) :
    s.afterBoundary.dev.timed.visible inst = s.dev.timed.visible inst := by
  obtain ⟨new, e, at_now⟩ := (h.afterBoundary_extends n).versions
  rw [Timed.visible_append e fun v hv => ?_, s.boundaryBegun_timed]
  rw [at_now v hv, s.boundaryBegun_now]
  omega

theorem State.Sound.afterBoundary_tense {s : State} (h : s.Sound) (n : s.dev.now + 1 < 2 ^ 56) (still : s.dev.trans.moves = []) :
    s.afterBoundary.dev.timed.tense = s.dev.timed.tense.filter (fun e => decide (e.vis ≠ s.dev.now + 1)) := by
  rw [State.afterBoundary_of_no_move still, (h.boundaryBegun n).applyInstant_tense s.boundaryBegun_now.symm, s.boundaryBegun_timed]

/-- What the new instant makes visible where no page moves and no atomic is due (R73). -/
theorem State.Sound.afterBoundary_visible {s : State} (h : s.Sound) (n : s.dev.now + 1 < 2 ^ 56) (still : s.dev.trans.moves = [])
    (plain : ∀ e ∈ s.dev.timed.tense, e.vis = s.dev.now + 1 → e.atomic = none) :
    s.afterBoundary.dev.timed.visible (s.dev.now + 1) =
      (s.dev.timed.visible (s.dev.now + 1)).applyPlain (s.dev.timed.duePlain (s.dev.now + 1)) := by
  have none_due : s.dev.timed.dueAtomics (s.dev.now + 1) = [] := List.eq_nil_iff_forall_not_mem.mpr fun e he => by
    obtain ⟨held, due, atomic, -⟩ := Timed.mem_dueAtomics.mp he
    simp [plain e held due] at atomic
  rw [State.afterBoundary_of_no_move still,
    (h.boundaryBegun n).applyInstant_visible s.boundaryBegun_now.symm (by rw [s.boundaryBegun_timed]; exact none_due),
    s.boundaryBegun_timed]

/-- The fields of a view, of any state that has it. -/
theorem State.fields_of_boundaryView {t : State} {v : BoundaryView} (e : t.boundaryView = v) :
    t.dev.now = v.now ∧ t.core.r = v.r ∧ t.core.mem = v.mem ∧ t.core.csr = v.csr ∧ t.dev.spads = v.spads ∧
    t.dev.timed.flight = v.flight ∧ t.dev.timed.lateReports = v.lateReports ∧ t.dev.timed.acks = v.acks ∧
    t.dev.disp.parts = v.parts ∧ t.dev.disp.tcbs = v.tcbs := by
  subst e
  exact ⟨rfl, rfl, rfl, rfl, rfl, rfl, rfl, rfl, rfl, rfl⟩

/-- What of the machine the boundary has changed: the counter, the partitions and the tasks (R7, R270, R277). -/
theorem State.Sound.afterBoundary_view {s : State} (h : s.Sound) (n : s.dev.now + 1 < 2 ^ 56) :
    s.afterBoundary.boundaryView = { s.boundaryView with
      now := s.dev.now + 1
      parts := if s.quiesced then s.dev.disp.parts else s.dev.disp.parts.map (fun e => (e.1, e.2.told (s.reclaimDue.treeRel e.1)))
      tcbs := s.dev.disp.tcbs.map (fun t => if s.reclaims t then t.reclaimed else t) } :=
  (h.afterBoundary_extends n).view.trans s.boundaryBegun_view

/-- A partition after the boundary, where the owners run (R277). -/
theorem State.Sound.afterBoundary_partition {s : State} (h : s.Sound) (n : s.dev.now + 1 < 2 ^ 56) (runs : s.quiesced = false)
    {p : Nat} {q : Partition} (e : s.partition p = some q) :
    s.afterBoundary.partition p = some (q.told (s.reclaimDue.treeRel p)) := by
  obtain ⟨-, -, -, -, -, -, -, -, parts, -⟩ := State.fields_of_boundaryView (h.afterBoundary_view n)
  simp only [runs, Bool.false_eq_true, if_false] at parts
  calc s.afterBoundary.partition p
      = aget (s.dev.disp.parts.map (fun e => (e.1, e.2.told (s.reclaimDue.treeRel e.1)))) p := congrArg (aget · p) parts
    _ = (s.partition p).map (fun q => q.told (s.reclaimDue.treeRel p)) :=
        aget_map (fun p (q : Partition) => q.told (s.reclaimDue.treeRel p)) _ p
    _ = some (q.told (s.reclaimDue.treeRel p)) := by rw [e]; rfl

/-- A slot whose reclaim is due is EMPTY after the boundary (R270). -/
theorem State.Sound.afterBoundary_reclaimed {s : State} (h : s.Sound) (n : s.dev.now + 1 < 2 ^ 56) {z : Tcb}
    (hz : z ∈ s.dev.disp.tcbs) (r : s.reclaims z = true) : z.reclaimed ∈ s.afterBoundary.dev.disp.tcbs := by
  obtain ⟨-, -, -, -, -, -, -, -, -, tcbs⟩ := State.fields_of_boundaryView (h.afterBoundary_view n)
  rw [tcbs]
  exact List.mem_map.mpr ⟨z, hz, if_pos r⟩

end Sys2Proof.Machine
end

section
/-! CERTIFICATE. The instant boundary. -/

open Sys2Proof Sys2Proof.Machine

/-- Settles O42: the counter advances and the horizon is broadcast (`boundaryBegun`), and then only versions of the new instant
are added; where no page moves and no atomic is due, they hold the due plain stores in the order of their keys. -/
theorem instantBoundaryResults : Obligations.InstantBoundaryResults := by
  intro s h next
  refine ⟨execInstantBoundary_last, fun n => ?_⟩
  intro due
  obtain ⟨now, r, mem, csr, spads, flight, lateReports, acks, -, -⟩ := State.fields_of_boundaryView (h.afterBoundary_view n)
  refine ⟨s.afterBoundary, execInstantBoundary_next n, now, r, mem, csr, spads, flight, h.afterBoundary_tense n, lateReports, acks,
    fun _ past => h.afterBoundary_past n past, fun still plain => ?_, fun runs p q e => ?_⟩
  · have visible := h.afterBoundary_visible n still fun e held at_next => plain e ⟨held, at_next⟩
    have wf : (s.dev.timed.visible next).wf = true := h.visible next
    rw [visible]
    refine ⟨fun k untouched => Memory.read_applyPlain_out wf fun e he => ?_, fun e k b de own hb one last => ?_⟩
    · obtain ⟨held, at_next, -, own⟩ := Timed.mem_duePlain.mp he
      exact untouched e ⟨held, at_next⟩ own
    · have listed : e ∈ s.dev.timed.duePlain next := Timed.mem_duePlain.mpr ⟨de.1, de.2, plain e de, own⟩
      refine Memory.read_applyPlain_in wf (s.dev.timed.duePlain_pairwise next) listed hb one fun f hf y => ?_
      obtain ⟨held, at_next, -, own⟩ := Timed.mem_duePlain.mp hf
      exact last f y ⟨held, at_next⟩ own
  · refine ⟨_, h.afterBoundary_partition n runs e, rfl, Nat.le_max_left _ _, fun no_task => ?_, fun z hz hp retired past => ?_⟩
    · exact congrArg (max q.horizon1) (State.reclaimDue_treeRel_of_no_task no_task)
    · have reclaims : s.reclaims z = true := State.reclaims_of_due runs n (by rw [hp]; exact e) retired past
      exact ⟨z.reclaimed, h.afterBoundary_reclaimed n hz reclaims, rfl, rfl⟩

end

section
/-! SUPPORT. How the end of a word leaves the core (R104 to R107, R130, R132): no register written but those that a loop
body's end advances, nothing else moved but the place where the core stands and the strides owed. -/

namespace Sys2Proof.Machine

/-! ### The place where a core stands -/

theorem ExecState.SameButPlace.refl (x : ExecState) : x.SameButPlace x := rfl

theorem ExecState.SameButPlace.trans {x y z : ExecState} (h : x.SameButPlace y) (k : y.SameButPlace z) : x.SameButPlace z := by
  unfold ExecState.SameButPlace at *
  rw [k, h]

/-- Which bank is in use is no part of the place (R173). -/
theorem ExecState.SameButPlace.handBank {x y : ExecState} (h : x.SameButPlace y) : y.handBank = x.handBank := by
  rw [h]

/-- What is outstanding at a core hangs on its engines and on the bank in use. -/
theorem Core.Landed.congr {c d : Core} {r : RegNo} (h : c.Landed r) (e : d.eng = c.eng) (b : d.x.handBank = c.x.handBank) :
    d.Landed r := by
  have inUse : d.inUse = c.inUse := by funext hand r; unfold Core.inUse; rw [b]
  have pends : d.pends = c.pends := by funext m r; unfold Core.pends; rw [inUse]
  have owes : d.owes = c.owes := by funext p r; unfold Core.owes; rw [inUse]
  have mayChange : d.mayChange = c.mayChange := by funext l r; unfold Core.mayChange; rw [inUse]
  unfold Core.Landed
  rw [e, pends, owes, mayChange]
  exact h

/-! ### Writes of one register -/

@[simp] theorem State.setG_r (s : State) (d : RegNo) (v : Word) : (s.setG d v).core.r = s.core.r.writeG d v := by
  unfold State.setG Core.writeG
  split
  next e => rw [e, Regs.writeG_zero]
  · rfl

theorem State.setG_place (s : State) (d : RegNo) (v : Word) : s.core.x.SameButPlace (s.setG d v).core.x := by
  unfold State.setG Core.writeG
  split <;> rfl

@[simp] theorem State.setG_pc (s : State) (d : RegNo) (v : Word) : (s.setG d v).core.x.pc = s.core.x.pc := by
  unfold State.setG Core.writeG
  split <;> rfl

@[simp] theorem State.setG_inPair (s : State) (d : RegNo) (v : Word) : (s.setG d v).core.x.inPair = s.core.x.inPair := by
  unfold State.setG Core.writeG
  split <;> rfl

@[simp] theorem State.setG_loops (s : State) (d : RegNo) (v : Word) : (s.setG d v).core.x.loops = s.core.x.loops := by
  unfold State.setG Core.writeG
  split <;> rfl

theorem State.setG_landed {s : State} {d r : RegNo} {v : Word} (h : s.core.Landed r) : (s.setG d v).core.Landed r :=
  h.congr (s.setG_eng d v) (s.setG_place d v).handBank

@[simp] theorem State.g_setG_same (s : State) {d : RegNo} (v : Word) (h : d ≠ 0) : (s.setG d v).g d = v := by
  rw [State.g_setG, if_pos ⟨rfl, h⟩]

theorem State.g_setG_other (s : State) {r d : RegNo} (v : Word) (h : r ≠ d) : (s.setG d v).g r = s.g r := by
  rw [State.g_setG, if_neg fun e => h e.1]

@[simp] theorem State.g_zero (s : State) : s.g 0 = 0 := rfl

/-- Every register file but that of g is as it was. -/
structure Regs.SameButG (x y : Regs) : Prop where
  v : y.v = x.v
  p : y.p = x.p
  q : y.q = x.q
  bank : y.bank = x.bank

theorem Regs.SameButG.refl (x : Regs) : x.SameButG x := ⟨rfl, rfl, rfl, rfl⟩

theorem Regs.SameButG.trans {x y z : Regs} (h : x.SameButG y) (k : y.SameButG z) : x.SameButG z :=
  ⟨k.v.trans h.v, k.p.trans h.p, k.q.trans h.q, k.bank.trans h.bank⟩

theorem Regs.SameButG.readV {x y : Regs} (h : x.SameButG y) (r : RegNo) : y.readV r = x.readV r := by
  unfold Regs.readV
  rw [h.v]

theorem Regs.SameButG.readP {x y : Regs} (h : x.SameButG y) (r : BitVec 3) : y.readP r = x.readP r := by
  unfold Regs.readP
  rw [h.p]

theorem State.setG_sameButG (s : State) (d : RegNo) (v : Word) : s.core.r.SameButG (s.setG d v).core.r := by
  rw [State.setG_r]
  unfold Regs.writeG
  split <;> exact ⟨rfl, rfl, rfl, rfl⟩

/-- The registers that a body's end advances hang on the place alone (R130). -/
theorem State.endRegs_congr {s t : State} (inPair : t.core.x.inPair = s.core.x.inPair) (pc : t.core.x.pc = s.core.x.pc)
    (loops : t.core.x.loops = s.core.x.loops) : t.endRegs = s.endRegs := by
  unfold State.endRegs Core.loopRegs
  rw [inPair, pc, loops]

@[simp] theorem State.setG_endRegs (s : State) (d : RegNo) (v : Word) : (s.setG d v).endRegs = s.endRegs :=
  State.endRegs_congr (s.setG_inPair d v) (s.setG_pc d v) (s.setG_loops d v)

/-! ### Strides -/

/-- A stride to a register with nothing outstanding is added at once (R130). -/
theorem State.stride_landed {s : State} {r : RegNo} (v : Word) (h : s.core.Landed r) : s.stride r v = s.setG r (s.g r + v) := by
  obtain ⟨remote, pend, loads⟩ := h
  unfold State.stride
  rw [if_neg (by simp [remote]), if_neg (by simp [pend]), if_neg (by simp [loads])]

/-- A stride to a register that an access leaves pending is owed by the accesses (R147). -/
theorem State.stride_pending {s : State} {r : RegNo} (v : Word) (h : s.core.eng.remote.any (fun m => s.core.pends m r) = true) :
    s.stride r v = s.onEng (fun e => { e with
      remote := e.remote.map (fun m => if s.core.pends m r then { m with stride := m.stride + v } else m) }) := by
  unfold State.stride
  rw [if_pos h]

theorem State.stride_owed {s : State} {r : RegNo} (v : Word) {m : Remote} (hm : m ∈ s.core.eng.remote)
    (h : s.core.pends m r = true) :
    (s.stride r v).g r = s.g r ∧ { m with stride := m.stride + v } ∈ (s.stride r v).core.eng.remote := by
  rw [State.stride_pending v (List.any_eq_true.mpr ⟨m, hm, h⟩)]
  exact ⟨rfl, List.mem_map.mpr ⟨m, hm, if_pos h⟩⟩

/-- What a stride leaves: the engines change, or the register is written, or a late load is settled by both. -/
theorem State.stride_cases (s : State) (r : RegNo) (v : Word) :
    (∃ f, s.stride r v = s.onEng f) ∨ s.stride r v = s.setG r (s.g r + v) ∨
      ∃ f, s.stride r v = (s.onEng f).setG r (s.g r + v) := by
  unfold State.stride
  split
  · exact .inl ⟨_, rfl⟩
  split
  · exact .inl ⟨_, rfl⟩
  split
  · exact .inr (.inr ⟨_, rfl⟩)
  · exact .inr (.inl rfl)

@[simp] theorem State.stride_loops (s : State) (r : RegNo) (v : Word) : (s.stride r v).core.x.loops = s.core.x.loops := by
  obtain ⟨f, e⟩ | e | ⟨f, e⟩ := s.stride_cases r v
  · rw [e, State.onEng_x]
  · rw [e, State.setG_loops]
  · rw [e, State.setG_loops, State.onEng_x]

@[simp] theorem State.advance_loops (s : State) (w : Word) : (s.advance w).core.x.loops = s.core.x.loops := by
  unfold State.advance
  rw [State.stride_loops, State.stride_loops]

/-! ### What the end of a word may change -/

theorem State.setLoop_same (s : State) (l : Fin 3) (v : LoopLevel) : (s.setLoop l v).core.x.loops[l] = v :=
  Vector.getElem_set_self l.isLt

theorem State.setLoop_other (s : State) {l k : Fin 3} (v : LoopLevel) (h : k ≠ l) :
    (s.setLoop l v).core.x.loops[k] = s.core.x.loops[k] :=
  Vector.getElem_set_ne l.isLt k.isLt fun e => h (Fin.ext e.symm)

/-- `t` is `s` with no more changed than the place where the core stands, the registers `rs`, and, where one of these is
pending, the strides owed to them. -/
structure State.Advances (rs : List RegNo) (s t : State) : Prop where
  only : s.OnlyRegs t
  place : s.core.x.SameButPlace t.core.x
  files : s.core.r.SameButG t.core.r
  others : ∀ r, r ∉ rs → t.g r = s.g r
  engines : (∀ r ∈ rs, s.core.Landed r) → t.core.eng = s.core.eng

variable {rs : List RegNo} {s t u : State}

theorem State.Advances.trans (h : s.Advances rs t) (k : t.Advances rs u) : s.Advances rs u where
  only := h.only.trans k.only
  place := h.place.trans k.place
  files := h.files.trans k.files
  others r hr := (k.others r hr).trans (h.others r hr)
  engines landed := by
    have same : t.core.eng = s.core.eng := h.engines landed
    exact (k.engines fun r hr => (landed r hr).congr same h.place.handBank).trans same

theorem State.onX_advances (s : State) {f : ExecState → ExecState} (h : s.core.x.SameButPlace (f s.core.x)) :
    s.Advances rs (s.onX f) where
  only := State.onX_onlyRegs s f
  place := h
  files := .refl _
  others _ _ := rfl
  engines _ := rfl

theorem State.setPc_advances (s : State) (a : Nat) : s.Advances rs (s.setPc a) :=
  s.onX_advances (f := fun x => { x with pc := BitVec.ofNat 16 a }) rfl

theorem State.setLoop_advances (s : State) (l : Fin 3) (v : LoopLevel) : s.Advances rs (s.setLoop l v) :=
  s.onX_advances (f := fun x => { x with loops := x.loops.set l v }) rfl

theorem State.unwait_advances (s : State) : s.Advances rs (s.onX (fun x => { x with wait := none })) := s.onX_advances rfl

theorem State.stride_advances (s : State) {r : RegNo} (v : Word) (hr : r ∈ rs) : s.Advances rs (s.stride r v) where
  only := State.stride_onlyRegs s r v
  place := by
    obtain ⟨f, e⟩ | e | ⟨f, e⟩ := s.stride_cases r v
    · rw [e]; exact .refl _
    · rw [e]; exact s.setG_place _ _
    · rw [e]; exact (s.onEng f).setG_place _ _
  files := by
    obtain ⟨f, e⟩ | e | ⟨f, e⟩ := s.stride_cases r v
    · rw [e]; exact .refl _
    · rw [e]; exact s.setG_sameButG _ _
    · rw [e]; exact (s.onEng f).setG_sameButG _ _
  others q hq := by
    have other : q ≠ r := fun e => hq (e ▸ hr)
    obtain ⟨f, e⟩ | e | ⟨f, e⟩ := s.stride_cases r v
    · rw [e]; rfl
    · rw [e, State.g_setG_other _ _ other]
    · rw [e, State.g_setG_other _ _ other]; rfl
  engines landed := by rw [State.stride_landed v (landed r hr), State.setG_eng]

theorem State.advance_advances (s : State) {w : Word} (x : w.extractLsb' 0 5 ∈ rs) (y : w.extractLsb' 21 5 ∈ rs) :
    s.Advances rs (s.advance w) :=
  (s.stride_advances _ x).trans (State.stride_advances _ _ y)

/-- `EndOfBody` advances the registers of the levels whose bodies end there (R130). -/
theorem endOfBodyFrom_advances (ls : List (Fin 3)) (e : Nat) (s : State)
    (h : ∀ l ∈ ls, s.core.x.loops[l].active = true → s.core.x.loops[l].stop = e →
      s.core.x.loops[l].step.extractLsb' 0 5 ∈ rs ∧ s.core.x.loops[l].step.extractLsb' 21 5 ∈ rs) :
    s.Advances rs (endOfBodyFrom ls e s) := by
  induction ls generalizing s with
  | nil => exact s.setPc_advances _
  | cons l ls ih =>
    rw [endOfBodyFrom]
    dsimp only
    split
    next ends =>
      simp only [Bool.and_eq_true, decide_eq_true_eq] at ends
      obtain ⟨x, y⟩ := h l List.mem_cons_self ends.1 ends.2
      have advanced := s.advance_advances x y
      split
      · refine (advanced.trans (State.setLoop_advances _ _ _)).trans (ih _ fun k hk active stop => ?_)
        by_cases same : k = l
        · rw [same, State.setLoop_same] at active
          cases active
        · rw [State.setLoop_other _ _ same, State.advance_loops] at active stop ⊢
          exact h k (List.mem_cons_of_mem _ hk) active stop
      · exact (advanced.trans (State.setLoop_advances _ _ _)).trans (State.setPc_advances _ _)
    · exact ih s fun k hk => h k (List.mem_cons_of_mem _ hk)

/-- The registers of a level whose body ends with the clause about to issue. -/
theorem Core.mem_loopRegs {c : Core} {l : Fin 3} (active : c.x.loops[l].active = true)
    (stop : c.x.loops[l].stop = (c.x.pc &&& 0xFFF8).toNat + 8) {r : RegNo}
    (hr : r = c.x.loops[l].step.extractLsb' 0 5 ∨ r = c.x.loops[l].step.extractLsb' 21 5) : r ∈ c.loopRegs := by
  refine List.mem_flatMap.mpr ⟨c.x.loops[l], List.mem_filter.mpr ⟨?_, ?_⟩, ?_⟩
  · exact Vector.mem_toList_iff.mpr (Vector.getElem_mem l.isLt)
  · rw [active, stop]
    simp
  · simpa using hr

/-- Word1 of a clause: the bodies end that end with the clause (R105, R130). -/
theorem State.finish_word1 {s : State} (inPair : s.core.x.inPair = false) (word : s.core.x.pc.getLsbD 2 = true) :
    s.finish .next = endOfBodyFrom [2, 1, 0] (s.clause.toNat + 8) (s.onX (fun x => { x with wait := none })) := by
  rw [State.finish_alone _ inPair]
  unfold State.applyFlow State.advancePc
  rw [if_neg (by simp [inPair, word])]
  rfl

/-- The end of a word advances the registers that `endRegs` names, and no others. -/
theorem State.finish_next_advances (s : State) : s.Advances s.endRegs (s.finish .next) := by
  cases inPair : s.core.x.inPair with
  | true => rw [State.finish_inPair _ inPair]; exact s.onX_advances rfl
  | false =>
    cases word : s.core.x.pc.getLsbD 2 with
    | false => rw [State.finish_word0 inPair word]; exact s.onX_advances rfl
    | true =>
      have regs : s.endRegs = s.core.loopRegs := by simp [State.endRegs, inPair, word]
      rw [State.finish_word1 inPair word, regs]
      refine s.unwait_advances.trans (endOfBodyFrom_advances _ _ _ fun l _ active stop => ⟨?_, ?_⟩)
      · exact Core.mem_loopRegs active stop (.inl rfl)
      · exact Core.mem_loopRegs active stop (.inr rfl)

end Sys2Proof.Machine
end

section
/-! SUPPORT. Where the end of a word leaves the core, and how a scalar integer instruction ends (R104 to R107, R117, R130). -/

namespace Sys2Proof.Machine

/-- The program counter that `EndOfBody` sets where no body ends there: that of the next clause (R107). -/
theorem State.ofNat_nextClause (s : State) : BitVec.ofNat 16 ((s.clause.toNat + 8) % 65536) = s.clause + 8 := by
  apply BitVec.eq_of_toNat_eq
  simp

/-- No active level ends its body with the clause: the next clause follows (R107). -/
theorem State.finish_no_body {s : State} (inPair : s.core.x.inPair = false) (word : s.core.x.pc.getLsbD 2 = true)
    (h : ∀ l ∈ s.core.x.loops.toList, l.active = true → l.stop ≠ s.clause.toNat + 8) :
    s.finish .next = s.onX (fun x => { x with pc := s.clause + 8, wait := none }) := by
  rw [State.finish_word1 inPair word]
  rw [endOfBodyFrom_none _ _ (s.onX _) fun l _ => h _ (Vector.mem_toList_iff.mpr (Vector.getElem_mem l.isLt))]
  unfold State.setPc
  rw [State.ofNat_nextClause]
  rfl

/-- The innermost level ends its body with passes left: it goes to its start, the outer levels as they were (R130). -/
theorem State.finish_next_pass {s : State} {l : LoopLevel} (inPair : s.core.x.inPair = false) (word : s.core.x.pc.getLsbD 2 = true)
    (level : s.core.x.loops[2] = l) (active : l.active = true) (stop : l.stop = s.clause.toNat + 8) (more : 1 < l.lc.toNat) :
    ∃ u : State, u.core.x.loops = s.core.x.loops ∧
      s.finish .next = (u.setLoop 2 { l with lc := l.lc - 1, pass := l.pass + 1 }).setPc l.start := by
  refine ⟨(s.onX (fun x => { x with wait := none })).advance l.step, State.advance_loops _ _, ?_⟩
  rw [State.finish_word1 inPair word]
  have here : (s.onX (fun x => { x with wait := none })).core.x.loops[(2 : Fin 3)] = l := level
  rw [endOfBodyFrom]
  simp only [here]
  rw [if_pos (by simp [active, stop]), if_neg (by omega)]

/-- A scalar integer instruction writes its destination and the next word follows. -/
theorem exec_of_scalarDest {i : Instr} {d : RegNo} (h : scalarDest i = some d) (s : State) : ∃ v, exec i s = s.setDone d v := by
  cases i with
  | add | sub | and | or | xor | andn | shl | shr | sra | rol | slt | sltn | min | max | minn | maxn | sel | mul | mulh | mulhn
  | div | divn | rem | remn | sext | zext | bext | bins | addi | andi | ori | xori | shli | shri | srai | roli | clz | ctz | pop
  | brev | movi | movs => cases h; exact ⟨_, rfl⟩
  | _ => cases h

end Sys2Proof.Machine
end

section
/-! CERTIFICATE. Scalar registers and the end of a word. -/

open Sys2Proof Sys2Proof.Machine

/-- Settles O4: the instruction writes its destination (`exec_of_scalarDest`), and then its word ends (`State.Advances`). -/
theorem scalarFrame : Obligations.ScalarFrame := by
  intro i s t d dest run
  obtain ⟨v, e⟩ := exec_of_scalarDest dest s
  obtain rfl : (s.setG d v).finish .next = t := Host.Outcome.next.inj (e.symm.trans run)
  have ends := (s.setG d v).finish_next_advances
  rw [State.setG_endRegs] at ends
  obtain ⟨hv, hp, hq, hbank⟩ := (s.setG_sameButG d v).trans ends.files
  refine ⟨(State.setG_onlyRegs s d v).trans ends.only, (s.setG_place d v).trans ends.place, hv, hp, hq, hbank, fun r hd hr => ?_, rfl,
    fun landed => ?_⟩
  · exact (ends.others r hr).trans (State.g_setG_other s v hd)
  · exact (ends.engines fun r hr => State.setG_landed (landed r hr)).trans (s.setG_eng d v)

/-- Settles O5: what a write and a stride leave in each register, and the end of a word by the branches of `State.finish`. -/
theorem registersAndEnd : Obligations.RegistersAndEnd := by
  refine ⟨fun s d r v => ?_, fun s target => ?_⟩
  · have ends := s.finish_next_advances
    exact ⟨State.stride_landed v, fun m hm h => State.stride_owed v hm h, State.g_setG_same s v, State.g_setG_other s v, rfl, rfl,
      ends.others r, ends.files.v, s.setG_endRegs d v, ends.only⟩
  · refine ⟨fun h => ⟨State.finish_inPair _ h, State.finish_inPair _ h⟩, State.finish_word0, State.finish_no_body,
      State.finish_jump target, fun l inPair word level active stop more => ?_⟩
    obtain ⟨u, loops, e⟩ := State.finish_next_pass inPair word level active stop more
    rw [e]
    refine ⟨rfl, u.setLoop_same 2 _, ?_, ?_⟩
    · rw [← loops]; exact u.setLoop_other _ (show (1 : Fin 3) ≠ 2 by decide)
    · rw [← loops]; exact u.setLoop_other _ (show (0 : Fin 3) ≠ 2 by decide)

end

section
/-! SUPPORT. Vector instructions and stream ports (R15, R59, R175, R190): what an instruction does where no port is bound, what
a misused port gives, and what a write under a predicate leaves in each byte. -/

namespace Sys2Proof.Machine

/-! ### No port is bound -/

/-- No stream port is bound (R59). -/
def State.Unbound (s : State) : Prop := ∀ k : Fin 4, s.core.eng.streams[k] = none

variable {s : State}

theorem State.Unbound.bound (u : s.Unbound) (r : RegNo) : s.core.bound r = none := by
  unfold Core.bound
  split
  · exact u _
  · rfl

theorem State.Unbound.boundRead (u : s.Unbound) (r : RegNo) : s.core.boundRead r = false := by
  simp [Core.boundRead, u.bound r]

theorem State.Unbound.boundWrite (u : s.Unbound) (r : RegNo) : s.core.boundWrite r = false := by
  simp [Core.boundWrite, u.bound r]

theorem firstTrap_eq_none {l : List (Option Flow)} (h : ∀ x ∈ l, x = none) : firstTrap l = none := by
  induction l with
  | nil => rfl
  | cons x l ih =>
    rw [h x List.mem_cons_self]
    exact ih fun y hy => h y (List.mem_cons_of_mem _ hy)

theorem State.Unbound.portTrap (u : s.Unbound) (srcs dsts : List RegNo) (old : Bool) : s.core.portTrap srcs dsts old = none :=
  firstTrap_eq_none (by simp [u.boundRead, u.boundWrite])

theorem State.Unbound.portEmpty (u : s.Unbound) (srcs : List RegNo) : s.core.portEmpty srcs = none := by
  simp [Core.portEmpty, u.boundRead]

theorem State.Unbound.withPorts (u : s.Unbound) (srcs dsts : List RegNo) (old : Bool) (f : State → Result) :
    s.withPorts srcs dsts old f = f s := by
  unfold State.withPorts
  rw [u.portTrap, u.portEmpty]

theorem State.Unbound.takeUnits (u : s.Unbound) (srcs : List RegNo) : s.takeUnits srcs = s := by
  simp [State.takeUnits, u.boundRead]

/-- A destination that is no bound write port is written as a register (R175). -/
theorem State.setV_register {d : RegNo} (h : s.core.boundWrite d = false) (p : BitVec 16) (x : VReg) :
    s.setV d p x = s.setVReg d (mergeBytes p x (s.core.r.readV d)) := by
  unfold State.setV
  rw [if_neg (by simp [h])]

/-! ### What a vector instruction writes -/

@[simp] theorem ExecState.markV_pc (x : ExecState) (r : RegNo) : (x.markV r).pc = x.pc := by
  unfold ExecState.markV
  split <;> rfl

@[simp] theorem ExecState.markV_inPair (x : ExecState) (r : RegNo) : (x.markV r).inPair = x.inPair := by
  unfold ExecState.markV
  split <;> rfl

@[simp] theorem ExecState.markV_loops (x : ExecState) (r : RegNo) : (x.markV r).loops = x.loops := by
  unfold ExecState.markV
  split <;> rfl

theorem ExecState.markV_place (x : ExecState) (r : RegNo) : x.SameButPlace (x.markV r) := by
  unfold ExecState.markV
  split <;> rfl

/-- `t` is `s` after the writes of an instruction whose destination is a vector register, a predicate, or neither: no more is
changed than the destination, the marks of R36 and the flags, which only grow (R98). -/
structure State.VectorWrites (v : Option RegNo) (p : Option (BitVec 3)) (s t : State) : Prop where
  frame : t = { s with core := { s.core with
    r := t.core.r, x := t.core.x, sw := { s.core.sw with fstat := t.core.sw.fstat } } }
  place : s.core.x.SameButPlace t.core.x
  ends : t.endRegs = s.endRegs
  flags : s.core.sw.fstat ||| t.core.sw.fstat = t.core.sw.fstat
  g : t.core.r.g = s.core.r.g
  q : t.core.r.q = s.core.r.q
  bank : t.core.r.bank = s.core.r.bank
  vectors : ∀ r, v ≠ some r → t.core.r.readV r = s.core.r.readV r
  predicates : ∀ r, p ≠ some r → t.p r = s.p r

/-- The frame once the end of the word has put other registers, another place and other engines in. -/
theorem State.VectorWrites.frame_with {v : Option RegNo} {p : Option (BitVec 3)} {t : State} (h : s.VectorWrites v p t) (r : Regs)
    (x : ExecState) (e : Engines) :
    ({ t with core := { t.core with r := r, x := x, eng := e } } : State) = { s with core := { s.core with
      r := r, x := x, sw := { s.core.sw with fstat := t.core.sw.fstat }, eng := e } } :=
  congrArg (fun t : State => ({ t with core := { t.core with r := r, x := x, eng := e } } : State)) h.frame

/-- The flags raised stand in `fstat` together with those that stood there (R98). -/
theorem or_or_self_left {n : Nat} (a b : BitVec n) : a ||| (a ||| b) = a ||| b := by
  rw [← BitVec.or_assoc, BitVec.or_self]

theorem State.VectorWrites.nothing (s : State) (v : Option RegNo) (p : Option (BitVec 3)) : s.VectorWrites v p s :=
  ⟨rfl, .refl _, rfl, BitVec.or_self, rfl, rfl, rfl, fun _ _ => rfl, fun _ _ => rfl⟩

theorem State.VectorWrites.register (s : State) (d : RegNo) (x : VReg) (fl : FpFlags) (p : Option (BitVec 3)) :
    s.VectorWrites (some d) p ((s.setVReg d x).raise fl) where
  frame := rfl
  place := s.core.x.markV_place d
  ends := State.endRegs_congr (s.core.x.markV_inPair d) (s.core.x.markV_pc d) (s.core.x.markV_loops d)
  flags := or_or_self_left _ _
  g := rfl
  q := rfl
  bank := rfl
  vectors r other := (Regs.readV_writeV s.core.r r d x).trans (if_neg fun e => other (congrArg some e.symm))
  predicates _ _ := rfl

theorem State.VectorWrites.predicate (s : State) (d : BitVec 3) (x : BitVec 16) (fl : FpFlags) (v : Option RegNo) :
    s.VectorWrites v (some d) ((s.setP d x).raise fl) where
  frame := rfl
  place := .refl _
  ends := rfl
  flags := or_or_self_left _ _
  g := by unfold State.setP Regs.writeP; split <;> rfl
  q := by unfold State.setP Regs.writeP; split <;> rfl
  bank := by unfold State.setP Regs.writeP; split <;> rfl
  vectors r _ := by unfold State.setP Regs.writeP; split <;> rfl
  predicates r other := (Regs.readP_writeP s.core.r r d x).trans (if_neg fun e => other (congrArg some e.1.symm))

/-- How a vector instruction ends where no port is bound: it has written its destination and the next word follows, or it
waits at issue. -/
inductive State.VectorEnd (v : Option RegNo) (p : Option (BitVec 3)) (s : State) : Result → Prop
  | retires {t : State} (h : s.VectorWrites v p t) : s.VectorEnd v p t.done
  | waits (r : WaitReason) (o : Word) : s.VectorEnd v p (s.stay r o)

/-- A wait at issue leaves all but the place as it was. -/
theorem State.stay_advances (rs : List RegNo) (r : WaitReason) (o : Word) : s.Advances rs ((s.waiting r o).finish .stay) := by
  have waits : s.Advances rs (s.waiting r o) := s.onX_advances rfl
  unfold State.finish
  split
  · exact waits.trans (State.onX_advances _ rfl)
  · exact waits

/-- The next state is that of the writes, with the word's end on top. -/
theorem State.VectorEnd.next {v : Option RegNo} {p : Option (BitVec 3)} {t : State} {r : Result} (h : s.VectorEnd v p r)
    (e : r = .next t) : ∃ w, s.VectorWrites v p w ∧ w.Advances s.endRegs t := by
  cases h with
  | @retires w writes =>
    obtain rfl : w.finish .next = t := Host.Outcome.next.inj e
    exact ⟨w, writes, writes.ends ▸ w.finish_next_advances⟩
  | waits r o =>
    obtain rfl : (s.waiting r o).finish .stay = t := Host.Outcome.next.inj e
    exact ⟨s, .nothing s v p, State.stay_advances _ r o⟩

section
variable {srcs dsts : List RegNo} {old : Bool} {v : Option RegNo} {p : Option (BitVec 3)} {a b c d : RegNo} {m : BitVec 3}
  {l : BitVec 2}

/-- With no port bound there is none to wait for. -/
theorem State.Unbound.ports (u : s.Unbound) {f : State → Result} (h : s.VectorEnd v p (f s)) :
    s.VectorEnd v p (s.withPorts srcs dsts old f) := by
  rw [u.withPorts]
  exact h

theorem State.Unbound.finishV (u : s.Unbound) {m : BitVec 16} {x : VReg} {fl : FpFlags} :
    s.VectorEnd (some d) p (s.finishV srcs d m x fl) := by
  unfold State.finishV
  rw [u.takeUnits, State.setV_register (u.boundWrite d)]
  exact .retires (.register s d _ fl p)

/-- An instruction that uses a table waits while it is loaded (R170, R186 to R189). -/
theorem State.Unbound.finishV_or_stay (u : s.Unbound) {busy : Prop} [Decidable busy] {r : WaitReason} {o : Word} {m : BitVec 16}
    {x : VReg} {fl : FpFlags} : s.VectorEnd (some d) p (if busy then s.stay r o else s.finishV srcs d m x fl) := by
  split
  · exact .waits r o
  · exact u.finishV

theorem State.Unbound.vec1 (u : s.Unbound) {f : VReg → VReg} : s.VectorEnd (some d) p (s.vec1 d a m f) := u.ports u.finishV

theorem State.Unbound.vec2 (u : s.Unbound) {f : VReg → VReg → VReg} : s.VectorEnd (some d) p (s.vec2 d a b m f) := u.ports u.finishV

theorem State.Unbound.vec3 (u : s.Unbound) {f : VReg → VReg → VReg → VReg} : s.VectorEnd (some d) p (s.vec3 d a b c f) :=
  u.ports u.finishV

theorem State.Unbound.fp1 (u : s.Unbound) {f : Fp → Fp × FpFlags} : s.VectorEnd (some d) p (s.fp1 d a m l f) := u.ports u.finishV

theorem State.Unbound.fp2 (u : s.Unbound) {f : Fp → Fp → Fp × FpFlags} : s.VectorEnd (some d) p (s.fp2 d a b m l f) :=
  u.ports u.finishV

theorem State.Unbound.fp3 (u : s.Unbound) {f : Fp → Fp → Fp → Fp × FpFlags} : s.VectorEnd (some d) p (s.fp3 d a b c l f) :=
  u.ports u.finishV

theorem State.Unbound.reduce (u : s.Unbound) {f : List (BitVec (laneBits l)) → Word} :
    s.VectorEnd (some d) p (s.reduce d a m l f) := u.ports u.finishV

theorem State.Unbound.dot8 (u : s.Unbound) {signed : Bool} : s.VectorEnd (some d) p (s.dot8 d a b m signed) := u.ports u.finishV

end

/-- What an instruction of `vectorDest` does where no port is bound. `exec` is reduced to its arm first where the arm's
operation is a function written out, which unification would not find. -/
theorem State.Unbound.exec_of_vectorDest (u : s.Unbound) {i : Instr} {d : RegNo} (h : vectorDest i = some d)
    (plain : ∀ d a u r p, i ≠ .vcvt d a u u r p) (p : Option (BitVec 3)) : s.VectorEnd (some d) p (exec i s) := by
  cases i with
  | vabs | vneg | vpop | vclz | vctz => cases h; exact u.vec1
  | vmov | vrot => cases h; delta exec; dsimp only; exact u.vec1
  | vadd | vsub | vmul | vmulh | vmulhn | vmin | vmax | vminn | vmaxn | vand | vor | vxor | vandn | vshl | vshr | vsra | vadds
  | vaddsn | vsubs | vsubsn | vavg | vavgn => cases h; exact u.vec2
  | vshuf | vzip | vunzip | vsel => cases h; delta exec; dsimp only; exact u.vec2
  | vmac | vmacn => cases h; exact u.vec3
  | vfabs | vfneg | vfrcp | vfrsq => cases h; exact u.fp1
  | vfadd | vfsub | vfmul | vfmin | vfmax => cases h; exact u.fp2
  | vfma | vfms | vfnma | vfnms => cases h; exact u.fp3
  | vredadd | vredmin | vredmax | vredminn | vredmaxn => cases h; delta exec; dsimp only; exact u.reduce
  | vdot8 | vdot8n => cases h; exact u.dot8
  | vsplat | vins | vfredadd => cases h; delta exec; dsimp only; exact u.ports u.finishV
  | vdec | venc | segev => cases h; delta exec; dsimp only; exact u.ports u.finishV_or_stay
  | vcvt d a t v r m =>
    cases h
    have other : t ≠ v := fun e => plain d a t r m (by rw [e])
    show s.VectorEnd (some d) p (execVcvt d a t v r m s)
    unfold execVcvt
    rw [if_neg other]
    exact u.ports u.finishV
  | _ => cases h

@[simp] theorem State.raise_zero (s : State) : s.raise 0 = s := by
  have same : s.core.sw.fstat ||| 0 = s.core.sw.fstat := BitVec.or_zero
  unfold State.raise Core.raise
  rw [same]

section
variable {a b : RegNo} {d m : BitVec 3} {l : BitVec 2} {v : Option RegNo}

theorem State.Unbound.compareInt (u : s.Unbound) {f : {n : Nat} → BitVec n → BitVec n → Bool} :
    s.VectorEnd v (some d) (s.compareInt d a b m l f) := by
  unfold State.compareInt
  rw [u.withPorts]
  dsimp only
  rw [u.takeUnits, ← State.raise_zero (s.setP d _)]
  exact .retires (.predicate s d _ 0 v)

theorem State.Unbound.compareFp (u : s.Unbound) {f : Fp → Fp → Bool × FpFlags} :
    s.VectorEnd v (some d) (s.compareFp d a b m l f) := by
  unfold State.compareFp
  rw [u.withPorts]
  dsimp only
  rw [u.takeUnits]
  exact .retires (.predicate s d _ _ v)

end

/-- What a compare does where no port is bound (R177). -/
theorem State.Unbound.exec_of_compareDest (u : s.Unbound) {i : Instr} {d : BitVec 3} (h : compareDest i = some d)
    (v : Option RegNo) : s.VectorEnd v (some d) (exec i s) := by
  cases i with
  | vcmpeq | vcmpne | vcmplt | vcmple | vcmpltn | vcmplen => cases h; delta exec; dsimp only; exact u.compareInt
  | vfcmpeq | vfcmplt | vfcmple | vfcmpun => cases h; delta exec; dsimp only; exact u.compareFp
  | _ => cases h

end Sys2Proof.Machine
end

section
/-! CERTIFICATE. What a vector instruction leaves unchanged. -/

open Sys2Proof Sys2Proof.Machine

/-- Settles O12: the writes of the instruction (`State.VectorWrites`), and then the end of its word (`State.Advances`). -/
theorem vectorFrame : Obligations.VectorFrame := by
  intro i s t _ unbound named plain run
  have u : s.Unbound := unbound
  have ended : s.VectorEnd (vectorDest i) (compareDest i) (exec i s) := by
    rcases named with vector | compare
    · obtain ⟨d, e⟩ := Option.isSome_iff_exists.mp vector
      rw [e]
      exact u.exec_of_vectorDest e plain _
    · obtain ⟨d, e⟩ := Option.isSome_iff_exists.mp compare
      rw [e]
      exact u.exec_of_compareDest e _
  obtain ⟨w, writes, ends⟩ := ended.next run
  obtain ⟨only, unowed, -⟩ := ends.only
  have engines : w.core.eng = s.core.eng := by rw [writes.frame]
  have flags : t.core.sw = w.core.sw := by rw [only]
  have landed (r : RegNo) (h : s.core.Landed r) : w.core.Landed r := h.congr engines writes.place.handBank
  refine ⟨?_, engines ▸ unowed, fun h => (ends.engines fun r hr => landed r (h r hr)).trans engines, writes.place.trans ends.place,
    ?_, fun r hr => ?_, ends.files.q.trans writes.q, ends.files.bank.trans writes.bank,
    fun r hr => (ends.files.readV r).trans (writes.vectors r hr), fun r hr => (ends.files.readP r).trans (writes.predicates r hr)⟩
  · rw [flags]
    exact only.trans (writes.frame_with _ _ _)
  · rw [flags]
    exact writes.flags
  · refine (ends.others r hr).trans ?_
    unfold State.g Regs.readG
    rw [writes.g]

end

section
/-! SUPPORT. Bytes under a predicate, and stream ports that an instruction names (R15, R59, R175, R190). -/

namespace Sys2Proof.Machine

/-! ### Lanes -/

/-- The bits of lane `k` of a vector made of lanes. -/
theorem getLsbD_ofLanes {w m : Nat} (hm : m < w) (k i : Nat) (xs : List (BitVec w)) (room : w * k + m < 128) :
    (ofLanes w i xs).getLsbD (w * k + m) = (decide (i ≤ k) && (xs.getD (k - i) 0).getLsbD m) := by
  induction xs generalizing i with
  | nil => simp [ofLanes]
  | cons x xs ih =>
    rw [ofLanes, BitVec.getLsbD_or, ih, BitVec.getLsbD_shiftLeft, BitVec.getLsbD_setWidth]
    rcases Nat.lt_trichotomy k i with below | rfl | above
    · have : w * k + m < w * i := calc
        w * k + m < w * k + w := by omega
        _ = w * (k + 1) := rfl
        _ ≤ w * i := Nat.mul_le_mul_left w below
      simp [this, Nat.not_le.mpr below, show ¬i + 1 ≤ k by omega]
    · simp [room, show m < 128 by omega]
    · obtain ⟨n, rfl⟩ := Nat.exists_eq_add_of_lt above
      have past : w ≤ w * (i + n + 1) + m - w * i := by
        rw [show w * (i + n + 1) = w * i + (w * n + w) by ring]
        omega
      rw [BitVec.getLsbD_of_ge x _ past, show i + n + 1 - i = n + 1 by omega, show i + n + 1 - (i + 1) = n by omega]
      simp [show i + 1 ≤ i + n + 1 by omega, show i ≤ i + n + 1 by omega]

/-- A vector made of lanes reads back each of them. -/
theorem lane_ofLanes {w k : Nat} (xs : List (BitVec w)) (room : w * (k + 1) ≤ 128) : lane w (ofLanes w 0 xs) k = xs.getD k 0 := by
  apply BitVec.eq_of_getLsbD_eq
  intro m hm
  have fits : w * k + m < 128 := Nat.lt_of_lt_of_le (Nat.add_lt_add_left hm _) room
  rw [lane, BitVec.getLsbD_extractLsb', getLsbD_ofLanes hm k 0 xs fits]
  simp [hm]

/-- The mask of a byte whose predicate bit is 1 is all ones, that of another zero. -/
theorem lane_maskOf (p : BitVec 16) {b : Nat} (h : b < 16) : lane 8 (maskOf p) b = if p.getLsbD b then BitVec.allOnes 8 else 0#8 := by
  rw [maskOf, lane_ofLanes _ (by omega)]
  simp [h]

/-- A merge takes the new byte where the predicate bit is 1, and the old one elsewhere (R175). -/
theorem lane_mergeBytes (p : BitVec 16) (x y : VReg) {b : Nat} (h : b < 16) :
    lane 8 (mergeBytes p x y) b = if p.getLsbD b then lane 8 x b else lane 8 y b := by
  have merged : lane 8 (mergeBytes p x y) b = (lane 8 x b &&& lane 8 (maskOf p) b) ||| (lane 8 y b &&& ~~~lane 8 (maskOf p) b) := by
    apply BitVec.eq_of_getLsbD_eq
    intro m hm
    have fits : 8 * b + m < 128 := by omega
    simp [lane, mergeBytes, hm, fits]
  rw [merged, lane_maskOf p h]
  split
  · rw [BitVec.and_allOnes, BitVec.not_allOnes, BitVec.and_zero, BitVec.or_zero]
  · rw [BitVec.and_zero, BitVec.not_zero, BitVec.and_allOnes, BitVec.zero_or]

/-! ### Ports -/

variable {s : State} {c : Core} {a d : RegNo} {t : Stream}

/-- v28 and v29 are read ports, v30 and v31 write ports (R59). -/
theorem Core.boundWrite_of_boundRead (h : c.boundRead a = true) : c.boundWrite a = false := by
  simp only [Core.boundRead, Bool.and_eq_true, decide_eq_true_eq] at h
  simp [Core.boundWrite, show ¬30 ≤ a.toNat by omega]

theorem Core.bound_of_portIndex {i : Fin 4} (h : portIndex d = some i) : c.bound d = c.eng.streams[i] := by
  unfold Core.bound
  rw [h]

theorem Core.boundWrite_of_portIndex {i : Fin 4} (h : portIndex d = some i) (bound : c.eng.streams[i] = some t) (write : 2 ≤ i.val) :
    c.boundWrite d = true := by
  have port : i.val = d.toNat - 28 := by
    unfold portIndex at h
    split at h
    · rw [← Option.some.inj h]
    · cases h
  rw [Core.boundWrite, Core.bound_of_portIndex h, bound]
  simpa using show 30 ≤ d.toNat by omega

/-- A destination that is a bound read port, or one that is read too and is a bound write port, is misused (R59, R190). -/
theorem Core.portTrap_dest {srcs dsts : List RegNo} {old : Bool} (h : (c.boundRead d || (old && c.boundWrite d)) = true) :
    c.portTrap srcs (d :: dsts) old = some (streamFault d) := by
  unfold Core.portTrap
  rw [List.map_cons, if_pos h]
  rfl

/-- A source that is a bound write port is misused (R59). -/
theorem Core.portTrap_source {srcs : List RegNo} (dest : c.boundRead d = false) (h : c.boundWrite a = true) :
    c.portTrap (a :: srcs) [d] false = some (streamFault a) := by
  simp [Core.portTrap, firstTrap, dest, h]

/-- A read port with no unit left is exhausted (R59). -/
theorem Core.portTrap_exhausted (dest : c.boundRead d = false) (h : c.boundRead a = true) (bound : c.bound a = some t)
    (spent : t.count ≤ t.taken) : c.portTrap [a] [d] false = some (streamFault a) := by
  simp [Core.portTrap, firstTrap, dest, Core.boundWrite_of_boundRead h, h, Core.readPortTrap, bound, spent]

theorem Core.portEmpty_source (h : c.boundRead a = true) (bound : c.bound a = some t) (empty : t.fifo = []) :
    c.portEmpty [a] = some a := by
  simp [Core.portEmpty, h, bound, empty]

theorem State.withPorts_trap {srcs dsts : List RegNo} {old : Bool} {f : Flow} (h : s.core.portTrap srcs dsts old = some f)
    (g : State → Result) : s.withPorts srcs dsts old g = .next (s.finish f) := by
  unfold State.withPorts
  rw [h]

theorem State.withPorts_empty {srcs dsts : List RegNo} {old : Bool} (h : s.core.portTrap srcs dsts old = none)
    (empty : s.core.portEmpty srcs = some a) (g : State → Result) :
    s.withPorts srcs dsts old g = s.stay .streamData (portVal a) := by
  unfold State.withPorts
  rw [h, empty]

/-- A unit appended to a stream of untimed memory joins those still to be performed (R59, R165). -/
theorem State.append_untimed {i : Fin 4} {path : Path} {off : Nat} (bound : s.core.eng.streams[i] = some t)
    (place : pathOf (t.unit t.taken) = some (path, off)) (untimed : path.isTimed = false) (u : VReg) :
    s.append i u = { s with
      core := s.core.setStream i (some { t with taken := t.taken + 1, appends := t.appends ++ [(t.taken, u)] }) } := by
  unfold State.append
  rw [bound]
  simp only [place, untimed, Core.setStream, Vector.set_set, Bool.false_eq_true, if_false]

/-- A bound write port takes the unit in place of its register (R175). -/
theorem State.setV_port {i : Fin 4} (h : portIndex d = some i) (bound : s.core.eng.streams[i] = some t) (write : 2 ≤ i.val)
    (p : BitVec 16) (x : VReg) : s.setV d p x = s.append i (mergeBytes p x 0) := by
  unfold State.setV
  rw [if_pos (Core.boundWrite_of_portIndex h bound write), h]

/-! ### The registers that an instruction names, and whether it reads its destination (R175, R183, R190) -/

theorem exec_vadd_ports (d a b : RegNo) (p : BitVec 3) (l : BitVec 2) (s : State) :
    ∃ f, exec (.vadd d a b p l) s = s.withPorts [a, b] [d] false f := by
  delta exec execVadd State.vec2; exact ⟨_, rfl⟩

theorem exec_vmov_ports (d a : RegNo) (p : BitVec 3) (l : BitVec 2) (s : State) :
    ∃ f, exec (.vmov d a p l) s = s.withPorts [a] [d] false f := by
  delta exec execVmov State.vec1; exact ⟨_, rfl⟩

theorem exec_vdot8_ports (d a b : RegNo) (p : BitVec 3) (l : BitVec 2) (s : State) :
    ∃ f, exec (.vdot8 d a b p l) s = s.withPorts [a, b] [d] true f := by
  delta exec execVdot8 State.dot8; exact ⟨_, rfl⟩

theorem exec_vins_ports (d a b : RegNo) (p : BitVec 3) (l : BitVec 2) (s : State) :
    ∃ f, exec (.vins d a b p l) s = s.withPorts [] [d] true f := by
  delta exec execVins; exact ⟨_, rfl⟩

end Sys2Proof.Machine
end

section
/-! CERTIFICATE. Writes under a predicate, and stream ports. -/

open Sys2Proof Sys2Proof.Machine

/-- Settles O13: a merge byte by byte (`lane_mergeBytes`), and the checks of ports in their order (`Core.portTrap`). -/
theorem predicatesAndPorts : Obligations.PredicatesAndPorts := by
  refine ⟨fun s d p x => ⟨fun register b hb => ?_, fun i t off port bound write place => ?_⟩, fun s d a b p l => ?_⟩
  · rw [State.setV_register register, ← lane_mergeBytes p x _ hb]
    exact congrArg (lane 8 · b) ((Regs.readV_writeV _ _ _ _).trans (if_pos rfl))
  · refine ⟨mergeBytes p x 0, fun b hb => ?_, ?_⟩
    · rw [lane_mergeBytes p x 0 hb]
      simp [lane]
    · rw [State.setV_port port bound write]
      exact State.append_untimed bound place rfl _
  · obtain ⟨_, add⟩ := exec_vadd_ports d a b p l s
    obtain ⟨_, mov⟩ := exec_vmov_ports d a p l s
    obtain ⟨_, dot⟩ := exec_vdot8_ports d a b p l s
    obtain ⟨_, ins⟩ := exec_vins_ports d a b p l s
    rw [add, mov, dot, ins]
    refine ⟨fun dest => State.withPorts_trap (Core.portTrap_dest ?_) _,
      fun dest source => State.withPorts_trap (Core.portTrap_source dest source) _,
      fun dest => ⟨State.withPorts_trap (Core.portTrap_dest ?_) _, State.withPorts_trap (Core.portTrap_dest ?_) _⟩,
      fun t dest source bound spent => State.withPorts_trap (Core.portTrap_exhausted dest source bound spent) _,
      fun t fits source bound empty => State.withPorts_empty fits (Core.portEmpty_source source bound empty) _⟩
    · rw [dest, Bool.true_or]
    · rw [dest, Bool.true_and, Bool.or_true]
    · rw [dest, Bool.true_and, Bool.or_true]

end

section
/-! SUPPORT. A core at its first clause whose load from the scratchpad has still to be performed (R51, R80). -/

namespace Sys2Proof.Machine

/-- The machine after reset, one word of a load to g1 from the scratchpad still to be performed at its bank: a load issued after
a store to the word it reads, which has been performed since. -/
def State.loadOwed : State := State.reset.onEng (fun e => { e with
  pend := [⟨0, false, [], false, none, some ⟨.g 1 false, 0x0200000000000000, 4, false, [0], 0⟩, 0⟩] })

theorem State.loadOwed_ready : State.loadOwed.Ready where
  agenda := rfl
  powered := rfl
  up := rfl
  within := rfl
  running := rfl
  clock := ⟨rfl, rfl⟩
  alone := rfl
  first := rfl
  begun := rfl
  allowed := nofun

/-- An instruction that names g1 has the load performed before it issues. -/
theorem State.loadOwed_used : (State.loadOwed.issuing.loadsUsed (.movi 1 0)).core.eng.pend = [] := rfl

end Sys2Proof.Machine
end

section
/-! CERTIFICATE. What a step of a ready core runs. -/

open Sys2Proof Sys2Proof.Machine

/-- Refutes O55: its first clause asks only that no atomic is still to be performed, but a load from the scratchpad may stand among the
pending accesses too, and an instruction that names its register has it performed (`State.loadsUsed`, R51, R80). -/
theorem not_stepRunsWord : ¬ Obligations.StepRunsWord := by
  rintro ⟨runs, -⟩
  obtain ⟨unused, -⟩ := runs State.loadOwed State.loadOwed_ready
  have same : State.loadOwed.issuing.loadsUsed (.movi 1 0) = State.loadOwed.issuing := unused rfl (by decide) (.movi 1 0)
  have left : State.loadOwed.issuing.core.eng.pend = [] := same ▸ State.loadOwed_used
  exact absurd left (List.cons_ne_nil _ _)

end

section
/-! SUPPORT. Changes of one core and of the cores of a list, and how gangs form, split and dissolve (R42, R43, R135, R137). -/

namespace Sys2Proof.Machine

variable {s : State}

/-! ### One core of the machine changes -/

theorem State.onCore_coreAt (h : s.Numbered) (k : Nat) {f : Core → Core} (id : ∀ c, (f c).id = c.id) (j : Nat) :
    (s.onCore k f).coreAt j = if j = k then f (s.coreAt j) else s.coreAt j := by
  have own : (f (s.coreAt k)).id = k := (id _).trans (h k)
  split
  next e => rw [e]; exact State.onCore_same k f own
  next e => exact State.onCore_other k j f own e

theorem State.onCore_numbered (h : s.Numbered) (k : Nat) {f : Core → Core} (id : ∀ c, (f c).id = c.id) :
    (s.onCore k f).Numbered := by
  intro j
  rw [State.onCore_coreAt h k id]
  split
  · rw [id, h]
  · exact h j

@[simp] theorem State.onCore_agenda (s : State) (k : Nat) (f : Core → Core) : (s.onCore k f).agenda = s.agenda := by
  unfold State.onCore State.putCore
  split <;> rfl

/-- The acting core stays the acting one. -/
@[simp] theorem State.onCore_id (s : State) (k : Nat) (f : Core → Core) : (s.onCore k f).core.id = s.core.id := by
  unfold State.onCore State.putCore
  split
  next e => exact e
  · rfl

/-! ### The cores of a list change -/

/-- Each core of a list changes, one after another. -/
def State.onCores (s : State) (ks : List Nat) (f : Nat → Core → Core) : State := ks.foldl (fun t k => t.onCore k (f k)) s

theorem State.onCores_dev (s : State) (ks : List Nat) (f : Nat → Core → Core) : (s.onCores ks f).dev = s.dev := by
  induction ks generalizing s with
  | nil => rfl
  | cons k ks ih => exact (ih _).trans (s.onCore_dev k _)

theorem State.onCores_agenda (s : State) (ks : List Nat) (f : Nat → Core → Core) : (s.onCores ks f).agenda = s.agenda := by
  induction ks generalizing s with
  | nil => rfl
  | cons k ks ih => exact (ih _).trans (s.onCore_agenda k _)

theorem State.onCores_id (s : State) (ks : List Nat) (f : Nat → Core → Core) : (s.onCores ks f).core.id = s.core.id := by
  induction ks generalizing s with
  | nil => rfl
  | cons k ks ih => exact (ih _).trans (s.onCore_id k _)

/-- Each core of the list has changed, however often the list names it, and no other has. -/
theorem State.onCores_coreAt (h : s.Numbered) (ks : List Nat) {f : Nat → Core → Core} (id : ∀ k c, (f k c).id = c.id)
    (again : ∀ k c, f k (f k c) = f k c) (j : Nat) :
    (s.onCores ks f).coreAt j = if j ∈ ks then f j (s.coreAt j) else s.coreAt j := by
  induction ks generalizing s with
  | nil => rw [if_neg List.not_mem_nil]; rfl
  | cons k ks ih =>
    refine (ih (State.onCore_numbered h k (id k))).trans ?_
    rw [State.onCore_coreAt h k (id k)]
    by_cases e : j = k
    · subst e; simp [again]
    · simp [e]

theorem State.onCores_core (h : s.Numbered) {ks : List Nat} {f : Nat → Core → Core} (id : ∀ k c, (f k c).id = c.id)
    (again : ∀ k c, f k (f k c) = f k c) (own : s.core.id ∈ ks) : (s.onCores ks f).core = f s.core.id s.core := by
  rw [← State.coreAt_self (s.onCores ks f), State.onCores_id, State.onCores_coreAt h ks id again, if_pos own, State.coreAt_self]

/-! ### Gangs (R42, R43, R135, R137) -/

/-- The place of a core in its cluster tells it from the others there (R51). -/
theorem coreInCluster_localIndex (k : Nat) : coreInCluster (clusterOf k) (localIndex k) = k := by
  unfold coreInCluster clusterOf localIndex
  omega

theorem localIndex_lt (k : Nat) : localIndex k < 48 := by
  unfold localIndex
  omega

theorem mem_fuseMembers {i k : Nat} {m : Word} :
    k ∈ fuseMembers i m ↔ ∃ c < 48, m.getLsbD c = true ∧ k = coreInCluster (clusterOf i) c := by
  simp only [fuseMembers, List.mem_map, List.mem_filter, List.mem_range]
  constructor
  · rintro ⟨c, ⟨hc, named⟩, rfl⟩; exact ⟨c, hc, named, rfl⟩
  · rintro ⟨c, hc, named, rfl⟩; exact ⟨c, ⟨hc, named⟩, rfl⟩

theorem self_mem_fuseMembers {i : Nat} {m : Word} (named : m.getLsbD (localIndex i) = true) : i ∈ fuseMembers i m :=
  mem_fuseMembers.mpr ⟨_, localIndex_lt i, named, (coreInCluster_localIndex i).symm⟩

/-- A member of a gang that forms at core `i`: its `fuse` completes there, and is decided at the others. -/
def Core.joinGang (i : Nat) (m : Word) (k : Nat) (c : Core) : Core :=
  { c with gang := fuseMembers i m, fuse := if k = i then none else some (m, true) }

theorem State.formGang_coreAt (h : s.Numbered) (m : Word) (k : Nat) :
    (s.formGang m).coreAt k = if k ∈ fuseMembers s.core.id m then (s.coreAt k).joinGang s.core.id m k else s.coreAt k :=
  State.onCores_coreAt (f := fun k c => c.joinGang s.core.id m k) h _ (fun _ _ => rfl) (fun _ _ => rfl) k

theorem State.formGang_core (h : s.Numbered) {m : Word} (named : m.getLsbD (localIndex s.core.id) = true) :
    (s.formGang m).core = { s.core with gang := fuseMembers s.core.id m, fuse := none } := by
  refine (State.onCores_core (f := fun k c => c.joinGang s.core.id m k) h (fun _ _ => rfl) (fun _ _ => rfl)
    (self_mem_fuseMembers named)).trans ?_
  simp [Core.joinGang]

theorem State.formGang_dev (s : State) (m : Word) : (s.formGang m).dev = s.dev := s.onCores_dev _ _

theorem State.formGang_agenda (s : State) (m : Word) : (s.formGang m).agenda = s.agenda := s.onCores_agenda _ _

theorem State.dissolveGang_coreAt (h : s.Numbered) (k : Nat) :
    s.dissolveGang.coreAt k = if k ∈ s.core.gang then { s.coreAt k with gang := [] } else s.coreAt k :=
  State.onCores_coreAt (f := fun _ c => { c with gang := [] }) h _ (fun _ _ => rfl) (fun _ _ => rfl) k

theorem State.dissolveGang_dev (s : State) : s.dissolveGang.dev = s.dev := s.onCores_dev _ _

theorem State.dissolveGang_agenda (s : State) : s.dissolveGang.agenda = s.agenda := s.onCores_agenda _ _

/-! ### `fuse` (R135, R310) -/

/-- The acting core may form a gang at a mask: the mask names it and another core, it is in no gang, in no handler and in its
own cluster, its request is not decided, and it has not waited out the 4,096 cycles. -/
def State.FuseFree (s : State) (m : Word) : Prop :=
  m.getLsbD (localIndex s.core.id) = true ∧ m ≠ BitVec.ofNat 64 (2 ^ localIndex s.core.id) ∧ s.core.gang = [] ∧
    s.core.x.inHandler = false ∧ s.core.displaced = false ∧
    (∀ w, s.core.x.wait = some w → w.reason = .fuse → w.cycles ≤ 4096) ∧ (∀ n, s.core.fuse ≠ some (n, true))

theorem Core.fuse_decided {c : Core} : c.fuse.map (fun f => f.2) = some true ↔ ∃ n, c.fuse = some (n, true) := by
  rw [Option.map_eq_some_iff]
  constructor
  · rintro ⟨⟨n, d⟩, e, rfl⟩; exact ⟨n, e⟩
  · rintro ⟨n, e⟩; exact ⟨_, e, rfl⟩

/-- Whether a core has waited for one reason longer than a number of cycles. -/
theorem Core.lt_waited {c : Core} {r : WaitReason} {n : Nat} :
    n < c.waited r ↔ ¬∀ w, c.x.wait = some w → w.reason = r → w.cycles ≤ n := by
  unfold Core.waited
  cases c.x.wait with
  | none => simp
  | some w => by_cases e : w.reason = r <;> simp [e]

theorem Core.fusing_iff {c : Core} {m : Word} : c.fusing m = true ↔
    c.fuse = some (m, false) ∧ c.displaced = false ∧ ∃ w, c.x.wait = some w ∧ w.reason = .fuse ∧ w.cycles ≤ 4096 := by
  unfold Core.fusing gangLimit
  cases c.x.wait with
  | none => simp
  | some w => simp [and_assoc, and_left_comm]

/-- Where no gang may form, the core goes on alone. -/
theorem execFuse_alone {a : RegNo} (h : ¬s.FuseFree (s.g a &&& 0xFFFFFFFFFFFF)) :
    execFuse a s = .next (({ s with core := { s.core with fuse := none } } : State).finish .next) := by
  unfold execFuse
  dsimp only
  split
  · rfl
  next undecided =>
  split
  · rfl
  next may =>
  split
  · rfl
  next early =>
  rw [Core.fuse_decided, not_exists] at undecided
  simp only [Bool.or_eq_true, Bool.not_eq_true', decide_eq_true_eq, not_or, Bool.not_eq_false, Bool.not_eq_true, not_not] at may
  obtain ⟨⟨⟨⟨named, other⟩, gang⟩, handler⟩, displaced⟩ := may
  exact absurd ⟨named, other, gang, handler, displaced, not_not.mp fun e => early (Core.lt_waited.mpr e), undecided⟩ h

/-- Where a gang may form, it forms once every other core of the mask waits there for it. -/
theorem execFuse_free {a : RegNo} {m : Word} (mask : m = s.g a &&& 0xFFFFFFFFFFFF) (h : s.FuseFree m) :
    execFuse a s = if (fuseMembers s.core.id m).all (fun k => decide (k = s.core.id) || (s.coreAt k).fusing m) then (s.formGang m).done
      else State.stay { s with core := { s.core with fuse := some (m, false) } } .fuse 0 := by
  obtain ⟨named, other, gang, handler, displaced, early, undecided⟩ := h
  unfold execFuse
  dsimp only
  rw [← mask, if_neg (by rw [Core.fuse_decided, not_exists]; exact undecided),
    if_neg (by simp only [named, other, gang, handler, displaced]; decide),
    if_neg (by rw [gangLimit, Core.lt_waited, not_not]; exact early)]

theorem State.all_fusing {m : Word} :
    (fuseMembers s.core.id m).all (fun k => decide (k = s.core.id) || (s.coreAt k).fusing m) = true ↔
      ∀ k, (∃ c < 48, m.getLsbD c = true ∧ k = coreInCluster (clusterOf s.core.id) c) → k ≠ s.core.id →
        (s.coreAt k).fuse = some (m, false) ∧ (s.coreAt k).displaced = false ∧
          ∃ w, (s.coreAt k).x.wait = some w ∧ w.reason = .fuse ∧ w.cycles ≤ 4096 := by
  simp only [List.all_eq_true, mem_fuseMembers, Bool.or_eq_true, decide_eq_true_eq, Core.fusing_iff, ← or_iff_not_imp_left, ne_eq]

end Sys2Proof.Machine
end

section
/-! SUPPORT. What performing a core's pending accesses leaves as it was (R51, R80, R82, R154). -/

namespace Sys2Proof.Machine

/-- `t` is `s` with some of the acting core's pending accesses performed at their banks: of the device only the scratchpads may
differ; of the core its registers but for the predicates, the marks of R36 and of R302, the flags, TCM, and what is pending. -/
structure State.Performed (s t : State) : Prop where
  cores : t.cores = s.cores
  agenda : t.agenda = s.agenda
  dev : t.dev = { s.dev with spads := t.dev.spads, spadEmpty := t.dev.spadEmpty }
  core : t.core = { s.core with r := t.core.r, sw := t.core.sw, x := t.core.x, mem := t.core.mem, eng := t.core.eng }
  sw : t.core.sw = { s.core.sw with fstat := t.core.sw.fstat }
  x : t.core.x = { s.core.x with
    touchTcm := t.core.x.touchTcm, written := t.core.x.written, writtenHigh := t.core.x.writtenHigh }
  eng : t.core.eng = { s.core.eng with pend := t.core.eng.pend, loads := t.core.eng.loads }
  preds : t.core.r.p = s.core.r.p

variable {s t u : State}

namespace State.Performed

theorem refl (s : State) : s.Performed s := ⟨rfl, rfl, rfl, rfl, rfl, rfl, rfl, rfl⟩

theorem trans (h : s.Performed t) (k : t.Performed u) : s.Performed u where
  cores := k.cores.trans h.cores
  agenda := k.agenda.trans h.agenda
  dev := by rw [k.dev, h.dev]
  core := by rw [k.core, h.core]
  sw := by rw [k.sw, h.sw]
  x := by rw [k.x, h.x]
  eng := by rw [k.eng, h.eng]
  preds := k.preds.trans h.preds

/-! ### What is read off it -/

theorem now (h : s.Performed t) : t.dev.now = s.dev.now := by rw [h.dev]
theorem disp (h : s.Performed t) : t.dev.disp = s.dev.disp := by rw [h.dev]
theorem timed (h : s.Performed t) : t.dev.timed = s.dev.timed := by rw [h.dev]
theorem id (h : s.Performed t) : t.core.id = s.core.id := by rw [h.core]
theorem gang (h : s.Performed t) : t.core.gang = s.core.gang := by rw [h.core]
theorem ix (h : s.Performed t) : t.core.sw.ix = s.core.sw.ix := by rw [h.sw]
theorem ctx (h : s.Performed t) : t.core.x.ctx = s.core.x.ctx := by rw [h.x]
theorem pc (h : s.Performed t) : t.core.x.pc = s.core.x.pc := by rw [h.x]
theorem inPair (h : s.Performed t) : t.core.x.inPair = s.core.x.inPair := by rw [h.x]
theorem remote (h : s.Performed t) : t.core.eng.remote = s.core.eng.remote := by rw [h.eng]

theorem tcbOfCtx (h : s.Performed t) (x : Ctx) : t.tcbOfCtx x = s.tcbOfCtx x := by
  unfold State.tcbOfCtx State.tcbOf
  rw [h.disp]

end State.Performed

/-! ### One access -/

theorem State.performed_onPend (s : State) {f : Engines → Engines}
    (h : f s.core.eng = { s.core.eng with pend := (f s.core.eng).pend, loads := (f s.core.eng).loads }) : s.Performed (s.onEng f) where
  cores := rfl
  agenda := rfl
  dev := rfl
  core := rfl
  sw := rfl
  x := rfl
  eng := h
  preds := rfl

theorem State.performed_setG (s : State) (d : RegNo) (v : Word) : s.Performed (s.setG d v) := by
  unfold State.setG Core.writeG
  split
  · exact .refl s
  next nonzero =>
    refine ⟨rfl, rfl, rfl, rfl, rfl, rfl, rfl, ?_⟩
    rw [Regs.writeG, if_neg nonzero]

theorem State.performed_setVReg (s : State) (d : RegNo) (v : VReg) : s.Performed (s.setVReg d v) := by
  refine ⟨rfl, rfl, rfl, rfl, rfl, ?_, rfl, rfl⟩
  change s.core.x.markV d = { s.core.x with
    touchTcm := (s.core.x.markV d).touchTcm, written := (s.core.x.markV d).written, writtenHigh := (s.core.x.markV d).writtenHigh }
  unfold ExecState.markV
  split <;> rfl

theorem State.performed_writeScalar (s : State) (hand : Bool) (d : RegNo) (v : Word) : s.Performed (s.writeScalar hand d v) := by
  unfold State.writeScalar
  split
  · exact ⟨rfl, rfl, rfl, rfl, rfl, rfl, rfl, rfl⟩
  · exact s.performed_setG d v

theorem State.performed_raise (s : State) (f : FpFlags) : s.Performed (s.raise f) := ⟨rfl, rfl, rfl, rfl, rfl, rfl, rfl, rfl⟩

theorem State.performed_spadWrite (s : State) (cl : Nat) (bs : List (Nat × Byte)) : s.Performed (s.spadWrite cl bs) :=
  ⟨rfl, rfl, rfl, rfl, rfl, rfl, rfl, rfl⟩

theorem State.performed_spadMark (s : State) (cl : Nat) (full : Bool) (ws : List Nat) : s.Performed (s.spadMark cl full ws) :=
  ⟨rfl, rfl, rfl, rfl, rfl, rfl, rfl, rfl⟩

theorem State.performed_wordsDone (s : State) (pick : LateLoad → Nat → Bool) : s.Performed (s.wordsDone pick) := by
  unfold State.wordsDone
  split
  · exact .refl s
  · exact s.performed_onPend rfl

theorem State.performed_loadsDone (s : State) (pick : LateLoad → Bool) : s.Performed (s.loadsDone pick) := by
  unfold State.loadsDone
  split
  · exact .refl s
  · exact s.performed_onPend rfl

theorem State.performed_takePart (s : State) (l : LateLoad) (start : Nat) (bs : List Byte) : s.Performed (s.takePart l start bs) := by
  unfold State.takePart
  split
  · split <;> exact s.performed_writeScalar _ _ _
  · exact s.performed_setVReg _ _
  · exact .refl s

theorem State.performed_takeWord (s : State) (l : LateLoad) (w : Nat) : s.Performed (s.takeWord l w) := by
  unfold State.takeWord
  split
  · exact .refl s
  · split
    · exact s.performed_takePart _ _ _
    · exact .refl s

theorem State.performed_performAtomic (s : State) (cl off : Nat) (a : PendAtomic) : s.Performed (s.performAtomic cl off a) :=
  ((s.performed_spadWrite _ _).trans (State.performed_writeScalar _ _ _ _)).trans (State.performed_raise _ _)

theorem State.performed_performStore (s : State) (cl : Nat) (p : PendStore) : s.Performed (s.performStore cl p) := by
  unfold State.performStore
  dsimp only
  generalize done : s.wordsDone _ = t
  refine State.Performed.trans (t := t) (done ▸ s.performed_wordsDone _) ?_
  split
  · exact t.performed_performAtomic _ _ _
  · exact t.performed_takeWord _ _
  · split
    · split <;> exact ⟨rfl, rfl, rfl, rfl, rfl, rfl, rfl, rfl⟩
    · split
      · exact (t.performed_spadWrite _ _).trans (State.performed_spadMark _ _ _ _)
      · exact t.performed_spadWrite _ _

/-! ### The accesses that a test picks -/

theorem State.performed_foldl (s : State) (cl : Nat) (ps : List (PendStore × Bool)) :
    s.Performed (ps.foldl (fun s p => s.performStore cl p.1) s) := by
  induction ps generalizing s with
  | nil => exact .refl s
  | cons p ps ih => exact (s.performed_performStore cl p.1).trans (ih _)

theorem State.performed_drain (s : State) (pick : PendStore → Bool) : s.Performed (s.drain pick) := by
  unfold State.drain
  dsimp only
  split
  · exact (s.performed_foldl _ _).trans (State.performed_onPend _ rfl)
  · exact .refl s

theorem State.performed_drainAtomics (s : State) : s.Performed s.drainAtomics := s.performed_drain _

theorem State.performed_drainAll (s : State) : s.Performed s.drainAll := (s.performed_drain _).trans (State.performed_loadsDone _ _)

/-- The fence of R154 performs accesses, and changes no more. -/
theorem State.performed_fenced (s : State) (r : Scope) : s.Performed (s.fenced r) := by
  unfold State.fenced
  split
  · exact .refl s
  · exact s.performed_drainAll

/-- Where a test picks no pending access, none is performed. -/
theorem PendStore.before_none {pick : PendStore → Bool} {ps : List PendStore} (h : ∀ p ∈ ps, pick p = false) :
    ∀ e ∈ PendStore.before pick ps, e.2 = false := by
  induction ps with
  | nil => exact List.forall_mem_nil _
  | cons p ps ih =>
    have rest := ih fun q hq => h q (List.mem_cons_of_mem p hq)
    refine List.forall_mem_cons.mpr ⟨?_, rest⟩
    rw [h p List.mem_cons_self, Bool.false_or, List.any_eq_false]
    intro e he
    simp [rest e he]

theorem State.drain_none {pick : PendStore → Bool} (h : ∀ p ∈ s.core.eng.pend, pick p = false) : s.drain pick = s := by
  unfold State.drain
  dsimp only
  rw [if_neg]
  rw [Bool.not_eq_true, List.any_eq_false]
  intro e he
  simp [PendStore.before_none h e he]

theorem State.drainAtomics_none (h : ∀ p ∈ s.core.eng.pend, p.atomic = none ∧ p.load = none) : s.drainAtomics = s :=
  State.drain_none fun p hp => by simp [h p hp]

/-- Where a test picks every pending access, none is left. -/
theorem PendStore.before_all (ps : List PendStore) : ∀ e ∈ PendStore.before (fun _ => true) ps, e.2 = true := by
  induction ps with
  | nil => exact List.forall_mem_nil _
  | cons p ps ih => exact List.forall_mem_cons.mpr ⟨rfl, ih⟩

theorem State.drain_all_pend (s : State) : (s.drain (fun _ => true)).core.eng.pend = [] := by
  have all := PendStore.before_all s.core.eng.pend
  unfold State.drain
  dsimp only
  split
  · change ((PendStore.before (fun _ => true) s.core.eng.pend).filter (fun p => !p.2)).map (fun p => p.1) = []
    rw [List.filter_eq_nil_iff.mpr fun e he => by simp [all e he], List.map_nil]
  next none =>
    cases h : s.core.eng.pend with
    | nil => rfl
    | cons p ps => exact absurd (by simp [h, PendStore.before]) none

theorem State.drainAll_pend (s : State) : s.drainAll.core.eng.pend = [] := by
  have e : s.drainAll.core.eng.pend = (s.drain (fun _ => true)).core.eng.pend := by
    unfold State.drainAll State.loadsDone
    split <;> rfl
  rw [e, s.drain_all_pend]

/-- No access becomes pending as a word ends: its strides go to those that are (R130). -/
theorem State.OnlyRegs.pend_nil (h : s.OnlyRegs t) (none : s.core.eng.pend = []) : t.core.eng.pend = [] := by
  have same := congrArg Engines.pend h.2.1
  rw [Engines.unowed, Engines.unowed, none, List.map_nil] at same
  exact List.map_eq_nil_iff.mp same

end Sys2Proof.Machine
end

section
/-! SUPPORT. How a context leaves its core, and how groups of a task begin (R33, R37, R40, R138 to R141). -/

namespace Sys2Proof.Machine

variable {s : State}

/-! ### TCBs -/


@[simp] theorem State.putTcb_recs (s : State) (t : Tcb) : (s.putTcb t).dev.disp.recs = s.dev.disp.recs := by
  change (if _ then _ else _ : Dispatch).recs = _
  split <;> rfl

/-- The TCB of a context, where there is one, is PARKED. -/
def State.tcbParked (s : State) (x : Ctx) : State :=
  match s.tcbOfCtx x with
  | some t => s.putTcb { t with st := .parked }
  | none => s

/-- Only TCBs change. -/
theorem State.tcbParked_frame (s : State) (x : Ctx) : (s.tcbParked x).core = s.core ∧ (s.tcbParked x).cores = s.cores ∧
    (s.tcbParked x).dev.timed = s.dev.timed ∧ (s.tcbParked x).dev.disp.recs = s.dev.disp.recs := by
  unfold State.tcbParked
  split
  · exact ⟨rfl, rfl, rfl, State.putTcb_recs _ _⟩
  · exact ⟨rfl, rfl, rfl, rfl⟩

/-! ### Parking (R33, R37) -/

theorem State.leaveGang_alone (gang : s.core.gang = []) : s.leaveGang = s := if_pos gang

/-- Bits 0 and 63 of a live mask are dropped once (R141). -/
theorem cleanMask_cleanMask (m : Word) : cleanMask (cleanMask m) = cleanMask m := by
  unfold cleanMask
  rw [BitVec.and_assoc, BitVec.and_self]

/-- The continuation record that the acting core's context leaves. -/
def State.parkedRec (s : State) (x : Ctx) (code : BitVec 8) (obj mask : Word) : QRec where
  place := 0
  cluster := clusterOf s.core.id
  part := x.part
  node := x.node
  wid := x.wid
  prio := x.prio
  rel := x.rel
  since := s.dev.now
  aged := x.prio
  near := none
  headSince := none
  expired := false
  waited := false
  cont := some (s.core.contOf x code obj (cleanMask mask))

/-- A context that parks: the accesses that its registers wait for are performed, its TCB is PARKED, its record goes to its
cluster's queue, and the core takes its next work. -/
theorem State.parkContext_eq {x : Ctx} (gang : s.core.gang = []) (ctx : s.core.x.ctx = some x) (code : BitVec 8) (obj mask : Word) :
    s.parkContext code obj mask = ((s.drainAtomics.tcbParked x).onDisp (fun d => { d with
      recs := d.recs ++ [s.drainAtomics.parkedRec x code obj mask] })).freeCore := by
  unfold State.parkContext
  rw [State.leaveGang_alone gang]
  have there : s.drainAtomics.core.x.ctx = some x := s.performed_drainAtomics.ctx.trans ctx
  generalize s.drainAtomics = u at there ⊢
  dsimp only
  rw [there]
  rfl

/-- The machine `t` after a context has left its core `u`, leaving the record `q`. -/
structure State.Left (u t : State) (q : QRec) : Prop where
  recs : t.dev.disp.recs = u.dev.disp.recs ++ [q]
  run : t.core.x.run = .idle
  ctx : t.core.x.ctx = none
  mode : t.core.x.mode = .user
  mat : t.core.mat = Matrix.reset
  tip : t.core.csr.tip = false
  r : t.core.r = (u.core.useBank false).r
  mem : t.core.mem = u.core.mem
  cores : t.cores = u.cores
  timed : t.dev.timed = u.dev.timed
  id : t.core.id = u.core.id

@[simp] theorem Core.useBank_id (c : Core) (hand : Bool) : (c.useBank hand).id = c.id := by
  unfold Core.useBank
  split <;> rfl

@[simp] theorem State.freeCore_dev (s : State) : s.freeCore.dev = s.dev := rfl
@[simp] theorem State.freeCore_r (s : State) : s.freeCore.core.r = (s.core.useBank false).r := rfl
@[simp] theorem State.freeCore_mem (s : State) : s.freeCore.core.mem = s.core.mem := s.core.useBank_mem false
@[simp] theorem State.freeCore_id (s : State) : s.freeCore.core.id = s.core.id := s.core.useBank_id false

theorem State.parkContext_left {x : Ctx} (gang : s.core.gang = []) (ctx : s.core.x.ctx = some x) (code : BitVec 8) (obj mask : Word) :
    s.drainAtomics.Left (s.parkContext code obj mask) (s.drainAtomics.parkedRec x code obj mask) := by
  rw [State.parkContext_eq gang ctx]
  generalize s.drainAtomics = u
  obtain ⟨core, cores, timed, recs⟩ := u.tcbParked_frame x
  generalize u.tcbParked x = v at core cores timed recs
  exact {
    recs := by rw [State.freeCore_dev, State.onDisp_disp, recs]
    run := rfl
    ctx := rfl
    mode := rfl
    mat := rfl
    tip := rfl
    r := by rw [State.freeCore_r, State.onDisp_core, core]
    mem := by rw [State.freeCore_mem, State.onDisp_core, core]
    cores := cores
    timed := timed
    id := by rw [State.freeCore_id, State.onDisp_core, core] }

/-! ### Group boundaries (R40, R138) -/

theorem anyLoop_eq_false {ls : Vector LoopLevel 3} : anyLoop ls = false ↔ ∀ k : Fin 3, ls[k].active = false := by
  unfold anyLoop
  simp [Fin.forall_fin_succ, and_assoc]

/-- The next group changes the context's instants and its TCB's alone. -/
theorem State.nextGroup_frame (s : State) (x : Ctx) : (s.nextGroup x).core.gang = s.core.gang ∧ (s.nextGroup x).dev.now = s.dev.now := by
  unfold State.nextGroup
  dsimp only
  split <;> exact ⟨rfl, rfl⟩

/-- Whether a live mask lets a boundary act: it fits, and no loop is active (R138). -/
def State.BoundaryActs (s : State) (m : Word) : Prop := maskSlots m ≤ 16 ∧ ∀ k : Fin 3, s.core.x.loops[k].active = false

/-- `yield` after its fence: what the boundary comes to, by the four branches of R138. -/
theorem execYield_eq {a : RegNo} {x : Ctx} (task : s.core.x.inHandler = false) (ctx : s.core.x.ctx = some x)
    (fence : s.fenceWaits s.core.sw.fenceScope = false) (gang : s.core.gang = []) {b : State}
    (begun : (s.fenced s.core.sw.fenceScope).nextGroup x = b) :
    execYield a s =
      if anyLoop s.core.x.loops || decide (16 < maskSlots (cleanMask (s.g a))) then b.untilRel x.pub
      else if s.core.csr.req then
        .next ((b.onX (fun e => { e with mglive := cleanMask (s.g a) ||| 0x8000000000000000, reqSince := none })).finish
          (.trapAfter 0x18 s.core.csr.xmig))
      else if s.outranked x.prio then
        if s.core.anyPort then s.trap 0x0A s.core.lowestPort 0 else .next (b.finishLeave (.boundary (cleanMask (s.g a))))
      else b.untilRel x.pub := by
  have alone : b.core.gang = [] := by
    rw [← begun, (State.nextGroup_frame _ x).1, (s.performed_fenced _).gang, gang]
  unfold execYield
  simp only [task, ctx, fence, begun, State.leaveGang_alone alone]
  rfl

/-- `park` after its fence (R140). -/
theorem execPark_eq {a : RegNo} (task : s.core.x.inHandler = false) (fence : s.fenceWaits s.core.sw.fenceScope = false)
    (acts : s.BoundaryActs (cleanMask (s.g a))) (ports : s.core.anyPort = false) (replies : s.core.eng.remote = []) :
    execPark a s = .next (s.drainAll.finishLeave (.park (cleanMask (s.g a)))) := by
  obtain ⟨fits, loops⟩ := acts
  have idle := anyLoop_eq_false.mpr loops
  unfold execPark
  simp only [task, ports, idle, replies, fence, Nat.not_lt.mpr fits]
  rfl

/-- The clause of a `park` retires and its context leaves the core. -/
theorem State.finishLeave_park (inPair : s.core.x.inPair = false) (m : Word) :
    s.finishLeave (.park m) = (s.finish .next).parkContext 0 0 m := by
  unfold State.finishLeave State.performLeave
  rw [if_neg (by rw [inPair]; decide), State.finish_alone _ inPair]
  rfl

theorem State.OnlyRegs.dev {t : State} (h : s.OnlyRegs t) : t.dev = s.dev := by rw [h.1]
theorem State.OnlyRegs.cores {t : State} (h : s.OnlyRegs t) : t.cores = s.cores := by rw [h.1]
theorem State.OnlyRegs.id {t : State} (h : s.OnlyRegs t) : t.core.id = s.core.id := by rw [h.1]
theorem State.OnlyRegs.gang {t : State} (h : s.OnlyRegs t) : t.core.gang = s.core.gang := by rw [h.1]
theorem State.OnlyRegs.sw {t : State} (h : s.OnlyRegs t) : t.core.sw = s.core.sw := by rw [h.1]

theorem State.finish_ctx (s : State) : (s.finish .next).core.x.ctx = s.core.x.ctx := by
  rw [s.finish_next_advances.place]

/-- Once every access has been performed, none is pending as the clause ends. -/
theorem State.drainAll_finish (s : State) : (s.drainAll.finish .next).drainAtomics = s.drainAll.finish .next := by
  have none := s.drainAll.finish_next_onlyRegs.pend_nil s.drainAll_pend
  exact State.drainAtomics_none (by simp [none])

end Sys2Proof.Machine
end

section
/-! CERTIFICATE. Gangs, group boundaries and parking. -/

open Sys2Proof Sys2Proof.Machine

/-- Settles O16: `fuse` by whether a gang may form (`State.FuseFree`) and whether every core of the mask asks for it, `yield` and
`park` by their branches once the fence has ended (`execYield_eq`, `execPark_eq`), a parked context by what it leaves
(`State.Left`). -/
theorem gangAndGroupResults : Obligations.GangAndGroupResults := by
  refine ⟨fun s a numbered => ?_, fun s a x => ?_⟩
  · intro m me alone member asks free
    refine ⟨execFuse_alone, fun may all => ?_, fun may some_not => ?_,
      s.dissolveGang, rfl, s.dissolveGang_dev, s.dissolveGang_agenda, State.dissolveGang_coreAt numbered⟩
    · refine ⟨s.formGang m, (execFuse_free rfl may).trans (if_pos (State.all_fusing.mpr all)), s.formGang_dev m, s.formGang_agenda m,
        ?_, fun k hk j => ?_, fun k hk other => ?_, fun k out => ?_⟩
      · rw [State.formGang_core numbered may.1]
      · rw [State.formGang_coreAt numbered, if_pos (mem_fuseMembers.mpr hk)]
        exact mem_fuseMembers
      · rw [State.formGang_coreAt numbered, if_pos (mem_fuseMembers.mpr hk)]
        simp [Core.joinGang, other]
      · rw [State.formGang_coreAt numbered, if_neg fun hk => out (mem_fuseMembers.mp hk)]
    · exact (execFuse_free rfl may).trans (if_neg fun all => some_not (State.all_fusing.mp all))
  · intro m scope next b until_ acts task ctx fence gang
    have fenced := s.performed_fenced scope
    have group : (s.fenced scope).nextGroup x = b := by
      have same := fenced.tcbOfCtx x
      unfold State.nextGroup
      generalize (s.fenced scope).tcbOfCtx x = tcb at same
      subst same
      rfl
    have now : b.dev.now = s.dev.now := by
      rw [← group, (State.nextGroup_frame _ x).2, fenced.now]
    have waits : b.untilRel x.pub = .next until_ := by
      unfold State.untilRel
      rw [now]
    have branches := execYield_eq (a := a) task ctx fence gang group
    rw [waits] at branches
    have held : acts ↔ ¬(anyLoop s.core.x.loops || decide (16 < maskSlots m)) = true := by
      rw [Bool.not_eq_true, Bool.or_eq_false_iff, anyLoop_eq_false, decide_eq_false_iff_not, Nat.not_lt, and_comm]
    refine ⟨fun idle => ?_, fun may req => ?_, fun may req least => ?_, fun may req least ports => ?_, fun may ports replies inPair => ?_⟩
    · exact branches.trans (if_pos (not_not.mp fun e => idle (held.mpr e)))
    · exact branches.trans ((if_neg (held.mp may)).trans (if_pos req))
    · refine branches.trans ((if_neg (held.mp may)).trans ?_)
      rw [req, least]
      rfl
    · refine branches.trans ((if_neg (held.mp may)).trans ?_)
      rw [req, least, ports]
      rfl
    · intro u
      have drained := s.performed_drainAll
      have ends := s.drainAll.finish_next_onlyRegs
      have left := State.parkContext_left (s := u) (ends.gang.trans (drained.gang.trans gang))
        ((State.finish_ctx _).trans (drained.ctx.trans ctx)) 0 0 m
      rw [s.drainAll_finish] at left
      have home : u.core.id = s.core.id := ends.id.trans drained.id
      have run : exec (.park a) s = .next (u.parkContext 0 0 m) := by
        rw [← State.finishLeave_park (drained.inPair.trans inPair)]
        exact execPark_eq task fence may ports replies
      refine ⟨_, u.parkedRec x 0 0 m, u.core.contOf x 0 0 (cleanMask m), run, ?_, rfl, congrArg clusterOf home, rfl, ?_, rfl, rfl,
        cleanMask_cleanMask _, rfl, congrArg u.core.liveSlots (cleanMask_cleanMask _), rfl, ?_, rfl, rfl, left.run, left.ctx, left.mode,
        left.mat, left.r, left.mem, left.tip, left.cores.trans (ends.cores.trans drained.cores), ?_⟩
      · rw [left.recs, ends.dev, drained.disp]
      · rw [← drained.now, ← ends.dev]
        rfl
      · rw [← drained.ix, ← ends.sw]
        rfl
      · rw [left.timed, ends.dev, drained.timed]

end

section
/-! SUPPORT. What an owner does with a publication and a signal, and how a task is released (R28, R213, R272). -/

namespace Sys2Proof.Machine

variable {s : State} {l : Loaded} {d : NodeDesc} {z : Tcb} {gen : BitVec 16}

/-! ### A message reaches its owner -/

/-- A message that may arrive, of an identity with nothing held before it, is applied as it leaves the mesh. -/
theorem State.atOwner_applies {n : Nat} {m : Message} (arrives : s.arriving n = some m) (runs : s.quiesced = false)
    (first : s.heldFirst m.body = false) (f : State → Body → State) : s.atOwner n f = .next (f (s.takeMsg n) m.body) := by
  unfold State.atOwner
  simp only [arrives, runs, first]
  rfl

theorem execPublish_none {n : Nat} (arrives : s.arriving n = none) : execPublish n s = .next s := by
  unfold execPublish
  rw [arrives]
  rfl

theorem execSignal_none {n : Nat} (arrives : s.arriving n = none) : execSignal n s = .next s := by
  unfold execSignal
  rw [arrives]
  rfl

section
variable {n part node pub nb : Nat} {wid reply : Word} {inline : Option (List Byte)} {poison abort : Bool} {m : Message}
  (arrives : s.arriving n = some m) (runs : s.quiesced = false) (first : s.heldFirst m.body = false)
  (loaded : s.nodeFor part node = some (l, d)) (slot : s.findSlot l node wid = .found z)
include arrives runs first loaded slot

/-- A publication whose identity has a TCB. -/
theorem execPublish_found (body : m.body = .publish part node wid gen nb inline reply) :
    execPublish n s = .next ((s.takeMsg n).publishOn l d z gen nb inline reply) := by
  have applied : execPublish n s = s.atOwner n State.applyRecord := by
    unfold execPublish
    rw [arrives, Option.map_some, body]
  have there : (s.takeMsg n).nodeFor part node = some (l, d) := loaded
  have found : (s.takeMsg n).findSlot l node wid = .found z := slot
  rw [applied, State.atOwner_applies arrives runs first, body]
  unfold State.applyRecord State.publishTo
  simp only [there, found]

/-- A signal whose identity has a TCB. -/
theorem execSignal_found (body : m.body = .signal part node wid gen pub poison abort) :
    execSignal n s = .next ((s.takeMsg n).signalOn l d z false gen pub poison abort) := by
  have applied : execSignal n s = s.atOwner n State.applyRecord := by
    unfold execSignal
    rw [arrives, Option.map_some, body]
  have there : (s.takeMsg n).nodeFor part node = some (l, d) := loaded
  have found : (s.takeMsg n).findSlot l node wid = .found z := slot
  rw [applied, State.atOwner_applies arrives runs first, body]
  unfold State.applyRecord State.signalTo
  simp only [there, found]

end

/-! ### `Publish` and `Signal` (R213) -/

/-- A generation meets the TCB of its own as it is. -/
theorem Tcb.meet_own (own : z.gen = gen) : z.meet gen = z := if_neg fun e => e.2 own

theorem arrivesOlder_self (gen : BitVec 16) : arrivesOlder gen gen = false := by
  unfold arrivesOlder
  simp

/-- A publication that leaves dependences open: the task waits for them. -/
theorem State.publishOn_waits (own : z.gen = gen) (fresh : z.published = false) (deps : 0 < (z.count + BitVec.ofNat 32 d.deps).toInt)
    (nb : Nat) (inline : Option (List Byte)) (reply : Word) :
    s.publishOn l d z gen nb inline reply = s.putTcb { z with
      count := z.count + BitVec.ofNat 32 d.deps, published := true, notBefore := nb, inline := inline, reply := reply
      st := .waiting } := by
  have positive : (z.count + BitVec.ofNat 32 d.deps).msb = false := by
    rw [BitVec.msb_eq_toInt]
    exact decide_eq_false (by omega)
  have open_ : z.count + BitVec.ofNat 32 d.deps ≠ 0 := fun e => by simp [e] at deps
  unfold State.publishOn
  simp only [Tcb.meet_own own, own, arrivesOlder_self, fresh, positive, Bool.false_eq_true, if_false, ne_eq, not_true, open_]

/-- A TCB that a signal has counted at. -/
def Tcb.signalled (z : Tcb) (pub : Nat) (poison : Bool) : Tcb :=
  { z with count := z.count - 1, sigmax := max z.sigmax pub, poison := z.poison || poison }

/-- A signal of a TCB's own generation that it still expects: the last one releases a published task. -/
theorem State.signalOn_counts (own : z.gen = gen) (expects : z.published = true → z.count ≠ 0) (pub : Nat) (poison : Bool) :
    s.signalOn l d z false gen pub poison false =
      if z.published = true ∧ z.count - 1 = 0 then s.release l d (z.signalled pub poison) else s.putTcb (z.signalled pub poison) := by
  unfold State.signalOn
  by_cases h : z.published <;> simp_all [Tcb.meet_own, arrivesOlder_self, Tcb.signalled]

/-! ### Release (R28, R29) -/

theorem State.mem_putTcb (s : State) (z : Tcb) : z ∈ (s.putTcb z).dev.disp.tcbs := by
  change z ∈ (if s.dev.disp.tcbs.any z.sameSlot then _ else _ : Dispatch).tcbs
  split
  next found =>
    obtain ⟨x, hx, same⟩ := List.any_eq_true.mp found
    exact List.mem_map.mpr ⟨x, hx, if_pos same⟩
  · exact List.mem_append_right _ List.mem_cons_self

/-- A count of a partition leaves the TCBs and the records alone. -/
theorem State.count_recs (s : State) (p off : Nat) : (s.count p off).dev.disp.recs = s.dev.disp.recs := by
  unfold State.count State.onPart State.onDisp
  dsimp only
  split <;> rfl

/-- A TCB with the instants of its release at an instant `now` (R28). -/
def Tcb.releasedAt (z : Tcb) (d : NodeDesc) (now : Nat) : Tcb :=
  let rel := max z.sigmax (max z.notBefore (now + 1))
  { z with rel := rel, groupRel := rel, pub := rel + d.budget }

/-- A release that no abort and no inline argument meets: the task is READY, and its record goes to its cluster. -/
theorem State.release_ready (live : z.abort = false) (plain : z.inline = none) : ∃ u : State,
    u.dev.disp.recs = s.dev.disp.recs ∧
      s.release l d z = (u.putTcb { z.releasedAt d s.dev.now with st := .ready }).placeTask l d (z.releasedAt d s.dev.now) := by
  refine ⟨if z.sigmax < s.dev.now + 1 ∧ z.notBefore < s.dev.now + 1 then s.count z.part 0x2040 else s, ?_, ?_⟩
  · split
    · exact s.count_recs _ _
    · rfl
  · cases z
    dsimp only at live plain
    subst live plain
    rfl

/-- The record of a released task joins the others in transit. -/
theorem State.placeTask_recs (s : State) (l : Loaded) (d : NodeDesc) (z : Tcb) : ∃ r : QRec,
    (s.placeTask l d z).dev.disp.recs = s.dev.disp.recs ++ [r] ∧
      (r.place, r.part, r.node, r.wid, r.prio, r.rel) = (0, z.part, z.node, z.wid, d.prio, z.rel) ∧ r.cont = none := by
  unfold State.placeTask
  exact ⟨_, rfl, rfl, rfl⟩

end Sys2Proof.Machine
end

section
/-! SUPPORT. The ready queues, and a core that takes a task's record (R30, R36, R258, R270, R273 to R276, R342). -/

namespace Sys2Proof.Machine

variable {s : State} {n : Nat}

/-! ### Slots and held records (R213, R270) -/

/-- A slot is reclaimed only of a RETIRED task whose PUB the horizon has passed by 256, and before the last instant. -/
theorem State.reclaims_not_due {z : Tcb} {q : Partition} (part : s.partition z.part = some q)
    (early : z.st ≠ .retired ∨ q.horizon < z.pub + 256 ∨ 2 ^ 56 ≤ s.dev.now + 1) : s.reclaims z = false := by
  unfold State.reclaims
  rw [part]
  refine Bool.and_eq_false_iff.mpr (.inl (decide_eq_false ?_))
  unfold lastInstant
  rintro ⟨retired, past, now⟩
  rcases early with e | e | e
  · exact e retired
  · omega
  · omega

theorem execTcbReclaim_some {z : Tcb} (tcb : s.dev.disp.tcbs[n]? = some z) : execTcbReclaim n s =
    if s.reclaims z then .next ((s.onDisp (fun d => { d with tcbs := setAt d.tcbs n z.reclaimed })).onDev (fun d => { d with ending := true }))
    else .next s := by
  unfold execTcbReclaim
  rw [tcb]

theorem execHeldGenerationApply_due {h : HeldMsg} (held : s.dev.disp.heldMsgs[n]? = some h) (runs : s.quiesced = false)
    (due : s.heldDue h = true) (first : ∀ x ∈ s.dev.disp.heldMsgs.take n, x.body.identity ≠ h.body.identity) :
    execHeldGenerationApply n s =
      .next ((s.onDisp (fun d => { d with heldMsgs := dropAt d.heldMsgs n })).applyRecord h.body) := by
  have none : (s.dev.disp.heldMsgs.take n).any (fun x => decide (x.body.identity = h.body.identity)) = false :=
    List.any_eq_false.mpr fun x hx => by simp [first x hx]
  unfold execHeldGenerationApply
  rw [held]
  dsimp only
  rw [runs, due, none]
  rfl

/-! ### Records move through the queues (R273 to R276) -/

section
variable {r : QRec} (queued : s.dev.disp.recs[n]? = some r)
include queued

theorem execClusterRecordArrival_transit (transit : r.place = 0) (may : s.mayEnter r = true) : execClusterRecordArrival n s =
    if s.queueCount r.cluster r.prio < 128 then .next (s.setRec n { r with place := 1, since := s.dev.now })
    else if s.overflowCount (clusterShingle r.cluster) r.prio < 4096 then .next (s.setRec n { r with place := 2, since := s.dev.now })
    else if r.waited then .next s
    else .next ((s.setRec n { r with waited := true }).count r.part 0x2068) := by
  unfold execClusterRecordArrival
  rw [queued]
  simp only [transit, may]
  rfl

theorem execOverflowReturn_first (spilled : r.place = 2) (room : s.queueCount r.cluster r.prio < 128)
    (first : ∀ x ∈ s.dev.disp.recs, x.place = 2 → x.cluster = r.cluster → x.prio = r.prio → x.before r = false) :
    execOverflowReturn n s = .next (s.setRec n { r with place := 1 }) := by
  have none : s.dev.disp.recs.any (fun x => decide (x.place = 2 ∧ x.cluster = r.cluster ∧ x.prio = r.prio) && x.before r) = false := by
    refine List.any_eq_false.mpr fun x hx => ?_
    rw [Bool.and_eq_true, decide_eq_true_eq]
    rintro ⟨⟨place, cluster, prio⟩, before⟩
    rw [first x hx place cluster prio] at before
    cases before
  unfold execOverflowReturn
  rw [queued]
  dsimp only
  rw [none, decide_eq_true spilled, decide_eq_true room]
  rfl

theorem execPriorityAging_eligible (entered : r.place ≠ 0) (released : r.rel ≤ s.dev.now) (task : r.cont = none) :
    execPriorityAging n s = .next (s.setRec n { r with aged := r.agedAt s.dev.now }) := by
  have eligible : s.eligible r = true := by
    unfold State.eligible
    simp [entered, released, task]
  unfold execPriorityAging
  rw [queued]
  exact if_pos eligible

/-- A `near` hint whose wait has lasted as long as its partition lets it: it expires where the named core could not take it. -/
theorem execNearHintExpiry_waited {k t : Nat} (near : r.near = some k) (head : r.headSince = some t) (place : r.place = 1)
    (waited : t + s.hintSpan r.part ≤ s.dev.now) : execNearHintExpiry n s =
      if s.coreIdle k = true ∧ s.clusterPart (clusterOf k) = some r.part then .next s else .next (s.setRec n { r with expired := true }) := by
  unfold execNearHintExpiry State.nearIdle
  rw [queued]
  simp only [near, head, place, waited]
  by_cases idle : s.coreIdle k = true <;> by_cases part : s.clusterPart (clusterOf k) = some r.part <;> simp [idle, part]

end

/-! ### A core before a task starts on it (R342) -/

/-- A core with bytes written to its TCM, and no other change. -/
def Core.SameButTcm (c d : Core) : Prop :=
  d = { c with mem := { c.mem with tcm := d.mem.tcm }, x := { c.x with touchTcm := d.x.touchTcm } }

theorem Core.SameButTcm.trans {c d e : Core} (h : c.SameButTcm d) (k : d.SameButTcm e) : c.SameButTcm e := by
  unfold Core.SameButTcm at *
  rw [k, h]

theorem Core.SameButTcm.r {c d : Core} (h : c.SameButTcm d) : d.r = c.r := by rw [h]
theorem Core.SameButTcm.csr {c d : Core} (h : c.SameButTcm d) : d.csr = c.csr := by rw [h]
theorem Core.SameButTcm.frame {c d : Core} (h : c.SameButTcm d) (f : Nat) : d.mem.frame f = c.mem.frame f := by rw [h]; rfl

/-- No core differs but for bytes written to its TCM. -/
def State.CoresStaged (s t : State) : Prop := ∀ k, (s.coreAt k).SameButTcm (t.coreAt k)

theorem State.CoresStaged.numbered {t : State} (h : s.CoresStaged t) (numbered : s.Numbered) : t.Numbered := fun k => by
  rw [h k]
  exact numbered k

theorem State.CoresStaged.trans {t u : State} (h : s.CoresStaged t) (k : t.CoresStaged u) : s.CoresStaged u :=
  fun j => (h j).trans (k j)

theorem State.CoresStaged.ite {c : Prop} [Decidable c] {t u : State} (ht : s.CoresStaged t) (hu : s.CoresStaged u) :
    s.CoresStaged (if c then t else u) := by
  split
  · exact ht
  · exact hu

theorem State.tcmWrite_staged (numbered : s.Numbered) (k : Nat) (bs : List (Nat × Byte)) :
    s.CoresStaged (s.onCore k (fun c => c.tcmWrite bs)) := by
  intro j
  rw [State.onCore_coreAt (f := fun c => c.tcmWrite bs) numbered k (fun _ => rfl)]
  split <;> rfl

/-- Changes, one for each entry of a list, each of which writes TCM bytes at most. -/
theorem State.foldl_staged {α : Type} {f : State → α → State} (step : ∀ (t : State) (a : α), t.Numbered → t.CoresStaged (f t a))
    (xs : List α) (numbered : s.Numbered) : s.CoresStaged (xs.foldl f s) := by
  induction xs generalizing s with
  | nil => exact fun _ => rfl
  | cons x xs ih => exact (step s x numbered).trans (ih ((step s x numbered).numbered numbered))

/-- The segments of an image are written to a core's TCM and to its cluster's scratchpad alone (R342). -/
theorem State.stageImage_staged (numbered : s.Numbered) (k part image : Nat) : s.CoresStaged (s.stageImage k part image) := by
  refine State.foldl_staged (fun t g ht => ?_) s.dev.disp.staged numbered
  exact .ite (fun _ => rfl) (.ite (State.tcmWrite_staged ht k _) fun _ => rfl)

/-! ### A task starts (R30, R37, R246, R258) -/

/-- A segment that stands in its frame is not requested: only the mark of R302 changes. -/
theorem Core.requestCode_resident {c : Core} {f uid : Nat} (there : c.mem.frame f = .resident (some uid)) :
    ∃ t, c.requestCode f uid = { c with x := { c.x with touchIm := t } } := ⟨_, if_pos there⟩

/-- A core on which a task has started at clause `f * 4096 + entry`: the start values of R258, no register written. -/
structure Core.Started (k : Core) (d : NodeDesc) (z : Tcb) (f : Nat) (c : Core) : Prop where
  run : c.x.run = .running
  mode : c.x.mode = .user
  pc : c.x.pc = BitVec.ofNat 16 (f * 4096 + d.entry.toNat)
  ctx : ∃ run, c.x.ctx = some (ctxOf z d run)
  r : c.r = k.r.clear
  sw : (c.sw.stkb, c.sw.stkl, c.sw.uvec, c.sw.en) = (k.csr.sstkb, k.csr.sstkl, k.csr.suvec, k.csr.suien)
  mat : c.mat = Matrix.reset

/-- A core about to run a task's context at a program counter, before its code is requested. -/
def Core.begun (c : Core) (x : Ctx) (pc pages : BitVec 16) : Core :=
  { c.forContext x with x := { (c.forContext x).x with pc := pc, touchTcm := pages } }

/-- What a core is made for the start of a task, its segment's code requested. -/
def Core.begin (d : NodeDesc) (z : Tcb) (run f uid : Nat) (pages : BitVec 16) (c : Core) : Core :=
  (c.begun (ctxOf z d run) (BitVec.ofNat 16 (f * 4096 + d.entry.toNat)) pages).requestCode f uid

theorem State.startTask_eq {k : Nat} {l : Loaded} {d : NodeDesc} {z : Tcb} {f uid : Nat} {bs : List Byte}
    (seg : l.segment d.seg = some (f, bs, uid)) : s.startTask k l d z =
      ((s.putTcb { z with st := .running }).stageImage k z.part l.image).onCore k
        (Core.begin d z (s.dev.tick + 1) f uid (s.imagePages z.part l.image)) := by
  unfold State.startTask
  rw [seg]
  rfl

/-- The segment's code stands in its frame, so the core runs at once. -/
theorem Core.begin_resident {c : Core} {f uid : Nat} (there : c.mem.frame f = .resident (some uid)) (d : NodeDesc) (z : Tcb) (run : Nat)
    (pages : BitVec 16) : c.Started d z f (c.begin d z run f uid pages) ∧ (c.begin d z run f uid pages).id = c.id := by
  obtain ⟨touch, begins⟩ := Core.requestCode_resident
    (c := c.begun (ctxOf z d run) (BitVec.ofNat 16 (f * 4096 + d.entry.toNat)) pages) there
  unfold Core.begin
  rw [begins]
  exact ⟨⟨rfl, rfl, rfl, ⟨_, rfl⟩, rfl, rfl, rfl⟩, rfl⟩

theorem State.startTask_started (numbered : s.Numbered) {k : Nat} {l : Loaded} {d : NodeDesc} {z : Tcb} {f uid : Nat} {bs : List Byte}
    (seg : l.segment d.seg = some (f, bs, uid)) (there : (s.coreAt k).mem.frame f = .resident (some uid)) :
    (s.coreAt k).Started d z f ((s.startTask k l d z).coreAt k) := by
  have staged : s.CoresStaged ((s.putTcb { z with st := .running }).stageImage k z.part l.image) :=
    State.stageImage_staged (s := s.putTcb { z with st := .running }) numbered k z.part l.image
  rw [State.startTask_eq seg]
  generalize (s.putTcb { z with st := .running }).stageImage k z.part l.image = t at staged
  obtain ⟨started, id⟩ := Core.begin_resident (((staged k).frame f).trans there) d z (s.dev.tick + 1) (s.imagePages z.part l.image)
  rw [State.onCore_same k _ (id.trans (staged.numbered numbered k))]
  exact { started with
    r := started.r.trans (congrArg Regs.clear (staged k).r)
    sw := by rw [← (staged k).csr]; exact started.sw }

/-- An idle core takes the first record that may run on it, a task's. -/
theorem execTakeRecord_task {core : Nat} {r : QRec} {i : Nat} {z : Tcb} {l : Loaded} {d : NodeDesc} (listed : core < 165888)
    (idle : s.coreIdle core = true) (first : s.ageAll.recordFor core = some (r, i)) (task : r.cont = none)
    (tcb : s.tcbOf r.part r.node r.wid = some z) (loaded : s.nodeFor r.part r.node = some (l, d)) : execTakeRecord core s =
      .next ((s.ageAll.onDisp (fun d => { d with recs := dropAt d.recs i })).startTask core l d z) := by
  have tcb' : (s.ageAll.onDisp (fun d => { d with recs := dropAt d.recs i })).tcbOf r.part r.node r.wid = some z := tcb
  have loaded' : (s.ageAll.onDisp (fun d => { d with recs := dropAt d.recs i })).nodeFor r.part r.node = some (l, d) := loaded
  unfold execTakeRecord
  rw [if_pos ⟨listed, idle⟩]
  dsimp only
  rw [first]
  unfold State.runRecord
  simp only [task, tcb', loaded']

end Sys2Proof.Machine
end

section
/-! SUPPORT. Cores that wait: automatic parking, the end of a gang's and of a `fuse`'s wait, and of a `yield`'s (R36, R40, R43, R135). -/

namespace Sys2Proof.Machine

variable {s : State} {core : Nat}

/-! ### Which core a step is of -/

@[simp] theorem State.leaveGangOf_id (s : State) (k : Nat) (ms : List Nat) : (s.leaveGangOf k ms).core.id = s.core.id :=
  (State.onCores_id _ _ _).trans (s.onCore_id k _)

@[simp] theorem State.leaveGang_id (s : State) : s.leaveGang.core.id = s.core.id := by
  unfold State.leaveGang
  split
  · rfl
  · exact s.leaveGangOf_id _ _

theorem State.parkContext_id (s : State) (code : BitVec 8) (obj mask : Word) : (s.parkContext code obj mask).core.id = s.core.id := by
  have there : s.leaveGang.drainAtomics.core.id = s.core.id := (State.performed_drainAtomics _).id.trans s.leaveGang_id
  unfold State.parkContext
  dsimp only
  split
  · exact (State.freeCore_id _).trans there
  · refine (State.freeCore_id _).trans ?_
    split <;> exact there

theorem State.parkWaiting_id (s : State) : s.parkWaiting.core.id = s.core.id := by
  unfold State.parkWaiting
  split
  · rfl
  · split
    · rfl
    · split
      · exact s.parkContext_id _ _ _
      · rfl

theorem State.lt_of_runs (runs : s.runs core = true) : core < coreCount := by
  unfold State.runs at runs
  simp only [Bool.and_eq_true, decide_eq_true_eq] at runs
  exact runs.1.1

/-- What the acting core does as itself, as long as it stays the acting one. -/
theorem State.asCore_self {f : State → State} (listed : s.core.id < coreCount) (stays : (f s).core.id = s.core.id) :
    s.asCore s.core.id f = f s := by
  unfold State.asCore
  rw [if_pos listed, State.actAs_self, ← stays, State.actAs_self]

theorem execAutoPark_acting (runs : s.runs s.core.id = true) : execAutoPark s.core.id s = .next s.parkWaiting := by
  unfold execAutoPark
  rw [if_pos runs, State.asCore_self (State.lt_of_runs runs) s.parkWaiting_id]

/-! ### Automatic parking (R36) -/

/-- The conditions of R36 but for the threshold. -/
theorem State.mayPark_of {x : Ctx} (ctx : s.core.x.ctx = some x) (mode : s.core.x.mode = .user) (task : s.core.x.inHandler = false)
    (gang : s.core.gang = []) (on : s.core.sw.parkCycles ≠ 0) (fits : maskSlots (cleanMask s.core.automaticMask) ≤ 16)
    (low : s.core.x.writtenHigh = false) (pending : s.core.highPending = false)
    (loops : ∀ k : Fin 3, s.core.x.loops[k].active = false) (slots : ∀ i : Fin 16, s.core.mat.slots[i].st = .free)
    (ports : ∀ i : Fin 4, s.core.eng.streams[i] = none)
    (work : ∃ r ∈ s.dev.disp.recs, r.place = 1 ∧ r.cluster = clusterOf s.core.id ∧ s.eligible r = true) : s.mayPark = true := by
  have idle := anyLoop_eq_false.mpr loops
  have free : s.core.mat.slots.all (fun t => decide (t.st = SlotState.free)) = true :=
    Vector.all_eq_true.mpr fun i hi => decide_eq_true (slots ⟨i, hi⟩)
  have unbound : s.core.anyPort = false := by
    refine Vector.any_eq_false.mpr fun i hi => ?_
    rw [show s.core.eng.streams[i] = none from ports ⟨i, hi⟩]
    decide
  have waiting : s.dev.disp.recs.any (fun r => decide (r.place = 1 ∧ r.cluster = clusterOf s.core.id) && s.eligible r) = true := by
    obtain ⟨r, hr, place, cluster, eligible⟩ := work
    exact List.any_eq_true.mpr ⟨r, hr, by simp [place, cluster, eligible]⟩
  unfold State.mayPark
  simp only [ctx, mode, task, gang, ne_eq, on, fits, low, pending, idle, free, unbound, waiting]
  rfl

/-- A wait on a pending register is long enough at once, any other that reaches the threshold (R36). -/
theorem Core.longEnough_of {c : Core} {w : Wait} (h : w.reason = .remote ∨ c.sw.parkCycles.toNat ≤ w.cycles) :
    c.longEnough w = true := by
  unfold Core.longEnough
  split
  · rfl
  next e =>
    rw [e] at h
    simp [h.resolve_left nofun]
  next other _ => simp [h.resolve_left other]

theorem State.parkWaiting_parks {w : Wait} {code : BitVec 8} (wait : s.core.x.wait = some w) (parks : w.reason.code = some code)
    (may : s.mayPark = true) (long : s.core.longEnough w = true) :
    s.parkWaiting = s.parkContext code w.obj (cleanMask s.core.automaticMask) := by
  unfold State.parkWaiting
  simp only [wait, parks, may, long]
  rfl

/-! ### Waits that end (R40, R43, R135) -/

theorem execYieldResume_waits {w : Wait} {x : Ctx} (wait : (s.coreAt core).x.wait = some w) (ctx : (s.coreAt core).x.ctx = some x)
    (reason : w.reason = .yieldRel) (runs : s.runs core = true) : execYieldResume core s =
      if x.rel ≤ s.dev.now then .next (s.onCore core (fun c => { c with x := { c.x with wait := none } })) else .next s := by
  unfold execYieldResume
  simp only [wait, ctx, reason, runs, true_and, and_true]

theorem execFuseTimeout_asks {m : Word} {w : Wait} (wait : (s.coreAt core).x.wait = some w) (reason : w.reason = .fuse)
    (asks : (s.coreAt core).fuse = some (m, false)) (runs : s.runs core = true) : execFuseTimeout core s =
      if 4096 < w.cycles then .next (s.onCore core (fun c => { c with fuse := some (m, true) })) else .next s := by
  have waited : (s.coreAt core).waited .fuse = w.cycles := by
    unfold Core.waited
    rw [wait]
    exact if_pos reason
  unfold execFuseTimeout
  simp only [asks, waited, runs, gangLimit, Bool.and_true, decide_eq_true_eq]

theorem execGangWaitSplit_waits {w : Wait} (wait : (s.coreAt core).x.wait = some w) (reason : w.reason = .fullEmpty)
    (runs : s.runs core = true) (member : (s.coreAt core).gang ≠ []) : execGangWaitSplit core s =
      if 4096 < w.cycles then .next (s.leaveGangOf core (s.coreAt core).gang) else .next s := by
  unfold execGangWaitSplit
  simp only [wait, reason, runs, member, gangLimit, true_or, ne_eq, not_false_eq_true, decide_true, Bool.and_true, Bool.true_and]
  exact if_congr decide_eq_true_iff rfl rfl

/-- A core that leaves a gang is in none, and its former members have it no more (R43). -/
theorem State.leaveGangOf_coreAt (numbered : s.Numbered) (k : Nat) (ms : List Nat) (j : Nat) :
    ((s.leaveGangOf k ms).coreAt j).gang = if j ≠ k ∧ j ∈ ms then
        (if (ms.filter (fun m => m ≠ k)).length ≤ 1 then [] else ms.filter (fun m => m ≠ k))
      else if j = k then [] else (s.coreAt j).gang := by
  unfold State.leaveGangOf
  dsimp only
  generalize (if (ms.filter (fun m => m ≠ k)).length ≤ 1 then [] else ms.filter (fun m => m ≠ k)) = rest
  have alone := State.onCore_numbered (f := fun c => { c with gang := [] }) numbered k (fun _ => rfl)
  refine (congrArg Core.gang (State.onCores_coreAt (f := fun _ c => { c with gang := rest }) alone _ (fun _ _ => rfl) (fun _ _ => rfl) j)).trans ?_
  rw [State.onCore_coreAt (f := fun c => { c with gang := [] }) numbered k (fun _ => rfl)]
  by_cases own : j = k
  · simp [own]
  · by_cases member : j ∈ ms <;> simp [own, member]

theorem State.leaveGangOf_leaves (numbered : s.Numbered) (k : Nat) (ms : List Nat) :
    ((s.leaveGangOf k ms).coreAt k).gang = [] ∧ ∀ j ∈ ms, k ∉ ((s.leaveGangOf k ms).coreAt j).gang := by
  refine ⟨?_, fun j hj => ?_⟩
  · rw [State.leaveGangOf_coreAt numbered]
    simp
  · rw [State.leaveGangOf_coreAt numbered]
    by_cases own : j = k
    · simp [own]
    · rw [if_pos ⟨own, hj⟩]
      split <;> simp

end Sys2Proof.Machine
end

section
/-! CERTIFICATE. Dispatchers, ready queues and waiting cores. -/

open Sys2Proof Sys2Proof.Machine

/-- Settles O44: each step by the lemma that says what it comes to under its conditions; a released task by what the release
leaves (`State.release_ready`), a task that starts by its core (`Core.Started`), a context that parks by what it leaves (`State.Left`). -/
theorem dispatchResults : Obligations.DispatchResults := by
  intro s n core numbered runs d
  refine ⟨?_, ?_, ?_, fun none => ⟨execPublish_none none, execSignal_none none⟩,
    fun h held due first => execHeldGenerationApply_due held runs due first, ?_, ?_, ?_, ?_, fun busy => ?_, execAutoPark_acting, ?_, ?_, ?_, ?_⟩
  · intro m part node wid gen nb inline reply l e z arrives body first loaded slot own _ fresh deps
    exact (execPublish_found arrives runs first loaded slot body).trans (congrArg _ (State.publishOn_waits own fresh deps nb inline reply))
  · intro m part node wid gen pub poison l e z arrives body first loaded slot own _ expects
    refine (execSignal_found arrives runs first loaded slot body).trans (congrArg _ ?_)
    rw [State.signalOn_counts own fun p => (expects p).1, if_neg fun last => (expects last.1).2 (sub_eq_zero.mp last.2)]
    rfl
  · intro m part node wid gen pub poison l e z arrives body first loaded slot own _ published one live plain _
    have found := execSignal_found arrives runs first loaded slot body
    rw [State.signalOn_counts own (fun _ => by simp [one]), if_pos ⟨published, by simp [one]⟩] at found
    obtain ⟨u, recs, released⟩ := State.release_ready (s := s.takeMsg n) (l := l) (d := e) (z := z.signalled pub poison) live plain
    obtain ⟨r, queued, fields, task⟩ := State.placeTask_recs
      (u.putTcb { (z.signalled pub poison).releasedAt e s.dev.now with st := .ready }) l e ((z.signalled pub poison).releasedAt e s.dev.now)
    refine ⟨_, found, ⟨{ (z.signalled pub poison).releasedAt e s.dev.now with st := .ready }, ?_, ?_, rfl⟩, r, ?_, fields, task⟩
    · rw [released]
      exact u.mem_putTcb _
    · simp [Tcb.releasedAt, Tcb.signalled, one]
    · rw [released]
      exact queued.trans (by rw [State.putTcb_recs, recs]; rfl)
  · intro z q tcb part retired past now
    exact ⟨z.reclaimed, (execTcbReclaim_some tcb).trans (if_pos (State.reclaims_of_due runs now part retired past)), rfl, rfl, rfl⟩
  · intro z q tcb part early
    exact (execTcbReclaim_some tcb).trans (if_neg (by rw [State.reclaims_not_due part early]; decide))
  · intro r queued put
    refine ⟨fun transit may room => ?_, fun transit may full room => ?_, execOverflowReturn_first queued, execPriorityAging_eligible queued, ?_⟩
    · exact (execClusterRecordArrival_transit queued transit may).trans (if_pos room)
    · exact (execClusterRecordArrival_transit queued transit may).trans ((if_neg (Nat.not_lt.mpr full)).trans (if_pos room))
    · intro k t near head place waited open_
      have waits := execNearHintExpiry_waited queued near head place waited
      exact ⟨fun closed => waits.trans (if_neg closed), fun idle => waits.trans (if_pos idle)⟩
  · intro r i z l e f bs uid listed idle first task tcb loaded seg there
    have started : (s.coreAt core).Started e z f _ :=
      State.startTask_started (s := s.ageAll.onDisp (fun d => { d with recs := dropAt d.recs i })) numbered seg there
    obtain ⟨run, ctx⟩ := started.ctx
    refine ⟨_, execTakeRecord_task listed idle first task tcb loaded, started.run, started.mode, started.pc, ⟨_, ctx, rfl, rfl⟩,
      fun q => ?_, started.sw, started.mat⟩
    rw [started.r]
    exact ⟨Regs.readG_reset q, Regs.readV_reset q⟩
  · exact if_neg fun idle => by rw [busy] at idle; cases idle.2
  · intro w x code clock wait parks ctx mode handler gang on fits low pending loops slots ports work long
    have may := State.mayPark_of ctx mode handler gang on fits low pending loops slots ports work
    have parked := State.parkWaiting_parks wait parks may (Core.longEnough_of long)
    have left := State.parkContext_left gang ctx code w.obj (cleanMask s.core.automaticMask)
    have drained := s.performed_drainAtomics
    rw [← parked] at left
    refine ⟨s.parkWaiting, s.drainAtomics.parkedRec x code w.obj (cleanMask s.core.automaticMask),
      s.drainAtomics.core.contOf x code w.obj (cleanMask (cleanMask s.core.automaticMask)), execAutoPark_acting clock, left.run, left.ctx,
      left.mode, left.mat, left.cores.trans drained.cores, ?_, rfl, ?_, ?_, ?_, fun none => ?_⟩
    · rw [left.recs, drained.disp]
    · rw [← drained.id]
      rfl
    · rw [← drained.id, ← drained.pc]
      exact congrArg (fun m => (x, code, w.obj, s.drainAtomics.core.x.pc, s.drainAtomics.core.id, m)) (cleanMask_cleanMask _)
    · rw [← drained.preds, ← drained.ix, ← drained.remote]
      rfl
    · rw [left.mem, State.drainAtomics_none none]
      exact ⟨rfl, rfl⟩
  · intro w x wait ctx reason clock
    have waits := execYieldResume_waits wait ctx reason clock
    exact ⟨fun begun => waits.trans (if_pos begun), fun early => waits.trans (if_neg (Nat.not_le.mpr early))⟩
  · intro w wait reason clock member
    have waits := execGangWaitSplit_waits wait reason clock (List.ne_nil_of_mem member)
    exact ⟨fun long => ⟨_, waits.trans (if_pos long), State.leaveGangOf_leaves numbered core _⟩,
      fun short => waits.trans (if_neg (Nat.not_lt.mpr short))⟩
  · intro w m wait reason asks clock
    have waits := execFuseTimeout_asks wait reason asks clock
    exact ⟨fun long => waits.trans (if_pos long), fun short => waits.trans (if_neg (Nat.not_lt.mpr short))⟩

end

section
/-! SUPPORT. The paths of the address space and the checks of an access, condition by condition (R47, R48, R60, R145, R257,
R340). -/

namespace Sys2Proof.Machine

/-! ### Paths (R47) -/

/-- The table of R47: the high byte, the path and its size. -/
def pathRows : List (Nat × Path × Nat) := [
  (0x00, .im, 2 ^ 16), (0x01, .tcm, 2 ^ 16), (0x02, .spad, 12 * 2 ^ 20),
  (0x08, .tcmView 0, 2 ^ 18), (0x09, .tcmView 1, 2 ^ 18), (0x0A, .tcmView 2, 2 ^ 18), (0x0B, .tcmView 3, 2 ^ 18),
  (0x0C, .spadView 0, 48 * 2 ^ 20), (0x0D, .spadView 1, 48 * 2 ^ 20), (0x0E, .spadView 2, 48 * 2 ^ 20),
  (0x0F, .spadView 3, 48 * 2 ^ 20), (0x10, .tcmBf16, 2 ^ 17), (0x11, .spadBf16, 24 * 2 ^ 20),
  (0x20, .loft, 2 ^ 32), (0x40, .global, 2 ^ 48), (0x41, .globalRo, 2 ^ 48), (0x7F, .dev, 2 ^ 16)]

/-- A row of the table, for the high byte that has one. -/
theorem pathOf_eq (a : Word) : pathOf a = ((pathRows.find? (fun r => decide (a.toNat / 2 ^ 56 = r.1))).bind
    (fun r => if a.toNat % 2 ^ 56 < r.2.2 then some (r.2.1, a.toNat % 2 ^ 56) else none)) := by
  unfold pathOf
  dsimp only
  generalize a.toNat / 2 ^ 56 = high
  split
  case h_18 => simp_all [pathRows, List.find?]
  all_goals rfl

/-- No two rows have one high byte. -/
theorem find_pathRows {h : Nat} {r : Nat × Path × Nat} :
    pathRows.find? (fun r => decide (h = r.1)) = some r ↔ r ∈ pathRows ∧ h = r.1 := by
  constructor
  · intro e
    exact ⟨List.mem_of_find?_eq_some e, by simpa using List.find?_some e⟩
  · rintro ⟨mem, rfl⟩
    exact (show ∀ r ∈ pathRows, pathRows.find? (fun q => decide (r.1 = q.1)) = some r by decide) r mem

theorem pathOf_eq_some {a : Word} {p : Path} {off : Nat} : pathOf a = some (p, off) ↔
    off = a.toNat % 2 ^ 56 ∧ ∃ r ∈ pathRows, a.toNat / 2 ^ 56 = r.1 ∧ p = r.2.1 ∧ off < r.2.2 := by
  rw [pathOf_eq, Option.bind_eq_some_iff]
  constructor
  · rintro ⟨r, found, e⟩
    obtain ⟨mem, high⟩ := find_pathRows.mp found
    split at e
    next within =>
      cases e
      exact ⟨rfl, r, mem, high, rfl, within⟩
    · cases e
  · rintro ⟨rfl, r, mem, high, rfl, within⟩
    exact ⟨r, find_pathRows.mpr ⟨mem, high⟩, if_pos within⟩

/-- The offset of an address on its path. -/
theorem pathOf_off {a : Word} {p : Path} {off : Nat} (h : pathOf a = some (p, off)) : off = a.toNat % 2 ^ 56 :=
  (pathOf_eq_some.mp h).1

theorem accessTrapAt_none {a : Word} (h : pathOf a = none) (c : Core) (k : AKind) (n align : Nat) (base2 fe : Bool) :
    accessTrapAt c k a n align base2 fe = some (.trap 0x05 a 0) := by
  unfold accessTrapAt
  rw [h]

theorem accessTrap_none {a : Word} (h : pathOf a = none) (c : Core) (k : AKind) (n : Nat) (base2 fe : Bool) :
    accessTrap c k a n base2 fe = some (.trap 0x05 a 0) := accessTrapAt_none h c k n n base2 fe

theorem spanTrap_none {a : Word} (h : pathOf a = none) (c : Core) (k : AKind) (n align : Nat) (base2 : Bool) :
    spanTrap c k a n align base2 = some (.trap 0x05 a 0) := by
  unfold spanTrap spanTrapOf
  rw [h]

end Sys2Proof.Machine
end

section
/-! CERTIFICATE. The paths. -/

open Sys2Proof Sys2Proof.Machine

/-- Settles O17: an address with no path by the checks, a path by its row (`pathOf_eq_some`). -/
theorem pathTable : Obligations.PathTable :=
  ⟨fun _ c k n align base2 fe h => ⟨accessTrap_none h c k n base2 fe, accessTrapAt_none h c k n align base2 fe,
    spanTrap_none h c k n align base2⟩, fun _ _ _ => pathOf_eq_some⟩

end

section
/-! SUPPORT. The checks of an access, condition by condition (R47, R48, R60, R145, R257, R340), and the scalar loads and stores of
each width. -/

namespace Sys2Proof.Machine

/-! ### The checks of one access (R48) -/

theorem accessTrap_eq {a : Word} {p : Path} {off : Nat} (path : pathOf a = some (p, off)) (c : Core) (k : AKind) (n : Nat)
    (base2 fe : Bool) : accessTrap c k a n base2 fe =
      if pathFault p off k n then some (.trap 0x05 a 0)
      else if privFault c p off n then some (.trap 0x03 a 0)
      else if base2 && stackFault c a n then some (.trap 0x06 a 0)
      else if a.toNat % n ≠ 0 then some (.trap 0x04 a 0)
      else if fe && !p.hasFull then some (.trap 0x05 a 1)
      else none := by
  unfold accessTrap accessTrapAt
  rw [path]

/-- An access that no check stops. -/
theorem accessTrap_eq_none {a : Word} {p : Path} {off : Nat} (path : pathOf a = some (p, off)) {c : Core} {k : AKind} {n : Nat}
    {base2 fe : Bool} : accessTrap c k a n base2 fe = none ↔ ¬pathFault p off k n ∧ ¬privFault c p off n ∧
      ¬(base2 && stackFault c a n) ∧ a.toNat % n = 0 ∧ ¬(fe && !p.hasFull) := by
  rw [accessTrap_eq path]
  split_ifs <;> simp_all

theorem pathFault_load {p : Path} {off n : Nat} : pathFault p off .load n = true ↔ p.isView = true ∧ n < 4 := by
  simp [pathFault]

theorem pathFault_store {p : Path} {off n : Nat} : pathFault p off .store n = true ↔
    p.isView = true ∨ p = .im ∨ p = .globalRo ∨ (p = .dev ∧ n < 8 ∧
      (off < 0x8000 ∨ (0xD000 ≤ off ∧ off < 0xD0A0) ∨ (0xD100 ≤ off ∧ off < 0xD308))) := by
  cases p <;> simp [pathFault, Path.isView, devRegisterLike, and_comm]

/-- The last byte of an access tells whether it touches reserved space (R257). -/
theorem reserved_iff {c : Core} {p : Path} {off n : Nat} (some_byte : 0 < n) : reserved c p off n = true ↔ c.csr.supEn = true ∧
    ((p = .im ∧ c.csr.ifr.toNat * 4096 ≤ off + n - 1) ∨ (p = .tcm ∧ c.csr.tfr.toNat * 4096 ≤ off + n - 1) ∨
      ((∃ k, p = .tcmView k) ∧ c.csr.tfr.toNat * 4096 ≤ (off + n - 1) / 4) ∨
      (p = .tcmBf16 ∧ c.csr.tfr.toNat * 4096 ≤ (off + n - 1) / 2)) := by
  cases p <;> simp [reserved, Path.under] <;> omega

theorem privFault_iff {c : Core} {p : Path} {off n : Nat} : privFault c p off n = true ↔
    c.x.mode = .user ∧ (p = .dev ∨ reserved c p off n = true) := by
  simp [privFault]

theorem stackFault_iff {c : Core} {a : Word} {n : Nat} : stackFault c a n = true ↔
    c.sw.stkl ≠ 0 ∧ (a.toNat < c.sw.stkb.toNat ∨ c.sw.stkl.toNat < a.toNat + n) := by
  simp [stackFault]

/-! ### Scalar loads and stores of each width -/

/-- The widths of a scalar access (R142). -/
theorem exec_loadOf {n : Nat} (width : n ∈ [1, 2, 4, 8]) (t b : RegNo) (i : BitVec 2) (e : BitVec 1) (o : BitVec 10) (s : State) :
    exec (loadOf n t b i e o) s = s.scalarLoad t b i (decide (e = 1 ∧ n < 8)) o n := by
  simp only [List.mem_cons, List.not_mem_nil, or_false] at width
  rcases width with rfl | rfl | rfl | rfl
  · rw [show decide (e = 1 ∧ 1 < 8) = decide (e = 1) by simp]; rfl
  · rw [show decide (e = 1 ∧ 2 < 8) = decide (e = 1) by simp]; rfl
  · rw [show decide (e = 1 ∧ 4 < 8) = decide (e = 1) by simp]; rfl
  · rw [show decide (e = 1 ∧ 8 < 8) = false by simp]; rfl

theorem exec_storeOf {n : Nat} (width : n ∈ [1, 2, 4, 8]) (t b : RegNo) (i : BitVec 2) (e : BitVec 1) (o : BitVec 10) (s : State) :
    exec (storeOf n t b i e o) s = s.scalarStore t b i (decide (e = 1)) o n := by
  simp only [List.mem_cons, List.not_mem_nil, or_false] at width
  rcases width with rfl | rfl | rfl | rfl <;> rfl

variable {s : State} {t b : RegNo} {im : BitVec 2} {z drop : Bool} {o : BitVec 10} {n : Nat}

theorem State.scalarLoad_trap {f : Flow}
    (check : accessTrap s.core .load (s.baseOffset b o n) n (decide (b = 2)) (decide (im = 3)) = some f) :
    s.scalarLoad t b im z o n = .next (s.finish f) := by
  unfold State.scalarLoad
  dsimp only
  rw [check]

theorem State.scalarStore_trap {f : Flow}
    (check : accessTrap s.core .store (s.baseOffset b o n) n (decide (b = 2)) (decide (im = 3)) = some f) :
    s.scalarStore t b im drop o n = .next (s.finish f) := by
  unfold State.scalarStore
  dsimp only
  rw [check]

theorem State.scalarLoad_path {p : Path} {off : Nat}
    (check : accessTrap s.core .load (s.baseOffset b o n) n (decide (b = 2)) (decide (im = 3)) = none)
    (path : pathOf (s.baseOffset b o n) = some (p, off)) :
    s.scalarLoad t b im z o n = s.loadFrom (.g t z) p off n (s.baseOffset b o n) im := by
  unfold State.scalarLoad
  dsimp only
  rw [check, path]

theorem State.scalarStore_path {p : Path} {off : Nat}
    (check : accessTrap s.core .store (s.baseOffset b o n) n (decide (b = 2)) (decide (im = 3)) = none)
    (path : pathOf (s.baseOffset b o n) = some (p, off)) : s.scalarStore t b im drop o n =
      s.storeTo p off n (s.baseOffset b o n) im drop (atOffsets 0 (bytesOf n (s.g t).toNat)) (fun s => s) := by
  unfold State.scalarStore
  dsimp only
  rw [check, path]

/-- A scalar load or store that a check stops. -/
theorem exec_access_trap {load : Bool} {e : BitVec 1} {f : Flow} (width : n ∈ [1, 2, 4, 8])
    (check : accessTrap s.core (if load then .load else .store) (s.baseOffset b o n) n (decide (b = 2)) (decide (im = 3)) = some f) :
    exec (if load then loadOf n t b im e o else storeOf n t b im e o) s = .next (s.finish f) := by
  cases load with
  | true => exact (exec_loadOf width t b im e o s).trans (State.scalarLoad_trap check)
  | false => exact (exec_storeOf width t b im e o s).trans (State.scalarStore_trap check)

theorem pathFault_access {load : Bool} {p : Path} {off : Nat} : pathFault p off (if load then .load else .store) n = true ↔
    if load then p.isView = true ∧ n < 4 else p.isView = true ∨ p = .im ∨ p = .globalRo ∨ (p = .dev ∧ n < 8 ∧
      (off < 0x8000 ∨ (0xD000 ≤ off ∧ off < 0xD0A0) ∨ (0xD100 ≤ off ∧ off < 0xD308))) := by
  cases load with
  | true => exact pathFault_load
  | false => exact pathFault_store

end Sys2Proof.Machine
end

section
/-! CERTIFICATE. The traps of a scalar access. -/

open Sys2Proof Sys2Proof.Machine

/-- Settles O18: the access is stopped by the first check that it fails (`accessTrap_eq`), and each check is the condition that the
statement names. -/
theorem accessTraps : Obligations.AccessTraps := by
  intro s n t b i e o load width
  dsimp only
  have some_byte : 0 < n := by simp at width; omega
  have addr : s.baseOffset b o n = s.g b + o.signExtend 64 * BitVec.ofNat 64 n := rfl
  rw [← addr]
  generalize at_a : s.baseOffset b o n = a
  have run {c v v2 : Nat} (check : accessTrap s.core (if load then .load else .store) a n (decide (b = 2)) (decide (i = 3)) =
      some (.trap (BitVec.ofNat 8 c) a (BitVec.ofNat 64 v2))) (value : v = a.toNat) :
      exec (if load then loadOf n t b i e o else storeOf n t b i e o) s =
        .next (s.finish (.trap (BitVec.ofNat 8 c) (BitVec.ofNat 64 v) (BitVec.ofNat 64 v2))) := by
    rw [value, BitVec.ofNat_toNat, BitVec.setWidth_eq]
    exact exec_access_trap width (at_a.symm ▸ check)
  refine ⟨fun none => run (accessTrap_none none _ _ _ _ _) rfl, fun p off path => ?_⟩
  have checks := accessTrap_eq path s.core (if load then .load else .store) n (decide (b = 2)) (decide (i = 3))
  have passes := accessTrap_eq_none path (c := s.core) (k := if load then .load else .store) (n := n) (base2 := decide (b = 2))
    (fe := decide (i = 3))
  have stack : (decide (b = 2) && stackFault s.core a n) = true ↔ b = 2 ∧ s.core.sw.stkl ≠ 0 ∧
      (a.toNat < s.core.sw.stkb.toNat ∨ s.core.sw.stkl.toNat < a.toNat + n) := by
    rw [Bool.and_eq_true, decide_eq_true_eq, stackFault_iff]
  have full : (decide (i = 3) && !p.hasFull) = true ↔ i = 3 ∧ p.hasFull = false := by simp
  rw [pathFault_access, privFault_iff, reserved_iff some_byte, stack, full] at passes
  simp only [pathFault_access, privFault_iff, reserved_iff some_byte, stack, full] at checks
  refine ⟨fun h => ?_, fun h1 h => ?_, fun h1 h2 h => ?_, fun h1 h2 h3 h => ?_, fun h1 h2 h3 h4 h5 h => ?_, ?_⟩
  · exact run (checks.trans (if_pos h)) rfl
  · exact run (checks.trans ((if_neg h1).trans (if_pos h))) rfl
  · exact run (checks.trans ((if_neg h1).trans ((if_neg h2).trans (if_pos h)))) rfl
  · exact run (checks.trans ((if_neg h1).trans ((if_neg h2).trans ((if_neg h3).trans (if_pos h))))) rfl
  · refine run (checks.trans ((if_neg h1).trans ((if_neg h2).trans ((if_neg h3).trans
      ((if_neg (not_not.mpr h4)).trans (if_pos ⟨h5, h⟩)))))) rfl
  · have last : ¬(i = 3 ∧ p.hasFull = false) ↔ (i = 3 → p.hasFull = true) := by simp
    rw [passes, last]

end

section
/-! SUPPORT. Loads and stores of timed paths (R54, R63, R66, R69, R70, R72, R142, R144, R146, R147). -/

namespace Sys2Proof.Machine

variable {s : State} {t b : RegNo} {im : BitVec 2} {e : BitVec 1} {pr : BitVec 3} {o : BitVec 10} {n : Nat} {p : Path} {off : Nat}
  {a : Word}

/-! ### Vector loads and stores of a register that is no port (R146) -/

theorem Core.boundRead_of_unbound {c : Core} (unbound : c.bound t = none) : c.boundRead t = false := by simp [Core.boundRead, unbound]

theorem Core.boundWrite_of_unbound {c : Core} (unbound : c.bound t = none) : c.boundWrite t = false := by simp [Core.boundWrite, unbound]

/-- A register that is no port gives no unit. -/
theorem State.takeUnits_unbound (unbound : s.core.bound t = none) : s.takeUnits [t] = s := by
  have none_taken (r : RegNo) : ([t].contains r && s.core.boundRead r) = false := by
    by_cases h : r = t
    · rw [h, Core.boundRead_of_unbound unbound, Bool.and_false]
    · simp [h]
  unfold State.takeUnits
  simp only [none_taken, Bool.false_eq_true, if_false]

theorem State.v_unbound (unbound : s.core.bound t = none) : s.v t = s.core.r.readV t := by
  simp [State.v, Core.readV, Core.boundRead_of_unbound unbound]

theorem exec_vld_path (unbound : s.core.bound t = none)
    (check : accessTrap s.core .load (s.baseOffset b o 16) 16 (decide (b = 2)) (decide (im = 3)) = none)
    (path : pathOf (s.baseOffset b o 16) = some (p, off)) :
    exec (.vld t b im pr o) s = s.loadFrom (.v t (s.p pr)) p off 16 (s.baseOffset b o 16) im := by
  change execVld t b im pr o s = _
  simp only [execVld, Core.boundRead_of_unbound unbound, Core.boundWrite_of_unbound unbound, Bool.false_eq_true, if_false, check, path,
    firstTrap]

theorem exec_vst_path (unbound : s.core.bound t = none)
    (check : accessTrap s.core .store (s.baseOffset b o 16) 16 (decide (b = 2)) (decide (im = 3)) = none)
    (path : pathOf (s.baseOffset b o 16) = some (p, off)) : exec (.vst t b im pr o) s =
      s.storeTo p off 16 (s.baseOffset b o 16) im false (storedBytes (s.p pr) (s.core.r.readV t)) (fun s => s.takeUnits [t]) := by
  change execVst t b im pr o s = _
  have full : s.core.portEmpty [t] = none := by simp [Core.portEmpty, Core.boundRead_of_unbound unbound]
  simp only [execVst, Core.boundRead_of_unbound unbound, Core.boundWrite_of_unbound unbound, Bool.false_eq_true, if_false, check, path,
    firstTrap, full, State.v_unbound unbound]

/-- The destination of a load of `n` bytes: a scalar register, or for 16 bytes a vector register under its predicate. -/
theorem exec_load_path (width : n ∈ [1, 2, 4, 8, 16]) (unbound : n = 16 → s.core.bound t = none)
    (check : accessTrap s.core .load (s.baseOffset b o n) n (decide (b = 2)) (decide (im = 3)) = none)
    (path : pathOf (s.baseOffset b o n) = some (p, off)) :
    exec (if n = 16 then Instr.vld t b im pr o else loadOf n t b im e o) s =
      s.loadFrom (if n = 16 then RDst.v t (s.p pr) else RDst.g t (decide (e = 1 ∧ n < 8))) p off n (s.baseOffset b o n) im := by
  by_cases h : n = 16
  · subst h
    exact exec_vld_path (unbound rfl) check path
  · rw [if_neg h, if_neg h]
    exact (exec_loadOf (by simp_all) t b im e o s).trans (State.scalarLoad_path check path)

/-- The bytes of a store of `n` bytes: of a scalar register, or for 16 bytes those of a vector register whose predicate bit is 1. -/
def State.bytesToStore (s : State) (n : Nat) (t : RegNo) (pr : BitVec 3) : List (Nat × Byte) :=
  if n = 16 then storedBytes (s.p pr) (s.core.r.readV t) else atOffsets 0 (bytesOf n (s.g t).toNat)

theorem State.storeTo_takeUnits (unbound : s.core.bound t = none) {drop : Bool} {bs : List (Nat × Byte)} :
    s.storeTo p off n a im drop bs (fun s => s.takeUnits [t]) = s.storeTo p off n a im drop bs (fun s => s) := by
  simp only [State.storeTo, State.takeUnits_unbound unbound]

theorem exec_store_path (width : n ∈ [1, 2, 4, 8, 16]) (unbound : n = 16 → s.core.bound t = none)
    (check : accessTrap s.core .store (s.baseOffset b o n) n (decide (b = 2)) (decide (im = 3)) = none)
    (path : pathOf (s.baseOffset b o n) = some (p, off)) :
    exec (if n = 16 then Instr.vst t b im pr o else storeOf n t b im e o) s =
      s.storeTo p off n (s.baseOffset b o n) im (decide (e = 1 ∧ n ≠ 16)) (s.bytesToStore n t pr) (fun s => s) := by
  unfold State.bytesToStore
  by_cases h : n = 16
  · subst h
    rw [if_pos rfl, if_pos rfl, exec_vst_path (unbound rfl) check path, State.storeTo_takeUnits (unbound rfl)]
    simp
  · rw [if_neg h, if_neg h, exec_storeOf (by simp_all), State.scalarStore_path check path]
    simp [h]

/-! ### The instants of an access (R69, R70) -/

theorem State.instantTrap_far {load : Bool} (far : im = 2 ∧ (s.dev.now + 2 ^ 31 < s.core.sw.ix.toNat ∨ s.core.sw.ix.toNat + 2 ^ 31 < s.dev.now)) :
    s.instantTrap load im = some (.trap 0x0E (BitVec.ofNat 64 s.core.sw.ix.toNat) (BitVec.ofNat 64 s.dev.now)) := if_pos far

theorem State.instantTrap_old
    (near : ¬(im = 2 ∧ (s.dev.now + 2 ^ 31 < s.core.sw.ix.toNat ∨ s.core.sw.ix.toNat + 2 ^ 31 < s.dev.now)))
    (old : im = 2 ∧ s.core.sw.ix.toNat < s.core.horizon s) :
    s.instantTrap true im = some (.trap 0x0D (BitVec.ofNat 64 s.core.sw.ix.toNat) (BitVec.ofNat 64 (s.core.horizon s))) :=
  (if_neg near).trans (if_pos (by simp [old]))

theorem State.instantTrap_load
    (near : ¬(im = 2 ∧ (s.dev.now + 2 ^ 31 < s.core.sw.ix.toNat ∨ s.core.sw.ix.toNat + 2 ^ 31 < s.dev.now)))
    (kept : ¬(im = 2 ∧ s.core.sw.ix.toNat < s.core.horizon s)) : s.instantTrap true im = none :=
  (if_neg near).trans (if_neg (by simpa using kept))

theorem State.instantTrap_store
    (near : ¬(im = 2 ∧ (s.dev.now + 2 ^ 31 < s.core.sw.ix.toNat ∨ s.core.sw.ix.toNat + 2 ^ 31 < s.dev.now))) :
    s.instantTrap false im = none := (if_neg near).trans (if_neg (by simp))

variable {x : Ctx}

theorem State.loadInstant_task (ctx : s.core.x.ctx = some x) : s.loadInstant im =
    if im = 2 then s.core.sw.ix.toNat else if im = 1 ∨ x.nowOnly then s.dev.now else x.rel := by
  unfold State.loadInstant
  rw [ctx]
  by_cases h : im = 2
  · subst h
    rfl
  · rw [if_neg h, if_neg h]
    by_cases k : im = 1
    · rw [if_pos k, if_pos (.inl k)]
    · simp only [k, false_or, if_false]

theorem State.storeInstant_task (ctx : s.core.x.ctx = some x) : s.storeInstant im =
    if im = 1 then s.dev.now + 1 else if im = 2 then s.core.sw.ix.toNat else x.pub := by
  unfold State.storeInstant
  rw [ctx]

/-! ### Loads (R147) -/

theorem State.loadFrom_timed_trap {dst : RDst} {f : Flow} (timed : p.isTimed = true) (trap : s.instantTrap true im = some f) :
    s.loadFrom dst p off n a im = .next (s.finish f) := by
  unfold State.loadFrom
  rw [if_pos timed, trap]

theorem State.loadFrom_timed {dst : RDst} (timed : p.isTimed = true) (instant : s.instantTrap true im = none) :
    s.loadFrom dst p off n a im = if 32 ≤ s.core.eng.remote.length then s.stay .remoteSlot 0
      else (s.beginRemote dst a n (some (s.loadInstant im)) (s.loadStart p off n)).done := by
  unfold State.loadFrom
  rw [if_pos timed, instant]
  by_cases full : 32 ≤ s.core.eng.remote.length <;> simp [Core.remoteFull, remoteLimit, full]

theorem State.loadStart_task (ctx : s.core.x.ctx = some x) (timed : p = .loft ∨ p = .global) : s.loadStart p off n =
    if p = .global then .walk else if s.loftAllowed (some x.part) off n then .home off else .faulted 0x11 := by
  unfold State.loadStart
  rw [ctx]
  rcases timed with rfl | rfl <;> rfl

theorem Path.isTimed_of {p : Path} (h : p = .loft ∨ p = .global) : p.isTimed = true := by
  rcases h with rfl | rfl <;> rfl

/-! ### Stores (R63, R72) -/

/-- A store with the identity that its issuer gives it. -/
def State.timedStore (s : State) (a : Word) (im : BitVec 2) (drop : Bool) (bs : List (Nat × Byte)) : TStore :=
  { s.storeFrame a (s.storeInstant im) with data := bs, drop := drop }

theorem State.storeTo_timed_trap {drop : Bool} {bs : List (Nat × Byte)} {f : Flow} (timed : p.isTimed = true)
    (trap : s.instantTrap false im = some f) : s.storeTo p off n a im drop bs (fun s => s) = .next (s.finish f) := by
  unfold State.storeTo
  rw [if_pos timed, trap]

theorem State.storeTo_timed {drop : Bool} {bs : List (Nat × Byte)} (timed : p.isTimed = true)
    (instant : s.instantTrap false im = none) : s.storeTo p off n a im drop bs (fun s => s) =
      if bs = [] then s.takeSeq.done else (s.takeSeq.sendTimed p off n (s.timedStore a im drop bs)).done := by
  unfold State.storeTo
  rw [if_pos timed, instant]
  cases bs <;> rfl

/-- A context with the next number taken, which holds at its largest (R72). -/
def Ctx.numbered (x : Ctx) : Ctx := { x with seq := min 0xFFFFFFFF (x.seq + 1) }

theorem State.takeSeq_task (ctx : s.core.x.ctx = some x) (small : x.seq ≤ 0xFFFFFFFF) :
    s.takeSeq = s.onX (fun y => { y with ctx := some x.numbered }) := by
  have next : (if x.seq < 0xFFFFFFFF then x.seq + 1 else x.seq) = min 0xFFFFFFFF (x.seq + 1) := by split <;> omega
  dsimp only [State.takeSeq, State.onX]
  rw [ctx, Ctx.numbered, ← next]

theorem State.takeSeq_part (ctx : s.core.x.ctx = some x) : s.takeSeq.core.x.ctx.map (fun x => x.part) = some x.part := by
  dsimp only [State.takeSeq, State.onX]
  rw [ctx]
  rfl

/-- What the mesh adds to a store that a core sends (R301). -/
def State.numberedStore (s : State) (t : TStore) : TStore :=
  { t with id := s.dev.timed.nextId, gate := t.ofCore && decide (t.device = none) && s.gateShut t.core }

theorem State.send_eq (s : State) (t : TStore) : s.send t =
    s.onTimed (fun m => { m with flight := m.flight ++ [s.numberedStore t], nextId := m.nextId + 1 }) := rfl

theorem State.sendTimed_loft_refused {q : Nat} (part : s.core.x.ctx.map (fun x => x.part) = some q) {st : TStore}
    (refused : s.loftAllowed (some q) off n = false) : s.sendTimed .loft off n st = s.defer 0x11 st.addr := by
  unfold State.sendTimed
  rw [part]
  exact if_neg (by simp [refused])

theorem State.sendTimed_leaves {q : Nat} (part : s.core.x.ctx.map (fun x => x.part) = some q) (timed : p = .loft ∨ p = .global)
    {st : TStore} (unhomed : st.home = none) (allowed : p = .loft → s.loftAllowed (some q) off n = true) :
    s.sendTimed p off n st = s.send { st with home := if p = .loft then some off else none } := by
  unfold State.sendTimed
  rw [part]
  rcases timed with rfl | rfl
  · exact if_pos (allowed rfl)
  · exact congrArg s.send (by cases st; cases unhomed; rfl)

/-- A store of the acting core carries its task's key (R72). -/
theorem State.storeFrame_key (ctx : s.core.x.ctx = some x) (a : Word) (inst : Nat) :
    ((s.storeFrame a inst).src, (s.storeFrame a inst).token, (s.storeFrame a inst).part, (s.storeFrame a inst).node,
      (s.storeFrame a inst).wid, (s.storeFrame a inst).seq) = (.task, x.token, x.part, x.node, x.wid, x.seq) := by
  unfold State.storeFrame Core.part
  rw [ctx]
  rfl

/-! ### The bytes of a store (R144, R146) -/

theorem atOffsets_zero (bs : List Byte) : atOffsets 0 bs = bs.zipIdx.map (fun y => (y.2, y.1)) :=
  List.map_congr_left fun _ _ => by rw [Nat.zero_add]

theorem storedBytes_eq (q : BitVec 16) (v : VReg) :
    storedBytes q v = ((List.range 16).filter (fun k => q.getLsbD k)).map (fun k => (k, lane 8 v k)) := by
  have all : atOffsets 0 (vbytes v) = (List.range 16).map (fun k => (k, lane 8 v k)) := rfl
  rw [storedBytes, all, List.filter_map]
  rfl

theorem mem_storedBytes {q : BitVec 16} {v : VReg} {k : Nat} {y : Byte} :
    (k, y) ∈ storedBytes q v ↔ k < 16 ∧ q.getLsbD k = true ∧ y = lane 8 v k := by
  rw [storedBytes_eq]
  simp only [List.mem_map, List.mem_filter, List.mem_range, Prod.mk.injEq]
  constructor
  · rintro ⟨j, ⟨lt, bit⟩, rfl, rfl⟩
    exact ⟨lt, bit, rfl⟩
  · rintro ⟨lt, bit, rfl⟩
    exact ⟨k, ⟨lt, bit⟩, rfl, rfl⟩

/-- A vector store writes nothing only where its predicate is all zero. -/
theorem storedBytes_eq_nil {q : BitVec 16} {v : VReg} : storedBytes q v = [] ↔ q = 0 := by
  rw [storedBytes_eq, List.map_eq_nil_iff, List.filter_eq_nil_iff]
  constructor
  · intro h
    refine BitVec.eq_of_getLsbD_eq fun k lt => ?_
    simpa using h k (List.mem_range.mpr lt)
  · rintro rfl
    simp

theorem bytesToStore_eq_nil (width : n ∈ [1, 2, 4, 8, 16]) : s.bytesToStore n t pr = [] ↔ n = 16 ∧ s.p pr = 0 := by
  unfold State.bytesToStore
  by_cases h : n = 16
  · rw [if_pos h, storedBytes_eq_nil]
    simp [h]
  · have some_byte : n ≠ 0 := by rintro rfl; simp at width
    rw [if_neg h, ← List.length_eq_zero_iff]
    simp [atOffsets, h, some_byte]

end Sys2Proof.Machine
end

section
/-! CERTIFICATE. Loads and stores of loft and GLOBAL. -/

open Sys2Proof Sys2Proof.Machine

/-- Settles O20: the checks of R70 in their order, and then the remote access that begins or the wait for a slot
(`State.loadFrom_timed`). -/
theorem timedLoads : Obligations.TimedLoads := by
  intro s n t b i e p o q off x width ctx unbound timed
  dsimp only
  rw [show s.g b + o.signExtend 64 * BitVec.ofNat 64 n = s.baseOffset b o n from rfl]
  intro check path
  have isTimed := Path.isTimed_of timed
  rw [exec_load_path width unbound check path]
  refine ⟨fun far => ?_, fun near old => ?_, fun near kept room => ?_, fun near kept full => ?_⟩
  · exact State.loadFrom_timed_trap isTimed (State.instantTrap_far far)
  · exact State.loadFrom_timed_trap isTimed (State.instantTrap_old near old)
  · rw [State.loadFrom_timed isTimed (State.instantTrap_load near kept), if_neg (Nat.not_le.mpr room), State.loadInstant_task ctx,
      State.loadStart_task ctx timed]
    unfold State.beginRemote
    rw [ctx]
    rfl
  · rw [State.loadFrom_timed isTimed (State.instantTrap_load near kept), if_pos full]

/-- Settles O22: the checks of R70, and then, by the bytes that there are to store, a number alone, the fault of the loft's ranges,
or the store that leaves (`State.storeTo_timed`). -/
theorem timedStores : Obligations.TimedStores := by
  intro s n t b i e p o q off x width ctx unbound timed
  dsimp only
  rw [show s.g b + o.signExtend 64 * BitVec.ofNat 64 n = s.baseOffset b o n from rfl]
  intro check path small
  have isTimed := Path.isTimed_of timed
  rw [exec_store_path width unbound check path]
  refine ⟨fun far => ?_, fun near empty => ?_, fun near some_byte loft refused => ?_, fun near some_byte allowed => ?_⟩
  · exact State.storeTo_timed_trap isTimed (State.instantTrap_far far)
  all_goals rw [State.storeTo_timed isTimed (State.instantTrap_store near)]
  · rw [if_pos ((bytesToStore_eq_nil width).mpr empty), State.takeSeq_task ctx small]
    rfl
  · rw [if_neg (mt (bytesToStore_eq_nil width).mp some_byte), loft, State.sendTimed_loft_refused (State.takeSeq_part ctx) refused,
      State.takeSeq_task ctx small]
    rfl
  · rw [if_neg (mt (bytesToStore_eq_nil width).mp some_byte), State.sendTimed_leaves (State.takeSeq_part ctx) timed rfl allowed,
      State.send_eq, State.takeSeq_task ctx small]
    refine ⟨_, rfl, State.storeFrame_key ctx (s.baseOffset b o n) (s.storeInstant i), ?_, rfl, rfl, rfl, fun h => ?_, fun h k y => ?_⟩
    · exact Prod.ext (State.storeInstant_task ctx) rfl
    · exact (if_neg h).trans (atOffsets_zero _)
    · change (k, y) ∈ s.bytesToStore n t p ↔ _
      rw [State.bytesToStore, if_pos h, mem_storedBytes, State.v_unbound (unbound h)]

end

section
/-! SUPPORT. Stream ports bound, unbound and read (R59, R165 to R167). -/

namespace Sys2Proof.Machine

variable {s : State} {d a b r : RegNo} {i : Fin 4} {t : Stream} {base desc : Word}

theorem portIndex_port (i : Fin 4) : portIndex (BitVec.ofNat 5 (28 + i.val)) = some i := by decide +revert

theorem portIndex_of_lt (h : r.toNat < 28) : portIndex r = none := dif_neg (Nat.not_le.mpr h)

/-- The write ports are v30 and v31. -/
theorem write_port_iff (i : Fin 4) : 30 ≤ (BitVec.ofNat 5 (28 + i.val)).toNat ↔ 2 ≤ i.val := by decide +revert

/-! ### What stops an `sbind` (R167) -/

theorem State.bindTrap_bound (bound : (s.core.bound d).isSome = true) : s.bindTrap d a base desc = some (streamFault d) := if_pos bound

theorem State.bindTrap_path (free : s.core.bound d = none) (path : ∃ o, pathOf base = some (.im, o) ∨ pathOf base = some (.dev, o)) :
    s.bindTrap d a base desc = some (.trap 0x05 base 0) := by
  unfold State.bindTrap
  rw [free, if_neg (by simp)]
  obtain ⟨o, path | path⟩ := path <;> rw [path]

/-- On a path that may be streamed: the checks of the first unit as an access, and then the alignment of the stride. -/
theorem State.bindTrap_checks (free : s.core.bound d = none) (write : 30 ≤ d.toNat ↔ 2 ≤ i.val)
    (path : ¬∃ o, pathOf base = some (.im, o) ∨ pathOf base = some (.dev, o)) : s.bindTrap d a base desc = firstTrap [
      accessTrap s.core (if 2 ≤ i.val then .store else .load) base 16 (decide (a = 2)) false,
      if (rowStride desc).toNat % 16 ≠ 0 then some (.trap 0x04 (rowStride desc) 0) else none] := by
  unfold State.bindTrap
  rw [free, if_neg (by simp)]
  split
  next o im => exact absurd ⟨o, .inl im⟩ path
  next o dev => exact absurd ⟨o, .inr dev⟩ path
  · simp only [write]

/-- A stream as `sbind` starts it. -/
def State.newStream (s : State) (d : RegNo) (base desc : Word) : Stream where
  base := base
  desc := desc
  taken := 0
  fetched := 0
  fifo := []
  appends := []
  saved := s.core.r.readV d
  reader := s.reader
  clause := s.clause

theorem exec_sbind_trap {f : Flow} (port : portIndex d = some i) (trap : s.bindTrap d a (s.g a) (s.g b) = some f) :
    exec (.sbind d a b) s = .next (s.finish f) := by
  change execSbind d a b s = _
  unfold execSbind
  rw [port]
  dsimp only
  rw [trap]

theorem exec_sbind_binds (port : portIndex d = some i) (none : s.bindTrap d a (s.g a) (s.g b) = none) :
    exec (.sbind d a b) s = .next (State.finish { s with core := s.core.setStream i (some (s.newStream d (s.g a) (s.g b))) } .next) := by
  change execSbind d a b s = _
  unfold execSbind
  rw [port]
  dsimp only
  rw [none]
  rfl

/-! ### Ports unbound and read (R166) -/

theorem exec_sunbind_free (port : portIndex d = some i) (free : s.core.eng.streams[i] = none) :
    exec (.sunbind d) s = .next (s.finish .next) := by
  change execSunbind d s = _
  unfold execSunbind
  rw [port]
  dsimp only
  rw [free]
  rfl

theorem exec_sunbind_bound (port : portIndex d = some i) (bound : s.core.eng.streams[i] = some t) :
    exec (.sunbind d) s = if s.appending i then s.stay .drain (portVal d) else (s.unbind i).done := by
  change execSunbind d s = _
  unfold execSunbind
  rw [port]
  dsimp only
  rw [bound]

theorem exec_sstat_free (port : portIndex a = some i) (free : s.core.eng.streams[i] = none) :
    exec (.sstat d a) s = .next ((s.setG d 0).finish .next) := by
  change execSstat d a s = _
  unfold execSstat
  rw [port]
  dsimp only
  rw [free]
  rfl

theorem exec_sstat_bound (port : portIndex a = some i) (bound : s.core.eng.streams[i] = some t) :
    exec (.sstat d a) s = .next ((s.setG d (BitVec.ofNat 64 (2 ^ 63 + (t.count - t.taken)))).finish .next) := by
  change execSstat d a s = _
  unfold execSstat
  rw [port]
  dsimp only
  rw [bound]
  rfl

/-- A register that is never a port is no operand of a stream instruction. -/
theorem exec_stream_illegal (h : portIndex r = none) : exec (.sbind r a b) s = s.illegal (.sbind r a b) ∧
    exec (.sunbind r) s = s.illegal (.sunbind r) ∧ exec (.sstat d r) s = s.illegal (.sstat d r) := by
  change execSbind r a b s = _ ∧ execSunbind r s = _ ∧ execSstat d r s = _
  unfold execSbind execSunbind execSstat
  rw [h]
  exact ⟨rfl, rfl, rfl⟩

/-- The register of a port again holds what it held, and no other port changes. -/
theorem State.unbind_eq (bound : s.core.eng.streams[i] = some t) : s.unbind i = { s with core := { s.core with
    r := s.core.r.writeV (BitVec.ofNat 5 (28 + i.val)) t.saved
    eng := { s.core.eng with streams := s.core.eng.streams.set i none } } } := by
  unfold State.unbind
  rw [bound]
  rfl

theorem Stream.count_eq (t : Stream) : t.count = t.desc.toNat % 2 ^ 24 := by simp [Stream.count]

/-- The address of a unit by its row and its column (R165). -/
theorem Stream.unit_eq (t : Stream) (n : Nat) : t.unit n = (let len := t.desc.toNat / 2 ^ 24 % 2 ^ 16
    if len = 0 then t.base + BitVec.ofNat 64 (16 * n)
    else t.base + (t.desc.extractLsb' 40 20).signExtend 64 * BitVec.ofNat 64 (n / len) + BitVec.ofNat 64 (n % len * 16)) := by
  have len : (t.desc.extractLsb' 24 16).toNat = t.desc.toNat / 2 ^ 24 % 2 ^ 16 := by
    rw [BitVec.extractLsb'_toNat, Nat.shiftRight_eq_div_pow]
  unfold Stream.unit
  rw [len]
  dsimp only
  split
  · rw [BitVec.mul_zero, BitVec.add_zero, Nat.mul_comm]
  · rfl

end Sys2Proof.Machine
end

section
/-! CERTIFICATE. Stream ports. -/

open Sys2Proof Sys2Proof.Machine

/-- Settles O28: what stops an `sbind` in its order (`State.bindTrap_checks`), the port that it binds, and a bound port unbound and
read. -/
theorem streamResults : Obligations.StreamResults := by
  intro s i d a b
  have port := portIndex_port i
  have here := Core.bound_of_portIndex (c := s.core) port
  dsimp only
  refine ⟨fun bound => ?_, fun free path => ?_, fun f free path check => ?_, fun free path check stride => ?_,
    fun free path check stride => ?_, fun free => ?_, fun t bound => ⟨?_, fun waits => ?_, fun done => ?_⟩, fun r low => ?_, Stream.unit_eq⟩
  · exact exec_sbind_trap port (State.bindTrap_bound (by rw [here]; exact Option.isSome_iff_ne_none.mpr bound))
  · exact exec_sbind_trap port (State.bindTrap_path (here.trans free) path)
  · refine exec_sbind_trap port ?_
    rw [State.bindTrap_checks (here.trans free) (write_port_iff i) path, check]
    rfl
  · refine exec_sbind_trap port ?_
    rw [State.bindTrap_checks (here.trans free) (write_port_iff i) path, check]
    exact congrArg (fun c => firstTrap [none, c]) (if_pos stride)
  · refine ⟨_, exec_sbind_binds port ?_, rfl⟩
    rw [State.bindTrap_checks (here.trans free) (write_port_iff i) path, check]
    exact congrArg (fun c => firstTrap [none, c]) (if_neg (not_not.mpr stride))
  · exact ⟨exec_sunbind_free port free, exec_sstat_free port free⟩
  · rw [exec_sstat_bound port bound, Stream.count_eq]
  · rw [exec_sunbind_bound port bound, if_pos waits]
    rfl
  · refine ⟨s.unbind i, ?_, ?_⟩
    · rw [exec_sunbind_bound port bound, if_neg (by simp [done])]
      rfl
    · rw [State.unbind_eq bound]
      refine ⟨Vector.getElem_set_self _, rfl, rfl, rfl, fun k other => Vector.getElem_set_ne i.isLt _ fun e => other (Fin.ext e.symm)⟩
  · exact exec_stream_illegal (portIndex_of_lt low)

end

section
/-! SUPPORT. Words of the local memories, their full/empty bits, and what a change of the acting core alone leaves (R51, R57, R80). -/

namespace Sys2Proof.Machine

variable {s t : State}

/-! ### Words -/

theorem mem_wordsTouched {off n w : Nat} : w ∈ wordsTouched off n ↔ n ≠ 0 ∧ off / 4 ≤ w ∧ w ≤ (off + n - 1) / 4 := by
  unfold wordsTouched
  split
  next none => simp [none]
  next some =>
    simp only [List.mem_map, List.mem_range]
    constructor
    · rintro ⟨i, lt, rfl⟩
      omega
    · rintro ⟨-, low, high⟩
      exact ⟨w - off / 4, by omega, by omega⟩

theorem mem_eraseNat {l : List Nat} {a w : Nat} : w ∈ eraseNat l a ↔ w ∈ l ∧ w ≠ a := by simp [eraseNat]

theorem mem_foldl_eraseNat {ws l : List Nat} {w : Nat} : w ∈ ws.foldl eraseNat l ↔ w ∈ l ∧ w ∉ ws := by
  induction ws generalizing l with
  | nil => simp
  | cons a ws ih =>
    rw [List.foldl_cons, ih, mem_eraseNat, List.mem_cons, not_or, and_assoc]

theorem Core.mem_tcmMark_full {c : Core} {ws : List Nat} {w : Nat} :
    w ∈ (c.tcmMark true ws).mem.tcmEmpty ↔ w ∈ c.mem.tcmEmpty ∧ w ∉ ws := mem_foldl_eraseNat

theorem State.spadEmptyOf_spadMark {cl k : Nat} {ws : List Nat} {full : Bool} : (s.spadMark cl full ws).spadEmptyOf k =
    if k = cl then ws.foldl (fun t w => if full then eraseNat t w else insertNat t w) (s.spadEmptyOf cl) else s.spadEmptyOf k := by
  simp only [State.spadEmptyOf, State.spadMark, State.onDev, aget_aset]
  split <;> rfl

theorem State.mem_spadMark_full {cl w : Nat} {ws : List Nat} :
    w ∈ (s.spadMark cl true ws).spadEmptyOf cl ↔ w ∈ s.spadEmptyOf cl ∧ w ∉ ws := by
  rw [State.spadEmptyOf_spadMark, if_pos rfl]
  exact mem_foldl_eraseNat

theorem State.spad_spadWrite {cl k : Nat} {bs : List (Nat × Byte)} :
    (s.spadWrite cl bs).spad k = if k = cl then (s.spad cl).writeAll bs else s.spad k := by
  simp only [State.spad, State.spadWrite, State.onDev, agetMem, aget_aset]
  split <;> rfl

@[simp] theorem State.spadEmptyOf_spadWrite {cl k : Nat} {bs : List (Nat × Byte)} :
    (s.spadWrite cl bs).spadEmptyOf k = s.spadEmptyOf k := rfl

/-! ### The acting core -/

/-- A change of the acting core by its number. -/
theorem State.onCore_self {f : Core → Core} (id : (f s.core).id = s.core.id) : s.onCore s.core.id f = { s with core := f s.core } := by
  unfold State.onCore State.putCore
  rw [State.coreAt_self, if_pos id]

theorem State.localMark_own_tcm {full : Bool} {ws : List Nat} :
    s.localMark s.core.id true full ws = { s with core := s.core.tcmMark full ws } :=
  State.onCore_self (f := fun c => c.tcmMark full ws) rfl

theorem State.localWrite_own_tcm {bs : List (Nat × Byte)} :
    s.localWrite s.core.id true bs = { s with core := s.core.tcmWrite bs } :=
  State.onCore_self (f := fun c => c.tcmWrite bs) rfl

theorem State.asCore_own {f : State → State} (id : (f s).core.id = s.core.id) :
    s.asCore s.core.id f = if s.core.id < coreCount then f s else s := by
  unfold State.asCore
  rw [State.actAs_self]
  split
  · rw [← id, State.actAs_self]
  · rfl

theorem State.OnlyRegs.copies (h : s.OnlyRegs t) : t.core.eng.copies = s.core.eng.copies := by
  have same := congrArg Engines.copies h.2.1
  exact same

/-! ### Accesses performed -/

theorem State.performed_drainWords (s : State) (tcm : Bool) (ws : List Nat) : s.Performed (s.drainWords tcm ws) :=
  (s.performed_drain _).trans (State.performed_wordsDone _ _)

theorem State.performed_settle (s : State) (p : Path) (off n : Nat) : s.Performed (s.settle p off n) := by
  unfold State.settle
  split
  · exact s.performed_drainWords _ _
  · exact .refl s

/-- A core with nothing outstanding at its banks has nothing to perform. -/
theorem State.drainWords_none (pend : s.core.eng.pend = []) (loads : s.core.eng.loads = []) (tcm : Bool) (ws : List Nat) :
    s.drainWords tcm ws = s := by
  unfold State.drainWords
  rw [State.drain_none (by simp [pend]), State.wordsDone, if_pos loads]

theorem State.settle_none (pend : s.core.eng.pend = []) (loads : s.core.eng.loads = []) (p : Path) (off n : Nat) :
    s.settle p off n = s := by
  unfold State.settle
  split
  · exact State.drainWords_none pend loads _ _
  · rfl

end Sys2Proof.Machine
end

section
/-! SUPPORT. A state in which two copies of the acting core share a tag (R161, R164, R340). -/

namespace Sys2Proof.Machine

/-- A plain copy of tag 1 of the acting core's supervisor with nothing left to move. -/
def writtenCopy : Copy where
  tag := 1
  reader := ⟨false, 0, 0, none, true⟩
  frame := State.reset.storeFrame 0 0
  src := 0
  desc := 0
  todo := []
  readInst := 0
  flags := 0
  failed := false
  got := []
  no := 0

/-- The reset state with the address of the copy control word in `g1` and a squash request in `g3`; the engine holds a copy
that has written all its words, and one of the same tag that failed. -/
def State.sharedTag : State :=
  ((State.reset.setG 1 0x7F0000000000D300).setG 3 1).onEng (fun e => { e with
    copies := [writtenCopy, { writtenCopy with failed := true }] })

/-- The squash first completes the written copy, and that drops both copies of its tag. -/
theorem State.squash_sharedTag : State.sharedTag.squashCopies.core.eng.copies = [] := rfl

theorem exec_std_sharedTag : exec (.std 3 1 0 0 0) State.sharedTag = .next (State.sharedTag.squashCopies.finish .next) := rfl

end Sys2Proof.Machine
end

section
/-! CERTIFICATE. Loads on GLOBAL-RO and the core window on DEV (R56, R265, R340). -/

open Sys2Proof Sys2Proof.Machine

/-- Refutes O30: a squash (1 to the copy control word) first completes the plain copies whose writes are all performed, and
to complete a copy is to drop its tag from the engine. A failed copy of the same tag goes with it, where the statement has
every failed copy stay. Nothing in the statement keeps tags apart, and a supervisor may give a record any tag before it
reissues it. -/
theorem not_devAndReadOnly : ¬ Obligations.DevAndReadOnly := by
  intro holds
  obtain ⟨-, -, store⟩ := holds State.sharedTag 3 1 0 0 0xD300 (by decide)
  obtain ⟨-, -, -, squash, -⟩ := store (by decide) (by decide)
  obtain ⟨u, run, copies, -⟩ := squash rfl rfl rfl
  have same : State.sharedTag.squashCopies.finish .next = u.finish .next := by
    simpa only [exec_std_sharedTag, Host.Outcome.next.injEq] using run
  have none_left : u.core.eng.copies = [] := by
    rw [← u.finish_next_onlyRegs.copies, ← same, (State.finish_next_onlyRegs _).copies, State.squash_sharedTag]
  have kept : u.core.eng.copies ≠ [] := by rw [copies]; decide
  exact kept none_left
end

section
/-! SUPPORT. A state in which another core stands under the number of the acting one (R51, R160, R161). -/

namespace Sys2Proof.Machine

/-- A task of partition 1. -/
def partOneTask : Ctx where
  token := 1
  run := 1
  part := 1
  node := 5
  tcbNode := 5
  wid := 2
  gen := 0
  rel := 0
  pub := 0
  budget := 0
  prio := 0
  nowOnly := false
  preempt := false
  seq := 0
  groups := 0
  inline := none
  reply := 0
  poison := false
  copies := 0

/-- Core 0 runs a task of partition 1 and holds the operands of an `xcopy` of no bytes to the TCM of core 1 of its cluster,
cleared to empty at acceptance: destination in `g1`, source in `g2`, descriptor in `g3`. What is listed as core 1 has
number 0 too, and a copy in its engine. -/
def State.misnumbered : State :=
  let s := (((State.reset.onX (fun x => { x with ctx := some partOneTask })).setG 1 0x0100000000000100).setG 2 0x0100000000000100).setG 3
    0x4000100008000000
  { s with
    cores := [(1, { Core.reset 0 with eng := { Engines.reset with copies := [writtenCopy] } })]
    dev := { s.dev with disp := { s.dev.disp with clusters := [(0, 1)] } } }

theorem source_misnumbered : ¬∃ o, pathOf (State.misnumbered.g 2) = some (.im, o) := by
  have tcm : pathOf (State.misnumbered.g 2) = some (.tcm, 0x100) := rfl
  simp only [tcm, Option.some.injEq, Prod.mk.injEq, reduceCtorEq, false_and, exists_false, not_false_eq_true]

/-- The destination is TCM, of a core of the die, in the task's partition. -/
theorem target_misnumbered : ¬((∀ o, pathOf (State.misnumbered.g 1) ≠ some (.tcm, o) ∧ pathOf (State.misnumbered.g 1) ≠ some (.spad, o)) ∨
    165888 ≤ (State.misnumbered.g 3).toNat / 2 ^ 44 % 2 ^ 18 ∨
    State.misnumbered.clusterPart (clusterOf ((State.misnumbered.g 3).toNat / 2 ^ 44 % 2 ^ 18)) ≠ some partOneTask.part) := by
  rintro (off_path | off_die | part)
  · exact (off_path 0x100).1 rfl
  · exact absurd off_die (by decide)
  · exact part rfl

/-- The acting core after an `xcopy` there is the one listed as core 1. -/
theorem exec_xcopy_misnumbered : ∃ t, exec (.xcopy 4 1 2 3) State.misnumbered = .next t ∧ t.core.eng.copies = [writtenCopy] := ⟨_, rfl, rfl⟩

end Sys2Proof.Machine
end

section
/-! CERTIFICATE. The checks of `xcopy` and the copy that it starts (R58, R82, R160, R161, R163). -/

open Sys2Proof Sys2Proof.Machine

/-- Refutes O26: the statement gives the copies of the engine after an `xcopy` of length 0 in every state. To clear the
destination in another core's TCM the model puts that core back under the number that the core itself holds, which no
hypothesis ties to the number it is listed under (`State.Sound` would): where it is the acting core's, the copies are the
other core's. -/
theorem not_copyIssue : ¬ Obligations.CopyIssue := by
  intro holds
  obtain ⟨-, -, -, -, -, -, -, -, -, -, starts⟩ := holds State.misnumbered 4 1 2 3 partOneTask rfl
  have no_fence : ¬(State.misnumbered.core.untimedOut = true ∧
      ∃ p o, pathOf (State.misnumbered.g 2) = some (p, o) ∧ p.isTimed = false) := fun h => absurd h.1 (by decide)
  obtain ⟨t, y, run, fields⟩ := starts 0 (by decide) ⟨by decide, source_misnumbered, by decide, by decide, fun away => target_misnumbered away.2, by decide, fun op => absurd rfl op⟩ no_fence
    rfl rfl (by decide) (by decide)
  obtain ⟨-, -, -, -, -, -, -, empty⟩ := fields
  obtain ⟨u, ran, copies⟩ := exec_xcopy_misnumbered
  rw [ran, Host.Outcome.next.injEq] at run
  have none_left : u.core.eng.copies = [] := by rw [run, empty (by decide)]; rfl
  exact absurd (copies.symm.trans none_left) (by decide)
end

section
/-! SUPPORT. Bytes, numbers and vectors; what a load makes of its bytes (R6, R51, R53, R142, R146). -/

namespace Sys2Proof.Machine

/-! ### Bytes and numbers -/

theorem natOf_append (xs ys : List Byte) : natOf (xs ++ ys) = natOf xs + 256 ^ xs.length * natOf ys := by
  induction xs with
  | nil => simp [natOf]
  | cons x xs ih =>
    rw [List.cons_append, natOf, natOf, ih, List.length_cons, Nat.pow_succ']
    ring

theorem natOf_take (xs : List Byte) {k : Nat} (h : k ≤ xs.length) : natOf (xs.take k) = natOf xs % 256 ^ k := by
  have split := natOf_append (xs.take k) (xs.drop k)
  have len : (xs.take k).length = k := List.length_take_of_le h
  have lt := natOf_lt (xs.take k)
  rw [List.take_append_drop, len] at split
  rw [len] at lt
  rw [split, Nat.add_mul_mod_self_left, Nat.mod_eq_of_lt lt]

theorem Memory.readN_add (m : Memory) (a j k : Nat) : m.readN a (j + k) = m.readN a j ++ m.readN (a + j) k := by
  induction j generalizing a with
  | zero => simp [Memory.readN]
  | succ j ih =>
    rw [Nat.add_right_comm, Memory.readN, Memory.readN, ih, List.cons_append, Nat.add_assoc, Nat.add_comm 1 j]

theorem Memory.readN_getD (m : Memory) (a n k : Nat) (h : k < n) : (m.readN a n).getD k 0 = m.read (a + k) := by
  rw [List.getD_eq_getElem _ _ (by simpa using h), Memory.readN_get _ _ _ _ h]

/-! ### Bytes and vectors -/

theorem ofLanes_succ {w : Nat} (i : Nat) (xs : List (BitVec w)) : ofLanes w (i + 1) xs = ofLanes w i xs <<< w := by
  induction xs generalizing i with
  | nil => simp [ofLanes]
  | cons x xs ih =>
    rw [ofLanes, ofLanes, ih, BitVec.shiftLeft_or_distrib, ← BitVec.shiftLeft_add]
    rfl

/-- The vector of a list of bytes is their number, as far as it holds it. -/
theorem vecOf_eq (bs : List Byte) : vecOf bs = BitVec.ofNat 128 (natOf bs) := by
  induction bs with
  | nil => rfl
  | cons b bs ih =>
    have low : b.toNat < 2 ^ 8 := b.isLt
    have rest : ofLanes 8 1 bs = BitVec.ofNat 128 (natOf bs) <<< 8 := by rw [ofLanes_succ, ← ih]; rfl
    have no_carry : b.setWidth 128 ||| BitVec.ofNat 128 (natOf bs) <<< 8 = b.setWidth 128 + BitVec.ofNat 128 (natOf bs) <<< 8 := by
      refine (BitVec.add_eq_or_of_and_eq_zero _ _ (BitVec.eq_of_getLsbD_eq fun i _ => ?_)).symm
      by_cases h : i < 8
      · simp [h]
      · simp [BitVec.getLsbD_of_ge b i (Nat.le_of_not_lt h)]
    rw [vecOf, ofLanes, rest, Nat.mul_zero, BitVec.shiftLeft_zero, no_carry]
    apply BitVec.eq_of_toNat_eq
    simp only [BitVec.toNat_add, BitVec.toNat_setWidth, BitVec.toNat_shiftLeft, BitVec.toNat_ofNat, natOf, Nat.shiftLeft_eq]
    omega

theorem lane_vecOf (bs : List Byte) {k : Nat} (h : k < 16) : lane 8 (vecOf bs) k = bs.getD k 0 := lane_ofLanes bs (by omega)

theorem bytesOf_get (n v k : Nat) (h : k < n) : (bytesOf n v)[k]'(by simpa using h) = BitVec.ofNat 8 (v / 256 ^ k) := by
  induction n generalizing v k with
  | zero => omega
  | succ n ih =>
    cases k with
    | zero => simp [bytesOf]
    | succ k => simpa [bytesOf, Nat.pow_succ', Nat.div_div_eq_div_mul] using ih (v / 256) k (by omega)

theorem vbytes_eq (v : VReg) : vbytes v = bytesOf 16 v.toNat := by
  refine List.ext_getElem (by simp [vbytes, lanesOf]) fun k _ h => ?_
  have small : k < 16 := by simpa using h
  have lane_eq : (vbytes v)[k] = lane 8 v k := by simp [vbytes, lanesOf]
  refine lane_eq.trans (Eq.trans ?_ (bytesOf_get 16 v.toNat k small).symm)
  apply BitVec.eq_of_toNat_eq
  rw [lane, BitVec.extractLsb'_toNat, BitVec.toNat_ofNat, Nat.shiftRight_eq_div_pow, Nat.pow_mul]

theorem natOf_vbytes (v : VReg) : natOf (vbytes v) = v.toNat := by
  rw [vbytes_eq, natOf_bytesOf]
  exact Nat.mod_eq_of_lt v.isLt

@[simp] theorem vbytes_length (v : VReg) : (vbytes v).length = 16 := rfl

/-! ### Scalar values -/

theorem extend_signed (n v : Nat) : extend n false v = (BitVec.ofNat (8 * n) v).signExtend 64 := by
  unfold extend signedOf BitVec.signExtend
  rw [BitVec.toInt_eq_toNat_cond, BitVec.toNat_ofNat]
  rfl

/-- A loaded scalar is its bytes' number, extended to the word (R142). -/
theorem scalarValue_eq {n : Nat} {z : Bool} {bs : List Byte} (len : bs.length = n) :
    scalarValue n z bs = if z then BitVec.ofNat 64 (natOf bs) else (BitVec.ofNat (8 * n) (natOf bs)).signExtend 64 := by
  unfold scalarValue
  cases z
  · exact extend_signed n _
  · have lt := natOf_lt bs
    rw [len, show (256 : Nat) = 2 ^ 8 from rfl, ← Nat.pow_mul] at lt
    rw [extend, if_pos rfl, if_pos rfl, Nat.mod_eq_of_lt lt]

/-- A load of eight bytes gives their number. -/
theorem scalarValue_eight {bs : List Byte} (z : Bool) (len : bs.length = 8) : scalarValue 8 z bs = BitVec.ofNat 64 (natOf bs) := by
  rw [scalarValue_eq len]
  split
  · rfl
  · exact BitVec.signExtend_eq _

end Sys2Proof.Machine
end

section
/-! SUPPORT. Registers that take a load, and the words of a scratchpad load (R51, R142, R146, R149, R173). -/

namespace Sys2Proof.Machine

variable {s t : State} {r : RegNo} {hand z : Bool} {l : LateLoad} {n off w : Nat}

/-! ### A register of a bank -/

theorem Core.inUse_self (c : Core) (r : RegNo) : c.inUse c.x.handBank r = true := by simp [Core.inUse]

theorem State.writeScalar_inUse (h : s.core.inUse hand r = true) (v : Word) : s.writeScalar hand r v = s.setG r v := by
  unfold State.writeScalar
  rw [h]
  rfl

theorem State.writeScalar_other (h : s.core.inUse hand r = false) (v : Word) : s.writeScalar hand r v =
    { s with core := { s.core with r := { s.core.r with
      bank := s.core.r.bank.set ((r.toNat - 12) % 8) v (Nat.mod_lt _ (by decide)) } } } := by
  unfold State.writeScalar
  rw [h]
  rfl

theorem Core.readScalar_inUse {c : Core} (h : c.inUse hand r = true) : c.readScalar hand r = c.r.readG r := if_pos h

theorem State.writeReply_g {bs : List Byte} (hand_is : s.core.x.handBank = hand) :
    s.writeReply (.g r z) hand n bs = s.setG r (scalarValue n z bs) :=
  State.writeScalar_inUse (hand_is ▸ s.core.inUse_self r) _

/-- A register that takes the value it holds stays, but for the mark that it was written. -/
theorem State.setG_g (s : State) (r : RegNo) : (s.setG r (s.g r)).core.r = s.core.r := by
  unfold State.setG Core.writeG
  split
  · rfl
  next nonzero =>
    change s.core.r.writeG r (s.core.r.readG r) = s.core.r
    unfold Regs.writeG Regs.readG
    rw [if_neg nonzero, if_neg nonzero, Vector.set_getElem_self]

/-! ### A part of a scalar register -/

/-- A word with the bytes from a place on replaced. -/
def withBytes (old : Word) (start : Nat) (bs : List Byte) : Word :=
  (vecOf ((vbytes (old.setWidth 128)).take start ++ bs ++ (vbytes (old.setWidth 128)).drop (start + bs.length))).setWidth 64

theorem State.takePart_whole {bs : List Byte} (dst : l.dst = .g r z) (len : bs.length = l.width) (start : Nat) :
    s.takePart l start bs = s.writeScalar l.hand r (scalarValue l.width z bs) := by
  unfold State.takePart
  rw [dst]
  exact if_pos len

theorem State.takePart_part {bs : List Byte} (dst : l.dst = .g r z) (len : bs.length ≠ l.width) (start : Nat) :
    s.takePart l start bs = s.writeScalar l.hand r (withBytes (s.core.readScalar l.hand r) start bs) := by
  unfold State.takePart
  rw [dst]
  exact if_neg len

theorem natOf_drop (xs : List Byte) {k : Nat} (h : k ≤ xs.length) : natOf (xs.drop k) = natOf xs / 256 ^ k := by
  have split := natOf_append (xs.take k) (xs.drop k)
  have len : (xs.take k).length = k := List.length_take_of_le h
  have lt := natOf_lt (xs.take k)
  rw [List.take_append_drop, len] at split
  rw [len] at lt
  rw [split, Nat.add_mul_div_left _ _ (by positivity), Nat.div_eq_of_lt lt, Nat.zero_add]

/-- The bytes of a word that a replacement leaves stay, below and above it. -/
theorem withBytes_eq (old : Word) {start : Nat} {bs : List Byte} (room : start + bs.length ≤ 16) :
    withBytes old start bs = BitVec.ofNat 64 (old.toNat % 256 ^ start +
      256 ^ start * (natOf bs + 256 ^ bs.length * (old.toNat / 256 ^ (start + bs.length)))) := by
  have wide : natOf (vbytes (old.setWidth 128)) = old.toNat := by
    rw [natOf_vbytes, BitVec.toNat_setWidth]
    exact Nat.mod_eq_of_lt (Nat.lt_trans old.isLt (by decide))
  rw [withBytes, vecOf_eq, BitVec.setWidth_ofNat_of_le (by decide), List.append_assoc, natOf_append, natOf_append,
    natOf_drop _ (by rw [vbytes_length]; exact room), natOf_take _ (by rw [vbytes_length]; omega), wide,
    List.length_take_of_le (by rw [vbytes_length]; omega)]

/-- Four bytes over the low half of a word. -/
theorem withBytes_low (old : Word) {bs : List Byte} (len : bs.length = 4) :
    withBytes old 0 bs = BitVec.ofNat 64 (natOf bs + 2 ^ 32 * (old.toNat / 2 ^ 32)) := by
  rw [withBytes_eq old (by omega), len]
  congr 1
  omega

/-- Four bytes over the high half of a word. -/
theorem withBytes_high (old : Word) {bs : List Byte} (len : bs.length = 4) :
    withBytes old 4 bs = BitVec.ofNat 64 (old.toNat % 2 ^ 32 + 2 ^ 32 * natOf bs) := by
  have top : old.toNat / 256 ^ (4 + 4) = 0 := Nat.div_eq_of_lt old.isLt
  rw [withBytes_eq old (by omega), len, top]
  congr 1

/-- Four bytes over each half of a word. -/
theorem withBytes_halves (old : Word) {lo hi : List Byte} (low : lo.length = 4) (high : hi.length = 4) :
    withBytes (withBytes old 0 lo) 4 hi = BitVec.ofNat 64 (natOf (lo ++ hi)) := by
  have lt : natOf lo < 2 ^ 32 := by
    have := natOf_lt lo
    rwa [low] at this
  rw [withBytes_high _ high, withBytes_low _ low, natOf_append, low, BitVec.toNat_ofNat]
  congr 1
  omega

/-! ### A word of a scratchpad load -/

theorem State.takeWord_spad (path : pathOf l.addr = some (.spad, off)) (some_byte : 0 < l.width) : s.takeWord l w =
    s.takePart l (max (4 * w) off - off) ((s.spad (clusterOf s.core.id)).readN (max (4 * w) off)
      (min (4 * w + 4) (off + l.width) - max (4 * w) off)) := by
  unfold State.takeWord
  rw [path]
  dsimp only [Path.under]
  rw [Nat.div_self some_byte, Nat.one_mul, Nat.one_mul, Nat.add_sub_cancel' (Nat.le_max_right _ _)]
  rfl

/-- A load that lies in one word takes all its bytes with it. -/
theorem State.takeWord_whole (dst : l.dst = .g r z) (path : pathOf l.addr = some (.spad, off)) (some_byte : 0 < l.width)
    (within : off % 4 + l.width ≤ 4) : s.takeWord l (off / 4) =
      s.writeScalar l.hand r (scalarValue l.width z ((s.spad (clusterOf s.core.id)).readN off l.width)) := by
  have low : max (4 * (off / 4)) off = off := by omega
  have high : min (4 * (off / 4) + 4) (off + l.width) - off = l.width := by omega
  rw [State.takeWord_spad path some_byte, low, high, State.takePart_whole dst (Memory.readN_length _ _ _)]

/-- A load of eight bytes takes four of them with each of its words. -/
theorem State.takeWord_half (dst : l.dst = .g r z) (path : pathOf l.addr = some (.spad, off)) (wide : l.width = 8)
    (aligned : off % 4 = 0) {j : Nat} (half : j < 2) (used : s.core.inUse l.hand r = true) : s.takeWord l (off / 4 + j) =
      s.setG r (withBytes (s.g r) (4 * j) ((s.spad (clusterOf s.core.id)).readN (off + 4 * j) 4)) := by
  have low : max (4 * (off / 4 + j)) off = off + 4 * j := by omega
  have start : off + 4 * j - off = 4 * j := by omega
  have high : min (4 * (off / 4 + j) + 4) (off + l.width) - (off + 4 * j) = 4 := by omega
  rw [State.takeWord_spad path (by omega), low, high, start,
    State.takePart_part dst (by rw [Memory.readN_length]; omega), State.writeScalar_inUse used, Core.readScalar_inUse used]
  rfl

/-- Words of late loads are struck off the core's list, and no more. -/
theorem State.wordsDone_eq (s : State) (pick : LateLoad → Nat → Bool) : ∃ ls, (s.core.eng.loads = [] → ls = []) ∧
    s.wordsDone pick = s.onEng (fun e => { e with loads := ls }) := by
  unfold State.wordsDone
  split
  next none => exact ⟨s.core.eng.loads, fun _ => none, rfl⟩
  next some => exact ⟨_, fun none => absurd none some, rfl⟩

/-! ### A pending access performed, by its kind (R51, R80, R83, R150) -/

/-- What an access has in common with the others of its store: the memory, whether it sets its word full, and that it is no atomic and
no load. -/
def PendStore.OfStore (tcm fe : Bool) (p : PendStore) : Prop := p.tcm = tcm ∧ p.setsFull = fe ∧ p.atomic = none ∧ p.load = none

/-- The words of late loads that an access strikes off as it is performed. -/
def PendStore.strikes (p : PendStore) (l : LateLoad) (w : Nat) : Bool :=
  if p.setsFull then decide (l.no < p.no) || (!p.tcm && p.words.contains w) else !p.tcm && p.words.contains w

variable {fe : Bool} {p : PendStore}

theorem State.performStore_load (s : State) (cl : Nat) (atomic : p.atomic = none) (load : p.load = some l) :
    ∃ ls, s.performStore cl p = (s.onEng (fun e => { e with loads := ls })).takeWord l (p.off / 4) := by
  obtain ⟨ls, -, done⟩ := s.wordsDone_eq p.strikes
  unfold State.performStore
  rw [atomic, load]
  exact ⟨ls, congrArg (fun u => u.takeWord l (p.off / 4)) done⟩

theorem State.performStore_atomic (s : State) (cl : Nat) {a : PendAtomic} (atomic : p.atomic = some a) :
    ∃ ls, s.performStore cl p = (s.onEng (fun e => { e with loads := ls })).performAtomic cl p.off a := by
  obtain ⟨ls, -, done⟩ := s.wordsDone_eq p.strikes
  unfold State.performStore
  rw [atomic]
  exact ⟨ls, congrArg (fun u => u.performAtomic cl p.off a) done⟩

theorem State.performStore_ofSpad (store : p.OfStore false fe) (s : State) (cl : Nat) : ∃ ls, (s.core.eng.loads = [] → ls = []) ∧
    s.performStore cl p = let u := s.onEng (fun e => { e with loads := ls })
      if fe then (u.spadWrite cl p.bytes).spadMark cl true [p.off / 4] else u.spadWrite cl p.bytes := by
  obtain ⟨bank, sets, atomic, load⟩ := store
  obtain ⟨ls, empty, done⟩ := s.wordsDone_eq p.strikes
  unfold PendStore.strikes at done
  unfold State.performStore
  rw [atomic, load, done, bank, sets]
  exact ⟨ls, empty, rfl⟩

theorem State.performStore_ofTcm (store : p.OfStore true fe) (s : State) (cl : Nat) : ∃ ls,
    s.performStore cl p = let u := s.onEng (fun e => { e with loads := ls })
      { u with core := if fe then (u.core.tcmWrite p.bytes).tcmMark true [p.off / 4] else u.core.tcmWrite p.bytes } := by
  obtain ⟨bank, sets, atomic, load⟩ := store
  obtain ⟨ls, -, done⟩ := s.wordsDone_eq p.strikes
  unfold PendStore.strikes at done
  unfold State.performStore
  rw [atomic, load, done, bank, sets]
  exact ⟨ls, rfl⟩

end Sys2Proof.Machine
end

section
/-! SUPPORT. Loads of a core's own memories: the words touched, an empty word, and what is given (R51, R53, R57, R80, R142, R146,
R282). -/

namespace Sys2Proof.Machine

variable {s t : State} {r : RegNo} {z : Bool} {l : LateLoad} {p : Path} {n off w : Nat} {im : BitVec 2} {a : Word} {dst : RDst}

theorem State.Performed.handBank (h : s.Performed t) : t.core.x.handBank = s.core.x.handBank := by rw [h.x]
theorem State.Performed.tick (h : s.Performed t) : t.dev.tick = s.dev.tick := by rw [h.dev]

/-! ### The words that an access touches -/

theorem wordsTouched_one (some_byte : 0 < n) (within : off % 4 + n ≤ 4) : wordsTouched off n = [off / 4] := by
  have one : (off + n - 1) / 4 - off / 4 + 1 = 1 := by omega
  rw [wordsTouched, if_neg (Nat.ne_of_gt some_byte), one]
  rfl

theorem wordsTouched_two (aligned : off % 4 = 0) : wordsTouched off 8 = [off / 4, off / 4 + 1] := by
  have two : (off + 8 - 1) / 4 - off / 4 + 1 = 2 := by omega
  rw [wordsTouched, if_neg (by decide), two]
  rfl

theorem wordsTouched_sorted (off n : Nat) : (wordsTouched off n).Pairwise (· < ·) := by
  unfold wordsTouched
  split
  · exact .nil
  · refine List.pairwise_map.mpr (List.pairwise_lt_range.imp fun lt => ?_)
    omega

/-! ### A load that is performed word by word -/

/-- The word of a pending load. -/
def LateLoad.pendWord (l : LateLoad) (no w : Nat) : PendStore := ⟨4 * w, false, [], false, none, some l, no⟩

theorem State.performStore_pendWord (s : State) (cl : Nat) (l : LateLoad) (no w : Nat) :
    ∃ ls, s.performStore cl (l.pendWord no w) = (s.onEng (fun e => { e with loads := ls })).takeWord l w := by
  obtain ⟨ls, done⟩ := s.performStore_load cl (p := l.pendWord no w) rfl rfl
  exact ⟨ls, done.trans (by rw [LateLoad.pendWord, Nat.mul_div_cancel_left w (by decide)])⟩

/-- Its bank performs the one word of a load that lies in it. -/
theorem State.performStore_whole (dst : l.dst = .g r z) (path : pathOf l.addr = some (.spad, off)) (some_byte : 0 < l.width)
    (within : off % 4 + l.width ≤ 4) (used : s.core.inUse l.hand r = true) (cl no : Nat) : ∃ ls,
    s.performStore cl (l.pendWord no (off / 4)) = (s.onEng (fun e => { e with loads := ls })).setG r
      (scalarValue l.width z ((s.spad (clusterOf s.core.id)).readN off l.width)) := by
  obtain ⟨ls, done⟩ := s.performStore_pendWord cl l no (off / 4)
  have whole := State.takeWord_whole (s := s.onEng (fun e => { e with loads := ls })) dst path some_byte within
  exact ⟨ls, done.trans (whole.trans (State.writeScalar_inUse (s := s.onEng (fun e => { e with loads := ls })) used _))⟩

/-- Its bank performs one of the two words of a load of eight bytes. -/
theorem State.performStore_half (dst : l.dst = .g r z) (path : pathOf l.addr = some (.spad, off)) (wide : l.width = 8)
    (aligned : off % 4 = 0) {j : Nat} (half : j < 2) (used : s.core.inUse l.hand r = true) (cl no : Nat) : ∃ ls,
    s.performStore cl (l.pendWord no (off / 4 + j)) = (s.onEng (fun e => { e with loads := ls })).setG r
      (withBytes (s.g r) (4 * j) ((s.spad (clusterOf s.core.id)).readN (off + 4 * j) 4)) := by
  obtain ⟨ls, done⟩ := s.performStore_pendWord cl l no (off / 4 + j)
  exact ⟨ls, done.trans (State.takeWord_half (s := s.onEng (fun e => { e with loads := ls })) dst path wide aligned half used)⟩

/-- Once the banks have performed each of its words, a load of a scalar register has given it what they hold. -/
theorem State.performed_pendWords (width : l.width ∈ [1, 2, 4, 8]) (dst : l.dst = .g r z) (path : pathOf l.addr = some (.spad, off))
    (aligned : off % l.width = 0) (hand : s.core.x.handBank = l.hand) (no : Nat) :
    (((wordsTouched off l.width).map (l.pendWord no)).foldl (fun y p => y.performStore (clusterOf s.core.id) p) s).g r =
      if r = 0 then 0 else scalarValue l.width z ((s.spad (clusterOf s.core.id)).readN off l.width) := by
  have used : s.core.inUse l.hand r = true := hand ▸ s.core.inUse_self r
  by_cases zero : r = 0
  · rw [if_pos zero, zero]
    rfl
  rw [if_neg zero]
  by_cases wide : l.width = 8
  · rw [wide] at aligned ⊢
    have words : off % 4 = 0 := by omega
    obtain ⟨ls, first⟩ := s.performStore_half dst path wide words (j := 0) (by decide) used (clusterOf s.core.id) no
    rw [Nat.add_zero, Nat.mul_zero, Nat.add_zero] at first
    generalize half : State.setG _ r (withBytes (s.g r) 0 _) = u at first
    have same : (s.onEng (fun e => { e with loads := ls })).Performed u := half ▸ State.performed_setG _ _ _
    have used_u : u.core.inUse l.hand r = true := same.handBank.trans hand ▸ u.core.inUse_self r
    obtain ⟨ms, second⟩ := u.performStore_half dst path wide words (j := 1) (by decide) used_u (clusterOf s.core.id) no
    have spad : u.spad (clusterOf u.core.id) = s.spad (clusterOf s.core.id) := by
      rw [same.id, ← half]
      rfl
    have low : u.g r = withBytes (s.g r) 0 ((s.spad (clusterOf s.core.id)).readN off 4) := half ▸ State.g_setG_same _ _ zero
    rw [wordsTouched_two words, List.map_cons, List.map_cons, List.map_nil, List.foldl_cons, List.foldl_cons, List.foldl_nil, first,
      second, State.g_setG_same _ _ zero, spad, low, withBytes_halves _ (Memory.readN_length _ _ _) (Memory.readN_length _ _ _),
      ← Memory.readN_add, scalarValue_eight z (Memory.readN_length _ _ _)]
  · simp only [List.mem_cons, List.not_mem_nil, or_false] at width
    have some_byte : 0 < l.width := by omega
    have within : off % 4 + l.width ≤ 4 := by rcases width with h | h | h | h <;> rw [h] at aligned ⊢ <;> omega
    obtain ⟨ls, only⟩ := s.performStore_whole dst path some_byte within used (clusterOf s.core.id) no
    rw [wordsTouched_one some_byte within, List.map_cons, List.map_nil, List.foldl_cons, List.foldl_nil, only,
      State.g_setG_same _ _ zero]

/-! ### What a load finds -/

/-- Paths whose loads a core performs on its own memories or those of its cluster. -/
def Path.isLocal : Path → Bool
  | .loft | .global | .globalRo | .dev => false
  | _ => true

theorem Path.isLocal_iff : p.isLocal = true ↔ p.isTimed = false ∧ p ≠ .globalRo ∧ p ≠ .dev := by
  cases p <;> simp [Path.isLocal, Path.isTimed]

/-- The word that stops a load `at fe`, or none. -/
def State.stopsAt (s : State) (p : Path) (off n : Nat) (im : BitVec 2) : Option Word :=
  if im = 3 then s.emptyUnder p off n else none

theorem State.loadFrom_table (here : p.isLocal = true) (held : p.heldByTable s.core = true) :
    s.loadFrom dst p off n a im = s.stay .table 0 := by
  obtain ⟨untimed, not_ro, not_dev⟩ := Path.isLocal_iff.mp here
  unfold State.loadFrom
  rw [untimed, if_neg Bool.false_ne_true, if_neg not_ro, if_neg not_dev, if_pos held]

/-- A load of a local path, after the core's accesses to its words. -/
theorem State.loadFrom_local (here : p.isLocal = true) (free : p.heldByTable s.core = false) : s.loadFrom dst p off n a im =
    match (s.settle p off n).stopsAt p off n im with
    | some w => (s.settle p off n).stay .fullEmpty w
    | none =>
      if s.spadFault p off n then (s.defer 0x12 a).done
      else if s.loadPends dst p off n im then (s.pendLoad dst p off n a).done
      else (((s.settle p off n).writeReply dst s.core.x.handBank n ((s.settle p off n).localBytes p off n)).mayBeLate dst p off n a im).done := by
  obtain ⟨untimed, not_ro, not_dev⟩ := Path.isLocal_iff.mp here
  unfold State.loadFrom
  rw [untimed, if_neg Bool.false_ne_true, if_neg not_ro, if_neg not_dev, free, if_neg Bool.false_ne_true]
  rfl

/-- A load that no empty word stops, whose words are sound, and that its banks perform at issue gives its destination the bytes
there. -/
theorem State.loadFrom_gives (here : p.isLocal = true) (free : p.heldByTable s.core = false)
    (full : (s.settle p off n).stopsAt p off n im = none) (sound : s.spadFault p off n = false)
    (now : s.loadPends dst p off n im = false) : s.loadFrom dst p off n a im =
      (((s.settle p off n).writeReply dst s.core.x.handBank n ((s.settle p off n).localBytes p off n)).mayBeLate dst p off n a im).done := by
  rw [State.loadFrom_local here free, full, sound, now]
  rfl

/-! ### Empty words (R57) -/

theorem State.stopsAt_ordinary (ordinary : im ≠ 3) : s.stopsAt p off n im = none := if_neg ordinary

/-- The empty words of TCM, or of the scratchpad of the acting core's cluster. -/
def State.emptyWords (s : State) (tcm : Bool) : List Nat := if tcm then s.core.mem.tcmEmpty else s.spadEmptyOf (clusterOf s.core.id)

theorem State.firstEmpty_none {tcm : Bool} : s.firstEmpty tcm off n = none ↔ ∀ w ∈ wordsTouched off n, w ∉ s.emptyWords tcm := by
  simp [State.firstEmpty, State.emptyWords]

/-- Where some word is empty, the first one is found. -/
theorem State.firstEmpty_some {tcm : Bool} (touched : w ∈ wordsTouched off n) (empty : w ∈ s.emptyWords tcm) :
    ∃ v ∈ wordsTouched off n, v ≤ w ∧ v ∈ s.emptyWords tcm ∧ s.firstEmpty tcm off n = some v := by
  cases found : s.firstEmpty tcm off n with
  | none => exact absurd empty (State.firstEmpty_none.mp found w touched)
  | some v =>
    obtain ⟨holds, before, after, parts, earlier⟩ := List.find?_eq_some_iff_append.mp found
    have v_empty : v ∈ s.emptyWords tcm := by simpa [State.emptyWords] using holds
    refine ⟨v, List.mem_of_find?_eq_some found, ?_, v_empty, rfl⟩
    have sorted := wordsTouched_sorted off n
    rw [parts] at touched sorted
    rcases List.mem_append.mp touched with passed | rest
    · exact absurd empty (by simpa [State.emptyWords] using earlier w passed)
    · rcases List.mem_cons.mp rest with rfl | later
      · exact Nat.le_refl _
      · exact Nat.le_of_lt ((List.pairwise_cons.mp (List.pairwise_append.mp sorted).2.1).1 w later)

/-- Nothing stops a load of TCM or the scratchpad whose words, if it is `at fe`, are all full. -/
theorem State.stopsAt_full {tcm : Bool} (path : p = if tcm then .tcm else .spad)
    (full : im = 3 → ∀ w, off / 4 ≤ w → w ≤ (off + n - 1) / 4 → w ∉ s.emptyWords tcm) : s.stopsAt p off n im = none := by
  unfold State.stopsAt
  split
  next fe =>
    have none_empty : s.firstEmpty tcm off n = none := State.firstEmpty_none.mpr fun w touched =>
      have ⟨_, low, high⟩ := mem_wordsTouched.mp touched
      full fe w low high
    cases tcm <;> subst path <;> simp [State.emptyUnder, Path.under, none_empty]
  · rfl

/-! ### Scalar loads -/

theorem exec_loadOf_path {b : RegNo} {e : BitVec 1} {o : BitVec 10} (width : n ∈ [1, 2, 4, 8])
    (check : accessTrap s.core .load (s.baseOffset b o n) n (decide (b = 2)) (decide (im = 3)) = none)
    (path : pathOf (s.baseOffset b o n) = some (p, off)) : exec (loadOf n r b im e o) s =
      s.loadFrom (.g r (decide (e = 1 ∧ n < 8))) p off n (s.baseOffset b o n) im :=
  (exec_loadOf width r b im e o s).trans (State.scalarLoad_path check path)

/-- An address that passes the checks of R48 is aligned on its path. -/
theorem aligned_of_check {c : Core} {k : AKind} {base2 fe : Bool} (width : n ∈ [1, 2, 4, 8, 16]) (path : pathOf a = some (p, off))
    (check : accessTrap c k a n base2 fe = none) : off % n = 0 := by
  obtain ⟨-, -, -, aligned, -⟩ := (accessTrap_eq_none path).mp check
  rw [pathOf_off path]
  simp only [List.mem_cons, List.not_mem_nil, or_false] at width
  rcases width with rfl | rfl | rfl | rfl | rfl <;> omega

theorem lateAllowed_local (not_spad : p.under off n = none ∨ ∃ o m, p.under off n = some (true, o, m)) (dst : RDst) (im : BitVec 2) :
    lateAllowed dst p im = false := by
  cases p <;> simp_all [Path.under, lateAllowed]

/-- A load of IM or of TCM, through a view or not, gives its destination the bytes that the path has there, once no empty word and no
table load holds it. -/
theorem State.loadFrom_core (here : p.isLocal = true) (free : p.heldByTable s.core = false)
    (core : p.under off n = none ∨ ∃ o m, p.under off n = some (true, o, m))
    (full : (s.settle p off n).stopsAt p off n im = none) : s.loadFrom dst p off n a im =
      ((s.settle p off n).writeReply dst s.core.x.handBank n ((s.settle p off n).localBytes p off n)).done := by
  have not_late := lateAllowed_local core dst im
  have sound : s.spadFault p off n = false := by
    unfold State.spadFault
    rcases core with none | ⟨o, m, own⟩
    · rw [none]
    · rw [own]
  have now : s.loadPends dst p off n im = false := by
    unfold State.loadPends
    rw [not_late]
    rfl
  rw [State.loadFrom_gives here free full sound now, State.mayBeLate, not_late]
  rfl

theorem State.loadFrom_scalar (here : p.isLocal = true) (free : p.heldByTable s.core = false)
    (core : p.under off n = none ∨ ∃ o m, p.under off n = some (true, o, m))
    (full : (s.settle p off n).stopsAt p off n im = none) : s.loadFrom (.g r z) p off n a im =
      ((s.settle p off n).setG r (scalarValue n z ((s.settle p off n).localBytes p off n))).done := by
  rw [State.loadFrom_core here free core full, State.writeReply_g (s.performed_settle p off n).handBank]

/-- The value of a load of `n` bytes, as R142 gives it. -/
theorem scalarValue_readN (m : Memory) (e : BitVec 1) : scalarValue n (decide (e = 1 ∧ n < 8)) (m.readN off n) =
    if e = 1 ∧ n < 8 then BitVec.ofNat 64 (natOf (m.readN off n)) else (BitVec.ofNat (8 * n) (natOf (m.readN off n))).signExtend 64 := by
  rw [scalarValue_eq (Memory.readN_length m off n)]
  simp only [decide_eq_true_eq]

/-! ### Views (R53) -/

theorem lanesOver_aligned (aligned : off % 4 = 0) : lanesOver off 4 = 1 := by
  unfold lanesOver
  omega

/-- An aligned word of a table's view of TCM is what its code byte decodes to. -/
theorem State.localBytes_tcmView (aligned : off % 4 = 0) (k : Fin 4) : s.localBytes (.tcmView k) off 4 =
    bytesOf 4 (tabDecode s.core.eng.tabs[k] (s.core.mem.tcm.read (off / 4)).toNat) := by
  unfold State.localBytes viewed
  rw [lanesOver_aligned aligned, aligned]
  rfl

/-- An aligned word of the bf16 view of TCM is the two bytes there, above two of zero. -/
theorem State.localBytes_tcmBf16 (aligned : off % 4 = 0) : s.localBytes .tcmBf16 off 4 =
    0 :: 0 :: s.core.mem.tcm.readN (off / 2) 2 := by
  have place : 2 * (off / 4) = off / 2 := by omega
  unfold State.localBytes viewed
  rw [lanesOver_aligned aligned, aligned, place]
  rfl

theorem natOf_high_half (bs : List Byte) : natOf (0 :: 0 :: bs) = natOf bs * 65536 := by
  have zero : (0 : Byte).toNat = 0 := rfl
  rw [natOf, natOf, zero]
  omega

/-! ### Scratchpad loads (R80) -/

theorem State.loadPends_spad {z : Bool} : s.loadPends (.g r z) .spad off n im = true ↔
    im ≠ 3 ∧ s.owesWords .spad off n = true ∧ r ∉ s.core.loopRegs := by
  simp [State.loadPends, lateAllowed, RDst.scalar, and_assoc]

theorem State.mayBeLate_spad {z : Bool} : s.mayBeLate (.g r z) .spad off n a im = if im = 3 then s else
    s.onEng (fun e => { e with loads := e.loads ++ [⟨.g r z, a, n, s.core.x.handBank, wordsTouched off n, s.dev.tick⟩] }) := by
  simp [State.mayBeLate, lateAllowed, spadWords, Path.under]

/-- A scratchpad load that its banks perform at issue, and may still perform later. -/
theorem State.loadFrom_spad (full : (s.settle .spad off n).stopsAt .spad off n im = none)
    (sound : Config.spadEcc s.dev.tick off = false) (now : im = 3 ∨ s.owesWords .spad off n = false ∨ r ∈ s.core.loopRegs) :
    s.loadFrom (.g r z) .spad off n a im = (((s.settle .spad off n).setG r
      (scalarValue n z (((s.settle .spad off n).spad (clusterOf s.core.id)).readN off n))).mayBeLate (.g r z) .spad off n a im).done := by
  have not_pends : s.loadPends (.g r z) .spad off n im = false := by
    rw [Bool.eq_false_iff, ne_eq, State.loadPends_spad]
    rintro ⟨ordinary, owes, apart⟩
    rcases now with fe | none | looped
    · exact ordinary fe
    · exact Bool.false_ne_true (none.symm.trans owes)
    · exact apart looped
  have same := s.performed_settle .spad off n
  have bytes : (s.settle .spad off n).localBytes .spad off n = ((s.settle .spad off n).spad (clusterOf s.core.id)).readN off n := by
    rw [← same.id]
    rfl
  rw [State.loadFrom_gives rfl rfl full sound not_pends, State.writeReply_g same.handBank, bytes]

/-- A scratchpad load that is issued before it is performed leaves its register as it is. -/
theorem State.pendLoad_g (s : State) (r : RegNo) (z : Bool) (off n : Nat) (a : Word) :
    let v := s.pendLoad (.g r z) .spad off n a
    v.dev = s.dev ∧ v.cores = s.cores ∧ v.core.mem = s.core.mem ∧ v.core.r = s.core.r ∧ v.core.eng = { s.core.eng with
      pend := s.core.eng.pend ++ (wordsTouched off n).map (LateLoad.pendWord ⟨.g r z, a, n, s.core.x.handBank, [], s.dev.tick⟩ s.dev.tick) } := by
  refine ⟨rfl, rfl, State.setG_mem _ _ _, State.setG_g _ _, ?_⟩
  exact congrArg (fun e : Engines => { e with pend := e.pend ++ (wordsTouched off n).map (LateLoad.pendWord
    ⟨.g r z, a, n, s.core.x.handBank, [], s.dev.tick⟩ s.dev.tick) }) (State.setG_eng s r (s.g r))

end Sys2Proof.Machine
end

section
/-! CERTIFICATE. Loads of IM, TCM, the scratchpad and the views (R49, R51, R53, R57, R142, R146, R282). -/

open Sys2Proof Sys2Proof.Machine

/-- Settles O19: a load settles the core's accesses to its words, waits for the first empty one, and gives the bytes of its path
(`State.loadFrom_local`, `State.loadFrom_scalar`); one of the scratchpad may be late, or pends until its banks perform each of
its words (`State.performed_pendWords`). -/
theorem localLoads : Obligations.LocalLoads := by
  intro s n t b i e p o off width
  dsimp only
  rw [show s.g b + o.signExtend 64 * BitVec.ofNat 64 n = s.baseOffset b o n from rfl,
    show s.g b + o.signExtend 64 * 16 = s.baseOffset b o 16 from rfl]
  simp only [← scalarValue_readN]
  have some_byte : 0 < n := by simp at width; omega
  have spad_full (full : i = 3 → ∀ w, off / 4 ≤ w → w ≤ (off + n - 1) / 4 → w ∉ (s.settle .spad off n).spadEmptyOf (clusterOf s.core.id)) :
      (s.settle .spad off n).stopsAt .spad off n i = none := by
    refine State.stopsAt_full (tcm := false) rfl ?_
    rw [← (s.performed_settle .spad off n).id] at full
    exact full
  refine ⟨fun q k m pend loads => State.settle_none pend loads q k m, fun fits path => ?_, ⟨fun fits path full => ?_,
    fun w fits path fe low high empty => ?_⟩, fun fits path full => ⟨fun spoilt => ?_, fun sound now => ?_, fun sound ordinary owes apart => ?_⟩,
    fun k word fits path free small => ?_, fun k fits path held => ?_, fun word fits path => ?_, fun fits path full unbound => ?_⟩
  · rw [exec_loadOf_path width fits.1 path]
    exact State.loadFrom_scalar rfl rfl (.inl rfl) (State.stopsAt_ordinary (fits.2 trivial))
  · rw [exec_loadOf_path width fits.1 path]
    exact State.loadFrom_scalar rfl rfl (.inr ⟨_, _, rfl⟩) (State.stopsAt_full (tcm := true) rfl full)
  · obtain ⟨v, touched, first, v_empty, found⟩ := State.firstEmpty_some (s := s.settle .tcm off n) (tcm := true)
      (mem_wordsTouched.mpr ⟨Nat.ne_of_gt some_byte, low, high⟩) empty
    refine ⟨v, (mem_wordsTouched.mp touched).2.1, first, v_empty, ?_⟩
    have stops : (s.settle .tcm off n).stopsAt .tcm off n i = some (wordAddress true v) := by
      rw [State.stopsAt, if_pos fe]
      exact congrArg (Option.map (wordAddress true)) found
    rw [exec_loadOf_path width fits.1 path, State.loadFrom_local rfl rfl, stops, wordAddress, if_pos rfl, Nat.one_mul]
  · rw [exec_loadOf_path width fits.1 path, State.loadFrom_local rfl rfl, spad_full full]
    exact if_pos spoilt
  · rw [exec_loadOf_path width fits.1 path, State.loadFrom_spad (spad_full full) (Bool.eq_false_iff.mpr sound) now, State.mayBeLate_spad,
      (State.performed_setG _ _ _).handBank, (s.performed_settle _ _ _).handBank,
      State.setG_dev, (s.performed_settle _ _ _).tick]
    rfl
  · obtain ⟨dev, cores, mem, regs, eng⟩ := s.pendLoad_g t (decide (e = 1 ∧ n < 8)) off n (s.baseOffset b o n)
    refine ⟨s.pendLoad (.g t (decide (e = 1 ∧ n < 8))) .spad off n (s.baseOffset b o n), _, ?_, dev, cores, mem, regs, eng, ?_, fun y id hand => ?_⟩
    · rw [exec_loadOf_path width fits.1 path, State.loadFrom_local rfl rfl, spad_full full]
      exact (if_neg sound).trans (if_pos (State.loadPends_spad.mpr ⟨ordinary, owes, apart⟩))
    · rw [List.map_map]
      exact List.map_congr_left fun w _ => by simp [PendStore.words, LateLoad.pendWord]
    · rw [← id]
      exact State.performed_pendWords (l := ⟨.g t (decide (e = 1 ∧ n < 8)), s.baseOffset b o n, n, s.core.x.handBank, [], s.dev.tick⟩)
        width rfl path (aligned_of_check (by simp at width ⊢; omega) path fits.1) hand s.dev.tick
  · subst word
    have aligned := aligned_of_check (by decide) path fits.1
    rw [exec_loadOf_path width fits.1 path, State.loadFrom_scalar (p := .tcmView k) rfl free (.inr ⟨_, _, rfl⟩)
      (State.stopsAt_ordinary (fits.2 trivial)), State.localBytes_tcmView aligned, scalarValue_eq (bytesOf_length 4 _), natOf_bytesOf,
      show (256 : Nat) ^ 4 = 2 ^ 32 from rfl, Nat.mod_eq_of_lt small]
    simp [State.done]
  · rw [exec_loadOf_path width fits.1 path]
    exact State.loadFrom_table rfl held
  · subst word
    have aligned := aligned_of_check (by decide) path fits.1
    rw [exec_loadOf_path width fits.1 path, State.loadFrom_scalar rfl rfl (.inr ⟨_, _, rfl⟩) (State.stopsAt_ordinary (fits.2 trivial)),
      State.localBytes_tcmBf16 aligned, scalarValue_eq (n := 4) rfl, natOf_high_half]
    simp [State.done]
  · let u := s.settle .tcm off 16
    refine ⟨mergeBytes (s.p p) (vecOf (u.core.mem.tcm.readN off 16)) (u.core.r.readV t), ?_, fun k lt => ?_⟩
    · have full_words : u.stopsAt .tcm off 16 i = none := State.stopsAt_full (tcm := true) rfl full
      rw [exec_vld_path unbound fits.1 path, State.loadFrom_core rfl rfl (.inr ⟨_, _, rfl⟩) full_words]
      rfl
    · rw [lane_mergeBytes _ _ _ lt, lane_vecOf _ lt]
      congr 1
      exact Memory.readN_getD _ _ _ _ lt

end

section
/-! SUPPORT. Stores to a core's own memories: what they write, what stands pending, and what its banks have performed by the next
fence (R57, R80, R82, R83, R144, R146, R282). -/

namespace Sys2Proof.Machine

variable {s t u : State} {p : Path} {off n cl w : Nat} {im : BitVec 2} {a : Word} {drop fe tcm : Bool} {bs cs : List (Nat × Byte)}
  {q : List PendStore}

/-! ### Bytes written -/

/-- `l` is `k` with the listed bytes at their offsets from `off`. -/
def Memory.Puts (off : Nat) (bs : List (Nat × Byte)) (k l : Memory) : Prop :=
  (∀ y ∈ bs, l.read (off + y.1) = y.2) ∧ ∀ z, (∀ y ∈ bs, z ≠ off + y.1) → l.read z = k.read z

/-- No offset is listed with two bytes. -/
def OneByteEach (bs : List (Nat × Byte)) : Prop := ∀ y ∈ bs, ∀ z ∈ bs, y.1 = z.1 → y.2 = z.2

/-- The bytes `cs` are those of `bs` at their offsets from `off`. -/
def PlacedAt (off : Nat) (bs cs : List (Nat × Byte)) : Prop := ∀ z, z ∈ cs ↔ ∃ y ∈ bs, z = (off + y.1, y.2)

theorem placedAt_map (off : Nat) (bs : List (Nat × Byte)) : PlacedAt off bs (bs.map (fun b => (off + b.1, b.2))) := fun z => by
  simp only [List.mem_map, eq_comm]

theorem Memory.puts_writeAll {m : Memory} (wf : m.wf = true) (one : OneByteEach bs) (placed : PlacedAt off bs cs) :
    m.Puts off bs (m.writeAll cs) := by
  refine ⟨fun y listed => ?_, fun z apart => Memory.read_writeAll_out z cs wf fun b among => ?_⟩
  · refine Memory.read_writeAll_in _ _ cs wf ((placed _).mpr ⟨y, listed, rfl⟩) fun c among => ?_
    obtain ⟨z, other, e⟩ := (placed _).mp among
    obtain ⟨place, rfl⟩ := Prod.mk.inj e
    exact (one y listed z other (by omega)).symm
  · obtain ⟨y, listed, e⟩ := (placed _).mp among
    exact apart y listed (Prod.mk.inj e).1

theorem oneByteEach_atOffsets (o : Nat) (xs : List Byte) : OneByteEach (atOffsets o xs) := by
  intro y hy z hz e
  obtain ⟨⟨b, i⟩, hb, rfl⟩ := List.mem_map.mp hy
  obtain ⟨⟨c, j⟩, hc, rfl⟩ := List.mem_map.mp hz
  have same : i = j := Nat.add_left_cancel e
  subst same
  have at_b := List.mem_zipIdx_iff_getElem?.mp hb
  have at_c := List.mem_zipIdx_iff_getElem?.mp hc
  exact Option.some.inj (at_b.symm.trans at_c)

theorem mem_atOffsets {o : Nat} {xs : List Byte} {y : Nat × Byte} :
    y ∈ atOffsets o xs ↔ ∃ k, ∃ h : k < xs.length, y = (o + k, xs[k]) := by
  simp only [atOffsets, List.mem_map, List.mem_zipIdx_iff_getElem?, List.getElem?_eq_some_iff]
  constructor
  · rintro ⟨⟨b, k⟩, ⟨h, at_k⟩, rfl⟩
    exact ⟨k, h, congrArg (o + k, ·) at_k.symm⟩
  · rintro ⟨k, h, rfl⟩
    exact ⟨(xs[k], k), ⟨h, rfl⟩, rfl⟩

/-- Bytes written at consecutive offsets are there, and nothing else has changed. -/
theorem Memory.written_atOffsets {m : Memory} (wf : m.wf = true) (off : Nat) (xs : List Byte) :
    m.Written (m.writeAll (atOffsets off xs)) off xs := by
  refine ⟨fun k h => ?_, fun z apart => Memory.read_writeAll_out z _ wf fun b listed => ?_⟩
  · exact Memory.read_writeAll_in _ _ _ wf (mem_atOffsets.mpr ⟨k, h, rfl⟩) fun c listed =>
      oneByteEach_atOffsets off xs _ listed _ (mem_atOffsets.mpr ⟨k, h, rfl⟩) rfl
  · obtain ⟨k, h, e⟩ := mem_atOffsets.mp listed
    have place := (Prod.mk.inj e).1
    omega

theorem oneByteEach_storedBytes (k : BitVec 16) (v : VReg) : OneByteEach (storedBytes k v) := by
  intro y hy z hz e
  rw [(mem_storedBytes.mp hy).2.2, (mem_storedBytes.mp hz).2.2, e]

/-! ### A store on TCM or the scratchpad -/

/-- The words that bytes at offsets from `off` touch. -/
def storedWords (off : Nat) (bs : List (Nat × Byte)) : List Nat := (bs.map (fun y => (off + y.1) / 4)).dedup

theorem State.storeTo_waits (path : p = .tcm ∨ p = .spad) (waits : im = 3 ∧ s.core.untimedOut = true) :
    s.storeTo p off n a im drop bs (fun s => s) = s.stay .drain 0 := by
  unfold State.storeTo
  rcases path with rfl | rfl <;> exact if_pos waits

theorem State.storeTo_tcm (clear : ¬(im = 3 ∧ s.core.untimedOut = true)) : s.storeTo .tcm off n a im drop bs (fun s => s) =
    (s.localStore true (bs.map (fun b => (off + b.1, b.2))) (decide (im = 3))).done := by
  unfold State.storeTo
  refine (if_neg clear).trans (if_neg ?_)
  simp [State.spadFault, Path.under]

/-- An ordinary store on TCM writes at issue, after the core's accesses to its words. -/
theorem State.localStore_ordinary (s : State) (cs : List (Nat × Byte)) : s.localStore true cs false =
    { s.drainWords true ((cs.map (fun b => b.1 / 4)).dedup) with
      core := (s.drainWords true ((cs.map (fun b => b.1 / 4)).dedup)).core.tcmWrite cs } := rfl

/-- A store `at fe` on TCM behind nothing of its core writes at issue. -/
theorem State.localStore_alone (pend : s.core.eng.pend = []) (loads : s.core.eng.loads = []) (cs : List (Nat × Byte)) :
    s.localStore true cs true = { s with core := (s.core.tcmWrite cs).tcmMark true ((cs.map (fun b => b.1 / 4)).dedup) } :=
  if_pos ⟨pend, loads⟩

theorem State.localStore_behind (behind : ¬(s.core.eng.pend = [] ∧ s.core.eng.loads = [])) (cs : List (Nat × Byte)) :
    s.localStore true cs true = s.spadStore true true cs := if_neg behind

theorem storedWords_map (off : Nat) (bs : List (Nat × Byte)) :
    ((bs.map (fun b => (off + b.1, b.2))).map (fun b => b.1 / 4)).dedup = storedWords off bs := by
  rw [List.map_map]
  rfl

theorem State.storeTo_spad (clear : ¬(im = 3 ∧ s.core.untimedOut = true)) : s.storeTo .spad off n a im drop bs (fun s => s) =
    if bs ≠ [] ∧ Config.spadEcc s.dev.tick off = true then (s.defer 0x12 a).done
    else (s.spadStore false (decide (im = 3)) (bs.map (fun b => (off + b.1, b.2)))).done := by
  unfold State.storeTo
  refine (if_neg clear).trans ?_
  cases bs <;> simp [State.spadFault, Path.under, State.localStore]

/-! ### What stands pending -/

/-- The accesses of a store, one for each word that it writes. -/
def State.storePends (s : State) (tcm fe : Bool) (off : Nat) (bs : List (Nat × Byte)) : List PendStore :=
  s.pendStores tcm fe (bs.map (fun b => (off + b.1, b.2)))

theorem State.storePends_words (s : State) (tcm fe : Bool) (off : Nat) (bs : List (Nat × Byte)) :
    (s.storePends tcm fe off bs).map (fun p => p.off / 4) = storedWords off bs := by
  rw [State.storePends, State.pendStores, List.map_map, List.map_map]
  exact (List.map_congr_left fun w _ => Nat.mul_div_cancel_left w (by decide)).trans (List.map_id _)

theorem State.mem_storePends {p : PendStore} (h : p ∈ s.storePends tcm fe off bs) :
    (p.tcm, p.setsFull, p.atomic, p.load, p.no) = (tcm, fe, none, none, s.dev.tick) ∧ p.off / 4 ∈ storedWords off bs := by
  refine ⟨?_, State.storePends_words s tcm fe off bs ▸ List.mem_map_of_mem h⟩
  obtain ⟨w, -, rfl⟩ := List.mem_map.mp h
  rfl

theorem State.ofStore_storePends {p : PendStore} (h : p ∈ s.storePends tcm fe off bs) : p.OfStore tcm fe := by
  obtain ⟨w, -, rfl⟩ := List.mem_map.mp h
  exact ⟨rfl, rfl, rfl, rfl⟩

/-- Between them they have just the bytes of the store. -/
theorem State.storePends_bytes (s : State) (tcm fe : Bool) (off : Nat) (bs : List (Nat × Byte)) :
    PlacedAt off bs ((s.storePends tcm fe off bs).flatMap PendStore.bytes) := by
  intro z
  rw [← placedAt_map off bs z]
  simp only [State.storePends, State.pendStores, List.mem_flatMap, List.mem_map, List.mem_dedup]
  constructor
  · rintro ⟨-, ⟨w, -, rfl⟩, among⟩
    simpa using (List.mem_filter.mp among).1
  · rintro ⟨y, listed, rfl⟩
    exact ⟨_, ⟨_, ⟨_, ⟨y, listed, rfl⟩, rfl⟩, rfl⟩, List.mem_filter.mpr ⟨List.mem_map.mpr ⟨y, listed, rfl⟩, by simp⟩⟩

/-! ### What the banks have performed -/

theorem State.wordsDone_dev (s : State) (pick : LateLoad → Nat → Bool) : (s.wordsDone pick).dev = s.dev := by
  obtain ⟨ls, -, done⟩ := s.wordsDone_eq pick
  rw [done]
  rfl

theorem State.loadsDone_dev (s : State) (pick : LateLoad → Bool) : (s.loadsDone pick).dev = s.dev := by
  unfold State.loadsDone
  split <;> rfl

theorem State.writeScalar_dev (s : State) (hand : Bool) (r : RegNo) (v : Word) : (s.writeScalar hand r v).dev = s.dev := by
  unfold State.writeScalar
  split <;> rfl

theorem State.takePart_dev (s : State) (l : LateLoad) (start : Nat) (xs : List Byte) : (s.takePart l start xs).dev = s.dev := by
  unfold State.takePart
  split
  · split <;> exact s.writeScalar_dev _ _ _
  · rfl
  · rfl

theorem State.takeWord_dev (s : State) (l : LateLoad) (w : Nat) : (s.takeWord l w).dev = s.dev := by
  unfold State.takeWord
  split
  · rfl
  · split
    · exact s.takePart_dev _ _ _
    · rfl

/-- What an access does to the scratchpads does not depend on the core that issued it. -/
theorem State.performStore_dev_congr (same : s.dev = t.dev) (cl : Nat) (p : PendStore) :
    (s.performStore cl p).dev = (t.performStore cl p).dev := by
  unfold State.performStore
  dsimp only
  generalize hu : s.wordsDone _ = u
  generalize hv : t.wordsDone _ = v
  have dev : u.dev = v.dev := by rw [← hu, ← hv, s.wordsDone_dev, t.wordsDone_dev, same]
  split
  · unfold State.performAtomic State.raise
    dsimp only
    rw [State.writeScalar_dev, State.writeScalar_dev, State.spadWrite, State.spadWrite, State.spad, State.spad, State.onDev, State.onDev, dev]
  · rw [State.takeWord_dev, State.takeWord_dev, dev]
  · split
    · exact dev
    · split
      · rw [State.spadMark, State.spadMark, State.spadEmptyOf, State.spadEmptyOf, State.spadWrite, State.spadWrite]
        dsimp only [State.onDev]
        rw [dev]
      · rw [State.spadWrite, State.spadWrite]
        dsimp only [State.onDev]
        rw [dev]

theorem State.foldl_performStore_dev_congr (same : s.dev = t.dev) (cl : Nat) (ps : List PendStore) :
    (ps.foldl (fun s p => s.performStore cl p) s).dev = (ps.foldl (fun s p => s.performStore cl p) t).dev := by
  induction ps generalizing s t with
  | nil => exact same
  | cons p ps ih => exact ih (State.performStore_dev_congr same cl p)

theorem PendStore.before_fst (pick : PendStore → Bool) (ps : List PendStore) : (PendStore.before pick ps).map (fun e => e.1) = ps := by
  induction ps with
  | nil => rfl
  | cons p ps ih => exact congrArg (p :: ·) ih

/-- What the scratchpads hold once every access of a core is performed: its pending ones have, in their order. -/
theorem State.drainAll_dev (s : State) :
    s.drainAll.dev = (s.core.eng.pend.foldl (fun t p => t.performStore (clusterOf s.core.id) p) s).dev := by
  have all := PendStore.before_all s.core.eng.pend
  have listed := PendStore.before_fst (fun _ => true) s.core.eng.pend
  rw [State.drainAll, State.loadsDone_dev]
  unfold State.drain
  dsimp only
  split
  · rw [List.filter_eq_self.mpr all]
    conv => rhs; rw [← listed, List.foldl_map]
    rfl
  next none =>
    cases h : s.core.eng.pend with
    | nil => rfl
    | cons p ps => exact absurd (by simp [h, PendStore.before]) none

theorem Memory.writeAll_append (m : Memory) (xs ys : List (Nat × Byte)) : m.writeAll (xs ++ ys) = (m.writeAll xs).writeAll ys := by
  induction xs generalizing m with
  | nil => rfl
  | cons x xs ih => exact ih _

theorem State.performStore_spad {p : PendStore} (store : p.OfStore false fe) (s : State) (cl : Nat) : (s.performStore cl p).dev =
    (if fe then (s.spadWrite cl p.bytes).spadMark cl true [p.off / 4] else s.spadWrite cl p.bytes).dev := by
  obtain ⟨ls, -, done⟩ := State.performStore_ofSpad store s cl
  rw [done]
  cases fe <;> rfl

theorem State.spad_congr (dev : s.dev = t.dev) (l : Nat) : s.spad l = t.spad l := by rw [State.spad, dev, State.spad]

theorem State.spadEmptyOf_congr (dev : s.dev = t.dev) (l : Nat) : s.spadEmptyOf l = t.spadEmptyOf l := by
  rw [State.spadEmptyOf, dev, State.spadEmptyOf]

theorem State.performStore_spad_bytes {p : PendStore} (store : p.OfStore false fe) (s : State) (cl l : Nat) :
    (s.performStore cl p).spad l = if l = cl then (s.spad cl).writeAll p.bytes else s.spad l := by
  rw [State.spad_congr (State.performStore_spad store s cl)]
  cases fe <;> exact State.spad_spadWrite

theorem State.performStore_spad_words {p : PendStore} (store : p.OfStore false fe) (s : State) (cl w : Nat) :
    w ∈ (s.performStore cl p).spadEmptyOf cl ↔ w ∈ s.spadEmptyOf cl ∧ ¬(fe = true ∧ w = p.off / 4) := by
  rw [State.spadEmptyOf_congr (State.performStore_spad store s cl)]
  cases fe
  · simp
  · simp [State.mem_spadMark_full]

/-- The banks have performed the accesses of a store on the scratchpad: its bytes are there, and its words full if it sets
them so. -/
theorem State.foldl_performStore_spad (cl : Nat) (stores : ∀ p ∈ q, p.OfStore false fe) (s : State) :
    (∀ l, (q.foldl (fun s p => s.performStore cl p) s).spad l =
      if l = cl then (s.spad cl).writeAll (q.flatMap PendStore.bytes) else s.spad l) ∧
    ∀ w, w ∈ (q.foldl (fun s p => s.performStore cl p) s).spadEmptyOf cl ↔
      w ∈ s.spadEmptyOf cl ∧ ¬(fe = true ∧ w ∈ q.map (fun p => p.off / 4)) := by
  induction q generalizing s with
  | nil => exact ⟨fun l => by split <;> simp_all [Memory.writeAll], fun w => by simp⟩
  | cons p q ih =>
    obtain ⟨bytes, empty⟩ := ih (fun r hr => stores r (List.mem_cons_of_mem p hr)) (s.performStore cl p)
    have store := stores p List.mem_cons_self
    refine ⟨fun l => ?_, fun w => ?_⟩
    · rw [List.foldl_cons, bytes, State.performStore_spad_bytes store, State.performStore_spad_bytes store, if_pos rfl,
        List.flatMap_cons, Memory.writeAll_append]
      split <;> rfl
    · rw [List.foldl_cons, empty, State.performStore_spad_words store, List.map_cons, List.mem_cons]
      tauto

/-- By the core's next fence its banks have performed a store that stands pending on the scratchpad, after all that the core
had issued before. -/
theorem State.drainAll_spadStore (stores : ∀ p ∈ q, p.OfStore false fe) :
    let u := s.onEng (fun e => { e with pend := e.pend ++ q })
    let cl := clusterOf s.core.id
    (∀ l, u.drainAll.spad l = if l = cl then (s.drainAll.spad cl).writeAll (q.flatMap PendStore.bytes) else s.drainAll.spad l) ∧
    ∀ w, w ∈ u.drainAll.spadEmptyOf cl ↔ w ∈ s.drainAll.spadEmptyOf cl ∧ ¬(fe = true ∧ w ∈ q.map (fun p => p.off / 4)) := by
  intro u cl
  have dev : u.drainAll.dev = (q.foldl (fun s p => s.performStore cl p) s.drainAll).dev := by
    have earlier : (s.core.eng.pend.foldl (fun s p => s.performStore cl p) u).dev = s.drainAll.dev := by
      rw [s.drainAll_dev]
      exact State.foldl_performStore_dev_congr (s := u) (t := s) rfl _ _
    rw [u.drainAll_dev]
    change ((s.core.eng.pend ++ q).foldl (fun t p => t.performStore cl p) u).dev = _
    rw [List.foldl_append]
    exact State.foldl_performStore_dev_congr earlier _ _
  obtain ⟨bytes, empty⟩ := State.foldl_performStore_spad cl stores s.drainAll
  refine ⟨fun l => ?_, fun w => ?_⟩
  · rw [State.spad_congr dev, bytes]
  · rw [State.spadEmptyOf_congr dev, empty]

end Sys2Proof.Machine
end

section
/-! CERTIFICATE. Stores on TCM and the scratchpad (R57, R80, R83, R144, R146, R282). -/

open Sys2Proof Sys2Proof.Machine

/-- Settles O21, for a scalar and a vector store alike by the bytes that it stores: one on TCM writes at issue or, `at fe` behind
other accesses, stands pending; one on the scratchpad stands pending, and by the next fence its banks have performed it
(`State.drainAll_spadStore`). -/
theorem localStores : Obligations.LocalStores := by
  intro s n t b i e p o off sound width cl waits good stores
  have general (ins : Instr) (m : Nat) (x : Word) (drop : Bool) (bs : List (Nat × Byte)) (one : OneByteEach bs)
      (run : ∀ q, accessTrap s.core .store x m (decide (b = 2)) (decide (i = 3)) = none → pathOf x = some (q, off) →
        exec ins s = s.storeTo q off m x i drop bs (fun s => s)) : stores ins m x bs := by
    intro check ws put d pends
    refine ⟨fun hold path => ?_, fun ordinary path => ?_, fun clear fe path pend loads => ?_, fun clear fe path behind => ?_,
      fun clear path writes => ?_, fun clear path some_byte spoilt => ?_⟩
    · rcases path with path | path
      · rw [run _ check path]
        exact State.storeTo_waits (.inl rfl) hold
      · rw [run _ check path]
        exact State.storeTo_waits (.inr rfl) hold
    · refine ⟨(s.localStore true (bs.map (fun y => (off + y.1, y.2))) false), ?_, ?_, ?_⟩
      · rw [run _ check path, State.storeTo_tcm fun h => ordinary h.1, decide_eq_false ordinary]
        rfl
      · rw [State.localStore_ordinary, storedWords_map]
        rfl
      · rw [State.localStore_ordinary, storedWords_map]
        exact Memory.puts_writeAll (sound.drainWords true _).acting.2 one (placedAt_map off bs)
    · refine ⟨s.localStore true (bs.map (fun y => (off + y.1, y.2))) true, ?_, ?_, ?_, fun w => ?_⟩
      · rw [run _ check path, State.storeTo_tcm clear, decide_eq_true fe]
        rfl
      · rw [State.localStore_alone pend loads]
        rfl
      · rw [State.localStore_alone pend loads]
        exact Memory.puts_writeAll sound.acting.2 one (placedAt_map off bs)
      · rw [State.localStore_alone pend loads, storedWords_map]
        exact Core.mem_tcmMark_full
    · refine ⟨_, s.storePends true true off bs, ?_, rfl, fun y hy => ?_, s.storePends_bytes true true off bs⟩
      · rw [run _ check path, State.storeTo_tcm clear, decide_eq_true fe, State.localStore_behind behind]
        rfl
      · rw [decide_eq_true fe]
        exact State.mem_storePends hy
    · have issued : exec ins s = .next (State.finish (s.onEng (fun g => { g with pend := g.pend ++ s.storePends false (decide (i = 3)) off bs })) .next) := by
        rw [run _ check path, State.storeTo_spad clear, if_neg fun h => ?_]
        · rfl
        · rcases writes with empty | intact
          · exact h.1 empty
          · exact Bool.false_ne_true (intact.symm.trans h.2)
      obtain ⟨bytes, empty⟩ := State.drainAll_spadStore (s := s) (q := s.storePends false (decide (i = 3)) off bs) (fe := decide (i = 3))
        fun y hy => State.ofStore_storePends hy
      refine ⟨_, ⟨_, issued, rfl, fun y hy => State.mem_storePends hy, s.storePends_bytes false (decide (i = 3)) off bs⟩, ?_, fun l other => ?_,
        fun w => ?_⟩
      · rw [bytes cl, if_pos rfl]
        exact Memory.puts_writeAll (sound.drainAll.spad cl) one (s.storePends_bytes false _ off bs)
      · rw [bytes l, if_neg other]
      · rw [empty w, State.storePends_words, decide_eq_true_iff]
        rfl
    · rw [run _ check path, State.storeTo_spad clear]
      exact if_pos ⟨some_byte, Bool.eq_true_of_not_eq_false spoilt⟩
  refine ⟨fun q k m pend loads => ⟨State.drainWords_none pend loads q k, rfl⟩, general _ _ _ (decide (e = 1)) _ ?_ fun q check path => ?_,
    fun unbound => general _ _ _ false _ ?_ fun q check path => ?_⟩
  · rw [← atOffsets_zero]
    exact oneByteEach_atOffsets 0 _
  · rw [← atOffsets_zero]
    exact (exec_storeOf width t b i e o s).trans (State.scalarStore_path check path)
  · rw [← storedBytes_eq]
    exact oneByteEach_storedBytes _ _
  · rw [← storedBytes_eq]
    exact (exec_vst_path unbound check path).trans (State.storeTo_takeUnits unbound)

end

section
/-! SUPPORT. Steps of an engine: for whom it acts, and what its reads leave (R59, R147, R149, R161, R284, R326). -/

namespace Sys2Proof.Machine

variable {s t u : State} {f : State → State} {core : Nat}

/-! ### A step of the engines of the acting core -/

theorem State.engineStep_idle (idle : s.runs core = false) : s.engineStep core f = .next s := if_neg (by simp [idle])

theorem State.engineStep_own (runs : s.runs s.core.id = true) (stays : (f s).core.id = s.core.id) :
    s.engineStep s.core.id f = .next (f s) := by
  unfold State.engineStep
  rw [if_pos runs, State.asCore_self (State.lt_of_runs runs) stays]

/-! ### What an engine's read leaves -/

/-- `t` has the cores and the dispatcher's tables of `s`. -/
def State.SameCores (s t : State) : Prop := t.core = s.core ∧ t.cores = s.cores ∧ t.dev.disp = s.dev.disp

theorem State.SameCores.refl (s : State) : s.SameCores s := ⟨rfl, rfl, rfl⟩

theorem State.SameCores.trans (h : s.SameCores t) (k : t.SameCores u) : s.SameCores u :=
  ⟨k.1.trans h.1, k.2.1.trans h.2.1, k.2.2.trans h.2.2⟩

theorem State.sameCores_countRemote (s : State) (sh part va key : Nat) : s.SameCores (s.countRemote sh part va key) := by
  unfold State.countRemote
  split
  · exact .refl s
  · split
    · exact .refl s
    · exact ⟨rfl, rfl, rfl⟩

theorem State.sameCores_launch (s : State) (m : Message) : s.SameCores (s.launch m) := by
  unfold State.launch
  split
  · exact ⟨rfl, rfl, rfl⟩
  · split
    · exact .refl s
    · split
      · exact .refl s
      · exact ⟨rfl, rfl, rfl⟩

theorem State.sameCores_sendAccess (s : State) (c : Cls) (k key : Nat) : s.SameCores (s.sendAccess c k key) := by
  unfold State.sendAccess
  split
  · exact .refl s
  · exact s.sameCores_launch _

theorem State.sameCores_ite {c : Prop} [Decidable c] (h : s.SameCores t) (k : s.SameCores u) : s.SameCores (if c then t else u) := by
  split
  · exact h
  · exact k

theorem State.sameCores_noteRead (s : State) (r : Reader) (a : Word) (inst : Nat) : s.SameCores (s.noteRead r a inst) := by
  unfold State.noteRead
  dsimp only
  split
  · split
    · exact (s.sameCores_countRemote _ _ _ _).trans (State.sameCores_sendAccess _ _ _ _)
    · exact .refl s
  · split
    · refine State.sameCores_ite (.refl s) ?_
      · split
        · exact (s.sameCores_countRemote _ _ _ _).trans (.trans ⟨rfl, rfl, rfl⟩ (State.sameCores_sendAccess _ _ _ _))
        · exact .refl s
    · exact .refl s
  · exact .refl s

theorem State.sameCores_noteReadN (s : State) (r : Reader) (a : Word) (inst n : Nat) : s.SameCores (s.noteReadN r a inst n) := by
  unfold State.noteReadN
  generalize piecesOf a 64 n = pieces
  induction pieces generalizing s with
  | nil => exact .refl s
  | cons x pieces ih => exact (s.sameCores_noteRead _ _ _).trans (ih _)

/-! ### The context that an engine serves -/

/-- While another core acts, the acting one stands under its own number. -/
theorem State.actAs_back {k : Nat} {c : Core} (other : k ≠ s.core.id) (id : c.id = k) :
    (State.actAs { s.actAs k with core := c } s.core.id).core = s.core := by
  rw [State.actAs_core, State.coreAt, if_neg (by rw [id]; exact Ne.symm other), State.actAs, if_neg other]
  exact congrArg (fun x => x.getD (Core.reset s.core.id)) ((aget_aset _ _ _ _).trans (if_pos rfl))

/-- A change of the core that runs the context leaves the acting core, or is made to it. -/
theorem State.forReader_core (h : s.Sound) {g : Core → Core} (id : ∀ c, (g c).id = c.id) (r : Reader) (park : Cont → Cont) :
    (s.forReader r (fun u => { u with core := g u.core }) park).core = s.core ∨
      (s.forReader r (fun u => { u with core := g u.core }) park).core = g s.core := by
  unfold State.forReader
  split
  · split
    next k _ =>
      by_cases own : k = s.core.id
      · subst own
        rw [State.asCore_own (id s.core)]
        split
        · exact .inr rfl
        · exact .inl rfl
      · left
        unfold State.asCore
        split
        · exact State.actAs_back own (by rw [id, State.actAs_core, h.numbered])
        · rfl
    · exact .inl rfl
  · split
    · exact .inr rfl
    · exact .inl rfl

/-- It reaches the acting core where that runs the context. -/
theorem State.forReader_own {r : Reader} {run : State → State} {park : Cont → Cont} (task : r.task = true)
    (runs : s.core.runs r.run = true) (listed : s.core.id < coreCount) (stays : (run s).core.id = s.core.id) :
    s.forReader r run park = run s := by
  unfold State.forReader State.coreOf
  rw [if_pos task, if_pos runs]
  exact State.asCore_self listed stays

end Sys2Proof.Machine
end

section
/-! SUPPORT. The core that acts in a step of its engines acts after it (R59, R80, R161, R162, R166, R168 to R170, R195). -/

namespace Sys2Proof.Machine

variable {s t u : State}

theorem State.SameCores.id (h : s.SameCores t) : t.core.id = s.core.id := by rw [h.1]

theorem State.id_ite {c : Prop} [Decidable c] {k : Nat} (yes : t.core.id = k) (no : u.core.id = k) : (if c then t else u).core.id = k := by
  split
  · exact yes
  · exact no

/-! ### Faults and flags of the context served -/

theorem State.deferFor_core (h : s.Sound) (r : Reader) (d : Deferred) : (s.deferFor r d).core = { s.core with x := (s.deferFor r d).core.x } := by
  rcases State.forReader_core h (g := fun c => c.defer d) (fun _ => rfl) r (fun c => { c with deferred := c.deferred ++ [d] }) with e | e
  · exact e.trans (by rw [show (s.deferFor r d).core = s.core from e])
  · exact e.trans (by rw [show (s.deferFor r d).core = s.core.defer d from e]; rfl)

theorem State.raiseFor_core (h : s.Sound) (r : Reader) (f : FpFlags) : (s.raiseFor r f).core = { s.core with sw := (s.raiseFor r f).core.sw } := by
  rcases State.forReader_core h (g := fun c => c.raise f) (fun _ => rfl) r (fun c => { c with fstat := c.fstat ||| f }) with e | e
  · exact e.trans (by rw [show (s.raiseFor r f).core = s.core from e])
  · exact e.trans (by rw [show (s.raiseFor r f).core = s.core.raise f from e]; rfl)

theorem State.deferFor_id (h : s.Sound) (r : Reader) (d : Deferred) : (s.deferFor r d).core.id = s.core.id := by
  rw [State.deferFor_core h]

/-! ### Copies -/

theorem Core.pendCause_core (c : Core) (i : Fin 6) (v : Word) : c.pendCause i v = { c with sw := (c.pendCause i v).sw } := by
  unfold Core.pendCause
  split <;> rfl

/-- A copy that is complete leaves the engine; of its core only the flags and the pending causes may change besides. -/
theorem State.finishCopy_core (h : s.Sound) (x : Copy) : (s.finishCopy x).core = { (s.dropCopy x.tag).core with sw := (s.finishCopy x).core.sw } := by
  have flags := State.raiseFor_core (s := s.dropCopy x.tag) h.dropCopy x.reader x.flags
  unfold State.finishCopy
  dsimp only
  generalize (x.desc.getLsbD 28 && _) = asks
  cases asks
  · exact flags
  · let v := BitVec.ofNat 64 x.tag
    exact (Core.pendCause_core _ 0 v).trans (congrArg (fun c : Core => { c with
      sw := (((s.dropCopy x.tag).raiseFor x.reader x.flags).core.pendCause 0 v).sw }) flags)

theorem State.finishCopy_id (h : s.Sound) (x : Copy) : (s.finishCopy x).core.id = s.core.id := by
  rw [State.finishCopy_core h]
  rfl

theorem State.abandonCopy_id (h : s.Sound) (x : Copy) (cause : BitVec 8) (a : Word) : (s.abandonCopy x cause a).core.id = s.core.id :=
  State.deferFor_id (s := s.setCopy { x with failed := true }) h.frame x.reader _

theorem State.performed_drainBefore (s : State) (no : Nat) : s.Performed (s.drainBefore no) :=
  (s.performed_drain _).trans (State.performed_loadsDone _ _)

theorem State.performed_beforeCopy (s : State) (x : Copy) : s.Performed (s.beforeCopy x) := by
  unfold State.beforeCopy
  split
  · split
    · exact .refl s
    · exact s.performed_drainBefore _
  · exact .refl s

theorem State.copyRead_id (h : s.Sound) (x : Copy) (w : Nat) : (s.copyRead x w).core.id = s.core.id := by
  unfold State.copyRead
  dsimp only
  split
  · rfl
  · have same := (s.performed_beforeCopy x).id
    have note := (State.sameCores_noteRead (s.beforeCopy x) x.reader (x.src + BitVec.ofNat 64 (4 * w)) x.readInst).id
    split
    · rfl
    · exact (State.abandonCopy_id h.beforeCopy.noteRead _ _ _).trans (note.trans same)
    · exact note.trans same

theorem State.localWrite_id (s : State) (k : Nat) (tcm : Bool) (bs : List (Nat × Byte)) : (s.localWrite k tcm bs).core.id = s.core.id := by
  unfold State.localWrite
  split
  · exact s.onCore_id _ _
  · rfl

theorem State.localMark_id (s : State) (k : Nat) (tcm full : Bool) (ws : List Nat) : (s.localMark k tcm full ws).core.id = s.core.id := by
  unfold State.localMark
  split
  · exact s.onCore_id _ _
  · rfl

theorem State.copyLocal_id (s : State) (k : Nat) (tcm : Bool) (bs : List (Nat × Byte)) : (s.copyLocal k tcm bs).core.id = s.core.id := by
  unfold State.copyLocal
  split
  · exact s.onCore_id _ _
  · exact s.localWrite_id _ _ _

theorem State.copyWrite_id (h : s.Sound) (x : Copy) (w : Nat) (bs : List Byte) : (s.copyWrite x w bs).core.id = s.core.id := by
  unfold State.copyWrite
  dsimp only
  split
  · split
    · exact State.abandonCopy_id h _ _ _
    · refine (State.localMark_id _ _ _ _ _).trans ((State.copyLocal_id _ _ _ _).trans ?_)
      exact (s.performed_drain _).id
  · split
    · split
      · exact State.abandonCopy_id h _ _ _
      · rfl
    · rfl

theorem State.copyWord_id (h : s.Sound) (x : Copy) (w : Nat) : (s.copyWord x w).core.id = s.core.id := by
  unfold State.copyWord
  dsimp only
  split
  · rfl
  · split
    · exact State.copyWrite_id h _ _ _
    · have same := (s.performed_beforeCopy x).id
      have note := (State.sameCores_noteRead (s.beforeCopy x) x.reader (x.src + BitVec.ofNat 64 (4 * w)) x.readInst).id
      split
      · rfl
      · exact (State.abandonCopy_id h.beforeCopy.noteRead _ _ _).trans (note.trans same)
      · exact (State.copyWrite_id h.beforeCopy.noteRead _ _ _).trans (note.trans same)

/-! ### Banks and ports -/

theorem State.performLoad_id (s : State) (n w : Nat) : (s.performLoad n w).core.id = s.core.id := by
  unfold State.performLoad
  split
  · rfl
  · split
    · exact (State.performed_takeWord _ _ _).id
    · rfl

theorem State.performAppend_id (h : s.Sound) (i : Fin 4) : (s.performAppend i).core.id = s.core.id := by
  unfold State.performAppend
  split
  · rfl
  · split
    · rfl
    · dsimp only
      refine State.id_ite (State.deferFor_id h.frame _ _) ?_
      · split
        · exact (State.localMark_id _ _ _ _ _).trans (State.localWrite_id _ _ _ _)
        · exact (State.localMark_id _ _ _ _ _).trans (State.localWrite_id _ _ _ _)
        · rfl

theorem State.fetchUnit_id (s : State) (i : Fin 4) : (s.fetchUnit i).core.id = s.core.id := by
  unfold State.fetchUnit
  split
  · rfl
  · split
    · rfl
    · dsimp only
      split
      · rfl
      · split
        · rfl
        · exact (State.sameCores_noteRead _ _ _ _).id
        · exact (State.sameCores_noteRead _ _ _ _).id

/-! ### Code, tables and the matrix unit -/

theorem State.landClause_id (s : State) (f c : Nat) : (s.landClause f c).core.id = s.core.id := by
  unfold State.landClause
  split
  · split
    · rfl
    · dsimp only
      split
      · rfl
      · split
        · rfl
        · split
          · exact (State.sameCores_noteReadN _ _ _ _ _).id
          · rfl
  · rfl

theorem State.completeFetch_id (s : State) (f : Nat) : (s.completeFetch f).core.id = s.core.id := by
  unfold State.completeFetch
  split
  · split
    · split <;> rfl
    · split
      · rfl
      · rfl
      · exact (State.sameCores_noteReadN _ _ _ _ _).id
  · rfl

theorem State.sameCores_noteTable (s : State) (l : TabLoad) (n : Nat) : s.SameCores (s.noteTable l n) := by
  unfold State.noteTable
  split
  · exact .refl s
  · exact s.sameCores_noteReadN _ _ _ _

theorem State.completeDtld_id (h : s.Sound) : s.completeDtld.core.id = s.core.id := by
  unfold State.completeDtld
  split
  · rfl
  · split
    · rfl
    · exact State.deferFor_id h.frame _ _
    · exact (s.sameCores_noteTable _ _).id

theorem State.completeSegld_id (h : s.Sound) : s.completeSegld.core.id = s.core.id := by
  unfold State.completeSegld
  split
  · rfl
  · split
    · rfl
    · exact State.deferFor_id h.frame _ _
    · exact (s.sameCores_noteTable _ _).id

end Sys2Proof.Machine
end

section
/-! SUPPORT. The steps of the engines, for the core that acts and for another (R59, R80, R161 to R170, R193 to R196, R224). -/

namespace Sys2Proof.Machine

variable {s t u : State} {f : State → State} {j n w : Nat}

/-! ### Another core's step -/

theorem State.actAs_id (h : s.Sound) (j : Nat) : (s.actAs j).core.id = j := by rw [State.actAs_core, h.numbered]

theorem State.runs_actAs (h : s.Sound) (j : Nat) : (s.actAs j).runs j = s.runs j := by
  have gated : (s.actAs j).clockGated j = s.clockGated j := by
    exact congrArg (fun d => State.clockGated ⟨s.core, [], d, []⟩ j) (s.actAs_dev j)
  have there : (s.actAs j).coreAt j = s.coreAt j := by
    have self := State.coreAt_self (s.actAs j)
    rwa [State.actAs_id h, State.actAs_core] at self
  rw [State.runs, there, gated, State.runs]

/-- A step of another core's engines is its step as the acting core, which then gives way again. -/
theorem State.engineStep_actAs (h : s.Sound) (stays : ∀ t : State, t.Sound → (f t).core.id = t.core.id) (runs : s.runs j = true)
    (done : (s.actAs j).engineStep j f = .next u) : s.engineStep j f = .next (u.actAs s.core.id) := by
  have own : (s.actAs j).runs (s.actAs j).core.id = true := by rw [State.actAs_id h, State.runs_actAs h, runs]
  have acting := State.engineStep_own own (stays _ (h.actAs j))
  rw [State.actAs_id h, done, Host.Outcome.next.injEq] at acting
  unfold State.engineStep State.asCore
  rw [if_pos runs, if_pos (State.lt_of_runs runs), acting]

/-- What a step of the engines of the acting core does, if it leaves that core acting. -/
theorem State.engineStep_to (runs : s.runs s.core.id = true) (step : f s = u) (id : u.core.id = s.core.id) :
    s.engineStep s.core.id f = .next u := by
  rw [State.engineStep_own runs (by rw [step, id]), step]

/-- An event that is a step of a core's engines, and leaves the acting core in its place. -/
def EngineEvent (j : Nat) (e : Instr) : Prop :=
  ∃ f : State → State, (∀ s, exec e s = s.engineStep j f) ∧ ∀ t : State, t.Sound → (f t).core.id = t.core.id

/-! ### The events -/

theorem engineEvent_copyAccept (j : Nat) : EngineEvent j (.copyAccept j) := by
  refine ⟨_, fun s => rfl, ?_⟩
  intro t _
  split
  · exact State.id_ite rfl rfl
  · rfl

theorem engineEvent_copyComplete (j n : Nat) : EngineEvent j (.copyComplete j n) := by
  refine ⟨_, fun s => rfl, ?_⟩
  intro t sound
  split
  · exact State.id_ite (State.finishCopy_id sound _) rfl
  · rfl

theorem engineEvent_codeFetchComplete (j n : Nat) (c : Option Nat) : EngineEvent j (.codeFetchComplete j n c) := by
  refine ⟨_, fun s => rfl, ?_⟩
  intro t _
  refine State.id_ite rfl ?_
  cases c with
  | some c => exact t.landClause_id n c
  | none => exact t.completeFetch_id n

/-- What the rows of an `mload` that are read on GLOBAL-RO leave. -/
theorem State.sameCores_noteRows (s : State) (l : MLoad) (n : Nat) (rows : List (Nat × Word × Option (List Byte))) :
    s.SameCores (rows.foldl (fun t r => if r.2.2.isSome then t else t.noteReadN l.reader r.2.1 l.inst n) s) := by
  induction rows generalizing s with
  | nil => exact .refl s
  | cons r rows ih => exact (State.sameCores_ite (.refl s) (s.sameCores_noteReadN _ _ _ _)).trans (ih _)

theorem engineEvent_mloadLand (j n : Nat) : EngineEvent j (.mloadLand j n) := by
  refine ⟨_, fun s => rfl, ?_⟩
  intro t sound
  split
  · rfl
  · split
    · rfl
    · exact State.deferFor_id sound.frame _ _
    · exact (State.sameCores_noteRows _ _ _ _).id

theorem engineEvent_bankAccessPerformed (j : Nat) (b : BankRef) : EngineEvent j (.bankAccessPerformed j b) := by
  refine ⟨_, fun s => rfl, ?_⟩
  intro t sound
  cases b with
  | store n =>
    dsimp only
    split
    · rfl
    · exact State.id_ite rfl (State.performed_performStore _ _ _).id
  | load n w => exact t.performLoad_id n w
  | copyRead tag w =>
    dsimp only
    split
    · exact State.id_ite (State.copyRead_id sound _ _) rfl
    · rfl
  | copyWord tag w =>
    dsimp only
    split
    · exact State.id_ite (State.copyWord_id sound _ _) rfl
    · rfl
  | append i =>
    dsimp only
    split
    · exact State.performAppend_id sound _
    · rfl

theorem engineEvent_streamDataArrival (j n : Nat) : EngineEvent j (.streamDataArrival j n) := by
  refine ⟨_, fun s => rfl, ?_⟩
  intro t _
  split
  · exact t.fetchUnit_id _
  · rfl

theorem engineEvent_matrixInstructionDone (j : Nat) : EngineEvent j (.matrixInstructionDone j) := by
  refine ⟨_, fun s => rfl, ?_⟩
  intro t _
  split <;> rfl

/-- The steps of the engines of R59, R80, R161 to R170, R193 to R196 and R224. -/
theorem engineEvent_of_mem {b : BankRef} {c : Option Nat} {e : Instr} (listed : e ∈ [Instr.copyAccept j, .copyComplete j n,
    .codeFetchComplete j n c, .dtldComplete j, .segldComplete j, .mloadLand j n, .bankAccessPerformed j b, .streamDataArrival j n,
    .matrixInstructionDone j, .autoPark j]) : EngineEvent j e := by
  simp only [List.mem_cons, List.not_mem_nil, or_false] at listed
  rcases listed with rfl | rfl | rfl | rfl | rfl | rfl | rfl | rfl | rfl | rfl
  · exact engineEvent_copyAccept j
  · exact engineEvent_copyComplete j n
  · exact engineEvent_codeFetchComplete j n c
  · exact ⟨State.completeDtld, fun s => rfl, fun t sound => State.completeDtld_id sound⟩
  · exact ⟨State.completeSegld, fun s => rfl, fun t sound => State.completeSegld_id sound⟩
  · exact engineEvent_mloadLand j n
  · exact engineEvent_bankAccessPerformed j b
  · exact engineEvent_streamDataArrival j n
  · exact engineEvent_matrixInstructionDone j
  · exact ⟨State.parkWaiting, fun s => rfl, fun t _ => t.parkWaiting_id⟩

end Sys2Proof.Machine
end

section
/-! SUPPORT. Steps of the copy engine (R161, R162, R171). -/

namespace Sys2Proof.Machine

variable {s : State} {n w : Nat} {y : Copy}

/-! ### Acceptance and completion -/

theorem Core.freeCopySlots_nonempty {c : Core} (free : ∃ i < 8, ∀ y ∈ c.eng.copies, y.tag % 8 ≠ i) : c.freeCopySlots.isEmpty = false := by
  obtain ⟨i, lt, apart⟩ := free
  have listed : i ∈ c.freeCopySlots := List.mem_filter.mpr ⟨List.mem_range.mpr lt, by simpa using apart⟩
  rw [List.isEmpty_eq_false_iff]
  exact List.ne_nil_of_mem listed

theorem exec_copyAccept (runs : s.runs s.core.id = true) {v : Wait} (wait : s.core.x.wait = some v) (reason : v.reason = .copySlot)
    (free : ∃ i < 8, ∀ y ∈ s.core.eng.copies, y.tag % 8 ≠ i) (going : s.stopPending s.core.id = false) :
    exec (.copyAccept s.core.id) s = .next (s.onEng (fun e => { e with copyGrant := true })) := by
  refine State.engineStep_to runs ?_ rfl
  rw [wait]
  simp [reason, Core.freeCopySlots_nonempty free, going]

theorem exec_copyComplete_done (h : s.Sound) (runs : s.runs s.core.id = true)
    (found : s.core.eng.copies.find? (fun x => decide (x.tag = n)) = some y) (good : y.failed = false) (written : y.todo = [])
    (landed : s.copyInFlight y = false) : exec (.copyComplete s.core.id n) s = .next (s.finishCopy y) := by
  refine State.engineStep_to runs ?_ (State.finishCopy_id h y)
  rw [found]
  simp [good, written, landed]

theorem exec_copyComplete_open (runs : s.runs s.core.id = true)
    (found : s.core.eng.copies.find? (fun x => decide (x.tag = n)) = some y)
    (left : y.failed = true ∨ y.todo ≠ [] ∨ s.copyInFlight y = true) : exec (.copyComplete s.core.id n) s = .next s := by
  refine State.engineStep_to runs ?_ rfl
  rw [found]
  rcases left with failed | todo | flying
  · simp [failed]
  · simp [todo]
  · simp [flying]

theorem copy_tag (found : s.core.eng.copies.find? (fun x => decide (x.tag = n)) = some y) : y.tag = n := by
  simpa using List.find?_some found

theorem State.finishCopy_copies (h : s.Sound) (y : Copy) :
    (s.finishCopy y).core.eng.copies = s.core.eng.copies.filter (fun x => decide (x.tag ≠ y.tag)) := by
  rw [State.finishCopy_core h]
  rfl

/-! ### A cause raised (R171) -/

theorem Core.pendCause_fstat (c : Core) (i : Fin 6) (v : Word) : (c.pendCause i v).sw.fstat = c.sw.fstat := by
  unfold Core.pendCause
  split <;> rfl

theorem Core.pendCause_enabled {c : Core} (on : c.sw.en.getLsbD 0 = true) (v : Word) :
    (c.pendCause 0 v).sw.pend.getLsbD 0 = true ∧ (c.pendCause 0 v).sw.pendVal[0] = v := by
  unfold Core.pendCause
  rw [if_pos (by exact on)]
  exact ⟨by simp, by simp⟩

/-- Where its own core runs its task, a copy that is complete raises its flags there, and "copy done" if it asks for it. -/
theorem State.finishCopy_own (listed : s.core.id < coreCount) (task : y.reader.task = true) (runs : s.core.runs y.reader.run = true) :
    s.finishCopy y = if y.desc.getLsbD 28 then
      { (s.dropCopy y.tag).raise y.flags with core := ((s.dropCopy y.tag).raise y.flags).core.pendCause 0 (BitVec.ofNat 64 y.tag) }
      else (s.dropCopy y.tag).raise y.flags := by
  have own : (s.dropCopy y.tag).raiseFor y.reader y.flags = (s.dropCopy y.tag).raise y.flags :=
    State.forReader_own (run := fun s => s.raise y.flags) task runs listed rfl
  have still : ((s.dropCopy y.tag).raise y.flags).core.runs y.reader.run = true := runs
  unfold State.finishCopy
  rw [own]
  dsimp only
  rw [if_pos task, still, Bool.and_true]

theorem State.finishCopy_task (listed : s.core.id < coreCount) (task : y.reader.task = true) (runs : s.core.runs y.reader.run = true) :
    (s.finishCopy y).core.sw.fstat = s.core.sw.fstat ||| y.flags ∧
      (y.desc.getLsbD 28 = true → s.core.sw.en.getLsbD 0 = true → (s.finishCopy y).core.sw.pend.getLsbD 0 = true ∧
        (s.finishCopy y).core.sw.pendVal[0] = BitVec.ofNat 64 y.tag) := by
  rw [State.finishCopy_own listed task runs]
  split
  · exact ⟨Core.pendCause_fstat _ _ _, fun _ on => Core.pendCause_enabled (c := ((s.dropCopy y.tag).raise y.flags).core) on _⟩
  next silent => exact ⟨rfl, fun asks => absurd asks silent⟩

/-! ### Words read and written -/

theorem State.drainBefore_none (pend : s.core.eng.pend = []) (loads : s.core.eng.loads = []) (no : Nat) : s.drainBefore no = s := by
  unfold State.drainBefore
  rw [State.drain_none (by simp [pend]), State.loadsDone, if_pos loads]

theorem State.beforeCopy_none (pend : s.core.eng.pend = []) (loads : s.core.eng.loads = []) (y : Copy) : s.beforeCopy y = s := by
  unfold State.beforeCopy
  split
  · split
    · rfl
    · exact State.drainBefore_none pend loads _
  · rfl

variable {bs : List Byte} {off : Nat}

/-- A copy whose core has nothing outstanding at its banks reads a word. -/
theorem exec_copyRead (runs : s.runs s.core.id = true) (found : s.core.eng.copies.find? (fun x => decide (x.tag = n)) = some y)
    (good : y.failed = false) (left : w ∈ y.todo) (pend : s.core.eng.pend = []) (loads : s.core.eng.loads = [])
    (read : s.engineRead y.reader (y.src + BitVec.ofNat 64 (4 * w)) y.readInst 4 = .bytes bs) (unread : y.got = []) :
    exec (.bankAccessPerformed s.core.id (.copyRead n w)) s =
      .next ((s.noteRead y.reader (y.src + BitVec.ofNat 64 (4 * w)) y.readInst).setCopy { y with got := [(w, bs)] }) := by
  refine State.engineStep_to runs ?_ (State.sameCores_noteRead _ _ _ _).id
  have step : s.copyRead y w = (s.noteRead y.reader (y.src + BitVec.ofNat 64 (4 * w)) y.readInst).setCopy { y with got := [(w, bs)] } := by
    unfold State.copyRead
    rw [State.beforeCopy_none pend loads, good, unread]
    dsimp only
    rw [read]
    rfl
  rw [← step]
  dsimp only
  rw [found]
  exact if_pos (List.contains_iff_mem.mpr left)

theorem reduceOp_zero (old new : Nat) : reduceOp 0 old new = (new, 0) := rfl

theorem State.sameDomain_self (s : State) (k : Nat) : s.sameDomain k k = true := decide_eq_true ⟨rfl, rfl⟩

/-- A plain copy writes a word to its own core's TCM, and sets it full. -/
theorem State.copyWrite_own (pend : s.core.eng.pend = []) (plain : y.op = 0) (own : y.desc.getLsbD 62 = false) (len : bs.length = 4)
    (path : pathOf y.frame.addr = some (.tcm, off)) : s.copyWrite y w bs =
      State.setCopy { s with core := (s.core.tcmWrite (atOffsets (off + 4 * w) bs)).tcmMark true [(off + 4 * w) / 4] } (y.wrote w 0) := by
  have target : y.target s.core.id = s.core.id := by rw [Copy.target, own]; rfl
  have dst : y.localDst = some (true, off) := by rw [Copy.localDst, path]
  have bytes : bytesOf 4 (natOf bs) = bs := len ▸ bytesOf_natOf bs
  have nothing (pick : PendStore → Bool) : s.drain pick = s := State.drain_none (by simp [pend])
  have wrote : s.copyLocal s.core.id true (atOffsets (off + 4 * w) bs) = { s with core := s.core.tcmWrite (atOffsets (off + 4 * w) bs) } := by
    unfold State.copyLocal
    rw [decide_eq_false (fun other => other rfl)]
    exact State.localWrite_own_tcm
  have marked := State.localMark_own_tcm (s := { s with core := s.core.tcmWrite (atOffsets (off + 4 * w) bs) }) (full := true)
    (ws := [(off + 4 * w) / 4])
  unfold State.copyWrite
  rw [dst, target, plain]
  dsimp only
  rw [nothing, reduceOp_zero, bytes, wrote]
  exact congrArg (fun u => State.setCopy u (y.wrote w 0)) marked

/-- A plain copy to its own core's TCM, of a core with nothing outstanding at its banks, writes a word that has been read, or reads
and writes it. -/
theorem exec_copyWord (runs : s.runs s.core.id = true)
    (found : s.core.eng.copies.find? (fun x => decide (x.tag = n)) = some y) (good : y.failed = false) (left : w ∈ y.todo)
    (plain : y.op = 0) (own : y.desc.getLsbD 62 = false) (pend : s.core.eng.pend = []) (loads : s.core.eng.loads = [])
    (len : bs.length = 4) (path : pathOf y.frame.addr = some (.tcm, off))
    (read : y.got = [(w, bs)] ∨ (y.got = [] ∧ s.engineRead y.reader (y.src + BitVec.ofNat 64 (4 * w)) y.readInst 4 = .bytes bs)) :
    ∃ u, s.SameCores u ∧ exec (.bankAccessPerformed s.core.id (.copyWord n w)) s = .next
      (State.setCopy { u with core := (s.core.tcmWrite (atOffsets (off + 4 * w) bs)).tcmMark true [(off + 4 * w) / 4] } (y.wrote w 0)) := by
  have target : y.target s.core.id = s.core.id := by rw [Copy.target, own]; rfl
  have step : ∃ u, s.SameCores u ∧ s.copyWord y w = u.copyWrite y w bs := by
    unfold State.copyWord
    rw [good, target]
    dsimp only
    rw [if_neg (by simp [State.sameDomain_self])]
    rcases read with got | ⟨unread, bytes⟩
    · exact ⟨s, .refl s, by rw [got]; simp⟩
    · refine ⟨_, s.sameCores_noteRead y.reader (y.src + BitVec.ofNat 64 (4 * w)) y.readInst, ?_⟩
      rw [unread, List.find?_nil]
      dsimp only
      rw [State.beforeCopy_none pend loads, bytes]
  obtain ⟨u, same, word⟩ := step
  refine ⟨u, same, State.engineStep_to runs ?_ rfl⟩
  have u_pend : u.core.eng.pend = [] := by rw [same.1, pend]
  have ends := word.trans (State.copyWrite_own u_pend plain own len path)
  rw [same.1] at ends
  rw [← ends]
  dsimp only
  rw [found]
  exact if_pos (List.contains_iff_mem.mpr left)

/-- A word written of a copy is left to be written no more. -/
theorem Copy.mem_wrote_todo {f : FpFlags} {i : Nat} : i ∈ (y.wrote w f).todo ↔ i ∈ y.todo ∧ i ≠ w := mem_eraseNat

/-- A copy replaced is among the core's copies, where there was one of its tag. -/
theorem State.mem_setCopy {z : Copy} (found : s.core.eng.copies.find? (fun x => decide (x.tag = n)) = some y) (tag : z.tag = n) :
    z ∈ (s.setCopy z).core.eng.copies :=
  List.mem_map.mpr ⟨y, List.mem_of_find?_eq_some found, if_pos ((copy_tag found).trans tag.symm)⟩

end Sys2Proof.Machine
end

section
/-! SUPPORT. Accesses that the banks of a core perform (R51, R80, R83, R142, R150). -/

namespace Sys2Proof.Machine

variable {s : State} {n w off : Nat} {p q : PendStore} {fe : Bool} {l : LateLoad} {r : RegNo} {z : Bool}

/-! ### A pending access -/

theorem PendStore.waitsFor_iff : p.waitsFor q = true ↔
    (p.setsFull = true ∧ q.no < p.no) ∨ (q.tcm = p.tcm ∧ ∃ w ∈ p.words, w ∈ q.words) := by
  simp only [PendStore.waitsFor, PendStore.touches, Bool.or_eq_true, Bool.and_eq_true, decide_eq_true_eq, beq_iff_eq, List.any_eq_true,
    List.contains_iff_mem, and_comm (a := _ ∈ q.words)]

theorem exec_store_waits (runs : s.runs s.core.id = true) (found : s.core.eng.pend[n]? = some p)
    (behind : ∃ q ∈ s.core.eng.pend.take n, p.waitsFor q = true) : exec (.bankAccessPerformed s.core.id (.store n)) s = .next s := by
  refine State.engineStep_to runs ?_ rfl
  dsimp only
  rw [found]
  exact if_pos (List.any_eq_true.mpr behind)

theorem exec_store_performed (runs : s.runs s.core.id = true) (found : s.core.eng.pend[n]? = some p)
    (first : ∀ q ∈ s.core.eng.pend.take n, p.waitsFor q = false) : exec (.bankAccessPerformed s.core.id (.store n)) s =
      .next ((s.onEng (fun e => { e with pend := dropAt e.pend n })).performStore (clusterOf s.core.id) p) := by
  refine State.engineStep_to runs ?_ (State.performed_performStore _ _ _).id
  dsimp only
  rw [found]
  exact if_neg (by simpa using first)

/-- The bank of a store on the scratchpad performs it. -/
theorem exec_store_spad (runs : s.runs s.core.id = true) (found : s.core.eng.pend[n]? = some p)
    (first : ∀ q ∈ s.core.eng.pend.take n, p.waitsFor q = false) (store : p.OfStore false fe) :
    let k := s.core.id
    let e := s.core.eng
    ∃ t : State, exec (.bankAccessPerformed k (.store n)) s = .next t ∧
      t.core = { s.core with eng := { e with pend := dropAt e.pend n, loads := t.core.eng.loads } } ∧ (e.loads = [] → t.core.eng.loads = []) ∧
      t.spad (clusterOf k) = (s.spad (clusterOf k)).writeAll p.bytes ∧ (∀ c, c ≠ clusterOf k → t.spad c = s.spad c) ∧
      (∀ w, w ∈ t.spadEmptyOf (clusterOf k) ↔ w ∈ s.spadEmptyOf (clusterOf k) ∧ ¬(fe = true ∧ w = p.off / 4)) := by
  intro k e
  let u := s.onEng (fun e => { e with pend := dropAt e.pend n })
  obtain ⟨ls, empty, done⟩ := State.performStore_ofSpad store u (clusterOf k)
  refine ⟨_, exec_store_performed runs found first, ?_, fun none => ?_, ?_, fun c other => ?_, fun w => ?_⟩
  · rw [done]
    cases fe <;> rfl
  · rw [done]
    cases fe <;> exact empty none
  · rw [State.performStore_spad_bytes store, if_pos rfl]
    rfl
  · rw [State.performStore_spad_bytes store, if_neg other]
    rfl
  · exact State.performStore_spad_words store u (clusterOf k) w

/-- A store on TCM is performed. -/
theorem exec_store_tcm (runs : s.runs s.core.id = true) (found : s.core.eng.pend[n]? = some p)
    (first : ∀ q ∈ s.core.eng.pend.take n, p.waitsFor q = false) (store : p.OfStore true fe) :
    ∃ t : State, exec (.bankAccessPerformed s.core.id (.store n)) s = .next t ∧ t.dev = s.dev ∧ t.core.r = s.core.r ∧
      t.core.eng.pend = dropAt s.core.eng.pend n ∧ t.core.mem.tcm = s.core.mem.tcm.writeAll p.bytes ∧ t.core.mem.im = s.core.mem.im ∧
      (∀ w, w ∈ t.core.mem.tcmEmpty ↔ w ∈ s.core.mem.tcmEmpty ∧ ¬(fe = true ∧ w = p.off / 4)) := by
  obtain ⟨ls, done⟩ := State.performStore_ofTcm store (s.onEng (fun e => { e with pend := dropAt e.pend n })) (clusterOf s.core.id)
  refine ⟨_, exec_store_performed runs found first, ?_⟩
  rw [done]
  cases fe
  · exact ⟨rfl, rfl, rfl, rfl, rfl, fun w => by simp [Core.tcmWrite, State.onEng]⟩
  · refine ⟨rfl, rfl, rfl, rfl, rfl, fun w => ?_⟩
    refine Core.mem_tcmMark_full.trans ?_
    simp [Core.tcmWrite, State.onEng]

/-- An atomic of the scratchpad is performed: the word takes the result, the register the old value, `fstat` the flags. -/
theorem exec_store_atomic (runs : s.runs s.core.id = true) (found : s.core.eng.pend[n]? = some p)
    (first : ∀ q ∈ s.core.eng.pend.take n, p.waitsFor q = false) {a : PendAtomic} (atomic : p.atomic = some a)
    (used : s.core.inUse a.hand a.dst = true) :
    let k := s.core.id
    let size := if a.op.wide then 8 else 4
    let old := (s.spad (clusterOf k)).readN p.off size
    let new := atomicOp (8 * size) a.op (natOf old)
    ∃ t : State, exec (.bankAccessPerformed k (.store n)) s = .next t ∧
      t.spad (clusterOf k) = (s.spad (clusterOf k)).writeAll (atOffsets p.off (bytesOf size new.1)) ∧
      (a.dst ≠ 0 → t.g a.dst = (BitVec.ofNat (8 * size) (natOf old)).signExtend 64 + a.stride) ∧ (∀ y, y ≠ a.dst → t.g y = s.g y) ∧
      t.core.sw.fstat = s.core.sw.fstat ||| new.2 ∧ t.core.eng.pend = dropAt s.core.eng.pend n ∧ t.core.mem = s.core.mem := by
  intro k size old new
  obtain ⟨ls, done⟩ := State.performStore_atomic (s.onEng (fun e => { e with pend := dropAt e.pend n })) (clusterOf s.core.id) atomic
  let u := (s.onEng (fun e => { e with pend := dropAt e.pend n })).onEng (fun e => { e with loads := ls })
  have value : amoValue a.op.wide old = (BitVec.ofNat (8 * size) (natOf old)).signExtend 64 := extend_signed size (natOf old)
  have takes : u.performAtomic (clusterOf k) p.off a = ((u.spadWrite (clusterOf k) (atOffsets p.off (bytesOf size new.1))).setG a.dst
      ((BitVec.ofNat (8 * size) (natOf old)).signExtend 64 + a.stride)).raise new.2 := by
    rw [← value]
    exact congrArg (fun v => State.raise v new.2)
      (State.writeScalar_inUse (s := u.spadWrite (clusterOf k) (atOffsets p.off (bytesOf size new.1))) used _)
  refine ⟨_, exec_store_performed runs found first, ?_⟩
  rw [done, takes]
  refine ⟨?_, fun some => ?_, fun y other => ?_, ?_, ?_, ?_⟩
  · exact State.spad_spadWrite.trans (if_pos rfl)
  · exact State.g_setG_same _ _ some
  · exact State.g_setG_other _ _ other
  · exact congrArg (fun c : StatusWords => c.fstat ||| new.2) (State.setG_sw _ _ _)
  · exact congrArg Engines.pend (State.setG_eng _ _ _)
  · exact State.setG_mem _ _ _

/-! ### A word of a late load -/

/-- The late loads of a core once a word of one of them has been performed. -/
def lateAfter (loads : List LateLoad) (n : Nat) (l : LateLoad) (w : Nat) : List LateLoad :=
  (setAt loads n { l with todo := l.todo.filter (fun x => decide (x ≠ w)) }).filter (fun l => !l.todo.isEmpty)

theorem exec_load_done (runs : s.runs s.core.id = true) (found : s.core.eng.loads[n]? = some l) (done : w ∉ l.todo) :
    exec (.bankAccessPerformed s.core.id (.load n w)) s = .next s := by
  refine State.engineStep_to runs ?_ rfl
  dsimp only
  unfold State.performLoad
  rw [found]
  exact if_neg (by simpa using done)

theorem exec_load_word (runs : s.runs s.core.id = true) (found : s.core.eng.loads[n]? = some l) (left : w ∈ l.todo) :
    exec (.bankAccessPerformed s.core.id (.load n w)) s =
      .next ((s.onEng (fun e => { e with loads := lateAfter s.core.eng.loads n l w })).takeWord l w) := by
  refine State.engineStep_to runs ?_ (State.performed_takeWord _ _ _).id
  dsimp only
  unfold State.performLoad
  rw [found]
  exact if_pos (List.contains_iff_mem.mpr left)

/-- A word of a value with a half of it replaced: that half is the bytes, the other as it was. -/
theorem withBytes_half (old : Word) {bs : List Byte} (len : bs.length = 4) {j : Nat} (half : j < 2) :
    (withBytes old (4 * j) bs).extractLsb' (32 * j) 32 = BitVec.ofNat 32 (natOf bs) ∧
      (withBytes old (4 * j) bs).extractLsb' (32 * (1 - j)) 32 = old.extractLsb' (32 * (1 - j)) 32 := by
  have lt := natOf_lt bs
  rw [len] at lt
  obtain rfl | rfl : j = 0 ∨ j = 1 := by omega
  · rw [withBytes_low old len]
    constructor <;> apply BitVec.eq_of_toNat_eq <;>
      simp only [BitVec.extractLsb'_toNat, BitVec.toNat_ofNat, Nat.shiftRight_eq_div_pow] <;> omega
  · rw [withBytes_high old len]
    constructor <;> apply BitVec.eq_of_toNat_eq <;>
      simp only [BitVec.extractLsb'_toNat, BitVec.toNat_ofNat, Nat.shiftRight_eq_div_pow] <;> omega

/-- A load of a scalar register that lies in one word is performed with it. -/
theorem exec_load_whole (runs : s.runs s.core.id = true) (found : s.core.eng.loads[n]? = some l) (left : off / 4 ∈ l.todo)
    (dst : l.dst = .g r z) (path : pathOf l.addr = some (.spad, off)) (some_byte : 0 < l.width) (within : off % 4 + l.width ≤ 4) :
    exec (.bankAccessPerformed s.core.id (.load n (off / 4))) s =
      .next ((s.onEng (fun e => { e with loads := lateAfter s.core.eng.loads n l (off / 4) })).writeScalar l.hand r
        (scalarValue l.width z ((s.spad (clusterOf s.core.id)).readN off l.width))) := by
  rw [exec_load_word runs found left, State.takeWord_whole dst path some_byte within]
  rfl

/-- Each of the two words of a load of eight bytes gives its half of the register. -/
theorem exec_load_half (runs : s.runs s.core.id = true) (found : s.core.eng.loads[n]? = some l) {j : Nat} (half : j < 2)
    (left : off / 4 + j ∈ l.todo) (dst : l.dst = .g r z) (path : pathOf l.addr = some (.spad, off)) (wide : l.width = 8)
    (aligned : off % 4 = 0) (used : s.core.inUse l.hand r = true) :
    exec (.bankAccessPerformed s.core.id (.load n (off / 4 + j))) s =
      .next ((s.onEng (fun e => { e with loads := lateAfter s.core.eng.loads n l (off / 4 + j) })).setG r
        (withBytes (s.g r) (4 * j) ((s.spad (clusterOf s.core.id)).readN (off + 4 * j) 4))) := by
  rw [exec_load_word runs found left, State.takeWord_half (s := s.onEng _) dst path wide aligned half used]
  rfl

/-! ### Ports and flags (R59, R98, R166, R193) -/

variable {t : Stream} {i : Fin 4}

theorem vbytes_get (v : VReg) {b : Nat} (h : b < (vbytes v).length) : (vbytes v)[b] = lane 8 v b := by simp [vbytes, lanesOf]

theorem Core.tcmWrite_tcm (c : Core) (bs : List (Nat × Byte)) : (c.tcmWrite bs).mem.tcm = c.mem.tcm.writeAll bs := rfl

theorem Core.tcmMark_tcm (c : Core) (full : Bool) (ws : List Nat) : (c.tcmMark full ws).mem.tcm = c.mem.tcm := rfl

/-- A write port has given up its oldest append. -/
def State.appendTaken (s : State) (i : Fin 4) (t : Stream) (rest : List (Nat × VReg)) : State :=
  { s with core := s.core.setStream i (some { t with appends := rest }) }

/-- Sixteen bytes are written to the acting core's TCM, and their words set full. -/
def State.unitWritten (s : State) (off : Nat) (u : VReg) : State :=
  { s with core := (s.core.tcmWrite (atOffsets off (vbytes u))).tcmMark true (wordsTouched off 16) }

theorem State.unitWritten_tcm (s : State) (off : Nat) (u : VReg) :
    (s.unitWritten off u).core.mem.tcm = s.core.mem.tcm.writeAll (atOffsets off (vbytes u)) :=
  (Core.tcmMark_tcm _ _ _).trans (Core.tcmWrite_tcm _ _)

/-- The oldest append of a write port on TCM is performed. -/
theorem State.performAppend_tcm (bound : s.core.eng.streams[i] = some t) {j : Nat} {u : VReg} {rest : List (Nat × VReg)}
    (appends : t.appends = (j, u) :: rest) (path : pathOf (t.unit j) = some (.tcm, off)) :
    s.performAppend i = (s.appendTaken i t rest).unitWritten off u := by
  unfold State.performAppend
  rw [bound]
  dsimp only
  rw [appends]
  dsimp only
  rw [path]
  have written := State.localWrite_own_tcm (s := s.appendTaken i t rest) (bs := atOffsets off (vbytes u))
  have marked := State.localMark_own_tcm (full := true) (ws := wordsTouched off 16)
    (s := { s.appendTaken i t rest with core := (s.appendTaken i t rest).core.tcmWrite (atOffsets off (vbytes u)) })
  exact (congrArg (fun x => State.localMark x s.core.id true true (wordsTouched off 16)) written).trans marked

/-- Its sixteen bytes are then there, and nothing else of TCM has changed. -/
theorem exec_append (h : s.Sound) (runs : s.runs s.core.id = true) (bound : s.core.eng.streams[i] = some t) {j : Nat} {u : VReg}
    {rest : List (Nat × VReg)} (appends : t.appends = (j, u) :: rest) (path : pathOf (t.unit j) = some (.tcm, off)) : ∃ z : State,
    exec (.bankAccessPerformed s.core.id (.append i.val)) s = .next z ∧ z.core.eng.streams[i] = some { t with appends := rest } ∧
      (∀ b < 16, z.core.mem.tcm.read (off + b) = lane 8 u b) ∧
      (∀ a, a < off ∨ off + 16 ≤ a → z.core.mem.tcm.read a = s.core.mem.tcm.read a) := by
  obtain ⟨there, elsewhere⟩ := Memory.written_atOffsets h.acting.2 off (vbytes u)
  have id : ((s.appendTaken i t rest).unitWritten off u).core.id = s.core.id := rfl
  have streams : ((s.appendTaken i t rest).unitWritten off u).core.eng.streams[i] = some { t with appends := rest } :=
    Vector.getElem_set_self i.isLt
  have ran : exec (.bankAccessPerformed s.core.id (.append i.val)) s = .next ((s.appendTaken i t rest).unitWritten off u) := by
    refine State.engineStep_to runs ?_ id
    exact (dif_pos i.isLt).trans (State.performAppend_tcm bound appends path)
  refine ⟨_, ran, streams, fun b lt => ?_, fun a apart => ?_⟩
  · rw [State.unitWritten_tcm]
    exact (there b (by rwa [vbytes_length])).trans (vbytes_get u _)
  · rw [State.unitWritten_tcm]
    exact elsewhere a (by rwa [vbytes_length])

/-- A unit arrives at a read port as of the instant of its arrival. -/
theorem exec_streamDataArrival (runs : s.runs s.core.id = true) (bound : s.core.eng.streams[i] = some t) (read : i.val < 2)
    (more : t.fetched < t.count) (room : t.fifo.length < t.depth)
    (check : accessTrap s.core .load (t.unit t.fetched) 16 false false = none) {bs : List Byte}
    (bytes : s.engineRead t.reader (t.unit t.fetched) (s.loadInstant 0) 16 = .bytes bs) :
    exec (.streamDataArrival s.core.id i.val) s = .next (State.noteRead { s with core := s.core.setStream i (some { t with
      fetched := t.fetched + 1, fifo := t.fifo ++ [(vecOf bs, none)] }) } t.reader (t.unit t.fetched) (s.loadInstant 0)) := by
  refine State.engineStep_to runs ?_ (State.sameCores_noteRead _ _ _ _).id
  rw [dif_pos i.isLt]
  unfold State.fetchUnit
  rw [bound]
  dsimp only
  rw [if_neg (by omega), check, bytes]
  rfl

theorem exec_matrixInstructionDone_idle (runs : s.runs s.core.id = true) (none : s.core.mat.flags = []) :
    exec (.matrixInstructionDone s.core.id) s = .next s := by
  refine State.engineStep_to runs ?_ rfl
  rw [none]

theorem exec_matrixInstructionDone_flags (runs : s.runs s.core.id = true) {f : FpFlags} {fs : List FpFlags}
    (oldest : s.core.mat.flags = f :: fs) :
    exec (.matrixInstructionDone s.core.id) s = .next ((s.onMat (fun m => { m with flags := fs })).raise f) := by
  refine State.engineStep_to runs ?_ rfl
  rw [oldest]

end Sys2Proof.Machine
end

section
/-! SUPPORT. Code and tables as they land (R168 to R170). -/

namespace Sys2Proof.Machine

variable {s : State} {n : Nat} {r : CodeReq}

/-! ### Pieces read one after another -/

theorem gather_fault {xs : List Got} (fault : ∃ c, Got.fault c ∈ xs) : ∃ c, gather xs = .fault c := by
  obtain ⟨c, listed⟩ := fault
  induction xs with
  | nil => cases listed
  | cons x xs ih =>
    unfold gather
    rcases List.mem_cons.mp listed with rfl | later
    · exact ⟨c, rfl⟩
    · obtain ⟨d, rest⟩ := ih later
      rw [rest]
      cases x with
      | fault e => exact ⟨e, rfl⟩
      | wait => exact ⟨d, rfl⟩
      | bytes bs => exact ⟨d, rfl⟩

theorem gather_ne_fault {xs : List Got} (sound : ∀ x ∈ xs, ∀ c, x ≠ .fault c) (c : BitVec 8) : gather xs ≠ .fault c := by
  induction xs with
  | nil => simp [gather]
  | cons x xs ih =>
    have first := sound x List.mem_cons_self
    have rest := ih fun y later => sound y (List.mem_cons_of_mem x later)
    unfold gather
    generalize gather xs = g at rest
    cases x <;> cases g <;> simp_all

theorem gather_wait {xs : List Got} (sound : ∀ x ∈ xs, ∀ c, x ≠ .fault c) (wait : .wait ∈ xs) : gather xs = .wait := by
  induction xs with
  | nil => cases wait
  | cons x xs ih =>
    have first := sound x List.mem_cons_self
    have later_sound : ∀ y ∈ xs, ∀ c, y ≠ .fault c := fun y later => sound y (List.mem_cons_of_mem x later)
    unfold gather
    rcases List.mem_cons.mp wait with rfl | later
    · have rest := gather_ne_fault later_sound
      generalize gather xs = g at rest
      cases g <;> simp_all
    · rw [ih later_sound later]
      cases x <;> simp_all

theorem gather_bytes (ls : List (List Byte)) : gather (ls.map .bytes) = .bytes ls.flatten := by
  induction ls with
  | nil => rfl
  | cons l ls ih =>
    rw [List.map_cons]
    unfold gather
    rw [ih]
    rfl

theorem length_flatten_pieces {f : Nat → List Byte} {w m : Nat} (len : ∀ i < m, (f i).length = w) :
    ((List.range m).map f).flatten.length = w * m := by
  induction m with
  | zero => rfl
  | succ m ih =>
    rw [List.range_succ, List.map_append, List.flatten_append, List.length_append, ih fun i lt => len i (Nat.lt_succ_of_lt lt)]
    simp [len m (Nat.lt_succ_self m), Nat.mul_succ]

/-- A byte of pieces of one length, by its piece and its place there. -/
theorem getElem?_flatten_pieces {f : Nat → List Byte} {w m : Nat} (len : ∀ i < m, (f i).length = w) {i j : Nat} (piece : i < m)
    (place : j < w) : ((List.range m).map f).flatten[w * i + j]? = (f i)[j]? := by
  induction m with
  | zero => omega
  | succ m ih =>
    have before : ∀ i < m, (f i).length = w := fun i lt => len i (Nat.lt_succ_of_lt lt)
    have size := length_flatten_pieces before
    rw [List.range_succ, List.map_append, List.flatten_append, List.map_singleton, List.flatten_singleton]
    rcases Nat.lt_succ_iff_lt_or_eq.mp piece with earlier | rfl
    · have inside : w * i + j < w * m := calc
        w * i + j < w * i + w := by omega
        _ = w * (i + 1) := rfl
        _ ≤ w * m := Nat.mul_le_mul_left w earlier
      rw [List.getElem?_append_left (by rw [size]; exact inside), ih before earlier]
    · rw [List.getElem?_append_right (by rw [size]; omega), size, Nat.add_sub_cancel_left]

/-! ### Frames -/

theorem CoreMem.frame_setFrame {m : CoreMem} (frame : n < 16) (v : Frame) : (m.setFrame n v).frame n = v := by
  unfold CoreMem.setFrame CoreMem.frame
  rw [dif_pos frame]
  simp [List.getD, frame]

/-! ### Code -/

/-- What a clause of a code request reads. -/
def State.clauseRead (s : State) (r : CodeReq) (i : Nat) : Got := s.engineReadN r.reader (r.addr + BitVec.ofNat 64 (8 * i)) r.inst 8

/-- What completing a code request goes by: each clause as it landed, or else as it is read. -/
theorem State.clausesOf_eq (s : State) (n : Nat) (r : CodeReq) : s.clausesOf n r = gather ((List.range 512).map (fun i =>
    if i ∈ r.landed then .bytes (s.core.mem.im.readN (n * 4096 + 8 * i) 8) else s.clauseRead r i)) := by
  unfold State.clausesOf State.clauseRead
  simp only [List.contains_iff_mem]

theorem State.clausesOf_wait (sound : ∀ i < 512, i ∈ r.landed ∨ ∀ c, s.clauseRead r i ≠ .fault c)
    (wait : ∃ i < 512, i ∉ r.landed ∧ s.clauseRead r i = .wait) : s.clausesOf n r = .wait := by
  rw [State.clausesOf_eq]
  refine gather_wait (fun x listed c => ?_) ?_
  · obtain ⟨i, lt, rfl⟩ := List.mem_map.mp listed
    split
    · simp
    next open_ => exact (sound i (List.mem_range.mp lt)).resolve_left open_ c
  · obtain ⟨i, lt, open_, waits⟩ := wait
    exact List.mem_map.mpr ⟨i, List.mem_range.mpr lt, by rw [if_neg open_, waits]⟩

theorem State.clausesOf_fault (fault : ∃ i < 512, i ∉ r.landed ∧ ∃ c, s.clauseRead r i = .fault c) :
    ∃ c, s.clausesOf n r = .fault c := by
  rw [State.clausesOf_eq]
  obtain ⟨i, lt, open_, c, read⟩ := fault
  exact gather_fault ⟨c, List.mem_map.mpr ⟨i, List.mem_range.mpr lt, by rw [if_neg open_, read]⟩⟩

/-- The bytes of a frame's clauses as a code request completes. -/
def State.clauseBytes (s : State) (n : Nat) (r : CodeReq) (bs : Nat → List Byte) (i : Nat) : List Byte :=
  if i ∈ r.landed then s.core.mem.im.readN (n * 4096 + 8 * i) 8 else bs i

theorem State.clausesOf_bytes {bs : Nat → List Byte} (read : ∀ i < 512, i ∉ r.landed → s.clauseRead r i = .bytes (bs i)) :
    s.clausesOf n r = .bytes ((List.range 512).map (s.clauseBytes n r bs)).flatten := by
  have each : ∀ i ∈ List.range 512, (if i ∈ r.landed then .bytes (s.core.mem.im.readN (n * 4096 + 8 * i) 8) else s.clauseRead r i) =
      Got.bytes (s.clauseBytes n r bs i) := fun i lt => by
    unfold State.clauseBytes
    split
    · rfl
    next open_ => exact read i (List.mem_range.mp lt) open_
  rw [State.clausesOf_eq, List.map_congr_left each, ← gather_bytes, List.map_map]
  rfl

theorem exec_codeFetch (runs : s.runs s.core.id = true) (free : s.queued (.fetch s.core.id n) = false) :
    exec (.codeFetchComplete s.core.id n none) s = .next (s.completeFetch n) := by
  refine State.engineStep_to runs ?_ (s.completeFetch_id n)
  exact if_neg (by simp [free])

theorem exec_codeClause (runs : s.runs s.core.id = true) (free : s.queued (.fetch s.core.id n) = false) (c : Nat) :
    exec (.codeFetchComplete s.core.id n (some c)) s = .next (s.landClause n c) := by
  refine State.engineStep_to runs ?_ (s.landClause_id n c)
  exact if_neg (by simp [free])

theorem State.completeFetch_wait (frame : s.core.mem.frame n = .landing r) (own : r.seg = none) (wait : s.clausesOf n r = .wait) :
    s.completeFetch n = s := by
  unfold State.completeFetch
  rw [frame]
  dsimp only
  rw [own, wait]

theorem State.completeFetch_fault (frame : s.core.mem.frame n = .landing r) (own : r.seg = none) {c : BitVec 8}
    (fault : s.clausesOf n r = .fault c) : s.completeFetch n = s.onMem (fun m => m.setFrame n .failed) := by
  unfold State.completeFetch
  rw [frame]
  dsimp only
  rw [own, fault]

theorem State.completeFetch_bytes (frame : s.core.mem.frame n = .landing r) (own : r.seg = none) {bs : List Byte}
    (bytes : s.clausesOf n r = .bytes bs) :
    s.completeFetch n = State.noteReadN { s with core := s.core.fillFrame n none bs } r.reader r.addr r.inst 4096 := by
  unfold State.completeFetch
  rw [frame]
  dsimp only
  rw [own, bytes]

/-- A frame filled with a page of its bytes. -/
theorem Core.fillFrame_mem (c : Core) (seg : Option Nat) {page : List Byte} (whole : page.length = 4096) :
    (c.fillFrame n seg page).mem = { c.mem with im := c.mem.im.writeN (n * 4096) page }.setFrame n (.resident seg) := by
  unfold Core.fillFrame
  rw [whole, Nat.sub_self, List.replicate_zero, List.append_nil]

theorem Core.fillFrame_r (c : Core) (seg : Option Nat) (page : List Byte) : (c.fillFrame n seg page).r = c.r := rfl

theorem CoreMem.setFrame_im (m : CoreMem) (n : Nat) (v : Frame) : (m.setFrame n v).im = m.im := by
  unfold CoreMem.setFrame
  split <;> rfl

theorem CoreMem.setFrame_tcm (m : CoreMem) (n : Nat) (v : Frame) : (m.setFrame n v).tcm = m.tcm := by
  unfold CoreMem.setFrame
  split <;> rfl

/-- Once each of its clauses has landed or can be read, a request of code is complete: the clauses read are in the frame, with those
that had landed, and the frame is resident. -/
theorem exec_codeFetch_bytes (h : s.Sound) (runs : s.runs s.core.id = true) (small : n < 16) (frame : s.core.mem.frame n = .landing r)
    (own : r.seg = none) (free : s.queued (.fetch s.core.id n) = false) {bs : Nat → List Byte}
    (read : ∀ i < 512, i ∉ r.landed → s.clauseRead r i = .bytes (bs i) ∧ (bs i).length = 8) : ∃ t : State,
    exec (.codeFetchComplete s.core.id n none) s = .next t ∧
      (∀ i < 512, ∀ j (h : j < (bs i).length), i ∉ r.landed → t.core.mem.im.read (4096 * n + 8 * i + j) = (bs i)[j]) ∧
      (∀ i < 512, ∀ j < 8, i ∈ r.landed → t.core.mem.im.read (4096 * n + 8 * i + j) = s.core.mem.im.read (4096 * n + 8 * i + j)) ∧
      (∀ a, a < 4096 * n ∨ 4096 * (n + 1) ≤ a → t.core.mem.im.read a = s.core.mem.im.read a) ∧
      t.core.mem.frame n = .resident none ∧ t.core.mem.tcm = s.core.mem.tcm ∧ t.core.r = s.core.r := by
  have pieces : ∀ i < 512, (s.clauseBytes n r bs i).length = 8 := fun i lt => by
    unfold State.clauseBytes
    split
    · exact Memory.readN_length _ _ _
    next open_ => exact (read i lt open_).2
  have bytes := State.clausesOf_bytes (n := n) fun i lt open_ => (read i lt open_).1
  have whole := length_flatten_pieces pieces
  generalize page_eq : ((List.range 512).map (s.clauseBytes n r bs)).flatten = page at bytes whole
  have core := (State.sameCores_noteReadN { s with core := s.core.fillFrame n none page } r.reader r.addr r.inst 4096).1
  have mem := congrArg Core.mem core
  rw [Core.fillFrame_mem s.core none whole] at mem
  have im := congrArg CoreMem.im mem
  rw [CoreMem.setFrame_im] at im
  have at_byte (i : Nat) (lt : i < 512) (j : Nat) (place : j < 8) :
      (s.core.mem.im.writeN (n * 4096) page).read (4096 * n + 8 * i + j) = (s.clauseBytes n r bs i)[j]'(by rw [pieces i lt]; exact place) := by
    have lt_page : 8 * i + j < page.length := by omega
    have at_page : page[8 * i + j]? = (s.clauseBytes n r bs i)[j]? := page_eq ▸ getElem?_flatten_pieces pieces lt place
    rw [List.getElem?_eq_getElem lt_page, List.getElem?_eq_getElem (by rw [pieces i lt]; exact place), Option.some.injEq] at at_page
    rw [show 4096 * n + 8 * i + j = n * 4096 + (8 * i + j) by omega, Memory.read_writeN_in _ _ _ h.acting.1 lt_page, at_page]
  refine ⟨_, (exec_codeFetch runs free).trans (congrArg _ (State.completeFetch_bytes frame own bytes)), fun i lt j inside open_ => ?_,
    fun i lt j place landed => ?_, fun a outside => ?_, ?_, ?_, ?_⟩
  · have place : j < 8 := (read i lt open_).2 ▸ inside
    rw [im, at_byte i lt j place]
    simp only [State.clauseBytes, if_neg open_]
  · rw [im, at_byte i lt j place]
    simp only [State.clauseBytes, if_pos landed]
    rw [Memory.readN_get _ _ _ _ place, show n * 4096 + 8 * i + j = 4096 * n + 8 * i + j by omega]
  · rw [im, Memory.read_writeN_out _ _ _ h.acting.1 (by omega)]
  · rw [mem, CoreMem.frame_setFrame small]
  · rw [mem, CoreMem.setFrame_tcm]
  · rw [core, Core.fillFrame_r]

/-- A clause of a code request is written to its frame, and noted as landed. -/
def State.clauseLanded (s : State) (n : Nat) (r : CodeReq) (i : Nat) (bs : List Byte) : State :=
  s.onMem (fun m => { m with im := m.im.writeN (n * 4096 + 8 * i) bs }.setFrame n (.landing { r with landed := r.landed ++ [i] }))

/-- A clause of a code request lands by itself. -/
theorem exec_codeClause_lands (h : s.Sound) (runs : s.runs s.core.id = true) (small : n < 16) (frame : s.core.mem.frame n = .landing r)
    (own : r.seg = none) (free : s.queued (.fetch s.core.id n) = false) {i : Nat} (lt : i < 512) (going : s.gateShut s.core.id = false)
    (open_ : i ∉ r.landed) {bs : List Byte} (read : s.clauseRead r i = .bytes bs) : ∃ t : State,
    exec (.codeFetchComplete s.core.id n (some i)) s = .next t ∧ s.core.mem.im.Written t.core.mem.im (4096 * n + 8 * i) bs ∧
      t.core.mem.frame n = .landing { r with landed := r.landed ++ [i] } ∧ t.core.mem.tcm = s.core.mem.tcm ∧ t.core.r = s.core.r := by
  have step : s.landClause n i = (s.clauseLanded n r i bs).noteReadN r.reader (r.addr + BitVec.ofNat 64 (8 * i)) r.inst 8 := by
    unfold State.landClause
    rw [frame]
    dsimp only
    rw [if_neg (by rw [going]; simp; omega), if_neg (by simpa using open_)]
    rw [show s.engineReadN r.reader (r.addr + BitVec.ofNat 64 (8 * i)) r.inst 8 = .bytes bs from read]
    obtain ⟨addr, inst, reader, seg, landed⟩ := r
    cases own
    rfl
  have core := (State.sameCores_noteReadN (s.clauseLanded n r i bs) r.reader (r.addr + BitVec.ofNat 64 (8 * i)) r.inst 8).1
  have mem : (s.landClause n i).core.mem = { s.core.mem with im := s.core.mem.im.writeN (n * 4096 + 8 * i) bs }.setFrame n
      (.landing { r with landed := r.landed ++ [i] }) := by
    rw [step, core]
    rfl
  have place : 4096 * n + 8 * i = n * 4096 + 8 * i := by omega
  refine ⟨_, exec_codeClause runs free i, ?_, ?_, ?_, ?_⟩
  · rw [mem, CoreMem.setFrame_im, place]
    exact ⟨fun k lt => Memory.read_writeN_in _ _ _ h.acting.1 lt, fun a outside => Memory.read_writeN_out _ _ _ h.acting.1 outside⟩
  · rw [mem, CoreMem.frame_setFrame small]
  · rw [mem, CoreMem.setFrame_tcm]
  · rw [step, core]
    rfl

theorem exec_codeClause_landed (runs : s.runs s.core.id = true) (frame : s.core.mem.frame n = .landing r)
    (free : s.queued (.fetch s.core.id n) = false) {i : Nat} (landed : i ∈ r.landed) :
    exec (.codeFetchComplete s.core.id n (some i)) s = .next s := by
  rw [exec_codeClause runs free i]
  unfold State.landClause
  rw [frame]
  dsimp only
  split
  · rfl
  · rw [if_pos (List.contains_iff_mem.mpr landed)]

/-! ### Tables -/

/-- What a table holds at a place, of the values that are not zero. -/
theorem aget_nonzero (v : Nat → BitVec 32) {l : List Nat} (sorted : l.Pairwise (· < ·)) (i : Nat) :
    (aget ((l.map (fun i => (i, v i))).filter (fun e => decide (e.2 ≠ 0))) i).getD 0 = if i ∈ l then v i else 0 := by
  induction l with
  | nil => rfl
  | cons k l ih =>
    obtain ⟨above, rest⟩ := List.pairwise_cons.mp sorted
    have tail := ih rest
    rw [List.map_cons]
    by_cases zero : v k = 0
    · rw [List.filter_cons_of_neg (by simp [zero]), tail]
      by_cases here : i = k
      · have apart : i ∉ l := fun later => Nat.lt_irrefl k (here ▸ above i later)
        rw [if_neg apart, if_pos (here ▸ List.mem_cons_self), here, zero]
      · simp [here]
    · rw [List.filter_cons_of_pos (by simpa using zero), aget]
      by_cases here : i = k
      · simp [here]
      · rw [if_neg here]
        split
        next below =>
          have apart : i ∉ l := fun later => Nat.lt_asymm below (above i later)
          simp [here, apart]
        · rw [tail]
          simp [here]

theorem DecTab.ofBytes_entry (nan : Option Byte) (bs : List Byte) {i : Nat} (lt : i < 256) :
    (aget (DecTab.ofBytes nan bs).entries i).getD 0 = BitVec.ofNat 32 (natOf ((bs.drop (4 * i)).take 4)) := by
  refine (aget_nonzero (fun i => BitVec.ofNat 32 (natOf ((bs.drop (4 * i)).take 4))) List.pairwise_lt_range i).trans ?_
  rw [if_pos (List.mem_range.mpr lt)]

variable {l : TabLoad} {rest : List TabLoad} {bs : List Byte}

theorem exec_dtldComplete (runs : s.runs s.core.id = true) (oldest : s.core.eng.dtLoads = l :: rest) (data : l.data = some bs) :
    exec (.dtldComplete s.core.id) s = .next (s.onEng (fun e => { e with
      dtLoads := rest
      tabs := e.tabs.set (l.table % 4) (DecTab.ofBytes l.nan bs) (Nat.mod_lt _ (by decide)) })) := by
  refine State.engineStep_to runs ?_ rfl
  unfold State.completeDtld State.tableBytes State.noteTable
  rw [oldest]
  dsimp only
  rw [data]
  rfl

theorem exec_segldComplete (runs : s.runs s.core.id = true) (oldest : s.core.eng.segLoads = l :: rest) (data : l.data = some bs) :
    exec (.segldComplete s.core.id) s = .next (s.onEng (fun e => { e with
      segLoads := rest
      segs := e.segs.set (l.table % 4) (Memory.writeN [] 0 bs) (Nat.mod_lt _ (by decide)) })) := by
  refine State.engineStep_to runs ?_ rfl
  unfold State.completeSegld State.tableBytes State.noteTable
  rw [oldest]
  dsimp only
  rw [data]
  rfl

theorem exec_dtldComplete_idle (runs : s.runs s.core.id = true) (none : s.core.eng.dtLoads = []) :
    exec (.dtldComplete s.core.id) s = .next s := by
  refine State.engineStep_to runs ?_ rfl
  unfold State.completeDtld
  rw [none]

theorem exec_segldComplete_idle (runs : s.runs s.core.id = true) (none : s.core.eng.segLoads = []) :
    exec (.segldComplete s.core.id) s = .next s := by
  refine State.engineStep_to runs ?_ rfl
  unfold State.completeSegld
  rw [none]

end Sys2Proof.Machine
end

section
/-! SUPPORT. The rows of an `mload` as they land in their slot (R195, R196). -/

namespace Sys2Proof.Machine

variable {s : State} {l : MLoad} {t : Slot} {i : Fin 16}

/-! ### Bits of a number -/

/-- A field that lies below a power of two is that of the remainder. -/
theorem field_mod {P x y k : Nat} (room : x + y ≤ k) : P % 2 ^ k / 2 ^ x % 2 ^ y = P / 2 ^ x % 2 ^ y := by
  obtain ⟨d, rfl⟩ := Nat.exists_eq_add_of_le room
  rw [Nat.add_assoc, Nat.pow_add, Nat.mod_mul_right_div_self, Nat.pow_add, Nat.mod_mul_right_mod]

/-- Codes packed one after another are read back at their places. -/
theorem packNat_field {eb : Nat} {cs : List Nat} {k : Nat} (h : k < cs.length) :
    packNat eb cs / 2 ^ (eb * k) % 2 ^ eb = cs[k] % 2 ^ eb := by
  induction cs generalizing k with
  | nil => cases h
  | cons c cs ih =>
    rw [packNat]
    cases k with
    | zero => rw [Nat.mul_zero, Nat.pow_zero, Nat.div_one, Nat.add_mul_mod_self_left, Nat.mod_mod, List.getElem_cons_zero]
    | succ k =>
      have low : c % 2 ^ eb < 2 ^ eb := Nat.mod_lt _ (by positivity)
      rw [Nat.mul_succ, Nat.add_comm (eb * k), Nat.pow_add, ← Nat.div_div_eq_div_mul, Nat.add_mul_div_left _ _ (by positivity),
        Nat.div_eq_of_lt low, Nat.zero_add, ih (by simpa using h), List.getElem_cons_succ]

/-- The number of some bytes of memory is a field of that of the row around them. -/
theorem natOf_readN_bytesOf {m : Memory} {a n P p q : Nat} (row : m.readN a n = bytesOf n P) (room : p + q ≤ n) :
    natOf (m.readN (a + p) q) = P / 2 ^ (8 * p) % 2 ^ (8 * q) := by
  obtain ⟨d, rfl⟩ := Nat.exists_eq_add_of_le room
  have number := congrArg natOf row
  have len_p : (m.readN a p).length = p := Memory.readN_length _ _ _
  have len_q : (m.readN (a + p) q).length = q := Memory.readN_length _ _ _
  have lt_p := natOf_lt (m.readN a p)
  have lt_q := natOf_lt (m.readN (a + p) q)
  rw [len_p] at lt_p
  rw [len_q] at lt_q
  rw [Memory.readN_add, Memory.readN_add, natOf_append, natOf_append, natOf_bytesOf, List.length_append, len_p, len_q] at number
  have bytes (k : Nat) : (2 : Nat) ^ (8 * k) = 256 ^ k := Nat.pow_mul 2 8 k
  rw [← field_mod (P := P) (k := 8 * (p + q + d)) (by omega), bytes, bytes, bytes, ← number, Nat.pow_add, Nat.mul_assoc, Nat.add_assoc,
    ← Nat.mul_add, Nat.add_mul_div_left _ _ (by positivity), Nat.div_eq_of_lt lt_p, Nat.zero_add, Nat.add_mul_mod_self_left,
    Nat.mod_eq_of_lt lt_q]

/-! ### Formats -/

/-- The width of a code, and the number of codes that a row of 64 bytes has for it. -/
theorem fmtBits_cases (f : Nat) : (fmtBits f = 32 ∧ fmtK f = 16) ∨ (fmtBits f = 16 ∧ fmtK f = 32) ∨ (fmtBits f = 8 ∧ fmtK f = 64) ∨
    ((fmtBits f = 4 ∨ fmtBits f = 2 ∨ fmtBits f = 1) ∧ fmtK f = 128) := by
  unfold fmtK
  have width : fmtBits f = 32 ∨ fmtBits f = 16 ∨ fmtBits f = 8 ∨ fmtBits f = 1 ∨ fmtBits f = 2 ∨ fmtBits f = 4 := by
    unfold fmtBits
    split_ifs <;> simp
  rcases width with h | h | h | h | h | h <;> simp [h]

/-- A code lies in the bytes of its row that are read for it. -/
theorem code_within {f k : Nat} (h : k < fmtK f) : fmtBits f * k % 8 + fmtBits f ≤ 8 * ((fmtBits f + 7) / 8) ∧
    fmtBits f * k / 8 + (fmtBits f + 7) / 8 ≤ 64 := by
  rcases fmtBits_cases f with ⟨e, n⟩ | ⟨e, n⟩ | ⟨e, n⟩ | ⟨e | e | e, n⟩ <;> rw [n] at h <;> rw [e] <;> omega

/-- A code read from a row of packed codes is the code packed there. -/
theorem Slot.code_of_row {row k : Nat} {cs : List Nat} (h : k < cs.length) (fits : k < fmtK t.fmt.toNat)
    (packed : t.data.readN (64 * row) 64 = bytesOf 64 (packNat (fmtBits t.fmt.toNat) cs)) :
    t.code row k = cs[k] % 2 ^ fmtBits t.fmt.toNat := by
  obtain ⟨within, room⟩ := code_within fits
  have split : 8 * (fmtBits t.fmt.toNat * k / 8) + fmtBits t.fmt.toNat * k % 8 = fmtBits t.fmt.toNat * k := Nat.div_add_mod _ 8
  unfold Slot.code
  dsimp only
  rw [natOf_readN_bytesOf packed room, field_mod within, Nat.div_div_eq_div_mul, ← Nat.pow_add, split, packNat_field h]

/-! ### Rows that land -/

/-- What the rows of a load make of a slot. -/
def Slot.setRows (t : Slot) (codes : Nat → List Nat) (rows : List Nat) : Slot := rows.foldl (fun t r => t.setRow r (codes r)) t

theorem Slot.setRows_cons (t : Slot) (codes : Nat → List Nat) (r : Nat) (rows : List Nat) :
    t.setRows codes (r :: rows) = (t.setRow r (codes r)).setRows codes rows := List.foldl_cons

theorem Slot.setRows_append (t : Slot) (codes : Nat → List Nat) (r : Nat) (rows : List Nat) :
    t.setRows codes (rows ++ [r]) = (t.setRows codes rows).setRow r (codes r) := List.foldl_concat _ _ _ _

theorem Slot.setRow_rest (t : Slot) (r : Nat) (cs : List Nat) (d : Memory) : { t.setRow r cs with data := d } = { t with data := d } := by
  rw [Slot.setRow]

theorem Slot.setRow_data (t : Slot) (r : Nat) (cs : List Nat) :
    (t.setRow r cs).data = t.data.writeN (64 * r) (bytesOf 64 (packNat (fmtBits t.fmt.toNat) cs)) := by
  rw [Slot.setRow]

theorem Slot.setRows_rest (t : Slot) (codes : Nat → List Nat) (rows : List Nat) :
    t.setRows codes rows = { t with data := (t.setRows codes rows).data } := by
  induction rows generalizing t with
  | nil => rfl
  | cons r rows ih =>
    rw [Slot.setRows_cons]
    exact (ih _).trans (Slot.setRow_rest t r (codes r) _)

theorem Slot.setRows_fmt (t : Slot) (codes : Nat → List Nat) (rows : List Nat) : (t.setRows codes rows).fmt = t.fmt := by
  rw [Slot.setRows_rest]

theorem Slot.setRows_wf (wf : t.data.wf = true) (codes : Nat → List Nat) (rows : List Nat) : (t.setRows codes rows).data.wf = true := by
  induction rows generalizing t with
  | nil => exact wf
  | cons r rows ih =>
    rw [Slot.setRows_cons]
    refine ih ?_
    rw [Slot.setRow_data]
    exact Memory.wf_writeN _ _ wf

/-- Each row holds its codes packed. -/
theorem Slot.setRows_row (wf : t.data.wf = true) (codes : Nat → List Nat) {rows : List Nat} {r : Nat} (listed : r ∈ rows) :
    (t.setRows codes rows).data.readN (64 * r) 64 = bytesOf 64 (packNat (fmtBits t.fmt.toNat) (codes r)) := by
  induction rows using List.reverseRecOn with
  | nil => cases listed
  | append_singleton rows k ih =>
    have before := Slot.setRows_wf wf codes rows
    rw [Slot.setRows_append, Slot.setRow_data, Slot.setRows_fmt]
    by_cases last : r = k
    · subst last
      generalize packNat (fmtBits t.fmt.toNat) (codes r) = P
      have back := Memory.readN_writeN (64 * r) (bytesOf 64 P) before
      rwa [bytesOf_length] at back
    · have earlier : r ∈ rows := by simpa [last] using listed
      rw [Memory.readN_writeN_out _ _ _ _ before (by rw [bytesOf_length]; omega), ih earlier]

/-- The code of a row and place that the rows of a load hold. -/
def MLoad.elem (l : MLoad) (rows : List (Nat × List Byte)) (row k : Nat) : Nat :=
  match rows.find? (fun r => decide (r.1 = if l.trans then k else row)) with
  | some r => packedElem r.2 (fmtBits l.fmt.toNat) (if l.trans then row else k)
  | none => 0

/-- A slot that is READY with a load's format, and no data yet. -/
def MLoad.ready (l : MLoad) (t : Slot) : Slot :=
  { t with st := .ready, fmt := l.fmt, kv := l.kv, blk := none, scales := [], data := [], absent := [] }

theorem MLoad.land_eq (l : MLoad) (t : Slot) (rows : List (Nat × List Byte)) : l.land t rows =
    (l.ready t).setRows (fun r => (List.range l.kv).map (l.elem rows r)) (List.range 16) := by
  unfold MLoad.land Slot.setRows
  rfl

theorem MLoad.land_word (l : MLoad) (t : Slot) (rows : List (Nat × List Byte)) :
    ((l.land t rows).st, (l.land t rows).fmt, (l.land t rows).kv, (l.land t rows).blk) = (.ready, l.fmt, l.kv, none) := by
  rw [MLoad.land_eq]
  generalize List.range 16 = order
  generalize (fun r => (List.range l.kv).map (l.elem rows r)) = codes
  rw [Slot.setRows_rest, MLoad.ready]

/-- Each code of a load that is not transposed is that of its row. -/
theorem MLoad.land_code (plain : l.trans = false) (fits : l.kv ≤ fmtK l.fmt.toNat) {rows : List (Nat × List Byte)} {a b : Nat}
    (row : a < 16) (place : b < l.kv) {bs : List Byte} (found : rows.find? (fun r => decide (r.1 = a)) = some (a, bs)) :
    (l.land t rows).code a b = natOf bs / 2 ^ (fmtBits l.fmt.toNat * b) % 2 ^ fmtBits l.fmt.toNat := by
  have fmt : (l.land t rows).fmt = l.fmt := (Prod.mk.inj (Prod.mk.inj (l.land_word t rows)).2).1
  have packed := Slot.setRows_row (t := l.ready t) Memory.wf_nil (fun r => (List.range l.kv).map (l.elem rows r)) (List.mem_range.mpr row)
  rw [← MLoad.land_eq] at packed
  have len : b < ((List.range l.kv).map (l.elem rows a)).length := by simpa using place
  have elem : l.elem rows a b = packedElem bs (fmtBits l.fmt.toNat) b := by
    unfold MLoad.elem
    simp only [plain, Bool.false_eq_true, if_false, found]
  rw [Slot.code_of_row len (by rw [fmt]; omega) (by rw [fmt]; exact packed), List.getElem_map, List.getElem_range, fmt, elem, packedElem,
    Nat.mod_mod]

/-- The row of a number among rows listed in order. -/
theorem find_row {rows : List (Nat × Word × Option (List Byte))} (order : ∀ j (h : j < rows.length), rows[j].1 = j) {a : Nat}
    {bs : List Byte} (row : rows[a]?.map (fun r => r.2.2) = some (some bs)) :
    (rows.map (fun r => (r.1, r.2.2.getD []))).find? (fun r => decide (r.1 = a)) = some (a, bs) := by
  obtain ⟨r, at_a, data⟩ := Option.map_eq_some_iff.mp row
  obtain ⟨lt, rfl⟩ := List.getElem?_eq_some_iff.mp at_a
  refine List.find?_eq_some_iff_getElem.mpr ⟨by simp, a, by simpa using lt, ?_, fun j below => ?_⟩
  · simp [order a lt, data]
  · have other := order j (Nat.lt_trans below lt)
    simp [other]
    omega

/-! ### The step -/

theorem landedRows_data (s : State) (l : MLoad) {rows : List (Nat × Word × Option (List Byte))}
    (data : ∀ r ∈ rows, ∃ bs, r.2.2 = some bs) : landedRows s l rows = .ok (rows.map (fun r => (r.1, r.2.2.getD []))) := by
  induction rows with
  | nil => rfl
  | cons r rows ih =>
    obtain ⟨bs, own⟩ := data r List.mem_cons_self
    unfold landedRows State.rowBytes
    rw [ih fun q later => data q (List.mem_cons_of_mem r later), own]
    simp [own]

theorem State.noteRows_data (s : State) (l : MLoad) (n : Nat) {rows : List (Nat × Word × Option (List Byte))}
    (data : ∀ r ∈ rows, ∃ bs, r.2.2 = some bs) :
    rows.foldl (fun t r => if r.2.2.isSome then t else t.noteReadN l.reader r.2.1 l.inst n) s = s := by
  induction rows with
  | nil => rfl
  | cons r rows ih =>
    obtain ⟨bs, own⟩ := data r List.mem_cons_self
    rw [List.foldl_cons, own]
    exact ih fun q later => data q (List.mem_cons_of_mem r later)

theorem exec_mloadLand (runs : s.runs s.core.id = true) (found : s.core.mat.loads.find? (fun x => decide (x.slot = i.val)) = some l)
    (data : ∀ r ∈ l.rows, ∃ bs, r.2.2 = some bs) : exec (.mloadLand s.core.id i.val) s = .next (s.onMat (fun m => { m with
      loads := m.loads.filter (fun x => decide (x.slot ≠ i.val))
      slots := m.slots.set i (l.land s.core.mat.slots[i] (l.rows.map (fun r => (r.1, r.2.2.getD [])))) })) := by
  refine State.engineStep_to runs ?_ rfl
  rw [found]
  dsimp only
  rw [landedRows_data s l data]
  dsimp only
  rw [State.noteRows_data s l l.rowLength data]
  have slot : i.val % 16 = i.val := Nat.mod_eq_of_lt i.isLt
  simp only [slot]
  rfl

end Sys2Proof.Machine
end

section
/-! CERTIFICATE. The steps of the engines of a core (R59, R80, R98, R161, R162, R166, R168 to R170, R195). -/

open Sys2Proof Sys2Proof.Machine

/-- Settles O45: each step as the acting core's own (`State.engineStep_to`), and then as another core's, which acts for it and gives
way again (`State.engineStep_actAs`). -/
theorem engineResults : Obligations.EngineResults := by
  refine ⟨fun s n sound runs => ?_, fun s j n b f sound e listed => ?_⟩
  · intro k e m
    have listed : s.core.id < coreCount := State.lt_of_runs runs
    refine ⟨fun w wait reason free going => exec_copyAccept runs wait reason free going, fun y found good written landed => ?_,
      fun y found left => exec_copyComplete_open runs found left, fun r small frame own free => ?_, fun l rest oldest _ bs data => ?_,
      fun l rest oldest _ bs data => ?_, exec_dtldComplete_idle runs, exec_segldComplete_idle runs, fun l i found data => ?_,
      fun p found behind => ?_, fun p found atomic load bank first => exec_store_spad runs found first ⟨bank, rfl, atomic, load⟩,
      fun p found atomic load bank first => exec_store_tcm runs found first ⟨bank, rfl, atomic, load⟩,
      fun p a found atomic first used => exec_store_atomic runs found first atomic used, fun l r z off found dst path => ?_,
      fun y w bs found good left pend loads len read unread => ?_, fun y w off bs found good left plain own pend loads len path aligned read => ?_,
      fun i t u j rest off bound appends path => exec_append sound runs bound appends path,
      fun i t bs read bound more room check bytes => ?_, fun f fs oldest => exec_matrixInstructionDone_flags runs oldest,
      exec_matrixInstructionDone_idle runs⟩
    · refine ⟨s.finishCopy y, exec_copyComplete_done sound runs found good written landed, ?_, fun x ctx task run => ?_⟩
      · rw [State.finishCopy_copies sound, copy_tag found]
      · have here : s.core.runs y.reader.run = true := by
          unfold Core.runs
          rw [ctx]
          exact decide_eq_true run
        rw [← copy_tag found]
        exact State.finishCopy_task listed task here
    · refine ⟨fun sound_reads waits => ?_, fun fault => ?_, fun bs read => exec_codeFetch_bytes sound runs small frame own free read,
        fun i bs lt going open_ read len => exec_codeClause_lands sound runs small frame own free lt going open_ read,
        fun i landed => exec_codeClause_landed runs frame free landed⟩
      · rw [exec_codeFetch runs free, State.completeFetch_wait frame own (State.clausesOf_wait sound_reads waits)]
      · obtain ⟨c, fails⟩ := State.clausesOf_fault (n := n) fault
        rw [exec_codeFetch runs free, State.completeFetch_fault frame own fails]
    · exact ⟨_, exec_dtldComplete runs oldest data, rfl, fun i lt => DecTab.ofBytes_entry l.nan bs lt⟩
    · refine ⟨_, exec_segldComplete runs oldest data, fun i h => ?_⟩
      simpa using Memory.read_writeN_in (m := []) 0 i bs Memory.wf_nil h
    · refine ⟨_, exec_mloadLand runs found data, l.land_word _ _, fun plain fits order _ a row b place bs at_a => ?_⟩
      exact MLoad.land_code plain fits row place (find_row order at_a)
    · refine exec_store_waits runs found ?_
      obtain ⟨q, earlier, waits⟩ := behind
      exact ⟨q, earlier, PendStore.waitsFor_iff.mpr waits⟩
    · refine ⟨fun left some_byte within used => ?_, fun left some_byte within other => ?_, fun j half left wide aligned used _ => ?_,
        fun w done => exec_load_done runs found done⟩
      · exact (exec_load_whole runs found left dst path some_byte within).trans
          (congrArg _ (State.writeScalar_inUse (s := s.onEng (fun e => { e with loads := lateAfter s.core.eng.loads n l (off / 4) })) used _))
      · exact (exec_load_whole runs found left dst path some_byte within).trans
          (congrArg _ (State.writeScalar_other (s := s.onEng (fun e => { e with loads := lateAfter s.core.eng.loads n l (off / 4) })) other _))
      · exact ⟨_, exec_load_half runs found half left dst path wide aligned used, withBytes_half _ (Memory.readN_length _ _ _) half⟩
    · have core := (s.sameCores_noteRead y.reader (y.src + BitVec.ofNat 64 (4 * w)) y.readInst).1
      refine ⟨_, exec_copyRead runs found good left pend loads read unread, ?_, ?_⟩
      · have mem := congrArg Core.mem core
        exact mem
      · refine (congrArg (fun c : Core => c.eng.copies.map (fun x => if x.tag = y.tag then { y with got := [(w, bs)] } else x)) core).trans ?_
        rw [copy_tag found]
    · have tag : (y.wrote w 0).tag = n := copy_tag (y := y) found
      obtain ⟨u, same, wrote⟩ := exec_copyWord runs found good left plain own pend loads len path read
      refine ⟨_, wrote, Memory.written_atOffsets sound.acting.2 (off + 4 * w) bs, fun z => ?_, y.wrote w 0, ?_, tag,
        fun i => Copy.mem_wrote_todo⟩
      · have word : (off + 4 * w) / 4 = off / 4 + w := by omega
        refine Core.mem_tcmMark_full.trans ?_
        rw [List.mem_singleton, word]
        rfl
      · exact State.mem_setCopy found tag
    · obtain ⟨core, cores, disp⟩ := State.sameCores_noteRead { s with core := s.core.setStream i (some { t with
        fetched := t.fetched + 1, fifo := t.fifo ++ [(vecOf bs, none)] }) } t.reader (t.unit t.fetched) (s.loadInstant 0)
      rw [← vecOf_eq]
      exact ⟨_, exec_streamDataArrival runs bound read more room check bytes, core, cores, disp⟩
  · obtain ⟨f, runs_as, stays⟩ := engineEvent_of_mem listed
    refine ⟨fun idle => ?_, fun runs u done => ?_⟩
    · rw [runs_as, State.engineStep_idle idle]
    · rw [runs_as] at done ⊢
      exact State.engineStep_actAs sound stays runs done

end

section
/-! SUPPORT. Atomics, by the path of their word (R69, R80, R147, R150). -/

namespace Sys2Proof.Machine

variable {s : State} {ins : Instr} {t b x : RegNo} {im : BitVec 2} {fn : BitVec 4} {wide : Bool} {w : BitVec 1} {p : Path} {off : Nat}

/-! ### The forms of an atomic (R150) -/

/-- The operation that an atomic of the acting core carries. -/
def State.atomOp (s : State) (t x : RegNo) (fn : BitVec 4) (wide : Bool) : AtomOp :=
  ⟨fn, wide, s.g x, s.g t, s.core.id, s.core.eng.nextTag⟩

/-- What the `k`-th integer form runs, and what its function makes of the old value. -/
theorem atomicForms_run {f : Instr × (∀ n : Nat, BitVec n → BitVec n → BitVec n → BitVec n)} {k : Nat}
    (form : (f, k) ∈ (atomicForms t b x im w).zipIdx) :
    (∀ s : State, exec f.1 s = s.atomic f.1 t b x im (BitVec.ofNat 4 k) (decide (w = 1))) ∧
    ∀ (n : Nat) (a : AtomOp) (old : Nat), a.fn = BitVec.ofNat 4 k →
      atomicOp n a old = ((f.2 n (BitVec.ofNat n old) (a.s.setWidth n) (a.cmp.setWidth n)).toNat, 0) := by
  simp only [atomicForms, List.zipIdx_cons, List.zipIdx_nil, List.mem_cons, List.not_mem_nil, or_false, Prod.mk.injEq] at form
  rcases form with ⟨rfl, rfl⟩ | ⟨rfl, rfl⟩ | ⟨rfl, rfl⟩ | ⟨rfl, rfl⟩ | ⟨rfl, rfl⟩ | ⟨rfl, rfl⟩ | ⟨rfl, rfl⟩ | ⟨rfl, rfl⟩ | ⟨rfl, rfl⟩ |
    ⟨rfl, rfl⟩
  all_goals
    refine ⟨fun _ => rfl, fun n a old fn => ?_⟩
    unfold atomicOp
    rw [fn]
    simp [BitVec.slt, BitVec.ult]

theorem atomicForms_index {f : Instr × (∀ n : Nat, BitVec n → BitVec n → BitVec n → BitVec n)}
    (form : f ∈ atomicForms t b x im w) : ∃ k, (f, k) ∈ (atomicForms t b x im w).zipIdx := by
  obtain ⟨k, lt, rfl⟩ := List.mem_iff_getElem.mp form
  exact ⟨k, List.mem_zipIdx_iff_getElem?.mpr (List.getElem?_eq_getElem lt)⟩

theorem State.atomic_illegal : s.atomic ins t b x 3 fn wide = s.illegal ins := by
  unfold State.atomic
  exact if_pos rfl

/-- The key and the instant of a store of the acting task (R72). -/
theorem State.storeFrame_task {c : Ctx} {a : Word} {inst : Nat} (ctx : s.core.x.ctx = some c) :
    let f := s.storeFrame a inst
    (f.token, f.part, f.node, f.wid, f.seq, f.inst) = (c.token, c.part, c.node, c.wid, c.seq, inst) := by
  unfold State.storeFrame Core.part
  rw [ctx]
  rfl

/-! ### An atomic that no check stops (R48, R69, R70) -/

section
variable (legal : im ≠ 3) (check : accessTrap s.core .atomic (s.g b) (if wide then 8 else 4) (decide (b = 2)) false = none)
  (path : pathOf (s.g b) = some (p, off))
include legal check path

theorem State.atomic_timed_trap {f : Flow} (timed : p.isTimed = true) (trap : s.instantTrap false im = some f) :
    s.atomic ins t b x im fn wide = .next (s.finish f) := by
  unfold State.atomic AtomOp.bytes
  dsimp only
  rw [if_neg legal, check, path]
  dsimp only
  rw [if_pos timed, trap]

theorem State.atomic_timed (timed : p.isTimed = true) (instant : s.instantTrap false im = none) :
    let n := if wide then 8 else 4
    s.atomic ins t b x im fn wide = if 32 ≤ s.core.eng.remote.length then s.stay .remoteSlot 0
      else if p = .loft ∧ s.loftAllowed (s.core.x.ctx.map (fun x => x.part)) off n = false then
        (s.takeSeq.beginRemote (.amo t wide) (s.g b) n (some (s.storeInstant im)) (.faulted 0x11)).done
      else ((s.takeSeq.beginRemote (.amo t wide) (s.g b) n (some (s.storeInstant im)) .atomic).sendTimed p off n
        { s.storeFrame (s.g b) (s.storeInstant im) with atomic := some (s.atomOp t x fn wide) }).done := by
  unfold State.atomic AtomOp.bytes State.atomOp
  dsimp only
  rw [if_neg legal, check, path]
  dsimp only
  rw [if_pos timed, instant]
  by_cases full : 32 ≤ s.core.eng.remote.length <;> simp [Core.remoteFull, remoteLimit, full]

end

end Sys2Proof.Machine
end

section
/-! CERTIFICATE. Atomics on loft and GLOBAL. -/

open Sys2Proof Sys2Proof.Machine

/-- Settles O24: every form is one operation (`atomicForms_run`), which takes the checks of R70 and then waits for a slot, is refused
by the loft's ranges, or leaves as one store (`State.atomic_timed`). -/
theorem timedAtomics : Obligations.TimedAtomics := by
  intro s t b x i w q off c ctx legal timed small ix far inst sends
  have isTimed := Path.isTimed_of timed
  have part : s.core.x.ctx.map (fun x => x.part) = some c.part := by rw [ctx]; rfl
  have sent (k : Nat) (ins : Instr) (wide : Bool) (run : exec ins s = s.atomic ins t b x i (BitVec.ofNat 4 k) wide) :
      sends k ins (if wide then 8 else 4) wide := by
    intro check path
    rw [run]
    refine ⟨fun far => State.atomic_timed_trap legal check path isTimed (State.instantTrap_far far), fun near full => ?_,
      fun near room loft refused => ?_, fun near room allowed => ?_⟩
    all_goals rw [State.atomic_timed legal check path isTimed (State.instantTrap_store near), part]
    · exact if_pos full
    · rw [if_neg (Nat.not_le.mpr room), if_pos ⟨loft, refused⟩, State.takeSeq_task ctx small, State.storeInstant_task ctx]
      exact ⟨_, rfl, rfl⟩
    · have left := State.sendTimed_leaves (n := if wide then 8 else 4) (off := off)
        (s := s.takeSeq.beginRemote (.amo t wide) (s.g b) (if wide then 8 else 4) (some (s.storeInstant i)) .atomic)
        (State.takeSeq_part ctx) timed
        (st := { s.storeFrame (s.g b) (s.storeInstant i) with atomic := some (s.atomOp t x (BitVec.ofNat 4 k) wide) }) rfl allowed
      rw [if_neg (Nat.not_le.mpr room), if_neg (fun h => by simp [allowed h.1] at h), left, State.send_eq,
        State.takeSeq_task ctx small, State.storeInstant_task ctx]
      exact ⟨_, _, rfl, rfl, rfl, State.storeFrame_task (a := s.g b) ctx, rfl⟩
  refine ⟨fun f form => ?_, sent 10 (.afadd t b x i) false rfl⟩
  have run := sent f.2 f.1.1 (decide (w = 1)) ((atomicForms_run form).1 s)
  simpa only [decide_eq_true_eq] using run
end

section
/-! SUPPORT. Atomics on TCM and the scratchpad (R80, R150, R151). -/

namespace Sys2Proof.Machine

variable {s v : State} {ins : Instr} {t b x : RegNo} {im : BitVec 2} {fn : BitVec 4} {wide : Bool}
  {off cl n : Nat} {op : AtomOp}

/-! ### An atomic that no check stops, by the memory of its word -/

section
variable (legal : im ≠ 3) (check : accessTrap s.core .atomic (s.g b) (if wide then 8 else 4) (decide (b = 2)) false = none)
include legal check

theorem State.atomic_tcm (path : pathOf (s.g b) = some (.tcm, off)) :
    s.atomic ins t b x im fn wide = (s.atomicTcm off t (s.atomOp t x fn wide)).done := by
  unfold State.atomic AtomOp.bytes State.atomOp
  dsimp only
  rw [if_neg legal, check, path]
  rfl

theorem State.atomic_spad (path : pathOf (s.g b) = some (.spad, off)) :
    s.atomic ins t b x im fn wide = if Config.spadEcc s.dev.tick off = true then (s.defer 0x12 (s.g b)).done
      else (s.atomicSpad off t (s.atomOp t x fn wide)).done := by
  unfold State.atomic AtomOp.bytes State.atomOp
  dsimp only
  rw [if_neg legal, check, path]
  rfl

end

/-! ### What an atomic makes of its word -/

theorem amoValue_eq (wide : Bool) (bs : List Byte) :
    amoValue wide bs = (BitVec.ofNat (8 * if wide then 8 else 4) (natOf bs)).signExtend 64 := extend_signed _ _

/-- `afadd` on the f32 values of the word and of its operand (R151). -/
theorem atomicOp_afadd (fn : op.fn = 10) (old : Nat) :
    atomicOp (8 * 4) op old = roundF32 (fpAdd (f32 (BitVec.ofNat (8 * 4) old).toNat) (f32 (op.s.toNat % 2 ^ 32))) := by
  unfold atomicOp
  rw [fn]
  exact congrArg (fun y => roundF32 (fpAdd _ (f32 y))) (BitVec.toNat_setWidth 32 op.s)

/-- An atomic of TCM: its word takes the new value after the core's accesses to it, then its register the old one. -/
theorem State.atomicTcm_ends (sound : s.Sound) (bytes : op.bytes = n) :
    let d := s.settle .tcm off n
    let old := natOf (d.core.mem.tcm.readN off n)
    let r := atomicOp (8 * n) op old
    ∃ u : State, s.atomicTcm off t op = (u.setG t ((BitVec.ofNat (8 * n) old).signExtend 64)).raise r.2 ∧
      u = { d with core := { d.core with
        mem := { d.core.mem with tcm := u.core.mem.tcm }, x := { d.core.x with touchTcm := u.core.x.touchTcm } } } ∧
      d.core.mem.tcm.Written u.core.mem.tcm off (bytesOf n r.1) := by
  subst bytes
  intro d old r
  refine ⟨{ d with core := d.core.tcmWrite (atOffsets off (bytesOf op.bytes r.1)) }, ?_, rfl,
    Memory.written_atOffsets sound.settle.acting.2 _ _⟩
  have value : amoValue op.wide (d.core.mem.tcm.readN off op.bytes) = (BitVec.ofNat (8 * op.bytes) old).signExtend 64 := amoValue_eq _ _
  rw [← value]
  rfl

/-! ### An atomic of the scratchpad, at its bank -/

/-- The access that an atomic of the scratchpad leaves pending. -/
def State.atomicPend (s : State) (off : Nat) (t : RegNo) (op : AtomOp) : PendStore :=
  ⟨off, false, [], false, some ⟨op, t, s.core.x.handBank, 0⟩, none, s.dev.tick⟩

theorem State.atomicSpad_pend : (s.atomicSpad off t op).core.eng.pend = s.core.eng.pend ++ [s.atomicPend off t op] := by
  unfold State.atomicSpad
  change (s.setG t (s.g t)).core.eng.pend ++ _ = _
  rw [State.setG_eng]
  rfl

theorem State.atomicSpad_frame : let u := s.atomicSpad off t op
    u.dev = s.dev ∧ u.cores = s.cores ∧ u.core.mem = s.core.mem ∧ u.core.r = s.core.r :=
  ⟨State.setG_dev s t (s.g t), State.setG_cores s t (s.g t), State.setG_mem s t (s.g t), State.setG_g s t⟩

/-- The bank of an atomic performs it: the register takes the old value, the word the new one, `fstat` the flags. -/
theorem State.performStore_atomicPend (bytes : op.bytes = n) (sound : v.Sound) (hand : v.core.x.handBank = s.core.x.handBank) :
    let old := natOf ((v.spad cl).readN off n)
    let r := v.performStore cl (s.atomicPend off t op)
    r.g t = (if t = 0 then 0 else (BitVec.ofNat (8 * n) old).signExtend 64) ∧
    (∀ l, l ≠ cl → r.spad l = v.spad l) ∧
    r.core.sw.fstat = v.core.sw.fstat ||| (atomicOp (8 * n) op old).2 ∧
    (v.spad cl).Written (r.spad cl) off (bytesOf n (atomicOp (8 * n) op old).1) := by
  subst bytes
  intro old r
  obtain ⟨ls, done⟩ := v.performStore_atomic cl (p := s.atomicPend off t op) rfl
  let u := (v.onEng (fun e => { e with loads := ls })).spadWrite cl (atOffsets off (bytesOf op.bytes (atomicOp (8 * op.bytes) op old).1))
  have used : u.core.inUse s.core.x.handBank t = true := hand ▸ u.core.inUse_self t
  have takes : r = (u.setG t ((BitVec.ofNat (8 * op.bytes) old).signExtend 64)).raise (atomicOp (8 * op.bytes) op old).2 := by
    have value : amoValue op.wide ((v.spad cl).readN off op.bytes) + 0 = (BitVec.ofNat (8 * op.bytes) old).signExtend 64 :=
      (add_zero _).trans (amoValue_eq _ _)
    rw [← value]
    exact done.trans (congrArg (fun u => State.raise u (atomicOp (8 * op.bytes) op old).2) (State.writeScalar_inUse used _))
  have spads (l : Nat) : r.spad l = u.spad l := by
    rw [takes]
    rfl
  have bytes (l : Nat) := State.spad_spadWrite (s := v.onEng (fun e => { e with loads := ls })) (cl := cl) (k := l)
    (bs := atOffsets off (bytesOf op.bytes (atomicOp (8 * op.bytes) op old).1))
  refine ⟨?_, fun l other => ?_, ?_, ?_⟩
  · rw [takes]
    split
    next zero => rw [zero]; rfl
    next some => exact State.g_setG_same u _ some
  · exact (spads l).trans ((bytes l).trans (if_neg other))
  · rw [takes]
    exact congrArg (fun c : StatusWords => c.fstat ||| (atomicOp (8 * op.bytes) op old).2) (State.setG_sw u _ _)
  · rw [spads cl, show u.spad cl = _ from (bytes cl).trans (if_pos rfl)]
    exact Memory.written_atOffsets (sound.spad cl) _ _

end Sys2Proof.Machine
end

section
/-! CERTIFICATE. Atomics on the memories of a core and its cluster. -/

open Sys2Proof Sys2Proof.Machine

/-- Settles O23: every form is one operation (`atomicForms_run`), performed on TCM at once (`State.atomicTcm_eq`) and on the scratchpad
by the bank (`State.performStore_atomicPend`). -/
theorem localAtomics : Obligations.LocalAtomics := by
  intro s t b x i w off sound n a fits old cl good d d4
  have wide : (if decide (w = 1) = true then 8 else 4) = n := if_congr decide_eq_true_iff rfl rfl
  refine ⟨fun f form => ?_, fun ⟨legal, check⟩ path ecc => ?_, fun ⟨legal, check⟩ path => ?_⟩
  · obtain ⟨k, at_k⟩ := atomicForms_index form
    obtain ⟨run, makes⟩ := atomicForms_run at_k
    let op := s.atomOp t x (BitVec.ofNat 4 k) (decide (w = 1))
    have new (old : Nat) := makes (8 * n) op old rfl
    rw [run]
    refine ⟨fun ⟨legal, check⟩ path => ?_, fun ⟨legal, check⟩ path ecc => ?_, fun ⟨legal, check⟩ path ecc => ?_, fun fe => ?_⟩
    · obtain ⟨u, ends, frame, written⟩ := State.atomicTcm_ends (t := t) (off := off) (op := op) sound wide
      rw [new] at ends written
      rw [State.atomic_tcm legal (wide.symm ▸ check) path, ends, State.raise_zero]
      exact ⟨u, rfl, frame, written⟩
    · rw [State.atomic_spad legal (wide.symm ▸ check) path, if_neg (by simp [good] at ecc; simp [ecc])]
      obtain ⟨dev, cores, mem, regs⟩ := State.atomicSpad_frame (s := s) (off := off) (t := t) (op := op)
      refine ⟨_, s.atomicPend off t op, rfl, dev, cores, mem, regs, State.atomicSpad_pend, congrArg (wordsTouched off) wide,
        fun v sound hand => ?_⟩
      obtain ⟨gives, others, -, written⟩ := State.performStore_atomicPend (s := s) (cl := cl) (t := t) (off := off) (op := op) wide
        sound hand
      rw [new] at written
      exact ⟨gives, others, written⟩
    · rw [State.atomic_spad legal (wide.symm ▸ check) path]
      exact if_pos (by simpa [good] using ecc)
    · rw [fe]
      exact State.atomic_illegal
  · change ∃ u p, s.atomic (.afadd t b x i) t b x i 10 false = _ ∧ _
    rw [State.atomic_spad (wide := false) legal check path, if_neg (by simp [good] at ecc; simp [ecc])]
    refine ⟨_, s.atomicPend off t (s.atomOp t x 10 false), rfl, State.atomicSpad_pend, fun v sound hand => ?_⟩
    obtain ⟨gives, -, flags, written⟩ := State.performStore_atomicPend (s := s) (cl := cl) (t := t) (off := off)
      (n := 4) (op := s.atomOp t x 10 false) rfl sound hand
    rw [atomicOp_afadd (op := s.atomOp t x 10 false) rfl] at flags written
    exact ⟨gives, flags, written⟩
  · change ∃ u, _ ∧ _
    obtain ⟨u, ends, frame, written⟩ := State.atomicTcm_ends (t := t) (off := off) (n := 4) (op := s.atomOp t x 10 false) sound rfl
    rw [atomicOp_afadd (op := s.atomOp t x 10 false) rfl] at ends written
    refine ⟨u, ?_, frame, written⟩
    change s.atomic (.afadd t b x i) t b x i 10 false = _
    rw [State.atomic_tcm (wide := false) legal check path, ends]
    rfl

end

section
/-! SUPPORT. Fences, status words and quarantine registers (R82, R153, R155 to R159). -/

namespace Sys2Proof.Machine

variable {s : State} {r : Scope} {a d : RegNo} {n : BitVec 12} {w : StatusName}

/-! ### Fences -/

theorem Scope.beyond_of_empty (empty : r.empty = true) (k : Nat) : r.beyond k = false := by
  cases r with
  | own => rfl
  | rect x0 x1 y0 y1 =>
    have crossed : ¬(x0 ≤ x1 ∧ y0 ≤ y1) := by
      have := of_decide_eq_true empty
      omega
    simp [Scope.beyond, crossed]

theorem State.fenceWaits_own (s : State) : s.fenceWaits .own = s.core.untimedOut := by simp [State.fenceWaits, Scope.beyond, Scope.empty]

theorem State.fenceWaits_empty (empty : r.empty = true) : s.fenceWaits r = false := by
  simp [State.fenceWaits, Scope.beyond_of_empty empty, empty]

theorem State.fenceWaits_untimed (some_core : r.empty = false) (out : s.core.untimedOut = true) : s.fenceWaits r = true := by
  simp [State.fenceWaits, some_core, out]

theorem State.fenceWaits_copy {c : Copy} (listed : c ∈ s.core.eng.copies) (beyond : r.beyond s.core.id = true)
    (blocks : c.blocks s.core.id r = true) : s.fenceWaits r = true := by
  simp only [State.fenceWaits, Bool.or_eq_true, Bool.and_eq_true]
  exact .inl ⟨beyond, List.any_eq_true.mpr ⟨c, listed, blocks⟩⟩

theorem State.fenceWaits_clear (out : s.core.untimedOut = false) (clear : ∀ c ∈ s.core.eng.copies, c.blocks s.core.id r = false) :
    s.fenceWaits r = false := by
  have none : s.core.eng.copies.any (fun c => c.blocks s.core.id r) = false := by simpa using clear
  simp [State.fenceWaits, none, out]

theorem exec_fence_waits (waits : s.fenceWaits (if a = 0 then .own else rectOf (s.g a)) = true) :
    exec (.fence a) s = s.stay .drain 0 := if_pos waits

theorem exec_fence_done (clear : s.fenceWaits (if a = 0 then .own else rectOf (s.g a)) = false) :
    exec (.fence a) s = .next ((s.fenced (if a = 0 then .own else rectOf (s.g a))).finish .next) := if_neg (Bool.eq_false_iff.mp clear)

theorem State.fenced_empty (empty : r.empty = true) : s.fenced r = s := if_pos empty

theorem State.fenced_some (some_core : r.empty = false) : s.fenced r = s.drainAll := if_neg (Bool.eq_false_iff.mp some_core)

theorem State.drainAll_loads (s : State) : s.drainAll.core.eng.loads = [] := by
  unfold State.drainAll State.loadsDone
  split
  next none => exact none
  next => simp [State.onEng]

/-! ### Status words -/

/-- A read of a status word that no pending flags hold up. -/
theorem exec_rds (flags : s.core.flagsPending s.dev.timed = false) (word : statusWord n.toNat = some w) :
    exec (.rds d n) s = .next ((s.setG d (s.statusValue w)).finish .next) := by
  change execRds d n s = _
  simp only [execRds, word, flags, Bool.false_eq_true, and_false, if_false]
  rfl

theorem exec_wrs {t : State} (flags : s.core.flagsPending s.dev.timed = false) (word : statusWord n.toNat = some w)
    (writes : s.writeStatus w (s.g a) = some t) : exec (.wrs a n) s = .next (t.finish .next) := by
  change execWrs a n s = _
  simp only [execWrs, word, writes, flags, Bool.false_eq_true, and_false, if_false]
  rfl

theorem exec_wrs_readOnly (word : statusWord n.toNat = some w) (reads : s.writeStatus w (s.g a) = none) :
    exec (.wrs a n) s = s.illegal (.wrs a n) := by
  change execWrs a n s = _
  simp only [execWrs, word, reads]

theorem exec_wrs_reserved (word : statusWord n.toNat = none) : exec (.wrs a n) s = s.illegal (.wrs a n) := by
  change execWrs a n s = _
  simp only [execWrs, word]

theorem exec_rds_reserved (word : statusWord n.toNat = none) : exec (.rds d n) s = s.illegal (.rds d n) := by
  change execRds d n s = _
  simp only [execRds, word]

theorem statusWord_reserved {n : Nat}
    (gap : n = 0x00F ∨ (0x015 ≤ n ∧ n < 0x018) ∨ (0x01B ≤ n ∧ n < 0x020) ∨ (0x025 ≤ n ∧ n < 0x028) ∨ 0x02E < n) : statusWord n = none := by
  unfold statusWord
  split
  case h_36 => rfl
  all_goals omega

theorem statusWord_mbox : ∀ k : Fin 4, statusWord (BitVec.ofNat 12 (0x010 + k)).toNat = some (.mbox k) := by decide

theorem statusWord_lc : ∀ k : Fin 3, statusWord (BitVec.ofNat 12 (0x018 + k)).toNat = some (.lc k) := by decide

/-- A field of the identifier of the running task, whose image is loaded (R25). -/
theorem State.statusValue_widField {c : Ctx} {l : Loaded} (ctx : s.core.x.ctx = some c) (loaded : s.loadedFor c.part c.node = some l)
    (k : Fin 6) : s.statusValue (.widField k) = BitVec.ofNat 64 (fieldOf l.tmpl.widths c.wid k) := by
  change s.widField k = _
  unfold State.widField
  rw [ctx]
  dsimp only
  rw [loaded]

/-- Two fields of a word that do not overlap, as a number. -/
theorem or_shifted {m k : Nat} (low : BitVec m) (high : BitVec k) (i : Nat) (under : m ≤ i) (fits : i + k ≤ 64) :
    low.setWidth 64 ||| high.setWidth 64 <<< i = BitVec.ofNat 64 (low.toNat + 2 ^ i * high.toNat) := by
  have low_lt : low.toNat < 2 ^ i := lt_of_lt_of_le low.isLt (Nat.pow_le_pow_right (by decide) under)
  have high_lt : high.toNat < 2 ^ 64 := lt_of_lt_of_le high.isLt (Nat.pow_le_pow_right (by decide) (by omega))
  have sum_lt : low.toNat + 2 ^ i * high.toNat < 2 ^ 64 := calc
    low.toNat + 2 ^ i * high.toNat < 2 ^ i + 2 ^ i * high.toNat := Nat.add_lt_add_right low_lt _
    _ = 2 ^ i * (high.toNat + 1) := by ring
    _ ≤ 2 ^ i * 2 ^ k := Nat.mul_le_mul_left _ high.isLt
    _ = 2 ^ (i + k) := (Nat.pow_add 2 i k).symm
    _ ≤ 2 ^ 64 := Nat.pow_le_pow_right (by decide) fits
  apply BitVec.eq_of_toNat_eq
  rw [BitVec.toNat_or, BitVec.toNat_shiftLeft, BitVec.toNat_setWidth, BitVec.toNat_setWidth, BitVec.toNat_ofNat,
    Nat.mod_eq_of_lt ((Nat.le_add_right _ _).trans_lt sum_lt), Nat.mod_eq_of_lt high_lt, Nat.shiftLeft_eq, Nat.mul_comm high.toNat,
    Nat.mod_eq_of_lt ((Nat.le_add_left _ _).trans_lt sum_lt), Nat.or_comm, ← Nat.two_pow_add_eq_or_of_lt low_lt, Nat.add_comm,
    Nat.mod_eq_of_lt sum_lt]

/-- A counter that a supervisor writes, where no level was active at the trap, is also the one that `xret` restores (log entry 15). -/
theorem State.suspendedCount_eq (s : State) (k : Fin 3) (v : Word) : s.suspendedCount k v =
    if s.core.x.mode = .supervisor ∧ ∀ j : Fin 3, s.core.x.xLoops[j].active = false then
      s.onX (fun x => { x with xLoops := x.xLoops.set k { x.xLoops[k] with lc := v } }) else s :=
  if_congr (by rw [Bool.not_eq_true', anyLoop_eq_false]) rfl rfl

/-! ### Quarantine registers -/

/-- A supervisor's store with no task takes an issue number of the core (R72). -/
theorem State.takeSeq_idle (idle : s.core.x.ctx = none) : s.takeSeq = s.onX (fun x => { x with supIssue := x.supIssue + 1 }) := by
  dsimp only [State.takeSeq, State.onX]
  rw [idle]

theorem exec_qrd {q : BitVec 3} {v : Word} (samples : s.quarantine n.toNat = some v) : exec (.qrd q n) s =
    .next (State.finish { s with core := { s.core with r := { s.core.r with q := s.core.r.q.set q.toNat v q.isLt } } } .next) := by
  change execQrd q n s = _
  simp only [execQrd, samples]
  rfl

theorem exec_qrd_reserved {q : BitVec 3} (none : s.quarantine n.toNat = none) : exec (.qrd q n) s = s.illegal (.qrd q n) := by
  change execQrd q n s = _
  simp only [execQrd, none]

theorem State.quarantine_junction (s : State) : ∃ t, s.quarantine 3 = some t := by
  dsimp only [State.quarantine]
  cases aget s.dev.disp.tjunc (clusterOf s.core.id) <;> exact ⟨_, rfl⟩

/-- Which words an access is behind is a matter of their set. -/
theorem State.drainWords_congr {ws vs : List Nat} (same : ∀ w, w ∈ ws ↔ w ∈ vs) (s : State) (tcm : Bool) :
    s.drainWords tcm ws = s.drainWords tcm vs := by
  have has (w : Nat) : ws.contains w = vs.contains w := by
    rw [Bool.eq_iff_iff, List.contains_iff_mem, List.contains_iff_mem, same]
  unfold State.drainWords PendStore.touches
  simp only [has]

theorem mem_storedWords_atOffsets {off w : Nat} {bs : List Byte} :
    w ∈ storedWords off (atOffsets 0 bs) ↔ w ∈ wordsTouched off bs.length := by
  rw [mem_wordsTouched, storedWords, List.mem_dedup, List.mem_map]
  constructor
  · rintro ⟨y, listed, rfl⟩
    obtain ⟨k, lt, rfl⟩ := mem_atOffsets.mp listed
    dsimp only
    omega
  · rintro ⟨nonempty, low, high⟩
    refine ⟨_, mem_atOffsets.mpr ⟨max (4 * w) off - off, by omega, rfl⟩, ?_⟩
    dsimp only
    omega

/-- Bytes stored at once on TCM, after the core's accesses to their words. -/
theorem State.localStore_tcm (sound : s.Sound) (off : Nat) (bs : List Byte) :
    let d := s.settle .tcm off bs.length
    let u := s.localStore true ((atOffsets 0 bs).map (fun b => (off + b.1, b.2))) false
    d.core.mem.tcm.Written u.core.mem.tcm off bs ∧
    u = { d with core := { d.core with
      mem := { d.core.mem with tcm := u.core.mem.tcm }, x := { d.core.x with touchTcm := u.core.x.touchTcm } } } := by
  intro d u
  have bytes : (atOffsets 0 bs).map (fun b => (off + b.1, b.2)) = atOffsets off bs := by
    rw [atOffsets, List.map_map]
    exact List.map_congr_left fun y _ => by simp
  have settled : s.drainWords true (storedWords off (atOffsets 0 bs)) = d :=
    State.drainWords_congr (fun _ => mem_storedWords_atOffsets) s true
  have stored : u = { d with core := d.core.tcmWrite (atOffsets off bs) } := by
    rw [← settled, ← bytes, ← storedWords_map]
    rfl
  rw [stored]
  exact ⟨Memory.written_atOffsets sound.settle.acting.2 _ _, rfl⟩

section
variable {q : BitVec 3} {o : BitVec 10} (check : accessTrap s.core .store (s.baseOffset a o 8) 8 (decide (a = 2)) false = none)
include check

theorem exec_qst_outside (outside : s.core.profiled (s.baseOffset a o 8) = false) :
    exec (.qst q a o) s = .next (s.finish (.trap 0x0C (s.baseOffset a o 8) 0)) := by
  change execQst q a o s = _
  simp only [execQst, check, outside]
  rfl

variable (inside : s.core.profiled (s.baseOffset a o 8) = true) {off : Nat}
include inside

theorem exec_qst_tcm (path : pathOf (s.baseOffset a o 8) = some (.tcm, off)) : exec (.qst q a o) s =
    .next ((s.localStore true ((atOffsets 0 (bytesOf 8 (s.core.r.q[q.toNat]'q.isLt).toNat)).map (fun b => (off + b.1, b.2))) false).finish
      .next) := by
  change execQst q a o s = _
  simp only [execQst, check, inside, path]
  rfl

theorem exec_qst_global (path : pathOf (s.baseOffset a o 8) = some (.global, off)) : exec (.qst q a o) s =
    .next (((if s.core.x.ctx.isNone then s.takeSeq else s).send { s.storeFrame (s.baseOffset a o 8) (s.dev.now + 1) with
      data := atOffsets 0 (bytesOf 8 (s.core.r.q[q.toNat]'q.isLt).toNat), qst := true, seq := 0 }).finish .next) := by
  change execQst q a o s = _
  simp only [execQst, check, inside, path]
  rfl

end

end Sys2Proof.Machine
end

section
/-! CERTIFICATE. Fences, the instant register, status words and quarantine registers. -/

open Sys2Proof Sys2Proof.Machine

/-- Settles O25: the fence by what it waits for (`State.fenceWaits`), the status words selector by selector (`exec_rds`, `exec_wrs`),
and the quarantine registers with a store of one into a profiling range. -/
theorem fenceStatusAndQuarantine : Obligations.FenceStatusAndQuarantine := by
  refine ⟨?_, ?_, ?_⟩
  · intro s a n x ctx sets r
    have task (b : BitVec 2) : exec (.seti a b n) s = .next (State.finish (s.onSw (fun w =>
        { w with ix := BitVec.ofNat 56 (s.setiBase b + (s.g a).toNat + n.toNat) })) .next) := rfl
    have rel : s.setiBase 1 = x.rel := by simp [State.setiBase, ctx]
    have pub : s.setiBase 2 = x.pub := by simp [State.setiBase, ctx]
    have scope (some : a ≠ 0) : (if a = 0 then Scope.own else rectOf (s.g a)) = r := if_neg some
    refine ⟨task 0, rel ▸ task 1, pub ▸ task 2, task 3, fun clear => ?_, fun out => ⟨?_, fun some core => ?_⟩, fun some empty => ?_,
      fun some core clear copies => ?_, fun c listed some beyond blocks => ?_, s.drainAll_pend, s.drainAll_loads⟩
    · exact exec_fence_done (s.fenceWaits_own.trans clear)
    · exact exec_fence_waits (s.fenceWaits_own.trans out)
    · exact exec_fence_waits ((scope some).symm ▸ State.fenceWaits_untimed core out)
    · rw [exec_fence_done ((scope some).symm ▸ State.fenceWaits_empty empty), scope some, State.fenced_empty empty]
    · rw [exec_fence_done ((scope some).symm ▸ State.fenceWaits_clear clear copies), scope some, State.fenced_some core]
    · exact exec_fence_waits ((scope some).symm ▸ State.fenceWaits_copy listed beyond blocks)
  · intro s d a x ctx flags v w reads writes readOnly neither
    have read {n : Nat} (w : StatusName) (word : statusWord (BitVec.ofNat 12 n).toNat = some w) : reads n (s.statusValue w) :=
      exec_rds flags word
    have write {n : Nat} {f : StatusWords → StatusWords} (w : StatusName) (word : statusWord (BitVec.ofNat 12 n).toNat = some w)
        (puts : s.writeStatus w (s.g a) = some (s.onSw f)) : writes n f := exec_wrs flags word puts
    have fixed {n : Nat} (w : StatusName) (word : statusWord (BitVec.ofNat 12 n).toNat = some w)
        (puts : s.writeStatus w (s.g a) = none) : readOnly n := exec_wrs_readOnly word puts
    have task : s.statusValue .rel = BitVec.ofNat 64 (x.rel % 2 ^ 56) ∧ s.statusValue .pub = BitVec.ofNat 64 (x.pub % 2 ^ 56) ∧
        s.statusValue .task = x.token ∧ s.statusValue .wid = x.wid := by simp [State.statusValue, ctx]
    obtain ⟨rel, pub, token, wid⟩ := task
    refine ⟨⟨read .now rfl, rel ▸ read .rel rfl, pub ▸ read .pub rfl, read .lid rfl, read .lclu rfl, read .lshg rfl,
      token ▸ read .task rfl, wid ▸ read .wid rfl⟩, fun l loaded k lt => ?_, fun n listed => ?_, fun n lt gap => ?_,
      ⟨read .ix rfl, write .ix rfl rfl⟩, fun k => ⟨?_, ?_⟩, ⟨read .mboxf rfl, write .mboxf rfl rfl⟩, fun k => ⟨?_, ?_⟩,
      ⟨read .uepc rfl, write .uepc rfl rfl⟩, ⟨read .ucause rfl, write .ucause rfl rfl⟩, ⟨read .uval rfl, write .uval rfl rfl⟩,
      ⟨read .uvec rfl, write .uvec rfl rfl⟩, ⟨?_, write .uien rfl rfl⟩, ⟨read .fstat rfl, write .fstat rfl rfl⟩,
      ⟨read .late rfl, write .late rfl rfl⟩, ⟨read .tie rfl, write .tie rfl rfl⟩, ⟨read .stkb rfl, write .stkb rfl rfl⟩,
      ⟨read .stkl rfl, write .stkl rfl rfl⟩, ⟨read .scope rfl, write .scope rfl rfl⟩, ⟨?_, write .parkth rfl rfl⟩⟩
    · rw [← s.statusValue_widField ctx loaded ⟨k, lt⟩]
      refine read _ ?_
      interval_cases k <;> rfl
    · simp only [List.mem_cons, List.not_mem_nil, or_false] at listed
      rcases listed with rfl | rfl | rfl | rfl | rfl | rfl | rfl | rfl | rfl | rfl | rfl | rfl | rfl | rfl
      all_goals exact fixed _ rfl rfl
    · have word : statusWord (BitVec.ofNat 12 n).toNat = none := by
        rw [BitVec.toNat_ofNat, Nat.mod_eq_of_lt lt]
        exact statusWord_reserved gap
      exact ⟨exec_wrs_reserved word, exec_rds_reserved word⟩
    · exact read (.mbox k) (statusWord_mbox k)
    · exact write (.mbox k) (statusWord_mbox k) rfl
    · exact read (.lc k) (statusWord_lc k)
    · intro u
      exact exec_wrs flags (w := .lc k) (statusWord_lc k) (congrArg some (u.suspendedCount_eq k v))
    · rw [show 65536 = 2 ^ 16 from rfl, ← or_shifted _ _ 16 (by decide) (by decide)]
      exact read .uien rfl
    · rw [← or_shifted _ _ 62 (by decide) (by decide)]
      exact read .parkth rfl
  · intro s q a o sound v addr samples fits counted
    have sample {n : Nat} {v : Word} (lt : n < 4096) (reads : s.quarantine n = some v) : samples n v :=
      exec_qrd (by rw [BitVec.toNat_ofNat, Nat.mod_eq_of_lt lt, reads])
    refine ⟨sample (by decide) rfl, sample (by decide) rfl, sample (by decide) rfl, fun t read => sample (by decide) ?_, ?_,
      ⟨_, sample (by decide) rfl⟩, ⟨_, sample (by decide) rfl⟩, fun n low lt => exec_qrd_reserved ?_, fun check => exec_qst_outside check,
      fun off check inside path => ?_, fun off check inside path => ?_⟩
    · simp only [State.quarantine, read]
    · obtain ⟨t, reads⟩ := s.quarantine_junction
      exact ⟨t, sample (by decide) reads⟩
    · rw [BitVec.toNat_ofNat, Nat.mod_eq_of_lt lt]
      obtain ⟨m, rfl⟩ := Nat.exists_eq_add_of_le' low
      rfl
    · obtain ⟨written, frame⟩ := State.localStore_tcm sound off (bytesOf 8 v.toNat)
      exact ⟨_, exec_qst_tcm check inside path, written, frame⟩
    · rw [exec_qst_global check inside path, State.send_eq]
      have issued : (if s.core.x.ctx.isNone then s.takeSeq else s) = counted :=
        ite_congr rfl (fun none => State.takeSeq_idle (Option.isNone_iff_eq_none.mp none)) fun _ => rfl
      rw [issued]
      exact ⟨_, rfl, rfl, atOffsets_zero _⟩

end

section
/-! SUPPORT. A walk that refuses a line of a host copy (R291, R322). -/

namespace Sys2Proof.Machine

variable {s : State} {n part va inst : Nat} {task write : Bool} {t : TStore} {c : BitVec 8}

/-! ### A walk -/

theorem State.translate_unknown (unknown : s.partition part = none) : s.translate (some part) task write va inst = .error 0x10 := by
  unfold State.translate
  rw [Option.bind_some, unknown]

theorem State.walked_unknown (unknown : s.partition part = none) : ∃ c, s.walked (some part) task write va inst = .error c := by
  unfold State.walked
  split
  · exact ⟨_, rfl⟩
  · exact ⟨_, State.translate_unknown unknown⟩

/-- A host copy whose line a walk refuses loses all its lines in flight, not that one alone. -/
theorem State.walkStore_hostRefused (refused : s.walked (some t.part) (!t.sup) true (globalOffset t.addr) t.inst = .error c)
    (own : t.device = none) (host : t.src = .host) : (s.walkStore n t).dev.timed.flight =
      (dropAt s.dev.timed.flight n).filter (fun x => !decide (x.src = .host ∧ x.device = none ∧ x.node = t.node)) := by
  unfold State.walkStore State.storeFault
  rw [refused, own, host]
  rfl

theorem exec_walk_store (found : s.dev.timed.flight[n]? = some t) (unhomed : t.home = none) (open_gate : t.gate = false) :
    exec (.pageWalk (.store n)) s = .next (s.walkStore n t) := by
  change execPageWalk (.store n) s = _
  simp [execPageWalk, found, unhomed, open_gate]

/-! ### Two lines of a host copy before their walks -/

/-- A line of a host copy through port 0, not translated, of a partition that is not configured. -/
def untranslatedLine (id : Nat) : TStore where
  id := id
  src := .host
  device := none
  sup := true
  core := 0
  token := 0
  run := 0
  part := 128
  node := 0
  wid := 0
  seq := 0
  inst := 1
  drop := false
  qst := false
  addr := 0x40 <<< 56
  data := []
  atomic := none
  clause := 0
  copy := none
  append := none
  home := none
  fwd := none
  gate := false
  accepted := 0
  vis := 0
  late := false

/-- A partition with nothing configured. -/
def blankPartition : Partition := ⟨(partCfgOf 0).1, [], 0, 0, false, 0⟩

/-- After reset: one partition, and two lines of a host copy in flight. -/
def twoHostLines : State :=
  (State.reset.onDisp (fun d => { d with parts := [(0, blankPartition)] })).onTimed
    (fun m => { m with flight := [untranslatedLine 0, untranslatedLine 1] })

theorem sound_twoHostLines : twoHostLines.Sound := State.Sound.afterReset.frame

theorem translate_twoHostLines : twoHostLines.translate (some 128) false true 0 1 = .error 0x10 := State.translate_unknown (by decide +kernel)

/-- The walk of the first line leaves neither in flight. -/
theorem walk_twoHostLines :
    ∃ u : State, exec (.pageWalk (.store 0)) twoHostLines = .next u ∧ u.dev.timed.flight = [] := by
  obtain ⟨c, refused⟩ := State.walked_unknown (s := twoHostLines) (part := 128) (task := false) (write := true) (va := 0) (inst := 1)
    (by decide +kernel)
  exact ⟨_, exec_walk_store rfl rfl rfl, State.walkStore_hostRefused refused rfl rfl⟩

end Sys2Proof.Machine
end

section
/-! CERTIFICATE. Translation, mapping commands and page moves. -/

open Sys2Proof Sys2Proof.Machine

/-- Refutes O48: of the walk that refuses a store, its third clause says that nothing of timed memory changes but that this store has left
the flight; where the store is a line of a host copy, the copy stops there and its other lines leave the flight too
(`State.hostRefused`, R322). In `twoHostLines` two such lines await their walks, and the first one's walk leaves none. (`State.hostStore`
gives a line its home as it sends it; the clause, which is of every state, does not leave out a line without one.) -/
theorem not_translationResults : ¬ Obligations.TranslationResults := by
  intro holds
  obtain ⟨-, -, walks, -⟩ := holds twoHostLines 0 0 0 blankPartition 0 sound_twoHostLines rfl
  obtain ⟨u, walk, left⟩ := walk_twoHostLines
  rcases (walks (untranslatedLine 0) .global 0 rfl (by decide +kernel)).2 rfl rfl with ⟨key, c, came, -⟩ | ⟨v, c, stepped, timed, -⟩
  · exact nomatch translate_twoHostLines.symm.trans came
  · obtain rfl : u = v := by injection walk.symm.trans stepped
    have one : u.dev.timed.flight = [untranslatedLine 1] := congrArg Timed.flight timed
    exact nomatch left.symm.trans one

end

section
/-! SUPPORT. What homes do with stores and loads (R63 to R68, R145, R147, R291, R327). -/

namespace Sys2Proof.Machine

variable {s : State} {n core tag key d : Nat} {e : TStore} {r : Remote} {c : Cls}

/-! ### Keys of this part, and of a part that no route reaches -/

theorem State.keyWaits_own (own : ownKey key = true) : s.keyWaits key c = false := by simp [State.keyWaits, own]

theorem State.keyBarred_own (own : ownKey key = true) : s.keyBarred key = false := by simp [State.keyBarred, own]

theorem State.sendAccess_own (own : ownKey key = true) : s.sendAccess c core key = s := if_pos own

theorem State.homeWaits_own (moves : s.dev.trans.moves = []) (own : ownKey key = true) : s.homeWaits key = false := by
  simp [State.homeWaits, State.handoverWaits, moves, State.keyWaits_own own]

/-- A load at a home of this part is served, unless the home meets an uncorrectable error. -/
theorem State.homeAnswer_own (own : ownKey key = true) (inst n : Nat) : s.homeAnswer key inst n =
    if Config.homeEcc s.dev.tick then .faulted 0x12 else .served ((s.dev.timed.visible inst).readN key n) 0 := by
  simp [State.homeAnswer, State.keyBarred_own own, own, State.homeBytes]

/-- The device of a key of another part. -/
theorem keyDevice_of (away : key / 2 ^ 44 = d + 1) : ownKey key = false ∧ keyDevice key = d := by
  refine ⟨decide_eq_false fun own => ?_, ?_⟩
  · rw [Nat.div_eq_of_lt own] at away
    omega
  · rw [keyDevice, away, Nat.add_sub_cancel]

section
variable (away : key / 2 ^ 44 = d + 1)
include away

theorem State.keyWaits_away : s.keyWaits key c = (s.reachable d && !s.portReady d c) := by
  obtain ⟨other, device⟩ := keyDevice_of away
  simp [State.keyWaits, State.awaitsPort, other, device]

theorem State.keyBarred_away : s.keyBarred key = !s.reachable d := by
  obtain ⟨other, device⟩ := keyDevice_of away
  simp [State.keyBarred, other, device]

/-- Where no route leads to the part of a key, no flit sets out for it. -/
theorem State.sendAccess_unreachable (other : d ≠ ownDevice) (none : s.reachable d = false) : s.sendAccess c core key = s := by
  obtain ⟨notOwn, device⟩ := keyDevice_of away
  unfold State.sendAccess State.launch
  rw [if_neg (Bool.eq_false_iff.mp notOwn)]
  dsimp only
  rw [device, if_neg other]
  split
  · rfl
  next allowed =>
    have unrouted : s.routeOf d = Option.none := by
      rw [Bool.not_eq_true', Bool.not_eq_false] at allowed
      simpa [State.reachable, allowed] using none
    rw [unrouted]

end

/-! ### Acceptance (R63, R65 to R67) -/

/-- What timed memory holds once a home has accepted a store of this part. -/
def State.accepting (s : State) (e : TStore) (key : Nat) : Timed :=
  let m := s.dev.timed
  let t := s.acceptedAs e key
  { m with
    tense := if t.late && e.drop then m.tense else m.tense ++ [t]
    lateCount := if t.late && !e.qst then bumpHome m.lateCount key else m.lateCount
    acks := if e.ofCore then m.acks ++ [⟨e.core, e.run, e.drop⟩] else m.acks
    lateReports := if e.ofCore && (t.late && !e.qst) then m.lateReports ++ [⟨e.core, e.run, e.addr, t.late && e.drop, e.clause⟩]
      else m.lateReports }

theorem State.acceptStore_own (own : e.device = none) : s.acceptStore e key = s.onTimed (fun _ => s.accepting e key) := by
  unfold State.acceptStore State.tellCore State.accepting
  rw [own]
  dsimp only
  cases e.ofCore with
  | true => rfl
  | false => rfl

theorem State.forwardKey_unmoved (moves : s.dev.trans.moves = []) (key : Nat) : s.forwardKey key = key := by
  unfold State.forwardKey
  rw [moves]
  rfl

/-- A store as its home accepts it, where no page moves. -/
theorem State.acceptedAs_unmoved (moves : s.dev.trans.moves = []) (unforwarded : e.fwd = none) (home : e.home = some key) :
    s.acceptedAs e key = { e with
      accepted := s.dev.now, vis := if e.inst ≤ s.dev.now then s.dev.now + 1 else e.inst, late := decide (e.inst ≤ s.dev.now) } := by
  unfold State.acceptedAs
  rw [unforwarded, Option.getD_none, State.forwardKey_unmoved moves, home]
  dsimp only
  simp only [decide_eq_true_eq]

section
variable (moves : s.dev.trans.moves = []) (unforwarded : e.fwd = none) (home : e.home = some key)
include moves unforwarded home

theorem State.acceptedAs_late (late : e.inst ≤ s.dev.now) :
    s.acceptedAs e key = { e with accepted := s.dev.now, vis := s.dev.now + 1, late := true } := by
  rw [State.acceptedAs_unmoved moves unforwarded home, if_pos late, decide_eq_true late]

theorem State.acceptedAs_early (early : s.dev.now < e.inst) :
    s.acceptedAs e key = { e with accepted := s.dev.now, vis := e.inst, late := false } := by
  rw [State.acceptedAs_unmoved moves unforwarded home, if_neg (Nat.not_le.mpr early), decide_eq_false (Nat.not_le.mpr early)]

end

/-! ### A store in flight -/

/-- What holds a store up before its home: a gate, the port to its part, an earlier line of its host copy, or an arbiter. -/
def State.storeHeld (s : State) (e : TStore) (key : Nat) : Prop :=
  e.gate = true ∨ s.keyWaits key e.flitClass = true ∨ s.hostBehind e = true ∨ s.queued (.store e.id) = true

theorem State.hostBehind_core (core : e.src = .task ∨ e.src = .supervisor) : s.hostBehind e = false := by
  rcases core with h | h <;> simp [State.hostBehind, h]

theorem exec_accept_unhomed (found : s.dev.timed.flight[n]? = some e) (home : e.home = none) :
    exec (.homeStoreAccept n) s = .next s := by
  change execHomeStoreAccept n s = _
  simp only [execHomeStoreAccept, found, home]

section
variable (found : s.dev.timed.flight[n]? = some e) (home : e.home = some key)
include found home

theorem exec_accept_held (held : s.storeHeld e key) : exec (.homeStoreAccept n) s = .next s := by
  change execHomeStoreAccept n s = _
  unfold execHomeStoreAccept
  rw [found]
  dsimp only
  rw [home]
  exact if_pos held

variable (free : ¬s.storeHeld e key)
include free

theorem exec_accept_barred (barred : s.keyBarred key = true) : exec (.homeStoreAccept n) s =
    .next ((s.onTimed (fun m => { m with flight := dropAt m.flight n })).storeFault e 0x11) := by
  change execHomeStoreAccept n s = _
  unfold execHomeStoreAccept
  rw [found]
  dsimp only
  rw [home]
  exact (if_neg free).trans (if_pos (by simp [barred]))

variable (own : ownKey key = true)
include own

theorem exec_accept_own : exec (.homeStoreAccept n) s =
    let u := s.onTimed (fun m => { m with flight := dropAt m.flight n })
    if s.mayAccept e key = false then .next s else if Config.homeEcc s.dev.tick = true then .next (u.storeFault e 0x12)
      else .next (u.acceptStore e key) := by
  change execHomeStoreAccept n s = _
  unfold execHomeStoreAccept
  rw [found]
  dsimp only
  rw [home]
  dsimp only
  rw [State.sendAccess_own own]
  refine (if_neg free).trans ((if_neg (by simp [State.keyBarred_own own, own])).trans ?_)
  simp only [Bool.not_eq_true']

end

/-! ### The fault of a store or atomic of a core of this part (R149, R291) -/

section
variable (own : e.device = none) (src : e.src = .task ∨ e.src = .supervisor)
include own src

theorem State.storeFault_atomic {a : AtomOp} (atomic : e.atomic = some a) (c : BitVec 8) :
    s.storeFault e c = s.setRemote e.core a.tag (.faulted c) := by
  unfold State.storeFault
  rw [own, atomic]
  rcases src with src | src <;> rw [src]

theorem State.storeFault_plain (plain : e.atomic = none) (copy : e.copy = none) (c : BitVec 8) : s.storeFault e c =
    s.asCore e.core (fun s =>
      s.deferFor ⟨decide (e.src = .task), e.token, e.run, some e.part, e.sup⟩ ⟨c, e.addr, e.clause, none⟩) := by
  unfold State.storeFault
  rw [own, plain, copy]
  rcases src with src | src <;> rw [src]

end

/-! ### A load before its home (R68, R70), and a miss of GLOBAL-RO (R56) -/

theorem State.anyRemote_core (found : s.remoteOf core tag = some r) : s.anyRemote core tag = some r := by
  unfold State.anyRemote
  rw [found]

/-- What holds a load or a miss up before its home: a gate, a hand-over or the port to its part, or an arbiter. -/
def State.accessHeld (s : State) (core tag : Nat) (r : Remote) (key : Nat) : Prop :=
  r.gate = true ∨ s.homeWaits key = true ∨ s.queued (.access core tag) = true

section
variable (found : s.remoteOf core tag = some r) (home : r.stat = .home key)
include found home

section
variable {t : Nat} (inst : r.inst = some t)
include inst

theorem exec_load_held (held : s.dev.now < t ∨ s.accessHeld core tag r key) : exec (.homeLoadRequest core tag) s = .next s := by
  change execHomeLoadRequest core tag s = _
  unfold execHomeLoadRequest
  rw [State.anyRemote_core found]
  dsimp only
  rw [home, inst]
  exact if_pos held

theorem exec_load_answered (begun : t ≤ s.dev.now) (free : ¬s.accessHeld core tag r key) : exec (.homeLoadRequest core tag) s =
    .next ((s.sendAccess .c1 core key).setRemote core tag (s.homeAnswer key t r.width)) := by
  change execHomeLoadRequest core tag s = _
  unfold execHomeLoadRequest
  rw [State.anyRemote_core found]
  dsimp only
  rw [home, inst]
  exact if_neg fun held => held.elim (Nat.not_lt.mpr begun) free

theorem exec_roFill_timed : exec (.roCacheFill core tag) s = .next s := by
  change execRoCacheFill core tag s = _
  unfold execRoCacheFill
  rw [State.anyRemote_core found]
  dsimp only
  rw [home, inst]

end

variable (untimed : r.inst = none)
include untimed

theorem exec_roFill_held (held : s.accessHeld core tag r key) : exec (.roCacheFill core tag) s = .next s := by
  change execRoCacheFill core tag s = _
  unfold execRoCacheFill
  rw [State.anyRemote_core found]
  dsimp only
  rw [home, untimed]
  exact if_pos held

theorem exec_load_untimed : exec (.homeLoadRequest core tag) s = .next s := by
  change execHomeLoadRequest core tag s = _
  unfold execHomeLoadRequest
  rw [State.anyRemote_core found]
  dsimp only
  rw [home, untimed]

/-- A miss at a home of this part: its line fills the cache of the core's shingle, unless the home meets an uncorrectable error. -/
theorem exec_roFill_own (free : ¬s.accessHeld core tag r key) (own : ownKey key = true) : exec (.roCacheFill core tag) s =
    let line := (s.dev.timed.visible s.dev.now).readN (key / 64 * 64) 64
    if Config.homeEcc s.dev.tick then .next (s.setRemote core tag (.faulted 0x12))
    else .next ((s.roPut (shingleOf core) key line).setRemote core tag (.served ((line.drop (key % 64)).take r.width) 0)) := by
  have lineOwn : ownKey (64 * lineOf key) = true := decide_eq_true ((Nat.mul_div_le key 64).trans_lt (of_decide_eq_true own))
  change execRoCacheFill core tag s = _
  unfold execRoCacheFill
  rw [State.anyRemote_core found]
  dsimp only
  rw [home, untimed]
  refine (if_neg free).trans ?_
  rw [State.homeAnswer_own lineOwn, State.sendAccess_own own, lineOf, Nat.mul_comm 64]
  cases Config.homeEcc s.dev.tick <;> rfl

end

end Sys2Proof.Machine
end

section
/-! SUPPORT. Reports of late and tied stores at a core (R66, R67, R74). -/

namespace Sys2Proof.Machine

variable {s : State} {n k : Nat} {r : Report} {c : Core} {f : Core → Core} {i : Fin 6}

/-! ### A report counted -/

theorem Core.pendCause_sets (on : c.sw.en.getLsbD i.val = true) (v : Word) : (c.pendCause i v).sw.pend.getLsbD i.val = true := by
  unfold Core.pendCause
  rw [if_pos on]
  fin_cases i <;> simp

theorem Core.runs_of {x : Ctx} {run : Nat} (ctx : c.x.ctx = some x) (same : x.run = run) : c.runs run = true := by
  unfold Core.runs
  rw [ctx]
  exact decide_eq_true same

/-- A core told of a cause for the task of a start: its status words alone change, and the cause is pending where the task runs. -/
def Core.told (c : Core) (i : Fin 6) (r : Report) : Core := if c.runs r.run then c.pendCause i r.addr else c

theorem Core.told_ends (c : Core) (i : Fin 6) (r : Report) : c.told i r = { c with sw := (c.told i r).sw } ∧
    (c.told i r).sw.late = c.sw.late ∧ (c.told i r).sw.tie = c.sw.tie ∧
    (c.runs r.run = true → c.sw.en.getLsbD i.val = true → (c.told i r).sw.pend.getLsbD i.val = true) := by
  unfold Core.told
  split
  next runs =>
    refine ⟨Core.pendCause_core _ _ _, ?_, ?_, fun _ on => Core.pendCause_sets on _⟩
    all_goals
      unfold Core.pendCause
      split <;> rfl
  next idle => exact ⟨rfl, rfl, rfl, fun runs => absurd runs idle⟩

/-- A late report is counted, and a notice for the task that still runs. -/
theorem Core.lateReport_ends (c : Core) (r : Report) : c.lateReport r = { c with sw := (c.lateReport r).sw } ∧
    (c.lateReport r).sw.late = countUp c.sw.late ∧
    (c.runs r.run = true → c.sw.en.getLsbD 1 = true → (c.lateReport r).sw.pend.getLsbD 1 = true) := by
  have reported : c.lateReport r = Core.told { c with sw := { c.sw with late := countUp c.sw.late } } 1 r := rfl
  obtain ⟨core, late, -, pends⟩ := Core.told_ends { c with sw := { c.sw with late := countUp c.sw.late } } 1 r
  rw [reported]
  exact ⟨core, late, pends⟩

/-- A tie report is counted, and a notice for the task that still runs. -/
theorem Core.tieReport_ends (c : Core) (r : Report) : c.tieReport r = { c with sw := (c.tieReport r).sw } ∧
    (c.tieReport r).sw.tie = countUp c.sw.tie ∧
    (c.runs r.run = true → c.sw.en.getLsbD 5 = true → (c.tieReport r).sw.pend.getLsbD 5 = true) := by
  have reported : c.tieReport r = Core.told { c with sw := { c.sw with tie := countUp c.sw.tie } } 5 r := rfl
  obtain ⟨core, -, tie, pends⟩ := Core.told_ends { c with sw := { c.sw with tie := countUp c.sw.tie } } 5 r
  rw [reported]
  exact ⟨core, tie, pends⟩

/-! ### The core of a task -/

/-- Where a core of a table, or an unlisted one that runs nothing, changes but not what it runs, the first core that runs a task stays
the first. -/
theorem find_runs_aset {run : Nat} {d : Core} (keeps : ∀ c, (f c).runs run = c.runs run) (idle : d.runs run = false) (cs : Assoc Core) :
    ((aset cs k (f ((aget cs k).getD d))).find? (fun e => e.2.runs run)).map (fun e => e.1) =
      (cs.find? (fun e => e.2.runs run)).map (fun e => e.1) := by
  induction cs with
  | nil => simp [aset, aget, keeps, idle]
  | cons e cs ih =>
    obtain ⟨j, c⟩ := e
    unfold aset aget
    by_cases before : k < j
    · simp [before, Nat.ne_of_lt before, keeps, idle]
    · by_cases same : k = j
      · subst same
        cases runs : c.runs run <;> simp [keeps, runs]
      · simp only [before, same, if_false]
        cases runs : c.runs run
        · simpa [runs] using ih
        · simp [runs]

/-- What changes a core but not what it runs leaves every task where it was. -/
theorem State.coreOf_onCore (keeps : ∀ c run, (f c).runs run = c.runs run) (id : ∀ c, (f c).id = c.id) (h : s.Numbered)
    (run : Nat) : (s.onCore k f).coreOf run = s.coreOf run := by
  have own : (f (s.coreAt k)).id = k := (id _).trans (h k)
  unfold State.coreOf State.onCore State.putCore
  rw [own]
  by_cases acting : k = s.core.id
  · rw [if_pos acting, show s.coreAt k = s.core from if_pos acting]
    dsimp only
    rw [keeps, id]
  · rw [if_neg acting]
    dsimp only
    rw [show s.coreAt k = (aget s.cores k).getD (Core.reset k) from if_neg acting, find_runs_aset (fun c => keeps c run) rfl]

/-! ### A report arrives -/

theorem exec_lateReport (found : s.dev.timed.lateReports[n]? = some r) (gate : s.gated r.core = false) : exec (.lateReport n) s =
    .next (((s.onTimed (fun m => { m with lateReports := dropAt m.lateReports n })).onCore r.core (fun c => c.lateReport r)).lateDrop r) := by
  change execLateReport n s = _
  simp only [execLateReport, found, gate, Bool.false_eq_true, if_false]

theorem exec_tieReport (found : s.dev.timed.tieReports[n]? = some r) (gate : s.gated r.core = false) : exec (.tieReport n) s =
    .next ((s.onTimed (fun m => { m with tieReports := dropAt m.tieReports n })).onCore r.core (fun c => c.tieReport r)) := by
  change execTieReport n s = _
  simp only [execTieReport, found, gate, Bool.false_eq_true, if_false]

theorem exec_storeAck {a : Ack} (found : s.dev.timed.acks[n]? = some a) (gate : s.gated a.core = false) :
    exec (.storeAck n) s = .next (s.onTimed (fun m => { m with acks := dropAt m.acks n })) := by
  change execStoreAck n s = _
  simp only [execStoreAck, found, gate, Bool.false_eq_true, if_false]

theorem State.lateDrop_timed (s : State) (r : Report) : (s.lateDrop r).dev.timed = s.dev.timed := by
  unfold State.lateDrop State.deferTask
  split
  · split
    · rw [State.onCore_dev]
    · rfl
  · rfl

/-- The fault of a dropped store reaches its task, and status words of no core. -/
theorem State.lateDrop_coreAt (h : s.Numbered) (r : Report) (j : Nat) : ((s.lateDrop r).coreAt j).sw = (s.coreAt j).sw ∧
    (s.coreOf r.run = some j → r.dropped = true →
      ((s.lateDrop r).coreAt j).x.deferred = (s.coreAt j).x.deferred ++ [⟨0x13, r.addr, r.clause, none⟩]) := by
  unfold State.lateDrop State.deferTask
  split
  next dropped =>
    split
    next k found =>
      rw [State.onCore_coreAt h k (f := fun c => c.defer ⟨0x13, r.addr, r.clause, none⟩) (fun _ => rfl) j]
      refine ⟨?_, fun at_j _ => ?_⟩
      · split <;> rfl
      · rw [if_pos (Option.some.inj (at_j.symm.trans found))]
        rfl
    next nowhere => exact ⟨rfl, fun at_j => nomatch at_j.symm.trans nowhere⟩
  next kept => exact ⟨rfl, fun _ dropped => absurd dropped kept⟩

end Sys2Proof.Machine
end

section
/-! SUPPORT. Replies at a core (R130, R147, R149, R173), and purges (R76, R278). -/

namespace Sys2Proof.Machine

variable {s : State} {n k tag : Nat} {r : Remote} {d : RegNo} {z hand : Bool} {v w : Word} {f : FpFlags}

/-! ### A register written twice -/

theorem markBit_markBit (x : Word) (n : Nat) : markBit (markBit x n) n = markBit x n := by
  unfold markBit
  rw [BitVec.or_assoc, BitVec.or_self]

theorem State.setG_setG (s : State) (d : RegNo) (v w : Word) : (s.setG d v).setG d w = s.setG d w := by
  unfold State.setG Core.writeG
  split
  · rfl
  next nonzero =>
    simp only [Regs.writeG, if_neg nonzero, ExecState.mark, markBit_markBit, Vector.set_set]

theorem State.setG_inUse (s : State) (d x : RegNo) (v : Word) (hand : Bool) :
    (s.setG d v).core.inUse hand x = s.core.inUse hand x := by
  unfold Core.inUse
  rw [(s.performed_setG d v).handBank]

theorem Core.readScalar_other {c : Core} (h : c.inUse hand d = false) :
    c.readScalar hand d = c.r.bank[(d.toNat - 12) % 8]'(Nat.mod_lt _ (by decide)) := if_neg (Bool.eq_false_iff.mp h)

/-- A register of a bank that takes a value and then the value with its strides takes that alone. -/
theorem State.writeScalar_addStride (dst : r.dst = .g d z) (v : Word) :
    (s.writeScalar r.hand d v).addStride r = s.writeScalar r.hand d (v + r.stride) := by
  unfold State.addStride
  rw [dst]
  dsimp only [RDst.scalar]
  by_cases still : r.stride = 0
  · rw [if_pos still, still, add_zero]
  · rw [if_neg still]
    cases used : s.core.inUse r.hand d with
    | true =>
      have used_v : (s.setG d v).core.inUse r.hand d = true := (s.setG_inUse d d v r.hand).trans used
      rw [State.writeScalar_inUse used, State.writeScalar_inUse used, State.writeScalar_inUse used_v, Core.readScalar_inUse used_v,
        State.setG_setG]
      by_cases zero : d = 0
      · subst zero
        rfl
      · exact congrArg (fun x => s.setG d (x + r.stride)) (State.g_setG_same s v zero)
    | false =>
      let bank := s.core.r.bank.set ((d.toNat - 12) % 8) v (Nat.mod_lt _ (by decide))
      have read : ({ s.core with r := { s.core.r with bank := bank } } : Core).readScalar r.hand d = v :=
        (Core.readScalar_other (c := { s.core with r := { s.core.r with bank := bank } }) used).trans (Vector.getElem_set_self _)
      rw [State.writeScalar_other used, State.writeScalar_other used]
      refine (State.writeScalar_other (s := { s with core := { s.core with r := { s.core.r with bank := bank } } }) used _).trans ?_
      rw [read]
      dsimp only
      rw [Vector.set_set]

/-! ### A reply -/

/-- The acting core with an access struck off its list. -/
def State.answeredTo (s : State) (r : Remote) : State :=
  s.onEng (fun e => { e with remote := e.remote.filter (fun x => decide (x.tag ≠ r.tag)) })

/-- The value that a reply gives a scalar register: the bytes as its load extends them, and the strides that wait for it. -/
theorem State.replyHere_served {bs : List Byte} (stat : r.stat = .served bs f) (dst : r.dst = .g d z) : s.replyHere r =
    ((s.answeredTo r).writeScalar r.hand d ((if z then BitVec.ofNat 64 (natOf bs % 2 ^ (8 * r.width))
      else (BitVec.ofNat (8 * r.width) (natOf bs)).signExtend 64) + r.stride)).raise f := by
  have value : scalarValue r.width z bs = if z then BitVec.ofNat 64 (natOf bs % 2 ^ (8 * r.width))
      else (BitVec.ofNat (8 * r.width) (natOf bs)).signExtend 64 := by
    cases z
    · exact extend_signed _ _
    · rfl
  have writes : (s.answeredTo r).writeReply r.dst r.hand r.width bs = (s.answeredTo r).writeScalar r.hand d (scalarValue r.width z bs) := by
    rw [dst]
    rfl
  unfold State.replyHere
  rw [stat]
  exact congrArg (fun t => State.raise t f) ((congrArg (fun t => State.addStride t r) writes).trans
    ((State.writeScalar_addStride dst _).trans (congrArg (fun v => (s.answeredTo r).writeScalar r.hand d (v + r.stride)) value)))

theorem State.addStride_still (still : r.stride = 0) : s.addStride r = s := by
  unfold State.addStride
  split
  · exact if_pos still
  · rfl

theorem State.replyHere_faulted {c : BitVec 8} (stat : r.stat = .faulted c) (still : r.stride = 0) : s.replyHere r =
    if r.ofCtx = false ∧ s.core.x.ctx.isSome = true then s.answeredTo r
      else { s.answeredTo r with core := (s.answeredTo r).core.defer ⟨c, r.addr, r.clause, none⟩ } := by
  unfold State.replyHere
  rw [stat]
  refine (State.addStride_still still).trans (if_congr ?_ rfl rfl)
  rw [Bool.and_eq_true, Bool.not_eq_true']

theorem exec_reply_held (found : s.remoteOf s.core.id tag = some r)
    (held : r.answered = false ∨ s.replyGated s.core.id r = true ∨ s.holdsReplies s.core.id = true) :
    exec (.remoteReply s.core.id tag) s = .next s := by
  change execRemoteReply s.core.id tag s = _
  simp only [execRemoteReply, found]
  refine if_neg ?_
  rcases held with h | h | h <;> simp [h]

theorem exec_reply (listed : s.core.id < coreCount) (found : s.remoteOf s.core.id tag = some r) (answered : r.answered = true)
    (gate : s.replyGated s.core.id r = false) (stands : s.holdsReplies s.core.id = false)
    (stays : (s.replyHere r).core.id = s.core.id) :
    exec (.remoteReply s.core.id tag) s = .next (s.replyHere r) := by
  change execRemoteReply s.core.id tag s = _
  simp only [execRemoteReply, found]
  rw [if_pos (by simp [answered, gate, stands]), State.asCore_self listed stays]

/-! ### Purges -/

theorem Purge.takes_iff (p : Purge) (t : TStore) :
    p.takes t = true ↔ t.device = none ∧ t.src = .task ∧ t.token = p.token ∧ t.part = p.part := decide_eq_true_iff

/-- A message changes the fabric alone. -/
theorem State.route_fab (s : State) (m : Message) : s.route m = s.onDev (fun d => { d with fab := (s.route m).dev.fab }) := by
  unfold State.route State.launch
  split
  · rfl
  · split
    · rfl
    · split
      · rfl
      · split <;> rfl

theorem State.foldl_route_fab (l : List Nat) (m : Nat → Message) (s : State) : l.foldl (fun s d => s.route (m d)) s =
    s.onDev (fun d => { d with fab := (l.foldl (fun s d => s.route (m d)) s).dev.fab }) := by
  induction l generalizing s with
  | nil => rfl
  | cons a l ih =>
    rw [List.foldl_cons, ih, s.route_fab (m a)]
    rfl

/-- The devices of the parts whose homes hold an entry of a purged task. -/
def State.purgeParts (s : State) (p : Purge) : List Nat :=
  ((s.dev.timed.tense.filter (fun t => p.takes t && !ownKey t.base)).map (fun t => keyDevice t.base)).eraseDups

theorem State.purgeParts_near {p : Purge} (near : ∀ e ∈ s.dev.timed.tense, p.takes e = true → ownKey e.base = true) :
    s.purgeParts p = [] := by
  have none : s.dev.timed.tense.filter (fun t => p.takes t && !ownKey t.base) = [] := by
    rw [List.filter_eq_nil_iff]
    intro e held far
    rw [Bool.and_eq_true, Bool.not_eq_true'] at far
    exact Bool.false_ne_true (far.2.symm.trans (near e held far.1))
  rw [State.purgeParts, none]
  rfl

section
variable {p : Purge} (found : s.dev.timed.purges[n]? = some p)
include found

theorem exec_purgeSend_waits (left : ∃ e ∈ s.dev.timed.flight, p.takes e = true) : exec (.taskPurgeSend n) s = .next s := by
  change execTaskPurgeSend n s = _
  unfold execTaskPurgeSend
  rw [found]
  exact if_pos (List.any_eq_true.mpr left)

theorem exec_purgeSend (clear : ∀ e ∈ s.dev.timed.flight, p.takes e = false) : exec (.taskPurgeSend n) s =
    .next ((s.purgeParts p).foldl (fun s d => s.route ⟨.c0, coreEndpoint p.core 0, 2 ^ 33, d, .direct, .purge p.token⟩)
      (s.onTimed (fun m => { m with purges := setAt m.purges n { p with sent := true } }))) := by
  change execTaskPurgeSend n s = _
  unfold execTaskPurgeSend
  rw [found]
  exact if_neg (by simpa using clear)

theorem exec_purgeApply_unsent (unsent : p.sent = false) : exec (.purgeApply n k) s = .next s := by
  change execPurgeApply n k s = _
  simp only [execPurgeApply, found, unsent]
  rfl

theorem exec_purgeApply (sent : p.sent = true) : exec (.purgeApply n k) s = .next (s.onTimed (fun m => { m with
    tense := m.tense.filter (fun t => !(p.takes t && decide ((homeOf t.base).getD k = k))) })) := by
  change execPurgeApply n k s = _
  simp only [execPurgeApply, found, sent]
  rfl

theorem exec_faultPolicy_waits (waits : p.sent = false ∨ s.quiesced = true) : exec (.faultPolicyApply n) s = .next s := by
  change execFaultPolicyApply n s = _
  unfold execFaultPolicyApply
  rw [found]
  refine if_pos ?_
  rcases waits with h | h <;> simp [h]

section
variable (sent : p.sent = true) (awake : s.quiesced = false) (clear : ∀ e ∈ s.dev.timed.tense, p.takes e = false)
include sent awake clear

theorem exec_faultPolicy : exec (.faultPolicyApply n) s =
    let u := s.onTimed (fun m => { m with purges := dropAt m.purges n })
    if p.cause = 0 then .next u else match s.tcbOf p.part p.node p.wid with
      | some t => .next (u.applyPolicy t p.cause p.passed)
      | none => .next u := by
  have none : s.dev.timed.tense.any p.takes = false := by simpa using clear
  change execFaultPolicyApply n s = _
  unfold execFaultPolicyApply
  rw [found]
  exact if_neg (by simp [sent, awake, none])

end

end

/-- A task of policy hold that no order awaits is marked HELD (R279). -/
theorem State.applyPolicy_hold {t : Tcb} {c : BitVec 8} {passed : Bool} {l : Loaded} {d : NodeDesc}
    (node : s.nodeFor t.part t.node = some (l, d)) (hold : d.policy = .hold) (abort : t.abortPending = false)
    (rel : t.relPending = false) (fault : c ≠ 0x19) :
    s.applyPolicy t c passed = s.markHeld t := by
  have again : ¬(t.relPending = true ∨ (c = 0x19 ∧ (!passed) = true)) := fun h => h.elim (by simp [rel]) fun h => fault h.1
  unfold State.applyPolicy
  rw [node]
  dsimp only
  rw [if_neg (Bool.eq_false_iff.mp abort), if_neg again, hold]
  exact congrArg (fun u => State.markHeld u t) (if_neg fun h => fault h.1)

/-- Marking a task HELD leaves timed memory alone, and its TCB HELD. -/
theorem State.markHeld_ends (s : State) (t : Tcb) : (s.markHeld t).dev.timed = s.dev.timed ∧ ∃ y ∈ (s.markHeld t).dev.disp.tcbs,
    (y.part, y.node, y.wid, y.gen) = (t.part, t.node, t.wid, t.gen) ∧ y.st = .held := by
  let z : Tcb := { t with
    st := .held, heldRead := false, heldOrder := match s.partition t.part with | some q => q.nextHeld | none => 0 }
  have tcbs : (s.markHeld t).dev.disp.tcbs = (s.putTcb z).dev.disp.tcbs := by
    unfold State.markHeld State.onPart State.raiseVector State.onDisp
    dsimp only [State.onDev]
    split <;> rfl
  exact ⟨rfl, z, tcbs.symm ▸ s.mem_putTcb z, rfl, rfl⟩

end Sys2Proof.Machine
end

section
/-! CERTIFICATE. What homes, reports, replies and purges do. -/

open Sys2Proof Sys2Proof.Machine

/-- Settles O43: a store or a load before its home by what holds it up (`exec_accept_own`, `exec_load_answered`), a report by the core
and the task that it finds (`State.lateDrop_coreAt`), a reply by its kind (`State.replyHere_served`), and a purge step by step. -/
theorem homeResults : Obligations.HomeResults := by
  intro s n core tag m now
  refine ⟨?_, ?_, ?_, ?_, ?_, ?_, ?_, ?_, ?_, ?_, ?_, ?_, ?_⟩
  -- A store is accepted.
  · intro e key found home plain moves unforwarded gate own here room behind queued ecc
    have free : ¬s.storeHeld e key := by simp [State.storeHeld, gate, behind, queued, State.keyWaits_own here]
    let u := s.onTimed (fun m => { m with flight := dropAt m.flight n })
    have asLate := State.acceptedAs_late (s := u) moves unforwarded home
    have asEarly := State.acceptedAs_early (s := u) moves unforwarded home
    have ofCore (core : e.src = .task ∨ e.src = .supervisor) : e.ofCore = true := decide_eq_true core
    refine ⟨u.accepting e key, ?_, rfl, rfl, fun late drop => ?_, fun late keep => ?_, fun early => ⟨?_, ?_⟩, fun late plain core => ?_,
      fun core => ?_⟩
    · rw [exec_accept_own found home free here]
      simp only [room, ecc, Bool.true_eq_false, Bool.false_eq_true, if_false]
      rw [State.acceptStore_own own]
      rfl
    · rw [State.accepting, asLate late, drop]
      rfl
    · rw [State.accepting, asLate late]
      exact if_neg (by simp [keep])
    · rw [State.accepting, asEarly early]
      rfl
    · rw [State.accepting, asEarly early]
      exact if_neg (by simp)
    · rw [State.accepting, asLate late, ofCore core, plain]
      rfl
    · rw [State.accepting, ofCore core]
      rfl
  -- A store waits.
  · intro e found waits
    cases home : e.home with
    | none => exact exec_accept_unhomed found home
    | some key =>
      by_cases held : s.storeHeld e key
      · exact exec_accept_held found home held
      · rcases waits with none | gate | behind | queued | ⟨key', home', own, full⟩
        · exact nomatch home.symm.trans none
        · exact absurd (.inl gate) held
        · exact absurd (.inr (.inr (.inl behind))) held
        · exact absurd (.inr (.inr (.inr queued))) held
        · obtain rfl : key = key' := Option.some.inj (home.symm.trans home')
          rw [exec_accept_own found home held own]
          exact if_pos full
  -- Its home meets an uncorrectable error.
  · intro e key found home gate own core here room queued ecc u
    have free : ¬s.storeHeld e key := by simp [State.storeHeld, gate, State.hostBehind_core core, queued, State.keyWaits_own here]
    have refused : exec (.homeStoreAccept n) s = .next (u.storeFault e 0x12) := by
      rw [exec_accept_own found home free here]
      simp only [room, ecc, Bool.true_eq_false, if_false, if_true]
      rfl
    refine ⟨fun a atomic => ?_, fun plain copy => ?_⟩
    · rw [refused, State.storeFault_atomic own core atomic]
    · rw [refused, State.storeFault_plain own core plain copy]
  -- A load of an instant that has begun.
  · intro r key t found home inst begun gate own moves queued
    have free : ¬s.accessHeld core tag r key := by simp [State.accessHeld, gate, queued, State.homeWaits_own moves own]
    refine ⟨_, (exec_load_answered found home inst begun free).trans (by rw [State.sendAccess_own own]), ?_⟩
    rw [State.homeAnswer_own own]
    split
    · exact .inl rfl
    · exact .inr rfl
  -- A load of an instant to come.
  · intro r key t found home inst early
    exact exec_load_held found home inst (.inl early)
  -- A home on another part.
  · intro key d small other away moves
    refine ⟨fun reach => ⟨fun e found home full => ?_, fun r found home full => ?_⟩,
      fun unreached => ⟨fun e a found home gate own src queued atomic => ?_, fun r t found home inst begun gate queued => ?_⟩⟩
    · refine exec_accept_held found home (.inr (.inl ?_))
      rw [State.keyWaits_away away, reach]
      exact congrArg (!·) full
    · have held : s.accessHeld core tag r key := .inr (.inl (by simp [State.homeWaits, State.keyWaits_away away, reach, full]))
      cases inst : r.inst with
      | none => exact ⟨exec_load_untimed found home inst, exec_roFill_held found home inst held⟩
      | some t => exact ⟨exec_load_held found home inst (.inr held), exec_roFill_timed found home inst⟩
    · have free : ¬s.storeHeld e key := by
        simp [State.storeHeld, gate, State.hostBehind_core src, queued, State.keyWaits_away away, unreached]
      rw [exec_accept_barred found home free (by rw [State.keyBarred_away away, unreached]; rfl), State.storeFault_atomic own src atomic]
    · have free : ¬s.accessHeld core tag r key := by
        simp [State.accessHeld, gate, queued, State.homeWaits, State.handoverWaits, moves, State.keyWaits_away away, unreached]
      rw [exec_load_answered found home inst begun free, State.sendAccess_unreachable away other unreached, State.homeAnswer,
        State.keyBarred_away away, unreached]
      rfl
  -- A miss of GLOBAL-RO.
  · intro r key found home untimed gate own moves queued
    have free : ¬s.accessHeld core tag r key := by simp [State.accessHeld, gate, queued, State.homeWaits_own moves own]
    rw [exec_roFill_own found home untimed free own]
    dsimp only
    split
    · exact .inl rfl
    · exact .inr ⟨_, rfl, rfl, rfl⟩
  -- An acknowledgement.
  · intro a found gate
    exact exec_storeAck found gate
  -- A late report.
  · intro r found gate numbered
    let u := s.onTimed (fun m => { m with lateReports := dropAt m.lateReports n })
    let v := u.onCore r.core (fun c => c.lateReport r)
    have id (c : Core) : (c.lateReport r).id = c.id := by rw [(c.lateReport_ends r).1]
    have runs (c : Core) (run : Nat) : (c.lateReport r).runs run = c.runs run := by rw [(c.lateReport_ends r).1]; rfl
    have at_core (j : Nat) : v.coreAt j = if j = r.core then (s.coreAt j).lateReport r else s.coreAt j :=
      State.onCore_coreAt (s := u) numbered r.core id j
    have told : v.coreAt r.core = (s.coreAt r.core).lateReport r := (at_core r.core).trans (if_pos rfl)
    have numbered_v : v.Numbered := State.onCore_numbered (s := u) numbered r.core id
    obtain ⟨-, counts, pends⟩ := (s.coreAt r.core).lateReport_ends r
    refine ⟨v.lateDrop r, exec_lateReport found gate, ?_, ?_, fun x ctx same on => ?_, fun k stands dropped => ?_⟩
    · rw [State.lateDrop_timed, State.onCore_dev]
      rfl
    · rw [(State.lateDrop_coreAt numbered_v r r.core).1, told, counts]
    · rw [(State.lateDrop_coreAt numbered_v r r.core).1, told]
      exact pends (Core.runs_of ctx same) on
    · have stands_v : v.coreOf r.run = some k := (State.coreOf_onCore (s := u) runs id numbered r.run).trans stands
      rw [(State.lateDrop_coreAt numbered_v r k).2 stands_v dropped, at_core k]
      split
      · rw [((s.coreAt k).lateReport_ends r).1]
      · rfl
  -- A tie report.
  · intro r found gate numbered
    let u := s.onTimed (fun m => { m with tieReports := dropAt m.tieReports n })
    have id (c : Core) : (c.tieReport r).id = c.id := by rw [(c.tieReport_ends r).1]
    have told : (u.onCore r.core (fun c => c.tieReport r)).coreAt r.core = (s.coreAt r.core).tieReport r :=
      (State.onCore_coreAt (s := u) numbered r.core id r.core).trans (if_pos rfl)
    obtain ⟨-, counts, pends⟩ := (s.coreAt r.core).tieReport_ends r
    refine ⟨_, exec_tieReport found gate, ?_, ?_, fun x ctx same on => ?_⟩
    · rw [State.onCore_dev]
      rfl
    · rw [told, counts]
    · rw [told]
      exact pends (Core.runs_of ctx same) on
  -- A reply that waits.
  · intro r listed found held
    exact exec_reply_held found held
  -- A reply at its core.
  · intro r gate stands listed found e u
    refine ⟨fun bs f d z stat dst => ?_, fun c stat still ofCtx ctx => ?_, fun c stat still goes => ?_⟩
    · intro v
      have answered : r.answered = true := by rw [Remote.answered, stat]
      have replies : s.replyHere r = (u.writeScalar r.hand d v).raise f := State.replyHere_served stat dst
      have stays : (s.replyHere r).core.id = s.core.id := by
        rw [replies]
        exact (State.performed_writeScalar u r.hand d v).id
      have reached := exec_reply listed found answered gate stands stays
      rw [replies] at reached
      refine ⟨fun used => ?_, fun other => ?_⟩
      · rw [reached, State.writeScalar_inUse (s := u) used]
      · rw [reached, State.writeScalar_other (s := u) other]
    · have answered : r.answered = true := by rw [Remote.answered, stat]
      have replies : s.replyHere r = u := (State.replyHere_faulted stat still).trans (if_pos ⟨ofCtx, ctx⟩)
      rw [exec_reply listed found answered gate stands (by rw [replies]), replies]
    · have answered : r.answered = true := by rw [Remote.answered, stat]
      have replies := (State.replyHere_faulted (s := s) stat still).trans (if_neg fun none => goes.elim
        (fun ctx => by simp [ctx] at none) (fun ctx => by simp [ctx] at none))
      rw [exec_reply listed found answered gate stands (by rw [replies]; rfl), replies]
      rfl
  -- A purge.
  · intro p found mine
    have takes (e : TStore) : p.takes e = true ↔ mine e := p.takes_iff e
    have spares (e : TStore) (other : ¬mine e) : p.takes e = false := Bool.eq_false_iff.mpr (mt (takes e).mp other)
    refine ⟨fun ⟨e, flies, its⟩ => exec_purgeSend_waits found ⟨e, flies, (takes e).mpr its⟩, fun clear => ?_, fun sent => ?_,
      fun unsent => ?_, fun sent update => ?_, fun sent awake clear retired => ?_,
      fun z l d sent awake clear fault notTaken tcb part node hold rel abort => ?_⟩
    · refine ⟨_, exec_purgeSend found fun e flies => spares e (clear e flies), ?_, ?_, ?_, fun near => ?_⟩
      · rw [State.foldl_route_fab]
        rfl
      · rw [State.foldl_route_fab]
        rfl
      · rw [State.foldl_route_fab]
        rfl
      · rw [State.purgeParts_near fun e held its => near e held ((takes e).mp its)]
        rfl
    · refine ⟨_, exec_purgeApply found sent, rfl, fun e => List.mem_filter.trans (and_congr_right' ?_)⟩
      rw [Bool.not_eq_true', Bool.eq_false_iff, Ne, Bool.and_eq_true, takes, decide_eq_true_iff]
    · exact ⟨exec_purgeApply_unsent found unsent, exec_faultPolicy_waits found (.inl unsent)⟩
    · exact exec_faultPolicy_waits found (.inr update)
    · rw [exec_faultPolicy found sent awake fun e held => spares e (clear e held)]
      exact if_pos retired
    · let u := s.onTimed (fun m => { m with purges := dropAt m.purges n })
      have applies : exec (.faultPolicyApply n) s = .next (u.markHeld z) := by
        rw [exec_faultPolicy found sent awake fun e held => spares e (clear e held), tcb]
        refine (if_neg fault).trans ?_
        rw [← State.applyPolicy_hold (s := u) (passed := p.passed) (part.symm ▸ node) hold abort rel notTaken]
      obtain ⟨timed, held⟩ := u.markHeld_ends z
      exact ⟨_, applies, congrArg Timed.purges timed, held⟩

end

section
/-! SUPPORT. Floating-point values that their format holds (R88, R89, R97, R99), and the lanes of the floating-point instructions
(R175, R178, R180). -/

namespace Sys2Proof.Machine

/-! ### A value that the format holds -/

/-- A significand that is normal, or stands at the exponent of the subnormals, is rounded to itself (R99). -/
theorem fpRound_held {f : FpFmt} {m : Nat} {e : Int} (prec : 1 ≤ f.prec) (fits : m < 2 ^ f.prec) (low : f.emin ≤ e)
    (held : e = f.emin ∨ 2 ^ (f.prec - 1) ≤ m) (finite : (e - f.emin).toNat * 2 ^ (f.prec - 1) + m < f.infBits) (r : Rnd) (neg : Bool) :
    fpRound f r (.fin neg m e) = (f.signBit neg + ((e - f.emin).toNat * 2 ^ (f.prec - 1) + m), 0) := by
  by_cases zero : m = 0
  · have bottom : e = f.emin := held.resolve_right (by simp [zero])
    simp [fpRound, zero, bottom]
  have below : Nat.log2 m < f.prec := (Nat.log2_lt zero).mpr fits
  have unit : max (e + (Nat.log2 m : Int) - ((f.prec : Int) - 1)) f.emin = e := by
    rcases held with bottom | normal
    · omega
    · have top : f.prec - 1 ≤ Nat.log2 m := (Nat.le_log2 zero).mpr normal
      omega
  unfold fpRound
  simp only [zero, unit, if_false, le_refl, if_true, sub_self, Int.toNat_zero, pow_zero, Nat.mul_one, Nat.not_le.mpr finite,
    Bool.and_false, Bool.false_eq_true]
  rfl

section
variable {f : FpFmt} {bits : Nat} (width : 1 ≤ f.width) (fits : bits < 2 ^ f.width)
include width fits

/-- The bits of a value are its sign's and its magnitude's. -/
theorem FpFmt.signBit_add : f.signBit (bitOf bits (f.width - 1)) + bits % 2 ^ (f.width - 1) = bits := by
  obtain ⟨n, e⟩ : ∃ n, f.width = n + 1 := ⟨f.width - 1, by omega⟩
  rw [e, Nat.pow_succ] at fits
  have split := Nat.div_add_mod bits (2 ^ n)
  have top : bits / 2 ^ n < 2 := Nat.div_lt_of_lt_mul fits
  rw [FpFmt.signBit, bitOf, e, Nat.add_sub_cancel]
  obtain zero | one := Nat.le_one_iff_eq_zero_or_eq_one.mp (Nat.le_of_lt_succ top)
  · rw [zero] at split ⊢
    simpa using split
  · rw [one] at split ⊢
    simpa using split

/-- A finite bit pattern is rounded to itself in every mode, with no flag (R88, R97). -/
theorem fpRound_fpDecode_finite (prec : 1 ≤ f.prec) (finite : bits % 2 ^ (f.width - 1) < f.infBits) (r : Rnd) :
    fpRound f r (fpDecode f bits) = (bits, 0) := by
  have whole := FpFmt.signBit_add width fits
  have pow : 2 ^ f.prec = 2 ^ (f.prec - 1) * 2 := by rw [← Nat.pow_succ, Nat.succ_eq_add_one, Nat.sub_add_cancel prec]
  unfold fpDecode
  dsimp only
  rw [if_neg (Nat.not_lt_of_gt finite), if_neg finite.ne']
  generalize bits % 2 ^ (f.width - 1) = mag at finite whole
  have split := Nat.div_add_mod mag (2 ^ (f.prec - 1))
  have lt : mag % 2 ^ (f.prec - 1) < 2 ^ (f.prec - 1) := Nat.mod_lt _ (by positivity)
  generalize mag % 2 ^ (f.prec - 1) = fr at split lt
  cases ex : mag / 2 ^ (f.prec - 1) with
  | zero =>
    rw [ex, Nat.mul_zero, Nat.zero_add] at split
    subst split
    rw [if_pos rfl, fpRound_held prec (by omega) (le_refl _) (.inl rfl) (by simpa using finite)]
    simp [whole]
  | succ k =>
    have place : (f.emin + ((k + 1 : Nat) : Int) - 1 - f.emin).toNat = k := by omega
    have magnitude : k * 2 ^ (f.prec - 1) + (fr + 2 ^ (f.prec - 1)) = mag := by rw [← split, ex]; ring
    rw [if_neg (Nat.succ_ne_zero k), fpRound_held prec (by omega) (by omega) (.inr (Nat.le_add_left _ _)) (by rwa [place, magnitude]),
      place, magnitude, whole]

/-- An infinity is rounded to itself in every mode, with no flag (R89, R97). -/
theorem fpRound_fpDecode_inf (inf : bits % 2 ^ (f.width - 1) = f.infBits) (r : Rnd) : fpRound f r (fpDecode f bits) = (bits, 0) := by
  have whole := FpFmt.signBit_add width fits
  unfold fpDecode
  dsimp only
  rw [inf] at whole ⊢
  rw [if_neg (Nat.lt_irrefl _), if_pos rfl, fpRound, whole]

end

/-- A magnitude above that of the infinities is a NaN; the top bit of its fraction tells a quiet one (R89). -/
theorem fpDecode_nan {f : FpFmt} {bits : Nat} (nan : f.infBits < bits % 2 ^ (f.width - 1)) :
    fpDecode f bits = .nan (decide (bits % 2 ^ (f.width - 1) % 2 ^ (f.prec - 1) < 2 ^ (f.prec - 2))) := if_pos nan

/-- The sum of a NaN and a number is a quiet NaN, and raises NV where the NaN is signalling (R89). -/
theorem roundF32_fpAdd_nan (signalling : Bool) {y : Fp} (number : y.isNaN = false) :
    (roundF32 (fpAdd (.nan signalling) y)).2 = if signalling then flagNV else 0 := by
  have quiet : y.isSNaN = false := by cases y <;> [cases number; rfl; rfl]
  have own : (Fp.nan signalling).isSNaN = signalling := rfl
  have sum : fpAdd (.nan signalling) y = (.nan false, if signalling then flagNV else 0) := by simp [fpAdd, nvOf, own, quiet]
  rw [roundF32, fpFinish, sum]
  exact BitVec.or_zero

/-! ### Lanes -/

theorem lane_fits {l : BitVec 2} {k : Nat} (h : k < laneCount l) : laneBits l * (k + 1) ≤ 128 :=
  (Nat.mul_le_mul_left _ h).trans (Nat.mul_div_le 128 _)

theorem fpLanes_eq (l : BitVec 2) (x : VReg) :
    fpLanes l x = (List.range (laneCount l)).map (fun i => fpDecode (laneFmt l) (lane (laneBits l) x i).toNat) := List.map_map

theorem lane_fpVec {l : BitVec 2} (r : Nat → Nat × FpFlags) {k : Nat} (h : k < laneCount l) :
    lane (laneBits l) (fpVec l ((List.range (laneCount l)).map r)) k = BitVec.ofNat (laneBits l) (r k).1 := by
  rw [fpVec, lane_ofLanes _ (lane_fits h), List.map_map, List.getD_eq_getElem _ _ (by simpa using h)]
  simp

variable {s : State} {srcs dsts : List RegNo} {old : Bool}

theorem State.withPorts_ready (ready : s.PortsReady srcs dsts old) (f : State → Result) : s.withPorts srcs dsts old f = f s := by
  obtain ⟨used, full⟩ := ready
  unfold State.withPorts
  rw [used, full]

/-- An instruction ends with lane `k` of its destination `f k` rounded once to the format of the lanes, and with the flags of the
lanes that are written (R97, R175, R178). -/
def State.GivesFp (s : State) (srcs : List RegNo) (d : RegNo) (q : BitVec 16) (l : BitVec 2) (f : Nat → Fp × FpFlags) (r : Result) :
    Prop :=
  ∃ v, (∀ k < laneCount l, lane (laneBits l) v k = BitVec.ofNat (laneBits l) (fpFinish (laneFmt l) .rne (f k)).1) ∧
    r = .next (s.vectorNext srcs d q v (writtenFlags (laneBits l) q
      ((List.range (laneCount l)).map (fun k => (fpFinish (laneFmt l) .rne (f k)).2))))

variable {d a b c : RegNo} {p : BitVec 3} {q : BitVec 16} {l : BitVec 2}

theorem State.finishFp_gives {f : Nat → Fp × FpFlags} {xs : List (Fp × FpFlags)} (lanes : xs = (List.range (laneCount l)).map f) :
    s.GivesFp srcs d q l f (s.finishFp srcs d q l xs) := by
  subst lanes
  refine ⟨fpVec l ((List.range (laneCount l)).map fun k => fpFinish (laneFmt l) .rne (f k)), fun k h => lane_fpVec _ h, ?_⟩
  unfold State.finishFp
  dsimp only
  rw [List.map_map, List.map_map]
  rfl

theorem State.fp1_gives (ready : s.PortsReady [a] [d] false) (f : Fp → Fp × FpFlags) :
    s.GivesFp [a] d (s.p p) l (fun i => f (fpDecode (laneFmt l) (lane (laneBits l) (s.v a) i).toNat)) (s.fp1 d a p l f) := by
  unfold State.fp1
  rw [State.withPorts_ready ready]
  refine State.finishFp_gives ?_
  rw [fpLanes_eq, List.map_map]
  rfl

theorem State.fp2_gives (ready : s.PortsReady [a, b] [d] false) (f : Fp → Fp → Fp × FpFlags) :
    s.GivesFp [a, b] d (s.p p) l (fun i => f (fpDecode (laneFmt l) (lane (laneBits l) (s.v a) i).toNat)
      (fpDecode (laneFmt l) (lane (laneBits l) (s.v b) i).toNat)) (s.fp2 d a b p l f) := by
  unfold State.fp2
  rw [State.withPorts_ready ready]
  refine State.finishFp_gives ?_
  rw [fpLanes_eq, fpLanes_eq, List.zipWith_map, List.zipWith_self]

theorem State.fp3_gives (ready : s.PortsReady [a, b, c] [d] false) (f : Fp → Fp → Fp → Fp × FpFlags) :
    s.GivesFp [a, b, c] d (BitVec.allOnes 16) l (fun i => f (fpDecode (laneFmt l) (lane (laneBits l) (s.v a) i).toNat)
      (fpDecode (laneFmt l) (lane (laneBits l) (s.v b) i).toNat) (fpDecode (laneFmt l) (lane (laneBits l) (s.v c) i).toNat))
      (s.fp3 d a b c l f) := by
  unfold State.fp3
  rw [State.withPorts_ready ready]
  refine State.finishFp_gives ?_
  rw [fpLanes_eq, fpLanes_eq, fpLanes_eq, List.zipWith_map, List.zipWith_self, List.zipWith_map, List.zipWith_self]

end Sys2Proof.Machine
end

section
/-! CERTIFICATE. Floating-point lanes. -/

open Sys2Proof Sys2Proof.Machine

/-- Settles O9: each instruction by the number of its sources (`State.fp1_gives` to `State.fp3_gives`); a bit pattern of f32 by what
its magnitude makes it: a finite number, an infinity or a NaN. -/
theorem vectorFloatResults : Obligations.VectorFloatResults := by
  refine ⟨fun s d a b c p l _ => ⟨fun ready => ?_, fun ready => ?_, fun ready => ?_⟩, fun r b fits => ?_⟩
  · exact ⟨State.fp2_gives ready fpAdd, State.fp2_gives ready (fun x y => fpAdd x y.negate), State.fp2_gives ready fpMul,
      State.fp2_gives ready (fpMinMax true), State.fp2_gives ready (fpMinMax false)⟩
  · exact ⟨State.fp1_gives ready (fun x => (x.abs, 0)), State.fp1_gives ready (fun x => (x.negate, 0)), State.fp1_gives ready fpRecip,
      State.fp1_gives ready fpRsqrt⟩
  · exact ⟨State.fp3_gives ready fpFma, State.fp3_gives ready (fun x y z => fpFma x y z.negate),
      State.fp3_gives ready (fun x y z => fpFma x.negate y z), State.fp3_gives ready (fun x y z => fpFma x.negate y z.negate)⟩
  · have value : f32 b = fpDecode fmtF32 b := congrArg (fpDecode fmtF32) (Nat.mod_eq_of_lt fits)
    rw [value]
    refine ⟨fun finite => ?_, fun inf => ?_, fun nan => ?_, fun nan => ?_⟩
    · refine fpRound_fpDecode_finite (by decide) fits (by decide) ?_ r
      change b % 2 ^ 31 < 0x7F800000
      omega
    · exact fpRound_fpDecode_inf (by decide) fits inf r
    · rw [fpDecode_nan nan]
      rfl
    · rw [fpDecode_nan nan, roundF32_fpAdd_nan _ rfl]
      refine if_congr ?_ rfl rfl
      rw [decide_eq_true_iff]
      change b % 2 ^ 31 % 2 ^ 23 < 2 ^ 22 ↔ b / 2 ^ 22 % 2 = 0
      omega

end

section
/-! SUPPORT. A run of bytes on TCM as the matrix unit reads it (R48, R195, R202), and the block scales of a slot (R95, R202). -/

namespace Sys2Proof.Machine

variable {s : State} {a : Word} {p : Path} {off n : Nat}

/-! ### A run of bytes on one path (R48) -/

/-- No two rows of R47's table name one path. -/
theorem pathRows_unique : ∀ r ∈ pathRows, ∀ q ∈ pathRows, r.2.1 = q.2.1 → r = q := by decide

/-- Every address up to the last of a run whose ends lie on one path lies on that path. -/
theorem pathOf_add {m j : Nat} (start : pathOf a = some (p, off)) (last : (pathOf (a + BitVec.ofNat 64 m)).map (fun x => x.1) = some p)
    (near : m < 2 ^ 56) (within : j ≤ m) : pathOf (a + BitVec.ofNat 64 j) = some (p, off + j) := by
  obtain ⟨⟨q, o⟩, end_path, same⟩ := Option.map_eq_some_iff.mp last
  obtain ⟨rfl, r, row, high, path, below⟩ := pathOf_eq_some.mp start
  obtain ⟨rfl, r', row', high', path', below'⟩ := pathOf_eq_some.mp end_path
  obtain rfl := pathRows_unique r row r' row' (path.symm.trans (same.symm.trans path'))
  have bound : r.1 < 2 ^ 7 := (show ∀ r ∈ pathRows, r.1 < 2 ^ 7 by decide) r row
  rw [BitVec.toNat_add, BitVec.toNat_ofNat] at high' below'
  have place : (a + BitVec.ofNat 64 j).toNat = a.toNat + j := by
    rw [BitVec.toNat_add, BitVec.toNat_ofNat]
    omega
  refine pathOf_eq_some.mpr ⟨?_, r, row, ?_, path, ?_⟩
  · rw [place]
    omega
  · rw [place]
    omega
  · omega

variable {c : Core} {k : AKind} {align : Nat} {base2 : Bool}

/-- A run that no check stops lies on one path. -/
theorem spanTrap_path (free : spanTrap c k a n align base2 = none) (start : pathOf a = some (p, off)) (short : n < 2 ^ 56) {j : Nat}
    (within : j < n ∨ j = 0) : pathOf (a + BitVec.ofNat 64 j) = some (p, off + j) := by
  rcases within with inside | rfl
  · unfold spanTrap spanTrapOf at free
    rw [start] at free
    dsimp only at free
    split_ifs at free with dev outside
    have last := Classical.not_and_iff_not_or_not.mp outside |>.resolve_left (not_not.mpr (Nat.ne_zero_of_lt inside))
    exact pathOf_add start (not_not.mp last) (by omega) (Nat.le_sub_one_of_lt inside)
  · simpa using start

/-! ### Pieces of a run -/

/-- Each piece of a run begins in it. -/
theorem piecesOf_start {w : Nat} (block : 0 < w) {x : Nat × Nat} (piece : x ∈ piecesOf a w n) : x.1 < n ∨ x.1 = 0 := by
  obtain ⟨i, listed, rfl⟩ := List.mem_map.mp piece
  have past := Nat.mul_le_of_le_div w _ _ (Nat.succ_le_of_lt (List.mem_range.mp listed))
  rw [Nat.succ_mul, Nat.mul_comm] at past
  dsimp only
  omega

/-- The bytes of the first pieces of a run are those up to the end of the last of them. -/
theorem Memory.readN_pieces (m : Memory) {w r : Nat} (k : Nat) (below : ∀ i < k, w * i - r ≤ n) :
    ((List.range k).map (fun i => (w * i - r, min n (w * (i + 1) - r) - (w * i - r)))).flatMap (fun x => m.readN (off + x.1) x.2) =
      m.readN off (min n (w * k - r)) := by
  induction k with
  | zero => simp [Memory.readN]
  | succ k ih =>
    have here := below k (Nat.lt_succ_self k)
    have next : w * (k + 1) = w * k + w := Nat.mul_succ w k
    rw [List.range_succ, List.map_append, List.flatMap_append, ih fun i h => below i (Nat.lt_succ_of_lt h), Nat.min_eq_right here]
    rw [List.map_singleton, List.flatMap_singleton, ← Memory.readN_add]
    congr 1
    omega

/-- The bytes of the pieces of a run, one after another, are those of the run. -/
theorem Memory.readN_piecesOf (m : Memory) (a : Word) {w : Nat} (block : 0 < w) :
    (piecesOf a w n).flatMap (fun x => m.readN (off + x.1) x.2) = m.readN off n := by
  unfold piecesOf
  dsimp only
  rw [Memory.readN_pieces m]
  · have whole := Nat.lt_div_mul_add (a := a.toNat % w + n + (w - 1)) block
    rw [Nat.mul_comm] at whole
    congr 1
    omega
  · intro i listed
    have past := Nat.mul_le_of_le_div w _ _ (Nat.succ_le_of_lt listed)
    rw [Nat.succ_mul, Nat.mul_comm] at past
    omega

/-! ### TCM as an engine reads it -/

theorem State.engineRead_tcm (path : pathOf a = some (.tcm, off)) (r : Reader) (inst n : Nat) :
    s.engineRead r a inst n = .bytes (s.core.mem.tcm.readN off n) := by
  unfold State.engineRead
  rw [path]
  rfl

theorem State.noteRead_tcm (path : pathOf a = some (.tcm, off)) (r : Reader) (inst : Nat) : s.noteRead r a inst = s := by
  unfold State.noteRead
  rw [path]

section
variable (run : ∀ j, j < n ∨ j = 0 → pathOf (a + BitVec.ofNat 64 j) = some (.tcm, off + j))
include run

theorem State.engineReadN_tcm (r : Reader) (inst : Nat) : s.engineReadN r a inst n = .bytes (s.core.mem.tcm.readN off n) := by
  have pieces : (piecesOf a 4 n).map (fun x => s.engineRead r (a + BitVec.ofNat 64 x.1) inst x.2) =
      ((piecesOf a 4 n).map (fun x => s.core.mem.tcm.readN (off + x.1) x.2)).map .bytes := by
    rw [List.map_map]
    exact List.map_congr_left fun x piece => State.engineRead_tcm (run x.1 (piecesOf_start (by decide) piece)) r inst x.2
  rw [State.engineReadN, pieces, gather_bytes, ← List.flatMap_def, Memory.readN_piecesOf _ _ (by decide)]

theorem State.noteReadN_tcm (r : Reader) (inst : Nat) : s.noteReadN r a inst n = s := by
  have quiet : ∀ x ∈ piecesOf a 64 n, s.noteRead r (a + BitVec.ofNat 64 x.1) inst = s := fun x piece =>
    State.noteRead_tcm (run x.1 (piecesOf_start (by decide) piece)) r inst
  unfold State.noteReadN
  generalize piecesOf a 64 n = pieces at quiet
  induction pieces with
  | nil => rfl
  | cons x pieces ih => rw [List.foldl_cons, quiet x List.mem_cons_self, ih fun y later => quiet y (List.mem_cons_of_mem x later)]

end

/-! ### Rows of scales -/

/-- A memory of `k` rows, each in its own block of `w` bytes. -/
def Memory.ofRows (w : Nat) (rows : Nat → List Byte) (k : Nat) : Memory :=
  (List.range k).foldl (fun m r => m.writeN (w * r) (rows r)) []

theorem Memory.ofRows_succ (w : Nat) (rows : Nat → List Byte) (k : Nat) :
    Memory.ofRows w rows (k + 1) = (Memory.ofRows w rows k).writeN (w * k) (rows k) := by
  rw [Memory.ofRows, List.range_succ, List.foldl_concat]
  rfl

theorem Memory.ofRows_wf (w : Nat) (rows : Nat → List Byte) (k : Nat) : (Memory.ofRows w rows k).wf = true :=
  Memory.wf_foldl (Memory.wf_writeN _ _) Memory.wf_nil _

theorem Memory.read_ofRows {w : Nat} {rows : Nat → List Byte} (short : ∀ r, (rows r).length ≤ w) {k r b : Nat} (row : r < k)
    (place : b < (rows r).length) : (Memory.ofRows w rows k).read (w * r + b) = (rows r)[b] := by
  induction k with
  | zero => exact absurd row (Nat.not_lt_zero r)
  | succ k ih =>
    rw [Memory.ofRows_succ]
    rcases Nat.lt_succ_iff_lt_or_eq.mp row with earlier | rfl
    · have above := Nat.mul_le_mul_left w (Nat.succ_le_of_lt earlier)
      have room := short r
      rw [Nat.mul_succ] at above
      rw [Memory.read_writeN_out _ _ _ (Memory.ofRows_wf w rows k) (by omega), ih earlier]
    · exact Memory.read_writeN_in _ _ _ (Memory.ofRows_wf w rows r) place

/-! ### Slots that take scales -/

/-- A slot that is neither LOADING nor READY is FREE or CLAIMED. -/
theorem SlotState.unused_iff {st : SlotState} : (st = .free ∨ st = .claimed) ↔ ¬(st = .loading ∨ st = .ready) := by
  cases st <;> decide

/-- `mscale` takes a LOADING or READY slot of a block-scaled format (R202). -/
def Slot.Scalable (t : Slot) : Prop := fmtScaled t.fmt.toNat = true ∧ (t.st = .loading ∨ t.st = .ready)

theorem Slot.scalable_iff {t : Slot} : t.Scalable ↔ ¬(t.st = .free ∨ t.st = .claimed ∨ (!fmtScaled t.fmt.toNat) = true) := by
  rw [Slot.Scalable, ← or_assoc, SlotState.unused_iff, not_or, not_not, Bool.not_eq_true', Bool.not_eq_false, and_comm]

section
variable {q : BitVec 4} {g : RegNo} {l : BitVec 2} {nq : Fin 16} {t : Slot} {len need : Nat} (index : s.core.slotIndex q = nq)
  (slot : s.slot nq = t)
include index slot

theorem exec_mscale_refused (refused : ¬t.Scalable) : exec (.mscale q g l) s = s.slotFault nq.val := by
  subst slot index
  change execMscale q g l s = _
  unfold execMscale
  exact if_pos (not_not.mp (mt Slot.scalable_iff.mpr refused))

variable (takes : t.Scalable) (width : 8 * 2 ^ l.toNat = len) (count : (s.gNext g).toNat % 65536 = n)
  (needs : (t.kv + len - 1) / len = need)
include takes width count needs

theorem exec_mscale_few (few : n < need) : exec (.mscale q g l) s = s.trap 0x09 (BitVec.ofNat 64 n) (BitVec.ofNat 64 need) := by
  change execMscale q g l s = _
  unfold execMscale
  dsimp only
  rw [index, slot, width, count, needs, if_neg (Slot.scalable_iff.mp takes), if_pos few]

variable (enough : need ≤ n)
include enough

theorem exec_mscale_stopped {f : Flow} (stopped : spanTrap s.core .load (s.g g) (16 * n) 1 (decide (g = 2)) = some f) :
    exec (.mscale q g l) s = .next (s.finish f) := by
  change execMscale q g l s = _
  unfold execMscale
  dsimp only
  rw [index, slot, width, count, needs, if_neg (Slot.scalable_iff.mp takes), if_neg (Nat.not_lt.mpr enough), stopped]

variable (free : spanTrap s.core .load (s.g g) (16 * n) 1 (decide (g = 2)) = none)
include free

theorem exec_mscale_waits (loading : t.st = .loading) : exec (.mscale q g l) s = s.stay .slot (BitVec.ofNat 64 nq.val) := by
  change execMscale q g l s = _
  unfold execMscale
  dsimp only
  rw [index, slot, width, count, needs, if_neg (Slot.scalable_iff.mp takes), if_neg (Nat.not_lt.mpr enough), free]
  exact if_pos loading

/-- Scales of TCM are those that stand there once the core's own accesses to them are performed. -/
theorem exec_mscale_tcm (path : pathOf (s.g g) = some (.tcm, off)) (ready : t.st = .ready) :
    let v := s.settle .tcm off (16 * n)
    exec (.mscale q g l) s = (v.setSlot nq { t with
      blk := some len
      scales := .ofRows 16 (fun r => ((v.core.mem.tcm.readN off (16 * n)).drop (r * n)).take need) 16 }).matrixDone
        (if need < n then flagSS else 0) := by
  intro v
  have short : 16 * n < 2 ^ 56 := by omega
  have run (j : Nat) (within : j < 16 * n ∨ j = 0) := spanTrap_path free path short within
  have settled : s.settleAt (s.g g) (16 * n) = v := by
    unfold State.settleAt
    rw [path]
  change execMscale q g l s = _
  unfold execMscale
  dsimp only
  rw [index, slot, width, count, needs, if_neg (Slot.scalable_iff.mp takes), if_neg (Nat.not_lt.mpr enough), free]
  dsimp only
  rw [if_neg (by simp [ready]), settled, State.engineReadN_tcm run]
  dsimp only
  rw [State.noteReadN_tcm run]
  rfl

end

/-- The scales of each row, read as consecutive bytes. -/
theorem read_scales (m : Memory) {need n r b : Nat} (room : need ≤ 16) (enough : need ≤ n) (row : r < 16) (block : b < need) :
    (Memory.ofRows 16 (fun r => ((m.readN off (16 * n)).drop (r * n)).take need) 16).read (16 * r + b) = m.read (off + r * n + b) := by
  have inside : (r + 1) * n ≤ 16 * n := Nat.mul_le_mul_right n row
  rw [Nat.succ_mul] at inside
  rw [Memory.read_ofRows (fun r => (List.length_take_le _ _).trans room) row (by simp; omega), List.getElem_take, List.getElem_drop,
    Memory.readN_get _ _ _ _ (by omega), Nat.add_assoc]

end Sys2Proof.Machine
end

section
/-! CERTIFICATE. Block scales. -/

open Sys2Proof Sys2Proof.Machine

/-- Settles O34: `mscale` by its checks in their order (`exec_mscale_refused` to `exec_mscale_tcm`), and the rows of scales that it binds
by the bytes of their run (`read_scales`). -/
theorem scaleResults : Obligations.ScaleResults := by
  intro s q g l off ins nq t len n need bindable onPath v path
  have width : 8 * 2 ^ (BitVec.ofNat 2 l.val).toNat = len := by
    rw [BitVec.toNat_ofNat, Nat.mod_eq_of_lt (Nat.lt_trans l.isLt (by decide))]
  refine ⟨fun refused => exec_mscale_refused rfl rfl refused, fun takes few => exec_mscale_few rfl rfl takes width rfl rfl few,
    fun f takes enough stopped => exec_mscale_stopped rfl rfl takes width rfl rfl enough stopped,
    fun free takes enough loading => exec_mscale_waits rfl rfl takes width rfl rfl enough free loading,
    fun free takes enough room ready => ?_⟩
  exact ⟨_, exec_mscale_tcm rfl rfl takes width rfl rfl enough free path ready, rfl,
    fun r row b block => read_scales v.core.mem.tcm room enough row block⟩

end

section
/-! SUPPORT. Dense multiplies: the checks of `mma` in their order (R197, R198, R207), and the elements that it gives (R97, R101). -/

namespace Sys2Proof.Machine

/-! ### Formats and kinds -/

@[simp] theorem accIndex_ofNat (k : Fin 4) : accIndex (BitVec.ofNat 4 k.val) = k := by revert k; decide

/-- Formats of integer kind have no scales (R87, R95). -/
theorem fmtScaled_of_integer {f : Nat} (integer : fmtInteger f = true) : fmtScaled f = false := by
  simp only [fmtInteger, fmtScaled, Bool.or_eq_true, decide_eq_true_eq, decide_eq_false_iff_not] at integer ⊢
  omega

/-- Formats below 18 have no scales, and those below 10 no table (R87, R92, R95). -/
theorem fmtScaled_of_lt {f : Nat} (h : f < 18) : fmtScaled f = false := decide_eq_false (by omega)

theorem State.fmtHeld_of_lt {f : Nat} (h : f < 10) (s : State) : s.fmtHeld f = false := by
  have none : fmtTable f = none := by
    unfold fmtTable
    rw [if_neg (by omega), if_neg (by omega)]
  rw [State.fmtHeld, none]

/-- A pair of integer kind has two operands of integer kind (R197). -/
theorem pairKind_integer {f g : Nat} (pair : pairKind f g = some true) : fmtInteger f = true ∧ fmtInteger g = true := by
  unfold pairKind at pair
  split_ifs at pair with both
  · exact Bool.and_eq_true_iff.mp both
  all_goals cases pair

theorem Slot.unscaled_of_unscaledFormat {t : Slot} (h : fmtScaled t.fmt.toNat = false) : t.unscaled = false := by
  rw [Slot.unscaled, h, Bool.false_and]

theorem kindAdmits_integer {kind : AccKind} : kindAdmits kind true = true ↔ kind ≠ .f32 := by cases kind <;> decide

theorem kindAdmits_real {kind : AccKind} : kindAdmits kind false = true ↔ kind ≠ .s32 := by cases kind <;> decide

/-! ### The checks of `mma` -/

section
variable {s : State} {k : Fin 4} {p q r : BitVec 4} {c : BitVec 1} {a b : Slot} {integer : Bool}
  (slotA : s.slot (s.core.slotIndex q) = a) (slotB : s.slot (s.core.slotIndex r) = b)

include slotA in
theorem exec_mma_unused_first (unused : ¬(a.st = .loading ∨ a.st = .ready)) :
    exec (.mma p q r c) s = s.slotFault (s.core.slotIndex q).val := by
  subst a
  change execMma p q r c s = _
  unfold execMma
  exact if_pos (SlotState.unused_iff.mpr unused)

variable (usedA : a.st = .loading ∨ a.st = .ready)
include slotA slotB usedA

theorem exec_mma_unused_second (unused : ¬(b.st = .loading ∨ b.st = .ready)) :
    exec (.mma p q r c) s = s.slotFault (s.core.slotIndex r).val := by
  subst a b
  change execMma p q r c s = _
  unfold execMma
  exact (if_neg (mt SlotState.unused_iff.mp (not_not.mpr usedA))).trans (if_pos (SlotState.unused_iff.mpr unused))

variable (usedB : b.st = .loading ∨ b.st = .ready)
include usedB

theorem exec_mma_unpaired (pair : pairKind a.fmt.toNat b.fmt.toNat = none) :
    exec (.mma p q r c) s = s.slotFault (s.core.slotIndex q).val := by
  subst a b
  change execMma p q r c s = _
  unfold execMma
  dsimp only
  rw [if_neg (mt SlotState.unused_iff.mp (not_not.mpr usedA)), if_neg (mt SlotState.unused_iff.mp (not_not.mpr usedB)), pair]

variable (pair : pairKind a.fmt.toNat b.fmt.toNat = some integer) (names : accIndex p = k)
include pair names

/-- A pair of formats that R197 allows, with the scales that each operand needs: its block lengths, the accumulator and the slots'
states are still to be checked. -/
theorem exec_mma_paired (scaledA : a.unscaled = false) (scaledB : b.unscaled = false) : exec (.mma p q r c) s =
    if a.blk.isSome && b.blk.isSome && decide (a.blk ≠ b.blk) then
      s.trap 0x09 (BitVec.ofNat 64 (a.blk.getD 0)) (BitVec.ofNat 64 (b.blk.getD 0))
    else if decide (c = 1) && !kindAdmits s.core.mat.accs[k].kind integer then s.slotFault k.val
    else if a.st = .loading then s.stay .slot (BitVec.ofNat 64 (s.core.slotIndex q).val)
    else if b.st = .loading then s.stay .slot (BitVec.ofNat 64 (s.core.slotIndex r).val)
    else s.runMma k a b (fun _ => true) integer c := by
  subst a b k
  change execMma p q r c s = _
  unfold execMma
  dsimp only
  rw [if_neg (mt SlotState.unused_iff.mp (not_not.mpr usedA)), if_neg (mt SlotState.unused_iff.mp (not_not.mpr usedB)), pair]
  dsimp only
  rw [scaledA, scaledB]
  rfl

theorem exec_mma_blocks_differ (scaledA : a.unscaled = false) (scaledB : b.unscaled = false) {x y : Nat} (blockA : a.blk = some x)
    (blockB : b.blk = some y) (differ : x ≠ y) : exec (.mma p q r c) s =
      s.trap 0x09 (BitVec.ofNat 64 x) (BitVec.ofNat 64 y) := by
  rw [exec_mma_paired slotA slotB usedA usedB pair names scaledA scaledB, blockA, blockB]
  exact if_pos (by simpa using differ)

/-- Operands of integer kind have no scales to check. -/
theorem exec_mma_integer (integral : integer = true) (blockA : a.blk = none) : exec (.mma p q r c) s =
    if decide (c = 1) && !kindAdmits s.core.mat.accs[k].kind true then s.slotFault k.val
    else if a.st = .loading then s.stay .slot (BitVec.ofNat 64 (s.core.slotIndex q).val)
    else if b.st = .loading then s.stay .slot (BitVec.ofNat 64 (s.core.slotIndex r).val)
    else s.runMma k a b (fun _ => true) true c := by
  subst integral
  obtain ⟨integerA, integerB⟩ := pairKind_integer pair
  rw [exec_mma_paired slotA slotB usedA usedB pair names (Slot.unscaled_of_unscaledFormat (fmtScaled_of_integer integerA))
    (Slot.unscaled_of_unscaledFormat (fmtScaled_of_integer integerB)), blockA]
  rfl

end

/-- Two READY operands of formats without scales, over an accumulator that suits their kind, are multiplied. -/
theorem exec_mma_ready {s : State} {k : Fin 4} {p q r : BitVec 4} {c : BitVec 1} {a b : Slot} {integer : Bool}
    (slotA : s.slot (s.core.slotIndex q) = a) (slotB : s.slot (s.core.slotIndex r) = b) (readyA : a.st = .ready) (readyB : b.st = .ready)
    (pair : pairKind a.fmt.toNat b.fmt.toNat = some integer) (names : accIndex p = k) (scaledA : a.unscaled = false)
    (scaledB : b.unscaled = false) (blockA : a.blk = none) (suits : c = 1 → kindAdmits s.core.mat.accs[k].kind integer = true) :
    exec (.mma p q r c) s = s.runMma k a b (fun _ => true) integer c := by
  have admitted : (decide (c = 1) && !kindAdmits s.core.mat.accs[k].kind integer) = false := Bool.eq_false_iff.mpr fun refused => by
    obtain ⟨accumulates, unfit⟩ := Bool.and_eq_true_iff.mp refused
    rw [suits (of_decide_eq_true accumulates)] at unfit
    cases unfit
  rw [exec_mma_paired slotA slotB (.inr readyA) (.inr readyB) pair names scaledA scaledB, blockA, admitted, readyA, readyB]
  rfl

/-! ### The accumulator after a multiply -/

/-- Each element of an accumulator made of a list is that of the list, as far as 32 bits hold it. -/
theorem Acc.elem_ofElems (kind : AccKind) (f : Nat → Nat) {m n : Nat} (listed : n < m) :
    (Acc.ofElems kind ((List.range m).map f)).elem n = f n % 2 ^ 32 := by
  have listing : (Acc.ofElems kind ((List.range m).map f)).elems =
      ((List.range m).map (fun i => (i, BitVec.ofNat 32 (f i)))).filter (fun e => decide (e.2 ≠ 0)) := by
    have pairs : ((List.range m).map f).zipIdx = (List.range m).map (fun i => (f i, i)) :=
      List.ext_getElem (by simp) fun i _ _ => by simp
    have zero (i : Nat) : BitVec.ofNat 32 (f i) = 0 ↔ f i % 2 ^ 32 = 0 := by
      rw [← BitVec.toNat_inj, BitVec.toNat_ofNat]
      rfl
    rw [Acc.ofElems, pairs, List.filter_map, List.filter_map, List.map_map]
    simp only [Function.comp_def, ne_eq, zero]
  rw [Acc.elem, listing, aget_nonzero (fun i => BitVec.ofNat 32 (f i)) List.pairwise_lt_range, if_pos (List.mem_range.mpr listed),
    BitVec.toNat_ofNat]

/-- A matrix instruction ends with accumulator `k` of a kind and of the elements `e`, and with their flags to be raised (R98, R193). -/
def State.GivesAcc (s : State) (k : Fin 4) (kind : AccKind) (e : Nat → Nat → Nat × FpFlags) (r : Result) : Prop :=
  ∃ z : Acc, r = .next (State.finish ((s.setAcc k z).onMat (fun m => { m with flags := m.flags ++
    [orFlags ((List.range 256).map (fun n => (e (n / 16) (n % 16)).2))] })) .next) ∧
    z.kind = kind ∧ ∀ i < 16, ∀ j < 16, z.elem (16 * i + j) = (e i j).1 % 2 ^ 32

variable {s : State} {k : Fin 4} {c : BitVec 1} {a b : Slot}

/-- Elements computed one by one from those of the accumulator. -/
theorem State.givesAcc_ofElems {kind : AccKind} {e : Nat → Nat → Nat × FpFlags} {one : Nat → Nat × FpFlags}
    (each : ∀ n, one n = e (n / 16) (n % 16)) :
    s.GivesAcc k kind e ((s.setAcc k (Acc.ofElems kind (((List.range 256).map one).map (fun r => r.1)))).matrixDone
      (orFlags (((List.range 256).map one).map (fun r => r.2)))) := by
  obtain rfl : one = fun n => e (n / 16) (n % 16) := funext each
  rw [List.map_map, List.map_map]
  refine ⟨_, rfl, rfl, fun i row j column => ?_⟩
  rw [Acc.elem_ofElems _ _ (by omega), Function.comp_apply, show (16 * i + j) / 16 = i by omega, show (16 * i + j) % 16 = j by omega]

/-- An element of a dense multiply, by the kind of its operands (R101, R198). -/
def State.mulElem (s : State) (k : Fin 4) (a b : Slot) (integer : Bool) (c : BitVec 1) (i j : Nat) : Nat × FpFlags :=
  if integer then integerElem a b (fun _ => true) (if c = 1 then signedOf 32 (s.core.mat.accs[k].elem (16 * i + j)) else 0) i j
  else realElem s.core.eng.tabs a b (fun _ => true) (if c = 1 then f32 (s.core.mat.accs[k].elem (16 * i + j)) else .fin true 0 0) i j

/-- A multiply that no table holds gives the accumulator its elements. -/
theorem State.runMma_gives (freeA : s.fmtHeld a.fmt.toNat = false) (freeB : s.fmtHeld b.fmt.toNat = false) (integer : Bool) :
    s.GivesAcc k (if integer then .s32 else .f32) (s.mulElem k a b integer c) (s.runMma k a b (fun _ => true) integer c) := by
  let r := multiply s.core.eng.tabs a b (fun _ => true) integer (decide (c = 1)) s.core.mat.accs[k]
  have run : s.runMma k a b (fun _ => true) integer c = (s.setAcc k r.1).matrixDone r.2 := by
    unfold State.runMma
    rw [freeA, freeB]
    rfl
  rw [run]
  dsimp only [r]
  unfold multiply
  dsimp only
  refine State.givesAcc_ofElems fun n => ?_
  simp only [State.mulElem, decide_eq_true_eq, Nat.div_add_mod]

/-- What `mma` gives with two READY operands of formats without scales, over an accumulator that suits their kind, where no table
holds it. -/
theorem exec_mma_gives {p q r : BitVec 4} {integer : Bool} {kind : AccKind} {e : Nat → Nat → Nat × FpFlags}
    (slotA : s.slot (s.core.slotIndex q) = a) (slotB : s.slot (s.core.slotIndex r) = b) (readyA : a.st = .ready) (readyB : b.st = .ready)
    (names : accIndex p = k) (pair : pairKind a.fmt.toNat b.fmt.toNat = some integer) (scaledA : fmtScaled a.fmt.toNat = false)
    (scaledB : fmtScaled b.fmt.toNat = false) (blockA : a.blk = none)
    (suits : c = 1 → kindAdmits s.core.mat.accs[k].kind integer = true) (freeA : s.fmtHeld a.fmt.toNat = false)
    (freeB : s.fmtHeld b.fmt.toNat = false) (ofKind : (if integer then .s32 else .f32) = kind)
    (each : ∀ i j, s.mulElem k a b integer c i j = e i j) : s.GivesAcc k kind e (exec (.mma p q r c) s) := by
  obtain rfl : s.mulElem k a b integer c = e := funext fun i => funext (each i)
  rw [exec_mma_ready slotA slotB readyA readyB pair names (Slot.unscaled_of_unscaledFormat scaledA)
    (Slot.unscaled_of_unscaledFormat scaledB) blockA suits, ← ofKind]
  exact State.runMma_gives freeA freeB integer

/-- Two READY operands of formats without scales and tables whose pair is of real kind. -/
theorem exec_mma_real_gives {p q r : BitVec 4} {e : Nat → Nat → Nat × FpFlags} (slotA : s.slot (s.core.slotIndex q) = a)
    (slotB : s.slot (s.core.slotIndex r) = b) (readyA : a.st = .ready) (readyB : b.st = .ready) (names : accIndex p = k)
    (pair : pairKind a.fmt.toNat b.fmt.toNat = some false) (lowA : a.fmt.toNat < 10) (lowB : b.fmt.toNat < 10) (blockA : a.blk = none)
    (suits : c = 1 → s.core.mat.accs[k].kind ≠ .s32) (each : ∀ i j, s.mulElem k a b false c i j = e i j) :
    s.GivesAcc k .f32 e (exec (.mma p q r c) s) :=
  exec_mma_gives slotA slotB readyA readyB names pair (fmtScaled_of_lt (Nat.lt_trans lowA (by decide)))
    (fmtScaled_of_lt (Nat.lt_trans lowB (by decide))) blockA (fun accumulates => kindAdmits_real.mpr (suits accumulates))
    (s.fmtHeld_of_lt lowA) (s.fmtHeld_of_lt lowB) rfl each

/-! ### One element (R101) -/

/-- A sum taken product by product, and the flags of all of them. -/
theorem foldl_sum_flags (v : Nat → Int) (f g : Nat → FpFlags) (l : List Nat) (z : Int) (fl : FpFlags) :
    l.foldl (fun (x : Int × FpFlags) n => (x.1 + v n, x.2 ||| f n ||| g n)) (z, fl) =
      (z + (l.map v).sum, (l.map (fun n => f n ||| g n)).foldl (fun a f => a ||| f) fl) := by
  induction l generalizing z fl with
  | nil => simp
  | cons n l ih =>
    rw [List.foldl_cons, ih, List.map_cons, List.map_cons, List.sum_cons, List.foldl_cons, Int.add_assoc, BitVec.or_assoc]

theorem integerElem_dense (acc : Int) (i j : Nat) : integerElem a b (fun _ => true) acc i j =
    let z := ((List.range (fmtK a.fmt.toNat)).map (fun m => (a.integer i m).1 * (b.integer j m).1)).sum + acc
    let nv := orFlags ((List.range (fmtK a.fmt.toNat)).map (fun m => (a.integer i m).2 ||| (b.integer j m).2))
    (wrapInt 32 z, nv ||| (if z < -2147483648 ∨ 2147483647 < z then flagIO else 0)) := by
  unfold integerElem
  simp only [if_true]
  rw [foldl_sum_flags (fun m => (a.integer i m).1 * (b.integer j m).1) (fun m => (a.integer i m).2) (fun m => (b.integer j m).2)]
  dsimp only
  rw [Int.add_comm acc]
  rfl

/-- f32 operands are multiplied and added in the order of K, each step rounded once. -/
theorem realElem_f32 {tabs : Vector DecTab 4} (fmt : a.fmt.toNat = 0) (acc : Fp) (i j : Nat) :
    realElem tabs a b (fun _ => true) acc i j =
      let z := (List.range 16).foldl (fun (x : Fp × FpFlags) m =>
        let y := roundF32 (fpFma (a.real tabs i m) (b.real tabs j m) x.1)
        (f32 y.1, x.2 ||| y.2)) (acc, 0)
      ((fpRound fmtF32 .rne z.1).1, z.2) := by
  have first : a.fmt = 0 := BitVec.eq_of_toNat_eq fmt
  unfold realElem
  dsimp only
  rw [if_pos first, fmt]
  rfl

/-- A tree without scales adds pairs, level by level. -/
theorem treeSum_unscaled (scaleAt : Nat → Node → Node) (fuel lev : Nat) (xs : List Node) :
    treeSum none scaleAt fuel lev xs = (treeLevel^[fuel] xs).headD (.fin false 0 0, 0) := by
  induction fuel generalizing lev xs with
  | zero => rfl
  | succ fuel ih =>
    rw [Function.iterate_succ_apply, ← ih (lev + 1)]
    rfl

/-- 16-bit operands without scales are multiplied exactly and added by the tree of five levels. -/
theorem realElem_half {tabs : Vector DecTab 4} (fmt : a.fmt.toNat = 1 ∨ a.fmt.toNat = 2) (blockA : a.blk = none) (blockB : b.blk = none)
    (acc : Fp) (i j : Nat) : realElem tabs a b (fun _ => true) acc i j =
      let root := (treeLevel^[5] ((List.range 32).map (fun m => fpMul (a.real tabs i m) (b.real tabs j m)))).headD (.fin false 0 0, 0)
      let z := roundF32 (fpAdd acc root.1)
      (z.1, root.2 ||| z.2) := by
  have wide : a.fmt ≠ 0 := fun zero => by simp [zero] at fmt
  have places : fmtK a.fmt.toNat = 32 := by rcases fmt with e | e <;> rw [e] <;> rfl
  unfold realElem
  dsimp only
  rw [if_neg wide, blockA, blockB, places]
  dsimp only [Option.map_none]
  rw [treeSum_unscaled]
  rfl

end Sys2Proof.Machine
end

section
/-! CERTIFICATE. Dense multiplies. -/

open Sys2Proof Sys2Proof.Machine

/-- Settles O32: `mma` by its checks in their order (`exec_mma_unused_first` to `exec_mma_ready`), and each element by the kind of the
pair (`integerElem_dense`, `realElem_f32`, `realElem_half`). -/
theorem matrixMultiplyResults : Obligations.MatrixMultiplyResults := by
  intro s k q r c p ins nq ns a b fa fb acc tabs traps used gives start free
  have names : accIndex p = k := accIndex_ofNat k
  refine ⟨exec_mma_unused_first rfl, exec_mma_unused_second rfl rfl, exec_mma_unpaired rfl rfl,
    fun x y usedA usedB pair scaledA scaledB blockA blockB differ => ?_, fun usedA usedB pair blockA accumulates kind => ?_,
    fun loading usedB pair blockA clears => ?_, fun readyA readyB pair suits blockA blockB ⟨freeA, freeB⟩ => ?_,
    fun readyA readyB fmtA fmtB suits blockA blockB => ?_, fun readyA readyB fmtA fmtB suits blockA blockB => ?_⟩
  · obtain ⟨integer, paired⟩ := Option.ne_none_iff_exists'.mp pair
    exact exec_mma_blocks_differ rfl rfl usedA usedB paired names scaledA scaledB blockA blockB differ
  · have checked := exec_mma_integer (c := c) rfl rfl usedA usedB pair names rfl blockA
    exact checked.trans (if_pos (Bool.and_eq_true_iff.mpr ⟨decide_eq_true accumulates, by rw [kind]; rfl⟩))
  · have checked := exec_mma_integer (c := c) rfl rfl (.inl loading) usedB pair names rfl blockA
    exact checked.trans ((if_neg (by simp [clears])).trans (if_pos loading))
  · obtain ⟨integerA, integerB⟩ := pairKind_integer pair
    have ends := exec_mma_gives rfl rfl readyA readyB names pair (fmtScaled_of_integer integerA) (fmtScaled_of_integer integerB) blockA
      (fun accumulates => kindAdmits_integer.mpr (suits accumulates)) freeA freeB rfl fun i j => integerElem_dense _ i j
    exact ends
  · have pair : pairKind fa fb = some false := by rw [fmtA, fmtB]; rfl
    have ends := exec_mma_real_gives rfl rfl readyA readyB names pair (fmtA.trans_lt (by decide)) (fmtB.trans_lt (by decide)) blockA suits
      fun i j => realElem_f32 fmtA _ i j
    exact ends
  · have pair : pairKind fa fb = some false := by rcases fmtA with e | e <;> rcases fmtB with e' | e' <;> rw [e, e'] <;> rfl
    have low {f : Nat} (half : f = 1 ∨ f = 2) : f < 10 := by omega
    have ends := exec_mma_real_gives rfl rfl readyA readyB names pair (low fmtA) (low fmtB) blockA suits
      fun i j => realElem_half fmtA blockA blockB _ i j
    exact ends

end

section
/-! SUPPORT. Elements converted into a slot and stored as a tile (R99, R203, R204, R207). -/

namespace Sys2Proof.Machine

variable {s : State} {k : Fin 4} {p q : BitVec 4} {g f : RegNo} {r : BitVec 3}

/-- An element of an accumulator converted to a format (R203). -/
def State.convElem (s : State) (k : Fin 4) (f : RegNo) (r : Rnd) (n : Nat) : Nat × FpFlags :=
  convertElem s.core.eng.tabs f.toNat r (s.core.mat.accs[k].value n)

/-- The flags of the 256 conversions of an accumulator (R97). -/
def State.convFlags (s : State) (k : Fin 4) (f : RegNo) (r : Rnd) : FpFlags :=
  orFlags ((List.range 256).map (fun n => (s.convElem k f r n).2))

theorem State.convert_eq (s : State) (k : Fin 4) (f : RegNo) (r : Rnd) : s.core.mat.accs[k].convert s.core.eng.tabs f.toNat r =
    ((List.range 256).map (fun n => (s.convElem k f r n).1), s.convFlags k f r) := by
  unfold Acc.convert State.convFlags
  dsimp only
  rw [List.map_map, List.map_map]
  rfl

/-! ### `mcvt` -/

theorem exec_mcvt_illegal (scaled : 18 ≤ f.toNat) : exec (.mcvt p q r f) s = s.illegal (.mcvt p q r f) := by
  change execMcvt p q r f s = _
  unfold execMcvt
  exact if_pos scaled

/-- The slot that `mcvt` leaves: READY, with the converted elements as its rows. -/
def State.converted (s : State) (k : Fin 4) (f : RegNo) (r : Rnd) (t : Slot) : Slot :=
  ({ t with st := .ready, fmt := f, kv := 16, blk := none, scales := [], data := [], absent := [] } : Slot).setRows
    (fun i => (((List.range 256).map (fun n => (s.convElem k f r n).1)).drop (16 * i)).take 16) (List.range 16)

theorem State.converted_word (s : State) (k : Fin 4) (f : RegNo) (r : Rnd) (t : Slot) :
    ((s.converted k f r t).st, (s.converted k f r t).fmt, (s.converted k f r t).kv, (s.converted k f r t).blk) =
      (.ready, f, 16, none) := by
  unfold State.converted
  generalize List.range 16 = order
  generalize (fun i => (((List.range 256).map (fun n => (s.convElem k f r n).1)).drop (16 * i)).take 16) = codes
  rw [Slot.setRows_rest]

theorem State.converted_code (s : State) (k : Fin 4) (f : RegNo) (r : Rnd) (t : Slot) {i j : Nat} (row : i < 16) (place : j < 16) :
    (s.converted k f r t).code i j = (s.convElem k f r (16 * i + j)).1 % 2 ^ fmtBits f.toNat := by
  have fmt : (s.converted k f r t).fmt = f := Slot.setRows_fmt _ _ _
  have packed : (s.converted k f r t).data.readN (64 * i) 64 = bytesOf 64 (packNat (fmtBits f.toNat)
      ((((List.range 256).map (fun n => (s.convElem k f r n).1)).drop (16 * i)).take 16)) :=
    Slot.setRows_row Memory.wf_nil _ (List.mem_range.mpr row)
  have fits : j < fmtK f.toNat := by rcases fmtBits_cases f.toNat with ⟨-, e⟩ | ⟨-, e⟩ | ⟨-, e⟩ | ⟨-, e⟩ <;> omega
  rw [Slot.code_of_row (cs := (((List.range 256).map (fun n => (s.convElem k f r n).1)).drop (16 * i)).take 16) (by simp; omega)
    (by rwa [fmt]) (by rwa [fmt]), fmt]
  simp

section
variable (plain : f.toNat < 18)
include plain

theorem exec_mcvt_unclaimed (unclaimed : (s.slot (s.core.slotIndex q)).st ≠ .claimed) :
    exec (.mcvt p q r f) s = s.slotFault (s.core.slotIndex q).val := by
  change execMcvt p q r f s = _
  unfold execMcvt
  exact (if_neg (Nat.not_le.mpr plain)).trans (if_pos unclaimed)

theorem exec_mcvt_claimed (names : accIndex p = k) (claimed : (s.slot (s.core.slotIndex q)).st = .claimed)
    (free : s.fmtHeld f.toNat = false) : exec (.mcvt p q r f) s =
      (s.setSlot (s.core.slotIndex q) (s.converted k f (rndOf r) (s.slot (s.core.slotIndex q)))).matrixDone
        (s.convFlags k f (rndOf r)) := by
  subst k
  change execMcvt p q r f s = _
  unfold execMcvt State.converted Slot.setRows
  dsimp only
  rw [if_neg (Nat.not_le.mpr plain), if_neg (not_not.mpr claimed), free, State.convert_eq, if_neg Bool.false_ne_true]

end

/-! ### `mstore` -/

theorem exec_mstore_illegal (scaled : 18 ≤ f.toNat) : exec (.mstore p g f) s = s.illegal (.mstore p g f) := by
  change execMstore p g f s = _
  unfold execMstore
  exact if_pos scaled

/-- The codes of a tile: under f32 the elements as they stand, else converted to nearest (R204). -/
def State.tileCodes (s : State) (k : Fin 4) (f : RegNo) : List Nat :=
  (List.range 256).map (fun n => if f = 0 then s.core.mat.accs[k].elem n else (s.convElem k f .rne n).1)

/-- The bytes of a tile, packed. -/
def State.tileBytes (s : State) (k : Fin 4) (f : RegNo) : List Byte :=
  bytesOf (32 * fmtBits f.toNat) (packNat (fmtBits f.toNat) (s.tileCodes k f))

/-- The flags of a tile; the elements of an f32 tile are not converted. -/
def State.tileFlags (s : State) (k : Fin 4) (f : RegNo) : FpFlags := if f = 0 then 0 else s.convFlags k f .rne

@[simp] theorem State.tileBytes_length (s : State) (k : Fin 4) (f : RegNo) : (s.tileBytes k f).length = 32 * fmtBits f.toNat :=
  bytesOf_length _ _

theorem State.tile_eq (s : State) (k : Fin 4) (f : RegNo) : (if f = 0 then ((List.range 256).map s.core.mat.accs[k].elem, (0 : FpFlags))
    else s.core.mat.accs[k].convert s.core.eng.tabs f.toNat .rne) = (s.tileCodes k f, s.tileFlags k f) := by
  unfold State.tileCodes State.tileFlags
  split
  · rfl
  · exact State.convert_eq s k f .rne

section
variable (plain : f.toNat < 18)
include plain

theorem exec_mstore_stopped {t : Flow} (stopped : spanTrap s.core .store (s.g g) (32 * fmtBits f.toNat) 16 (decide (g = 2)) = some t) :
    exec (.mstore p g f) s = .next (s.finish t) := by
  have size : 256 * fmtBits f.toNat / 8 = 32 * fmtBits f.toNat := by omega
  change execMstore p g f s = _
  unfold execMstore
  dsimp only
  rw [if_neg (Nat.not_le.mpr plain), size, stopped]

variable (names : accIndex p = k) (fits : spanTrap s.core .store (s.g g) (32 * fmtBits f.toNat) 16 (decide (g = 2)) = none)
  (free : s.fmtHeld f.toNat = false) {off : Nat}
include names fits free

theorem exec_mstore_tcm (path : pathOf (s.g g) = some (.tcm, off)) : exec (.mstore p g f) s =
    (s.localStore true (atOffsets off (s.tileBytes k f)) false).matrixDone (s.tileFlags k f) := by
  subst k
  have size : 256 * fmtBits f.toNat / 8 = 32 * fmtBits f.toNat := by omega
  change execMstore p g f s = _
  unfold execMstore
  dsimp only
  rw [if_neg (Nat.not_le.mpr plain), size, fits, free, path, State.tile_eq]
  rfl

theorem exec_mstore_global {x : Ctx} (ctx : s.core.x.ctx = some x) (path : pathOf (s.g g) = some (.global, off)) :
    exec (.mstore p g f) s = s.sendTile .global (s.g g) off (s.storeFrame (s.g g) (if x.nowOnly then s.dev.now + 1 else x.pub))
      (s.tileBytes k f) (s.tileFlags k f) := by
  subst k
  have size : 256 * fmtBits f.toNat / 8 = 32 * fmtBits f.toNat := by omega
  change execMstore p g f s = _
  unfold execMstore
  dsimp only
  rw [if_neg (Nat.not_le.mpr plain), size, fits, free, path, State.tile_eq, State.storeInstant_task ctx, ctx]
  rfl

end

/-! ### A tile on TCM -/

theorem storedWords_tile (off : Nat) (bs : List Byte) :
    ((atOffsets off bs).map (fun b => b.1 / 4)).dedup = ((List.range bs.length).map (fun k => (off + k) / 4)).dedup := by
  rw [atOffsets, List.map_map]
  exact congrArg List.dedup (List.ext_getElem (by simp) fun k _ _ => by simp)

/-- Bytes stored on TCM at issue, after the core's accesses to their words. -/
theorem State.Sound.localStore_written (sound : s.Sound) (off : Nat) (bs : List Byte) :
    let d := s.drainWords true ((List.range bs.length).map (fun k => (off + k) / 4)).dedup
    let u := s.localStore true (atOffsets off bs) false
    d.core.mem.tcm.Written u.core.mem.tcm off bs ∧ u = { d with core := { d.core with
      mem := { d.core.mem with tcm := u.core.mem.tcm }, x := { d.core.x with touchTcm := u.core.x.touchTcm } } } := by
  intro d u
  have stored : u = { d with core := d.core.tcmWrite (atOffsets off bs) } := by
    dsimp only [u]
    rw [State.localStore_ordinary, storedWords_tile]
  rw [stored]
  exact ⟨Memory.written_atOffsets (sound.drainWords _ _).acting.2 off bs, rfl⟩

/-! ### A tile on GLOBAL -/

variable {t : TStore} {a : Word} {bs : List Byte} {off inst : Nat} {x : Ctx}

/-- Pieces that are all walked have their keys. -/
theorem State.pieceKeys_walked {is : List Nat}
    (walked : ∀ i ∈ is, ∃ n, s.walked (s.core.part s) (decide (s.core.x.mode = .user)) true (off + 16 * i) inst = .ok n) :
    ∃ ks, s.pieceKeys .global a off inst is = .ok ks ∧ ks.length = is.length := by
  induction is with
  | nil => exact ⟨[], rfl, rfl⟩
  | cons i is ih =>
    obtain ⟨n, key⟩ := walked i List.mem_cons_self
    obtain ⟨ks, keys, len⟩ := ih fun j later => walked j (List.mem_cons_of_mem i later)
    refine ⟨n :: ks, ?_, congrArg Nat.succ len⟩
    unfold State.pieceKeys
    simp only [reduceCtorEq, if_false, key, keys]

theorem State.countRemote_keeps (s : State) (sh part va key : Nat) : (s.countRemote sh part va key).core = s.core ∧
    (s.countRemote sh part va key).dev.timed = s.dev.timed := by
  unfold State.countRemote
  split
  · exact ⟨rfl, rfl⟩
  · split
    · exact ⟨rfl, rfl⟩
    · exact ⟨rfl, rfl⟩

/-- A piece of a tile as it leaves: its place and bytes, its key at its home, and what the mesh adds. -/
def State.piece (s : State) (t : TStore) (a : Word) (bs : List Byte) (i key : Nat) : TStore :=
  s.numberedStore { t with
    addr := a + BitVec.ofNat 64 (16 * i), home := some key, data := atOffsets 0 ((bs.drop (16 * i)).take 16) }

theorem State.sendPiece_sends (s : State) (t : TStore) (a : Word) (bs : List Byte) (i key : Nat) :
    (s.sendPiece t a bs i key).core = s.core ∧
      (s.sendPiece t a bs i key).dev.timed.flight = s.dev.timed.flight ++ [s.piece t a bs i key] := by
  unfold State.sendPiece
  dsimp only
  split
  · rw [(State.countRemote_keeps _ _ _ _ _).1, (State.countRemote_keeps _ _ _ _ _).2]
    exact ⟨rfl, rfl⟩
  · exact ⟨rfl, rfl⟩

/-- A store with the number, the issuer and the instant of another. -/
def TStore.SameKey (t y : TStore) : Prop := y.seq = t.seq ∧ y.token = t.token ∧ y.drop = t.drop ∧ y.inst = t.inst

/-- The addressed bytes of a store. -/
def TStore.addressed (y : TStore) : List (Word × Byte) := y.data.map (fun b => (y.addr + BitVec.ofNat 64 b.1, b.2))

/-- The addressed bytes of piece `i` of a tile at an address. -/
def pieceBytes (a : Word) (bs : List Byte) (i : Nat) : List (Word × Byte) :=
  (atOffsets 0 ((bs.drop (16 * i)).take 16)).map (fun b => (a + BitVec.ofNat 64 (16 * i) + BitVec.ofNat 64 b.1, b.2))

/-- Pieces sent one after another leave the core and stand at the end of what is in flight, in their order. -/
theorem State.foldl_sendPiece (t : TStore) (a : Word) (bs : List Byte) (ks : List (Nat × Nat)) (s : State) :
    ∃ sent : List TStore, (ks.foldl (fun s k => s.sendPiece t a bs k.2 k.1) s).core = s.core ∧
      (ks.foldl (fun s k => s.sendPiece t a bs k.2 k.1) s).dev.timed.flight = s.dev.timed.flight ++ sent ∧
      (∀ y ∈ sent, t.SameKey y) ∧ sent.flatMap TStore.addressed = (ks.map (fun k => k.2)).flatMap (pieceBytes a bs) := by
  induction ks generalizing s with
  | nil => exact ⟨[], rfl, (List.append_nil _).symm, (fun _ h => nomatch h), rfl⟩
  | cons k ks ih =>
    obtain ⟨core, flight⟩ := s.sendPiece_sends t a bs k.2 k.1
    obtain ⟨sent, core', flight', key, bytes⟩ := ih (s.sendPiece t a bs k.2 k.1)
    refine ⟨s.piece t a bs k.2 k.1 :: sent, ?_, ?_, ?_, ?_⟩
    · rw [List.foldl_cons, core', core]
    · rw [List.foldl_cons, flight', flight, List.append_assoc, List.singleton_append]
    · exact List.forall_mem_cons.mpr ⟨⟨rfl, rfl, rfl, rfl⟩, key⟩
    · rw [List.flatMap_cons, bytes, List.map_cons, List.flatMap_cons]
      rfl

/-- The pieces of a tile hold its bytes, one after another. -/
theorem pieceBytes_range (a : Word) (bs : List Byte) {m : Nat} (room : 16 * m ≤ bs.length) :
    (List.range m).flatMap (pieceBytes a bs) = (bs.take (16 * m)).zipIdx.map (fun b => (a + BitVec.ofNat 64 b.2, b.1)) := by
  induction m with
  | zero => rfl
  | succ m ih =>
    have len : (bs.take (16 * m)).length = 16 * m := List.length_take_of_le (by omega)
    rw [List.range_succ, List.flatMap_append, ih (by omega), List.flatMap_singleton, Nat.mul_succ, List.take_add, List.zipIdx_append,
      List.map_append, len, Nat.zero_add, List.zipIdx_eq_map_add (i := 16 * m), List.map_map, pieceBytes, atOffsets_zero, List.map_map]
    refine congrArg _ (List.map_congr_left fun b _ => ?_)
    simp [BitVec.ofNat_add, BitVec.add_assoc]

theorem Ctx.numbered_of_lt (below : x.seq < 0xFFFFFFFF) : x.numbered = { x with seq := x.seq + 1 } := by
  rw [Ctx.numbered, Nat.min_eq_right (by omega)]

section
variable {eb : Nat} {fl : FpFlags} (ctx : s.core.x.ctx = some x) (below : x.seq < 0xFFFFFFFF) (len : bs.length = 32 * eb)
include ctx below len

/-- A tile of which a piece is refused takes its number, and nothing of it leaves (R207). -/
theorem State.sendTile_refused {c : BitVec 8} {b : Word}
    (refused : s.pieceKeys .global a off t.inst (List.range (2 * eb)) = .error (c, b)) : s.sendTile .global a off t bs fl =
      .next (State.finish ((s.onX (fun y => { y with ctx := some { x with seq := x.seq + 1 } })).defer c b) .next) := by
  unfold State.sendTile
  rw [len, show (32 * eb + 15) / 16 = 2 * eb by omega, refused, State.takeSeq_task ctx (by omega), Ctx.numbered_of_lt below]
  rfl

/-- A tile whose pieces are all walked leaves whole, under one number (R204). -/
theorem State.sendTile_leaves (walked : ∀ i < 2 * eb, ∃ n, s.walked (s.core.part s) (decide (s.core.x.mode = .user)) true (off + 16 * i)
    t.inst = .ok n) : ∃ (u : State) (sent : List TStore), s.sendTile .global a off t bs fl = u.matrixDone fl ∧
      u.core = { s.core with x := { s.core.x with ctx := some { x with seq := x.seq + 1 } } } ∧
      u.dev.timed.flight = s.dev.timed.flight ++ sent ∧ (∀ y ∈ sent, t.SameKey y) ∧
      sent.flatMap TStore.addressed = bs.zipIdx.map (fun b => (a + BitVec.ofNat 64 b.2, b.1)) := by
  obtain ⟨ks, keys, count⟩ := State.pieceKeys_walked (a := a) fun i listed => walked i (List.mem_range.mp listed)
  rw [List.length_range] at count
  obtain ⟨sent, core, flight, key, bytes⟩ := State.foldl_sendPiece t a bs ks.zipIdx s.takeSeq
  refine ⟨_, sent, ?_, core.trans ?_, flight, key, bytes.trans ?_⟩
  · unfold State.sendTile
    rw [len, show (32 * eb + 15) / 16 = 2 * eb by omega, keys]
  · rw [State.takeSeq_task ctx (by omega), Ctx.numbered_of_lt below]
    rfl
  · have order : ks.zipIdx.map (fun k => k.2) = List.range (2 * eb) := by rw [← count]; exact List.ext_getElem (by simp) (by simp)
    rw [order, pieceBytes_range a bs (by omega), List.take_of_length_le (by omega)]

end

end Sys2Proof.Machine
end

section
/-! CERTIFICATE. `mcvt` and `mstore`. -/

open Sys2Proof Sys2Proof.Machine

/-- Settles O35: `mcvt` by its checks and the rows that it leaves (`State.converted_code`); a tile on TCM as one store
(`State.Sound.localStore_written`), on GLOBAL as the pieces that leave (`State.sendTile_leaves`), or none of them
(`State.sendTile_refused`). -/
theorem convertAndStoreResults : Obligations.ConvertAndStoreResults := by
  intro s k q g f r off sound p nq acc conv fl a eb codes bs flags fits inst
  have names : accIndex p = k := accIndex_ofNat k
  have len : (s.tileBytes k f).length = 32 * eb := s.tileBytes_length k f
  refine ⟨fun scaled => ⟨exec_mcvt_illegal scaled, exec_mstore_illegal scaled⟩,
    fun plain unclaimed => exec_mcvt_unclaimed plain unclaimed,
    fun plain claimed free => ⟨_, exec_mcvt_claimed plain names claimed free, s.converted_word k f _ _,
      fun i row j place => s.converted_code k f _ _ row place⟩,
    fun t plain stopped => exec_mstore_stopped plain stopped, fun plain fits free path => ?_,
    fun x c b plain fits free path ctx below refused => ?_, fun x plain fits free path ctx below walked => ?_⟩
  · have written := sound.localStore_written off (s.tileBytes k f)
    rw [len] at written
    exact ⟨_, exec_mstore_tcm plain names fits free path, written⟩
  · exact (exec_mstore_global plain names fits free ctx path).trans (State.sendTile_refused ctx below len refused)
  · obtain ⟨u, sent, run, core, flight, key, bytes⟩ := State.sendTile_leaves (a := a) (fl := s.tileFlags k f)
      (t := s.storeFrame a (inst x)) ctx below len walked
    have frame := State.storeFrame_task (a := a) (inst := inst x) ctx
    refine ⟨u, sent, (exec_mstore_global plain names fits free ctx path).trans run, core, flight, fun t leaves => ?_, bytes⟩
    obtain ⟨seq, token, drop, instant⟩ := key t leaves
    simp only [Prod.mk.injEq] at frame
    obtain ⟨ofTask, -, -, -, numbered, -⟩ := frame
    exact ⟨seq.trans numbered, token.trans ofTask, drop, instant⟩

end

section
/-! SUPPORT. What a word decodes to has that word, but for the clause bit (R103, R108 to R113): the fields of each major put
together again. -/

namespace Sys2Proof

open Laws

set_option Elab.async false

@[simp] theorem bf_toNat (n lo k : Nat) : (bf n lo k).toNat = n / 2 ^ lo % 2 ^ k := BitVec.toNat_ofNat ..

/-- The fields of a number from bit `lo` upward, of the given widths, put together again. -/
@[simp] def joined (n lo : Nat) : List Nat → Nat
  | [] => 0
  | k :: ks => n / 2 ^ lo % 2 ^ k * 2 ^ lo + joined n (lo + k) ks

theorem joined_eq (n : Nat) : ∀ (ks : List Nat) (lo : Nat), joined n lo ks = n / 2 ^ lo % 2 ^ ks.sum * 2 ^ lo
  | [], lo => by simp [joined, Nat.mod_one]
  | k :: ks, lo => by
    rw [joined, joined_eq n ks (lo + k), List.sum_cons, Nat.pow_add, Nat.pow_add, ← Nat.div_div_eq_div_mul,
      Nat.mod_mul (x := n / 2 ^ lo)]
    ring

/-- Where a reading of a word's fields gives an instruction, the word of that instruction is the word but for bit 31. -/
def ReadsBack (n : Nat) (r : Except DecodeError Instr) : Prop := ∀ i, r = .ok i → encodeNat i = n % 2147483648

theorem ReadsBack.error {n : Nat} {e : DecodeError} : ReadsBack n (.error e) := nofun

theorem ReadsBack.guard {n : Nat} {c : Prop} [Decidable c] {e : DecodeError} {r : Except DecodeError Instr}
    (h : c → ReadsBack n r) : ReadsBack n (if c then r else .error e) := by
  split
  · exact h ‹_›
  · exact .error

theorem ReadsBack.ok {n : Nat} {i : Instr} (ks : List Nat) (word : ks.sum = 31) (h : encodeNat i = joined n 0 ks) :
    ReadsBack n (.ok i) := by
  rintro _ ⟨rfl⟩
  rw [h, joined_eq, word]
  simp

/-! Each table of the decoder, by the code in the word: `zero` are the fields that must be zero, the widths those of the
instruction's format from bit 0 upward (R112). -/

theorem decodeAlu_readsBack {n : Nat} (major : n / 33554432 % 64 = 0) : ReadsBack n (decodeAlu n) := by
  unfold decodeAlu
  split
  case h_18 => exact .error
  case h_17 code => exact .guard fun zero => .ok [3, 1, 6, 5, 5, 5, 6] rfl (by simp +arith [encodeNat, major, code, zero])
  all_goals next code => exact .guard fun zero => .ok [1, 3, 6, 5, 5, 5, 6] rfl (by simp +arith [encodeNat, major, code, zero])

theorem decodeShiftImm_readsBack {n : Nat} (major : n / 33554432 % 64 = 5) : ReadsBack n (decodeShiftImm n) := by
  unfold decodeShiftImm
  split
  case h_5 => exact .error
  all_goals next code => exact .guard fun zero => .ok [6, 7, 2, 5, 5, 6] rfl (by simp +arith [encodeNat, major, code, zero])

theorem decodeMulDiv_readsBack {n : Nat} (major : n / 33554432 % 64 = 8) : ReadsBack n (decodeMulDiv n) := by
  unfold decodeMulDiv
  split
  case h_8 => exact .error
  all_goals next code => exact .guard fun zero => .ok [1, 3, 6, 5, 5, 5, 6] rfl (by simp +arith [encodeNat, major, code, zero])

theorem decodeBits_readsBack {n : Nat} (major : n / 33554432 % 64 = 9) : ReadsBack n (decodeBits n) := by
  unfold decodeBits
  split
  case h_9 => exact .error
  all_goals next code => exact .guard fun zero => .ok [1, 3, 6, 5, 5, 5, 6] rfl (by simp +arith [encodeNat, major, code, zero])

theorem decodeVint_readsBack {n : Nat} (major : n / 33554432 % 64 = 16) : ReadsBack n (decodeVint n) := by
  unfold decodeVint
  split
  case h_25 => exact .error
  case h_10 code | h_11 code => exact .guard fun zero => .ok [5, 2, 3, 5, 5, 5, 6] rfl (by simp +arith [encodeNat, major, code, zero])
  all_goals next code => exact .ok [5, 2, 3, 5, 5, 5, 6] rfl (by simp +arith [encodeNat, major, code])

theorem decodeVcmp_readsBack {n : Nat} (major : n / 33554432 % 64 = 17) : ReadsBack n (decodeVcmp n) := by
  unfold decodeVcmp
  split
  case h_11 => exact .error
  all_goals next code => exact .guard fun zero => .ok [5, 2, 3, 5, 5, 3, 2, 6] rfl (by simp +arith [encodeNat, major, code, zero])

theorem decodeVfp_readsBack {n : Nat} (major : n / 33554432 % 64 = 18) : ReadsBack n (decodeVfp n) := by
  unfold decodeVfp
  split
  case h_10 => exact .error
  case h_6 code | h_7 code | h_8 code | h_9 code => exact .guard fun zero => .ok [5, 2, 3, 5, 5, 5, 6] rfl (by simp +arith [encodeNat, major, code, zero])
  all_goals next code => exact .ok [5, 2, 3, 5, 5, 5, 6] rfl (by simp +arith [encodeNat, major, code])

theorem decodeVfma_readsBack {n : Nat} (major : n / 33554432 % 64 = 19) : ReadsBack n (decodeVfma n) := by
  unfold decodeVfma
  split
  case h_7 => exact .error
  all_goals next code => exact .ok [3, 2, 5, 5, 5, 5, 6] rfl (by simp +arith [encodeNat, major, code])

theorem decodeVperm_readsBack {n : Nat} (major : n / 33554432 % 64 = 20) : ReadsBack n (decodeVperm n) := by
  unfold decodeVperm
  split
  case h_10 => exact .error
  case h_2 code | h_3 code | h_9 code => exact .guard fun zero => .ok [5, 2, 3, 5, 5, 5, 6] rfl (by simp +arith [encodeNat, major, code, zero])
  all_goals next code => exact .ok [5, 2, 3, 5, 5, 5, 6] rfl (by simp +arith [encodeNat, major, code])

theorem decodeVred_readsBack {n : Nat} (major : n / 33554432 % 64 = 21) : ReadsBack n (decodeVred n) := by
  unfold decodeVred
  split
  case h_12 => exact .error
  case h_7 code | h_8 code => exact .ok [5, 2, 3, 5, 5, 5, 6] rfl (by simp +arith [encodeNat, major, code])
  all_goals next code => exact .guard fun zero => .ok [5, 2, 3, 5, 5, 5, 6] rfl (by simp +arith [encodeNat, major, code, zero])

theorem decodeVtab_readsBack {n : Nat} (major : n / 33554432 % 64 = 23) : ReadsBack n (decodeVtab n) := by
  unfold decodeVtab
  split
  case h_4 => exact .error
  case h_3 code => exact .guard fun zero => .ok [5, 3, 2, 5, 5, 5, 6] rfl (by simp +arith [encodeNat, major, code, zero])
  case h_1 code | h_2 code => exact .guard fun zero => .ok [5, 3, 2, 3, 1, 1, 5, 5, 6] rfl (by simp +arith [encodeNat, major, code, zero])

theorem decodeBr_readsBack {n : Nat} (major : n / 33554432 % 64 = 32) : ReadsBack n (decodeBr n) := by
  unfold decodeBr
  split
  case h_9 => exact .error
  case h_7 code | h_8 code => exact .guard fun zero => .ok [12, 5, 5, 3, 6] rfl (by simp +arith [encodeNat, major, code, zero])
  all_goals next code => exact .ok [12, 5, 5, 3, 6] rfl (by simp +arith [encodeNat, major, code])

theorem decodeJmp_readsBack {n : Nat} (major : n / 33554432 % 64 = 34) : ReadsBack n (decodeJmp n) := by
  unfold decodeJmp
  split
  case h_5 => exact .error
  case h_3 code => exact .guard fun zero => .ok [12, 3, 10, 6] rfl (by simp +arith [encodeNat, major, code, zero])
  all_goals next code => exact .guard fun zero => .ok [12, 3, 5, 5, 6] rfl (by simp +arith [encodeNat, major, code, zero])

theorem decodeLoop_readsBack {n : Nat} (major : n / 33554432 % 64 = 35) : ReadsBack n (decodeLoop n) := by
  unfold decodeLoop
  split
  case h_3 => exact .error
  case h_1 code => exact .guard fun zero => .ok [11, 1, 6, 5, 2, 6] rfl (by simp +arith [encodeNat, major, code, zero])
  case h_2 code => exact .guard fun zero => .ok [6, 5, 1, 6, 5, 2, 6] rfl (by simp +arith [encodeNat, major, code, zero])

theorem decodeGang_readsBack {n : Nat} (major : n / 33554432 % 64 = 36) : ReadsBack n (decodeGang n) := by
  unfold decodeGang
  split
  case h_5 => exact .error
  case h_2 code => exact .guard fun zero => .ok [12, 3, 10, 6] rfl (by simp +arith [encodeNat, major, code, zero])
  all_goals next code => exact .guard fun zero => .ok [12, 3, 5, 5, 6] rfl (by simp +arith [encodeNat, major, code, zero])

theorem decodeLd_readsBack {n : Nat} (major : n / 33554432 % 64 = 37) : ReadsBack n (decodeLd n) := by
  unfold decodeLd
  split
  case h_5 => exact .error
  case h_4 code => exact .guard fun zero => .ok [10, 1, 2, 2, 5, 5, 6] rfl (by simp +arith [encodeNat, major, code, zero])
  all_goals next code => exact .ok [10, 1, 2, 2, 5, 5, 6] rfl (by simp +arith [encodeNat, major, code])

theorem decodeSt_readsBack {n : Nat} (major : n / 33554432 % 64 = 38) : ReadsBack n (decodeSt n) := by
  unfold decodeSt
  split
  case h_5 => exact .error
  all_goals next code => exact .ok [10, 1, 2, 2, 5, 5, 6] rfl (by simp +arith [encodeNat, major, code])

theorem decodeAmo_readsBack {n : Nat} (major : n / 33554432 % 64 = 41) : ReadsBack n (decodeAmo n) := by
  unfold decodeAmo
  split
  case h_12 => exact .error
  all_goals next code => exact .guard fun zero => .ok [3, 4, 1, 2, 5, 5, 5, 6] rfl (by simp +arith [encodeNat, major, code, zero])

theorem decodeSync_readsBack {n : Nat} (major : n / 33554432 % 64 = 42) : ReadsBack n (decodeSync n) := by
  unfold decodeSync
  split
  case h_7 => exact .error
  case h_2 code => exact .guard fun zero => .ok [10, 2, 3, 5, 5, 6] rfl (by simp +arith [encodeNat, major, code, zero])
  case h_5 code => exact .guard fun zero => .ok [12, 3, 5, 3, 2, 6] rfl (by simp +arith [encodeNat, major, code, zero])
  case h_6 code => exact .guard fun zero => .ok [10, 2, 3, 5, 3, 2, 6] rfl (by simp +arith [encodeNat, major, code, zero])
  all_goals next code => exact .guard fun zero => .ok [12, 3, 5, 5, 6] rfl (by simp +arith [encodeNat, major, code, zero])

theorem decodeXfer_readsBack {n : Nat} (major : n / 33554432 % 64 = 43) : ReadsBack n (decodeXfer n) := by
  unfold decodeXfer
  split
  case h_4 => exact .error
  case h_1 code => exact .ok [5, 5, 5, 5, 5, 6] rfl (by simp +arith [encodeNat, major, code])
  case h_2 code => exact .guard fun zero => .ok [5, 10, 5, 5, 6] rfl (by simp +arith [encodeNat, major, code, zero])
  case h_3 code => exact .guard fun zero => .ok [5, 15, 5, 6] rfl (by simp +arith [encodeNat, major, code, zero])

theorem decodeStrm_readsBack {n : Nat} (major : n / 33554432 % 64 = 44) : ReadsBack n (decodeStrm n) := by
  unfold decodeStrm
  split
  case h_4 => exact .error
  case h_1 code => exact .guard fun zero => .ok [5, 5, 5, 5, 5, 6] rfl (by simp +arith [encodeNat, major, code, zero])
  case h_2 code => exact .guard fun zero => .ok [5, 15, 5, 6] rfl (by simp +arith [encodeNat, major, code, zero])
  case h_3 code => exact .guard fun zero => .ok [5, 10, 5, 5, 6] rfl (by simp +arith [encodeNat, major, code, zero])

theorem decodeCode_readsBack {n : Nat} (major : n / 33554432 % 64 = 45) : ReadsBack n (decodeCode n) := by
  unfold decodeCode
  split
  case h_5 => exact .error
  case h_3 code => exact .guard fun zero => .ok [2, 8, 1, 1, 3, 5, 5, 6] rfl (by simp +arith [encodeNat, major, code, zero])
  case h_4 code => exact .guard fun zero => .ok [2, 10, 3, 5, 5, 6] rfl (by simp +arith [encodeNat, major, code, zero])
  case h_1 code | h_2 code => exact .guard fun zero => .ok [4, 8, 3, 5, 5, 6] rfl (by simp +arith [encodeNat, major, code, zero])

theorem decodeMat0_readsBack {n : Nat} (major : n / 33554432 % 64 = 46) : ReadsBack n (decodeMat0 n) := by
  unfold decodeMat0
  split
  case h_6 => exact .error
  case h_3 code | h_4 code => exact .guard fun zero => .ok [5, 3, 5, 8, 4, 6] rfl (by simp +arith [encodeNat, major, code, zero])
  all_goals next code => exact .guard fun zero => .ok [5, 3, 13, 4, 6] rfl (by simp +arith [encodeNat, major, code, zero])

theorem decodeMat1_readsBack {n : Nat} (major : n / 33554432 % 64 = 47) : ReadsBack n (decodeMat1 n) := by
  unfold decodeMat1
  split
  case h_6 => exact .error
  case h_1 code => exact .guard fun zero => .ok [1, 4, 3, 5, 4, 4, 4, 6] rfl (by simp +arith [encodeNat, major, code, zero])
  case h_2 code => exact .guard fun zero => .ok [1, 1, 3, 3, 5, 4, 4, 4, 6] rfl (by simp +arith [encodeNat, major, code, zero])
  case h_3 code => exact .guard fun zero => .ok [2, 3, 3, 5, 4, 4, 4, 6] rfl (by simp +arith [encodeNat, major, code, zero])
  case h_4 code => exact .guard fun zero => .ok [5, 3, 3, 6, 4, 4, 6] rfl (by simp +arith [encodeNat, major, code, zero])
  case h_5 code => exact .guard fun zero => .ok [5, 3, 13, 4, 6] rfl (by simp +arith [encodeNat, major, code, zero])

theorem decodeTask_readsBack {n : Nat} (major : n / 33554432 % 64 = 48) : ReadsBack n (decodeTask n) := by
  unfold decodeTask
  split
  case h_6 => exact .error
  case h_1 code => exact .guard fun zero => .ok [5, 15, 5, 6] rfl (by simp +arith [encodeNat, major, code, zero])
  case h_2 code => exact .guard fun zero => .ok [5, 5, 5, 5, 5, 6] rfl (by simp +arith [encodeNat, major, code, zero])
  case h_4 code => exact .guard fun zero => .ok [5, 20, 6] rfl (by simp +arith [encodeNat, major, code, zero])
  case h_3 code | h_5 code => exact .guard fun zero => .ok [5, 10, 5, 5, 6] rfl (by simp +arith [encodeNat, major, code, zero])

theorem decodeMsg_readsBack {n : Nat} (major : n / 33554432 % 64 = 49) : ReadsBack n (decodeMsg n) := by
  unfold decodeMsg
  split
  case h_6 => exact .error
  case h_2 code | h_4 code => exact .guard fun zero => .ok [5, 5, 5, 5, 5, 6] rfl (by simp +arith [encodeNat, major, code, zero])
  all_goals next code => exact .guard fun zero => .ok [5, 10, 5, 5, 6] rfl (by simp +arith [encodeNat, major, code, zero])

theorem decodeSplc_readsBack {n : Nat} (major : n / 33554432 % 64 = 50) : ReadsBack n (decodeSplc n) := by
  unfold decodeSplc
  split
  case h_5 => exact .error
  case h_1 code =>
    refine .guard fun zero => ?_
    split
    case h_4 => exact .error
    all_goals next op => exact .ok [5, 5, 5, 5, 5, 6] rfl (by simp +arith [encodeNat, major, code, zero, op])
  case h_2 code => exact .guard fun zero => .ok [5, 5, 5, 5, 5, 6] rfl (by simp +arith [encodeNat, major, code, zero])
  case h_3 code => exact .guard fun zero => .ok [5, 15, 5, 6] rfl (by simp +arith [encodeNat, major, code, zero])
  case h_4 code => exact .guard fun zero => .ok [5, 20, 6] rfl (by simp +arith [encodeNat, major, code, zero])

theorem decodeUint_readsBack {n : Nat} (major : n / 33554432 % 64 = 51) : ReadsBack n (decodeUint n) := by
  unfold decodeUint
  split
  case h_5 => exact .error
  case h_1 code | h_4 code => exact .guard fun zero => .ok [12, 3, 10, 6] rfl (by simp +arith [encodeNat, major, code, zero])
  case h_2 code | h_3 code => exact .guard fun zero => .ok [6, 6, 3, 10, 6] rfl (by simp +arith [encodeNat, major, code, zero])

theorem decodeSys_readsBack {n : Nat} (major : n / 33554432 % 64 = 52) : ReadsBack n (decodeSys n) := by
  unfold decodeSys
  split
  case h_7 => exact .error
  case h_5 code | h_6 code => exact .guard fun zero => .ok [12, 3, 10, 6] rfl (by simp +arith [encodeNat, major, code, zero])
  all_goals next code => exact .guard fun zero => .ok [12, 3, 5, 5, 6] rfl (by simp +arith [encodeNat, major, code, zero])

/-- Major 0x21: with d = 0 the word is `j`, else `jal` (R113). -/
theorem decodeJal_readsBack {n : Nat} (major : n / 33554432 % 64 = 33) : ReadsBack n
    (if n / 1048576 % 32 = 0 then .ok (.j (bf n 0 20)) else .ok (.jal (bf n 20 5) (bf n 0 20))) := by
  split
  case isTrue zero => exact .ok [20, 5, 6] rfl (by simp +arith [encodeNat, major, zero])
  case isFalse => exact .ok [20, 5, 6] rfl (by simp +arith [encodeNat, major])

theorem decodeFields_readsBack (n : Nat) : ReadsBack n (decodeFields n) := by
  unfold decodeFields
  split
  case h_1 major => exact decodeAlu_readsBack major
  case h_6 major => exact decodeShiftImm_readsBack major
  case h_9 major => exact decodeMulDiv_readsBack major
  case h_10 major => exact decodeBits_readsBack major
  case h_11 major => exact decodeVint_readsBack major
  case h_12 major => exact decodeVcmp_readsBack major
  case h_13 major => exact decodeVfp_readsBack major
  case h_14 major => exact decodeVfma_readsBack major
  case h_15 major => exact decodeVperm_readsBack major
  case h_16 major => exact decodeVred_readsBack major
  case h_17 major => exact .guard fun zero => .ok [1, 3, 3, 4, 4, 5, 5, 6] rfl (by simp +arith [encodeNat, major, zero])
  case h_18 major => exact decodeVtab_readsBack major
  case h_19 major => exact decodeBr_readsBack major
  case h_20 major => exact decodeJal_readsBack major
  case h_21 major => exact decodeJmp_readsBack major
  case h_22 major => exact decodeLoop_readsBack major
  case h_23 major => exact decodeGang_readsBack major
  case h_24 major => exact decodeLd_readsBack major
  case h_25 major => exact decodeSt_readsBack major
  case h_28 major => exact decodeAmo_readsBack major
  case h_29 major => exact decodeSync_readsBack major
  case h_30 major => exact decodeXfer_readsBack major
  case h_31 major => exact decodeStrm_readsBack major
  case h_32 major => exact decodeCode_readsBack major
  case h_33 major => exact decodeMat0_readsBack major
  case h_34 major => exact decodeMat1_readsBack major
  case h_35 major => exact decodeTask_readsBack major
  case h_36 major => exact decodeMsg_readsBack major
  case h_37 major => exact decodeSplc_readsBack major
  case h_38 major => exact decodeUint_readsBack major
  case h_39 major => exact decodeSys_readsBack major
  case h_40 => exact .error
  case h_2 major | h_3 major | h_4 major | h_5 major => exact .ok [15, 5, 5, 6] rfl (by simp +arith [encodeNat, major])
  case h_7 major | h_8 major => exact .ok [20, 5, 6] rfl (by simp +arith [encodeNat, major])
  case h_26 major | h_27 major => exact .ok [10, 3, 2, 5, 5, 6] rfl (by simp +arith [encodeNat, major])

/-- The law of every constructor; a step without a word is not well-formed. -/
theorem decode_encode_self (i : Instr) : RoundTrip.Statement i := by
  cases i with
  | add => apply RoundTrip.add | sub => apply RoundTrip.sub | and => apply RoundTrip.and | or => apply RoundTrip.or | xor => apply RoundTrip.xor
  | andn => apply RoundTrip.andn | shl => apply RoundTrip.shl | shr => apply RoundTrip.shr | sra => apply RoundTrip.sra | rol => apply RoundTrip.rol
  | slt => apply RoundTrip.slt | sltn => apply RoundTrip.sltn | min => apply RoundTrip.min | max => apply RoundTrip.max
  | minn => apply RoundTrip.minn | maxn => apply RoundTrip.maxn | sel => apply RoundTrip.sel | addi => apply RoundTrip.addi
  | andi => apply RoundTrip.andi | ori => apply RoundTrip.ori | xori => apply RoundTrip.xori | shli => apply RoundTrip.shli
  | shri => apply RoundTrip.shri | srai => apply RoundTrip.srai | roli => apply RoundTrip.roli | movi => apply RoundTrip.movi
  | movs => apply RoundTrip.movs | mul => apply RoundTrip.mul | mulh => apply RoundTrip.mulh | mulhn => apply RoundTrip.mulhn
  | div => apply RoundTrip.div | divn => apply RoundTrip.divn | rem => apply RoundTrip.rem | remn => apply RoundTrip.remn
  | clz => apply RoundTrip.clz | ctz => apply RoundTrip.ctz | pop => apply RoundTrip.pop | brev => apply RoundTrip.brev
  | sext => apply RoundTrip.sext | zext => apply RoundTrip.zext | bext => apply RoundTrip.bext | bins => apply RoundTrip.bins
  | vadd => apply RoundTrip.vadd | vsub => apply RoundTrip.vsub | vmul => apply RoundTrip.vmul | vmulh => apply RoundTrip.vmulh
  | vmulhn => apply RoundTrip.vmulhn | vmin => apply RoundTrip.vmin | vmax => apply RoundTrip.vmax | vminn => apply RoundTrip.vminn
  | vmaxn => apply RoundTrip.vmaxn | vabs => apply RoundTrip.vabs | vneg => apply RoundTrip.vneg | vand => apply RoundTrip.vand
  | vor => apply RoundTrip.vor | vxor => apply RoundTrip.vxor | vandn => apply RoundTrip.vandn | vshl => apply RoundTrip.vshl
  | vshr => apply RoundTrip.vshr | vsra => apply RoundTrip.vsra | vadds => apply RoundTrip.vadds | vaddsn => apply RoundTrip.vaddsn
  | vsubs => apply RoundTrip.vsubs | vsubsn => apply RoundTrip.vsubsn | vavg => apply RoundTrip.vavg | vavgn => apply RoundTrip.vavgn
  | vcmpeq => apply RoundTrip.vcmpeq | vcmpne => apply RoundTrip.vcmpne | vcmplt => apply RoundTrip.vcmplt | vcmple => apply RoundTrip.vcmple
  | vcmpltn => apply RoundTrip.vcmpltn | vcmplen => apply RoundTrip.vcmplen | vfcmpeq => apply RoundTrip.vfcmpeq | vfcmplt => apply RoundTrip.vfcmplt
  | vfcmple => apply RoundTrip.vfcmple | vfcmpun => apply RoundTrip.vfcmpun | vfadd => apply RoundTrip.vfadd | vfsub => apply RoundTrip.vfsub
  | vfmul => apply RoundTrip.vfmul | vfmin => apply RoundTrip.vfmin | vfmax => apply RoundTrip.vfmax | vfabs => apply RoundTrip.vfabs
  | vfneg => apply RoundTrip.vfneg | vfrcp => apply RoundTrip.vfrcp | vfrsq => apply RoundTrip.vfrsq | vfma => apply RoundTrip.vfma
  | vfms => apply RoundTrip.vfms | vfnma => apply RoundTrip.vfnma | vfnms => apply RoundTrip.vfnms | vmac => apply RoundTrip.vmac
  | vmacn => apply RoundTrip.vmacn | vshuf => apply RoundTrip.vshuf | vsplat => apply RoundTrip.vsplat | vext => apply RoundTrip.vext
  | vins => apply RoundTrip.vins | vzip => apply RoundTrip.vzip | vunzip => apply RoundTrip.vunzip | vrot => apply RoundTrip.vrot
  | vsel => apply RoundTrip.vsel | vmov => apply RoundTrip.vmov | vredadd => apply RoundTrip.vredadd | vfredadd => apply RoundTrip.vfredadd
  | vredmin => apply RoundTrip.vredmin | vredmax => apply RoundTrip.vredmax | vredminn => apply RoundTrip.vredminn
  | vredmaxn => apply RoundTrip.vredmaxn | vdot8 => apply RoundTrip.vdot8 | vdot8n => apply RoundTrip.vdot8n | vpop => apply RoundTrip.vpop
  | vclz => apply RoundTrip.vclz | vctz => apply RoundTrip.vctz | vcvt => apply RoundTrip.vcvt | vdec => apply RoundTrip.vdec
  | venc => apply RoundTrip.venc | segev => apply RoundTrip.segev | beq => apply RoundTrip.beq | bne => apply RoundTrip.bne
  | blt => apply RoundTrip.blt | bge => apply RoundTrip.bge | bltn => apply RoundTrip.bltn | bgen => apply RoundTrip.bgen
  | bpany => apply RoundTrip.bpany | bpnone => apply RoundTrip.bpnone | jal => apply RoundTrip.jal | j => apply RoundTrip.j
  | jr => apply RoundTrip.jr | jalr => apply RoundTrip.jalr | ret => apply RoundTrip.ret | fjmp => apply RoundTrip.fjmp
  | loop => apply RoundTrip.loop | loopx => apply RoundTrip.loopx | fuse => apply RoundTrip.fuse | split => apply RoundTrip.split
  | yield => apply RoundTrip.yield | park => apply RoundTrip.park | ldb => apply RoundTrip.ldb | ldh => apply RoundTrip.ldh
  | ldw => apply RoundTrip.ldw | ldd => apply RoundTrip.ldd | stb => apply RoundTrip.stb | sth => apply RoundTrip.sth | stw => apply RoundTrip.stw
  | std => apply RoundTrip.std | vld => apply RoundTrip.vld | vst => apply RoundTrip.vst | aadd => apply RoundTrip.aadd
  | aand => apply RoundTrip.aand | aor => apply RoundTrip.aor | axor => apply RoundTrip.axor | amin => apply RoundTrip.amin
  | amax => apply RoundTrip.amax | aminn => apply RoundTrip.aminn | amaxn => apply RoundTrip.amaxn | aswap => apply RoundTrip.aswap
  | acas => apply RoundTrip.acas | afadd => apply RoundTrip.afadd | fence => apply RoundTrip.fence | seti => apply RoundTrip.seti
  | rds => apply RoundTrip.rds | wrs => apply RoundTrip.wrs | qrd => apply RoundTrip.qrd | qst => apply RoundTrip.qst
  | xcopy => apply RoundTrip.xcopy | xstat => apply RoundTrip.xstat | xwait => apply RoundTrip.xwait | sbind => apply RoundTrip.sbind
  | sunbind => apply RoundTrip.sunbind | sstat => apply RoundTrip.sstat | cfetch => apply RoundTrip.cfetch | cstat => apply RoundTrip.cstat
  | dtld => apply RoundTrip.dtld | segld => apply RoundTrip.segld | mclaim => apply RoundTrip.mclaim | mrel => apply RoundTrip.mrel
  | mload => apply RoundTrip.mload | mstore => apply RoundTrip.mstore | mzero => apply RoundTrip.mzero | mma => apply RoundTrip.mma
  | mmas => apply RoundTrip.mmas | mscale => apply RoundTrip.mscale | mcvt => apply RoundTrip.mcvt | mtr => apply RoundTrip.mtr
  | tspawn => apply RoundTrip.tspawn | tpub => apply RoundTrip.tpub | tsig => apply RoundTrip.tsig | tret => apply RoundTrip.tret
  | targ => apply RoundTrip.targ | send => apply RoundTrip.send | recv => apply RoundTrip.recv | recvadd => apply RoundTrip.recvadd
  | qbind => apply RoundTrip.qbind | qstat => apply RoundTrip.qstat | spliceIns => apply RoundTrip.spliceIns | spliceEli => apply RoundTrip.spliceEli
  | spliceReb => apply RoundTrip.spliceReb | splPrep => apply RoundTrip.splPrep | splCmt => apply RoundTrip.splCmt | splAbt => apply RoundTrip.splAbt
  | uiret => apply RoundTrip.uiret | uien => apply RoundTrip.uien | uidis => apply RoundTrip.uidis | trap => apply RoundTrip.trap
  | csrr => apply RoundTrip.csrr | csrw => apply RoundTrip.csrw | csrs => apply RoundTrip.csrs | csrc => apply RoundTrip.csrc
  | xret => apply RoundTrip.xret | wfi => apply RoundTrip.wfi
  | _ => exact nofun

theorem decode_ok {w : IWord} {i : Instr} (h : decode w = .ok i) : decodeFields w.toNat = .ok i ∧ wellFormed i = true := by
  unfold decode at h
  split at h
  · cases h
  · split at h
    · cases h; exact ⟨‹_›, ‹_›⟩
    · cases h

/-- A word that decodes is the word of its instruction but for the clause bit (R103). -/
theorem encode_of_decode {w : IWord} {i : Instr} (h : decode w = .ok i) : encode i = w &&& 0x7FFFFFFF := by
  have word := decodeFields_readsBack w.toNat i (decode_ok h).1
  apply BitVec.eq_of_toNat_eq
  rw [encode, word, BitVec.toNat_ofNat, BitVec.toNat_and, show (0x7FFFFFFF : IWord).toNat = 2 ^ 31 - 1 from rfl,
    Nat.and_two_pow_sub_one_eq_mod]
  omega

end Sys2Proof
end

section
/-! CERTIFICATE. Decode and encode. -/

open Sys2Proof Sys2Proof.Machine

/-- Settles O59: one direction by the law of each constructor (`decode_encode_self`), the other by what each major's fields
add up to (`encode_of_decode`), which also shows the clause bit of an instruction's own word to be zero. -/
theorem encodeDecode : Obligations.EncodeDecode := by
  refine ⟨fun i w => ?_, fun w i h => ⟨(decode_ok h).2, encode_of_decode h⟩⟩
  have self := decode_encode_self i w
  refine ⟨self, ?_⟩
  rw [encode_of_decode self]
  simp

end

section
/-! SUPPORT. Branches and register targets (R106, R124, R126 to R128). -/

namespace Sys2Proof.Machine

/-- A conditional branch whose test says `c` jumps where `c` holds, and else the next word follows (R124). -/
theorem State.branchIf_iff {c : Prop} {taken : Bool} (test : taken = true ↔ c) (s : State) (o : BitVec 12) :
    (c → s.branchIf taken o = .next (s.finish (.jump (s.branchTarget (o.signExtend 16))))) ∧
      (¬c → s.branchIf taken o = .next (s.finish .next)) :=
  ⟨fun h => if_pos (test.mpr h), fun h => if_neg (mt test.mp h)⟩

theorem not_slt_iff (x y : Word) : (!x.slt y) = true ↔ y.toInt ≤ x.toInt := by
  rw [Bool.not_eq_true', ← Bool.not_eq_true, BitVec.slt_iff_toInt_lt, Int.not_lt]

theorem not_ult_iff (x y : Word) : (!x.ult y) = true ↔ y.toNat ≤ x.toNat := by
  rw [Bool.not_eq_true', ← Bool.not_eq_true, BitVec.ult_iff_lt, BitVec.lt_def, Nat.not_lt]

/-- A predicate is zero where none of its bits is 1. -/
theorem predicate_zero_iff (q : BitVec 16) : q = 0 ↔ ∀ k < 16, q.getLsbD k = false :=
  ⟨fun h k _ => by simp [h], fun h => BitVec.eq_of_getLsbD_eq fun k hk => by simp [h k hk]⟩

theorem predicate_nonzero_iff (q : BitVec 16) : q ≠ 0 ↔ ∃ k < 16, q.getLsbD k = true := by
  rw [Ne, predicate_zero_iff]
  simp

theorem aligned_iff (v : Word) : v.extractLsb' 0 3 = 0 ↔ v.toNat % 8 = 0 := by
  rw [← BitVec.toNat_inj, BitVec.extractLsb'_toNat]
  simp

/-- A register target is jumped to where it is a clause's address (R126). -/
theorem State.jumpReg_aligned {v : Word} (h : v.toNat % 8 = 0) (s t : State) :
    s.jumpReg v t = .next (t.finish (.jump (v.setWidth 16))) := if_neg (not_not_intro ((aligned_iff v).mpr h))

/-- A misaligned register target traps with the register's value (R106). -/
theorem State.jumpReg_misaligned {v : Word} (h : v.toNat % 8 ≠ 0) (s t : State) :
    s.jumpReg v t = .next (s.finish (.trap 0x04 v 0)) := if_pos (mt (aligned_iff v).mp h)

/-- What a call leaves: the link in its register, and on the return-address stack unless the register is g0 (R107, R127). -/
theorem State.pushRas_setG (s : State) (d : RegNo) (v : Word) : (s.setG d v).pushRas d =
    if d = 0 then s.setG d v else (s.setG d v).onX (fun x => { x with ras := ((s.clause + 8) :: x.ras).take 8 }) := by
  unfold State.pushRas State.nextClause State.clause
  rw [State.setG_pc]

theorem Frame.isResident_iff (f : Frame) : f.isResident = true ↔ ∃ seg, f = .resident seg := by
  cases f <;> simp [Frame.isResident]

/-- `fjmp` to a resident frame jumps as a register target does (R128). -/
theorem exec_fjmp_resident {a : RegNo} {s : State} (h : ∃ seg,
    s.core.mem.frames[((s.g a).extractLsb' 12 4).toNat]'((s.g a).extractLsb' 12 4).isLt = .resident seg) :
    exec (.fjmp a) s = s.jumpReg (s.g a) s := if_pos ((Frame.isResident_iff _).mpr h)

/-- `fjmp` to an absent frame takes the residency fault (R128). -/
theorem exec_fjmp_absent {a : RegNo} {s : State} (h : ¬∃ seg,
    s.core.mem.frames[((s.g a).extractLsb' 12 4).toNat]'((s.g a).extractLsb' 12 4).isLt = .resident seg) :
    exec (.fjmp a) s = .next (s.finish (.trap 0x07 (BitVec.ofNat 64 ((s.g a).toNat % 65536)) 0)) := by
  have address : ((s.g a).extractLsb' 0 16).setWidth 64 = BitVec.ofNat 64 ((s.g a).toNat % 65536) :=
    BitVec.eq_of_toNat_eq (by simp)
  rw [← address]
  exact if_neg (mt (Frame.isResident_iff _).mp h)

end Sys2Proof.Machine
end

section
/-! CERTIFICATE. Branches, jumps, calls and returns. -/

open Sys2Proof Sys2Proof.Machine

/-- Settles O14: each branch by its test (`State.branchIf_iff`), each register target by its alignment (`State.jumpReg_aligned`,
`State.jumpReg_misaligned`), each call by what it pushes (`State.pushRas_setG`). -/
theorem branchAndJumpResults : Obligations.BranchAndJumpResults := by
  refine ⟨fun s a b o => ?_, fun s d a o => ?_⟩
  · exact ⟨s.branchIf_iff beq_iff_eq o, s.branchIf_iff bne_iff_ne o, s.branchIf_iff BitVec.slt_iff_toInt_lt o,
      s.branchIf_iff (not_slt_iff _ _) o, s.branchIf_iff BitVec.ult_iff_lt o, s.branchIf_iff (not_ult_iff _ _) o,
      s.branchIf_iff (decide_eq_true_iff.trans (predicate_nonzero_iff _)) o,
      s.branchIf_iff (decide_eq_true_iff.trans (predicate_zero_iff _)) o⟩
  · have call (t : BitVec 16) := congrArg (fun u : State => (.next (u.finish (.jump t)) : Result)) (s.pushRas_setG d s.link)
    refine ⟨call _, rfl, fun h => ⟨s.jumpReg_aligned h s, (s.jumpReg_aligned h _).trans (call _)⟩,
      fun h => ⟨s.jumpReg_misaligned h s, s.jumpReg_misaligned h _⟩, fun h => s.jumpReg_aligned h _, fun h => s.jumpReg_misaligned h _,
      fun here h => (exec_fjmp_resident here).trans (s.jumpReg_aligned h s),
      fun here h => (exec_fjmp_resident here).trans (s.jumpReg_misaligned h s), exec_fjmp_absent⟩

end

section
/-! SUPPORT. The system instructions on a CSR: privilege, the assigned numbers, and what each number reads and writes (R115, R253 to
R260). -/

namespace Sys2Proof.Machine

/-! ### Privilege and the assigned numbers -/

theorem State.privileged_supervisor {s : State} (sup : s.core.x.mode = .supervisor) (i : Instr) (f : State → Result) :
    s.privileged i f = f s := if_neg (by rw [sup]; decide)

/-- An unassigned number is illegal in supervisor mode (R115, R253). -/
theorem State.onAssigned_reserved {s : State} {n : BitVec 12} (sup : s.core.x.mode = .supervisor) (h : csrAssigned n.toNat = false)
    (i : Instr) (f : State → Result) : s.onAssigned i n f = s.illegal i :=
  (s.privileged_supervisor sup i _).trans (if_neg (by rw [h]; decide))

theorem State.onAssigned_assigned {s : State} {n : BitVec 12} (sup : s.core.x.mode = .supervisor) (h : csrAssigned n.toNat = true)
    (i : Instr) (f : State → Result) : s.onAssigned i n f = f s :=
  (s.privileged_supervisor sup i _).trans (if_pos h)

theorem csrAssigned_reserved {n : Nat} (h : (0x00A < n ∧ n < 0x010) ∨ (0x015 < n ∧ n < 0x020) ∨ 0x027 < n) :
    csrAssigned n = false := by
  simp only [csrAssigned, Bool.or_eq_false_iff, decide_eq_false_iff_not]
  omega

/-! ### The system instructions -/

theorem exec_csrr (d : RegNo) (n : BitVec 12) (s : State) :
    exec (.csrr d n) s = s.onAssigned (.csrr d n) n fun s => (s.setG d (s.core.csrValue n.toNat)).done := rfl

theorem exec_csrw (a : RegNo) (n : BitVec 12) (s : State) :
    exec (.csrw a n) s = s.onAssigned (.csrw a n) n fun s => (s.writeCsr n.toNat (s.g a)).done := rfl

theorem exec_csrs (a : RegNo) (n : BitVec 12) (s : State) : exec (.csrs a n) s =
    s.onAssigned (.csrs a n) n fun s => (s.writeCsr n.toNat (s.core.csrValue n.toNat ||| s.g a)).done := rfl

theorem exec_csrc (a : RegNo) (n : BitVec 12) (s : State) : exec (.csrc a n) s =
    s.onAssigned (.csrc a n) n fun s => (s.writeCsr n.toNat (s.core.csrValue n.toNat &&& ~~~(s.g a))).done := rfl

/-- In user mode every system instruction takes the privilege trap (R115, R116). -/
theorem exec_system_user {s : State} (user : s.core.x.mode = .user) (d : RegNo) (n : BitVec 12) :
    ∀ i ∈ [.csrr d n, .csrw d n, .csrs d n, .csrc d n, .xret, .wfi],
      exec i s = .next (s.finish (.trap 0x03 ((s.wordAtIssue i).setWidth 64) 0)) := by
  simp only [List.forall_mem_cons, List.not_mem_nil, false_imp_iff, implies_true, and_true]
  refine ⟨?_, ?_, ?_, ?_, ?_, ?_⟩ <;> exact if_pos user

/-- In supervisor mode an unassigned number is illegal (R115, R253). -/
theorem exec_csr_reserved {s : State} {n : BitVec 12} (sup : s.core.x.mode = .supervisor) (h : csrAssigned n.toNat = false)
    (d : RegNo) : ∀ i ∈ [.csrr d n, .csrw d n, .csrs d n, .csrc d n], exec i s = s.illegal i := by
  simp only [List.forall_mem_cons, List.not_mem_nil, false_imp_iff, implies_true, exec_csrr, exec_csrw, exec_csrs, exec_csrc,
    State.onAssigned_reserved sup h, and_self]

/-! ### Reads and writes in supervisor mode -/

section Supervisor

variable {s : State} (sup : s.core.x.mode = .supervisor) {n : BitVec 12} (assigned : csrAssigned n.toNat = true)
include sup assigned

theorem exec_csrr_value {old : Word} (value : s.core.csrValue n.toNat = old) (d : RegNo) :
    exec (.csrr d n) s = .next ((s.setG d old).finish .next) := by
  rw [exec_csrr, State.onAssigned_assigned sup assigned, value]
  rfl

theorem exec_csrw_write (a : RegNo) : exec (.csrw a n) s = .next ((s.writeCsr n.toNat (s.g a)).finish .next) := by
  rw [exec_csrw, State.onAssigned_assigned sup assigned]
  rfl

/-- The four instructions on a number that reads `old` and whose write is `f` (R260). -/
theorem exec_csr_of_value {old : Word} {f : Word → Csrs → Csrs} (value : s.core.csrValue n.toNat = old)
    (write : ∀ v, s.writeCsr n.toNat v = s.onCsr (f v)) (d a : RegNo) :
    exec (.csrr d n) s = .next ((s.setG d old).finish .next) ∧
      exec (.csrw a n) s = .next ((s.onCsr (f (s.g a))).finish .next) ∧
      exec (.csrs a n) s = .next ((s.onCsr (f (old ||| s.g a))).finish .next) ∧
      exec (.csrc a n) s = .next ((s.onCsr (f (old &&& ~~~(s.g a)))).finish .next) := by
  refine ⟨exec_csrr_value sup assigned value d, ?_, ?_, ?_⟩
  · rw [exec_csrw_write sup assigned, write]
  · rw [exec_csrs, State.onAssigned_assigned sup assigned, value, write]
    rfl
  · rw [exec_csrc, State.onAssigned_assigned sup assigned, value, write]
    rfl

end Supervisor

/-! ### The values that are put together from fields -/

/-- A field above the bits of a number is added to it. -/
theorem ofNat_or_of_lt {i y : Nat} (h : y < 2 ^ i) (m : Nat) :
    BitVec.ofNat 64 (2 ^ i * m) ||| BitVec.ofNat 64 y = BitVec.ofNat 64 (2 ^ i * m + y) := by
  rw [Nat.two_pow_add_eq_or_of_lt h, BitVec.ofNat_or]

theorem shifted_field {k : Nat} (x : BitVec k) (i : Nat) : x.setWidth 64 <<< i = BitVec.ofNat 64 (2 ^ i * x.toNat) := by
  apply BitVec.eq_of_toNat_eq
  simp [Nat.shiftLeft_eq, Nat.mul_comm]

theorem unshifted_field {k : Nat} (x : BitVec k) : x.setWidth 64 = BitVec.ofNat 64 x.toNat := by
  apply BitVec.eq_of_toNat_eq
  simp

/-- `xstatus` (R255). -/
theorem xstatus_bits : ∀ me sb la puh pm rp tip : Bool,
    bitAt me 7 ||| bitAt sb 6 ||| bitAt la 5 ||| bitAt puh 4 ||| bitAt pm 3 ||| bitAt rp 1 ||| bitAt tip 0 =
      BitVec.ofNat 64 ((if me = true then 2 ^ 7 else 0) + (if sb = true then 2 ^ 6 else 0) + (if la = true then 2 ^ 5 else 0) +
        (if puh = true then 2 ^ 4 else 0) + (if pm = true then 2 ^ 3 else 0) + (if rp = true then 2 ^ 1 else 0) +
        (if tip = true then 2 ^ 0 else 0)) := by decide

theorem Core.xstatus_eq (c : Core) : c.xstatus = BitVec.ofNat 64 ((if c.csr.me = true then 2 ^ 7 else 0) +
    (if c.csr.sb = true then 2 ^ 6 else 0) + (if c.csr.la = true then 2 ^ 5 else 0) + (if c.csr.puh = true then 2 ^ 4 else 0) +
    (if c.csr.pm = .supervisor then 2 ^ 3 else 0) + (if c.eng.remote.any Remote.ofCtx = true then 2 ^ 1 else 0) +
    (if c.csr.tip = true then 2 ^ 0 else 0)) := by
  unfold Core.xstatus
  simpa only [decide_eq_true_eq] using
    xstatus_bits c.csr.me c.csr.sb c.csr.la c.csr.puh (decide (c.csr.pm = .supervisor)) (c.eng.remote.any Remote.ofCtx) c.csr.tip

theorem Csrs.xmig_eq (c : Csrs) :
    c.xmig = BitVec.ofNat 64 ((if c.req = true then 2 ^ 63 else 0) + 2 ^ 18 * c.why.toNat + c.target.toNat) := by
  rw [Csrs.xmig, Nat.mul_comm]

/-- `xsup` (R254, R257). -/
theorem Csrs.xsup_eq (c : Csrs) : bitAt c.supEn 8 ||| (c.ifr.setWidth 64 <<< 4) ||| c.tfr.setWidth 64 =
    BitVec.ofNat 64 ((if c.supEn = true then 2 ^ 8 else 0) + 16 * c.ifr.toNat + c.tfr.toNat) := by
  have enable : bitAt c.supEn 8 = BitVec.ofNat 64 (2 ^ 8 * c.supEn.toNat) := by cases c.supEn <;> rfl
  have frames : (c.ifr.setWidth 64 <<< 4) ||| c.tfr.setWidth 64 = BitVec.ofNat 64 (2 ^ 4 * c.ifr.toNat + c.tfr.toNat) := by
    rw [shifted_field, unshifted_field, ofNat_or_of_lt c.tfr.isLt]
  have below : 2 ^ 4 * c.ifr.toNat + c.tfr.toNat < 2 ^ 8 := by omega
  rw [BitVec.or_assoc, frames, enable, ofNat_or_of_lt below]
  cases c.supEn <;> simp [Nat.add_assoc]

/-- `xsparkth` (R254, R258). -/
theorem Csrs.xsparkth_eq (c : Csrs) : c.sParkCycles.setWidth 64 ||| (c.sRscope.setWidth 64 <<< 62) =
    BitVec.ofNat 64 (c.sParkCycles.toNat + 2 ^ 62 * c.sRscope.toNat) := by
  rw [BitVec.or_comm, shifted_field, unshifted_field, ofNat_or_of_lt (by omega), Nat.add_comm]

theorem command_ne {v : Word} {c : BitVec 2} (h : v.toNat % 4 ≠ c.toNat) : v.extractLsb' 0 2 ≠ c := by
  rintro rfl
  simp at h

/-- A command of `xnis` that is neither a spill nor a reinjection does nothing (R265). -/
theorem State.writeCsr_xnis_other (s : State) {v : Word} (h : v.toNat % 4 = 0 ∨ v.toNat % 4 = 3) : s.writeCsr 8 v = s :=
  (if_neg (command_ne (c := 1) (by simp; omega))).trans (if_neg (command_ne (c := 2) (by simp; omega)))

end Sys2Proof.Machine
end

section
/-! CERTIFICATE. System instructions and CSRs. -/

open Sys2Proof Sys2Proof.Machine

/-- Settles O40: privilege and the assigned numbers (`exec_system_user`, `exec_csr_reserved`), then each number by what it
reads and what a write of it is (`exec_csr_of_value`). -/
theorem privilegeAndCsrResults : Obligations.PrivilegeAndCsrResults := by
  refine ⟨fun s d n => ⟨fun user => ?_, fun sup reserved => ?_, fun i => rfl⟩, ?_⟩
  · have traps := exec_system_user user d n
    simpa only [List.forall_mem_cons, List.not_mem_nil, false_imp_iff, implies_true, and_true] using traps
  · have illegal := exec_csr_reserved sup (csrAssigned_reserved reserved) d
    simpa only [List.forall_mem_cons, List.not_mem_nil, false_imp_iff, implies_true, and_true] using illegal
  · intro s d a sup v x b num at_
    have of_value (n : Nat) (old : Word) (f : Word → Csrs → Csrs) (assigned : csrAssigned (num n).toNat = true)
        (value : s.core.csrValue (num n).toNat = old) (write : ∀ v, s.writeCsr (num n).toNat v = s.onCsr (f v)) : at_ n old f :=
      exec_csr_of_value sup assigned value write d a
    clear_value at_
    refine ⟨?_, ?_, of_value 1 _ _ rfl rfl fun _ => rfl, of_value 2 _ _ rfl rfl fun _ => rfl, of_value 3 _ _ rfl rfl fun _ => rfl,
      of_value 4 _ _ rfl rfl fun _ => rfl, of_value 5 _ _ rfl rfl fun _ => rfl, of_value 6 _ _ rfl rfl fun _ => rfl, ?_, ?_, ?_, ?_,
      of_value 10 _ _ rfl ?_ fun _ => rfl, of_value 16 _ _ rfl rfl fun _ => rfl, of_value 17 _ _ rfl rfl fun _ => rfl,
      of_value 18 _ _ rfl ?_ fun _ => rfl, of_value 19 _ _ rfl rfl fun _ => rfl,
      of_value 20 _ _ rfl rfl fun _ => rfl, of_value 21 _ _ rfl rfl fun _ => rfl, fun k => ?_⟩
    case refine_1 => exact exec_csrr_value (n := 0) sup rfl s.core.xstatus_eq d
    case refine_2 => exact ⟨_, exec_csrw_write sup rfl a, rfl, rfl⟩
    case refine_3 => exact exec_csrr_value (n := 7) sup rfl s.core.csr.xmig_eq d
    case refine_4 => exact ⟨_, exec_csrw_write sup rfl a, rfl, rfl⟩
    case refine_5 =>
      intro none
      refine (exec_csrw_write (n := 8) sup rfl a).trans ?_
      exact congrArg (fun t : State => (.next (t.finish .next) : Result)) (s.writeCsr_xnis_other none)
    case refine_6 => exact ⟨exec_csrr_value sup rfl rfl d, exec_csrw_write sup rfl a⟩
    case refine_7 => exact s.core.csr.xsup_eq
    case refine_8 => exact s.core.csr.xsparkth_eq
    case refine_9 => fin_cases k <;> exact of_value _ _ _ rfl rfl fun _ => rfl

end

section
/-! SUPPORT. What the acting core takes between clauses, and in which order (R105, R173, R239, R243, R260, R263). -/

namespace Sys2Proof.Machine

variable {s : State} {c : Core}

/-! ### Where a core stands -/

/-- At word0 of a clause, with no `fuse` decided and its code there, a core stands between clauses. -/
theorem Core.atBoundary_of_word0 (word : c.x.pc.getLsbD 2 = false) (fuse : c.fuse = none) (run : c.x.run = .running) :
    c.atBoundary = true := by
  simp [Core.atBoundary, Core.awaitsCode, word, fuse, run, -BitVec.getLsbD_eq_getElem]

theorem Core.atBoundary_of_idle (fuse : c.fuse = none) (run : c.x.run = .idle) : c.atBoundary = true := by
  simp [Core.atBoundary, Core.awaitsCode, fuse, run]

/-- At word1, in no wait and not just resumed, nothing is taken (R105). -/
theorem State.boundary_of_word1 (word : s.core.x.pc.getLsbD 2 = true) (wait : s.core.x.wait = none) (fresh : s.core.x.fresh = false)
    (run : s.core.x.run = .running) : s.boundary = none := by
  have inside : s.core.atBoundary = false := by simp [Core.atBoundary, Core.waitsAtIssue, word, wait, fresh, run]
  exact if_pos (by simp [inside])

/-- Between clauses, with its clock running: a deferred fault, then an event, then a user-level interrupt (R239, R263). -/
theorem State.boundary_eq (between : s.core.atBoundary = true) (stopped : s.core.x.stopped = none)
    (clock : s.clockGated s.core.id = false) : s.boundary =
      if s.core.canTakeFault then some .deferredFaultTake
      else if s.core.canTakeEvent then some .systemEventTake
      else if s.core.canTakeUser then some .userInterruptEntry
      else none := if_neg (by simp [between, stopped, clock])

/-! ### What may be taken -/

theorem Core.canTakeFault_of_deferred {d : Deferred} {rest : List Deferred} (mode : c.x.mode = .user) (run : c.x.run = .running)
    (tip : c.csr.tip = false) (deferred : c.x.deferred = d :: rest) : c.canTakeFault = true := by
  simp [Core.canTakeFault, mode, run, tip, deferred]

theorem Core.canTakeFault_eq_false (h : c.x.mode = .supervisor ∨ c.x.deferred = []) : c.canTakeFault = false := by
  obtain mode | deferred := h
  · simp [Core.canTakeFault, mode]
  · simp [Core.canTakeFault, deferred]

theorem Core.canTakeFault_of_idle (run : c.x.run = .idle) : c.canTakeFault = false := by simp [Core.canTakeFault, run]

/-- The cores that may take an event (R263, R314). -/
theorem Core.canTakeEvent_eq (tip : c.csr.tip = false) (wfi : c.inWfi = false)
    (mode : c.x.mode = .user ∨ c.x.ctx = none ∨ c.x.arrived = true) : c.canTakeEvent = (c.x.ev18 || c.x.ev19.isSome) := by
  obtain mode | ctx | arrived := mode
  · simp [Core.canTakeEvent, tip, wfi, mode]
  · simp [Core.canTakeEvent, tip, wfi, ctx]
  · simp [Core.canTakeEvent, tip, wfi, arrived]

theorem Core.canTakeEvent_of_none (ev18 : c.x.ev18 = false) (ev19 : c.x.ev19 = none) : c.canTakeEvent = false := by
  simp [Core.canTakeEvent, ev18, ev19]

/-- A supervisor with a context takes no event but that of an arrival (R263, R314). -/
theorem Core.canTakeEvent_of_context (mode : c.x.mode = .supervisor) (ctx : c.x.ctx ≠ none) (arrived : c.x.arrived = false) :
    c.canTakeEvent = false := by
  have held : c.x.ctx.isNone = false := by simpa using Option.isSome_iff_ne_none.mpr ctx
  simp [Core.canTakeEvent, mode, held, arrived]

theorem Core.canTakeUser_of_supervisor (mode : c.x.mode = .supervisor) : c.canTakeUser = false := by simp [Core.canTakeUser, mode]

theorem Core.canTakeUser_of_idle (run : c.x.run = .idle) : c.canTakeUser = false := by simp [Core.canTakeUser, run]

theorem Core.canTakeUser_in_handler (handler : c.x.inHandler = true) : c.canTakeUser = false := by simp [Core.canTakeUser, handler]

/-- The cause that is set and has none set below it (R173). -/
theorem lowestCause_eq_some : ∀ {m : BitVec 6} {n : Fin 6}, m.getLsbD n.val = true →
    (∀ k : Fin 6, k.val < n.val → m.getLsbD k.val = false) → lowestCause m = some n := by decide

theorem Core.canTakeUser_of_cause {n : Fin 6} (mode : c.x.mode = .user) (run : c.x.run = .running) (handler : c.x.inHandler = false)
    (set : (c.sw.en &&& c.sw.pend).getLsbD n.val = true) : c.canTakeUser = true := by
  have some : c.sw.en &&& c.sw.pend ≠ 0 := fun none => by simp [none] at set
  simpa [Core.canTakeUser, mode, run, handler] using some

/-- With a trap in progress neither a fault nor an event is what is taken (R263). -/
theorem State.boundary_of_tip (tip : s.core.csr.tip = true) :
    s.boundary ≠ some .deferredFaultTake ∧ s.boundary ≠ some .systemEventTake := by
  have fault : s.core.canTakeFault = false := by simp [Core.canTakeFault, tip]
  have event : s.core.canTakeEvent = false := by simp [Core.canTakeEvent, tip]
  unfold State.boundary
  rw [fault, event]
  constructor <;> split <;> simp

/-! ### What taking it does -/

/-- The oldest deferred fault is taken as a trap (R243, R261). -/
theorem exec_deferredFaultTake {d : Deferred} {rest : List Deferred} (deferred : s.core.x.deferred = d :: rest)
    (first : s.boundary = some .deferredFaultTake) :
    let u := (s.onX (fun x => { x with deferred := rest })).dropFailed d
    exec .deferredFaultTake s = .next (u.enterTrap d.cause d.addr (d.clause.setWidth 64) u.core.x.pc) := by
  show execDeferredFaultTake s = _
  unfold execDeferredFaultTake
  rw [deferred]
  exact if_pos first

theorem exec_deferredFaultTake_of_ne (other : s.boundary ≠ some .deferredFaultTake) : exec .deferredFaultTake s = .next s := by
  show execDeferredFaultTake s = _
  unfold execDeferredFaultTake
  split
  · rfl
  · exact if_neg other

/-- The copy that a fault ended leaves the engine, and nothing else of the core changes (R243). -/
theorem State.dropFailed_core (s : State) (d : Deferred) : (s.dropFailed d).core.x = s.core.x ∧
    ∀ y, y ∈ (s.dropFailed d).core.eng.copies ↔ y ∈ s.core.eng.copies ∧ ¬(y.failed = true ∧ d.copy = some y.tag) := by
  unfold State.dropFailed
  split
  next tag copy => exact ⟨rfl, fun y => by cases failed : y.failed <;> simp [failed, copy, eq_comm (a := tag)]⟩
  next copy => exact ⟨rfl, fun y => by simp [copy]⟩

/-- Event 0x18 comes first (log entry 32). -/
theorem Core.takeEvent_of_ev18 (ev18 : c.x.ev18 = true) : ∃ d, c.takeEvent = some (0x18, c.csr.xmig, d) ∧ d.x.ev18 = false ∧
    d.csr = c.csr ∧ d.x.pc = c.x.pc := ⟨_, if_pos ev18, rfl, rfl, rfl⟩

theorem Core.takeEvent_of_ev19 {v : Word} (ev18 : c.x.ev18 = false) (ev19 : c.x.ev19 = some v) :
    ∃ d, c.takeEvent = some (0x19, v, d) ∧ d.x.ev19 = none ∧ d.csr = c.csr ∧ d.x.pc = c.x.pc := by
  unfold Core.takeEvent
  rw [ev18, ev19]
  exact ⟨_, rfl, rfl, rfl, rfl⟩

/-- The pending event is taken as a trap (R261, R263). -/
theorem exec_systemEventTake {code : BitVec 8} {v : Word} {c : Core} (event : s.core.takeEvent = some (code, v, c))
    (first : s.boundary = some .systemEventTake) : exec .systemEventTake s =
      .next (State.enterTrap { s with core := { c with x := { c.x with run := .running } } } code v 0 c.x.pc) := by
  show execSystemEventTake s = _
  unfold execSystemEventTake
  rw [event]
  exact if_pos first

theorem exec_systemEventTake_of_ne (other : s.boundary ≠ some .systemEventTake) : exec .systemEventTake s = .next s := by
  show execSystemEventTake s = _
  unfold execSystemEventTake
  split
  · rfl
  · exact if_neg other

theorem exec_userInterruptEntry {n : Fin 6} (cause : lowestCause (s.core.sw.en &&& s.core.sw.pend) = some n)
    (first : s.boundary = some .userInterruptEntry) : exec .userInterruptEntry s = .next (s.enterHandler n) := by
  show execUserInterruptEntry s = _
  unfold execUserInterruptEntry
  rw [cause]
  exact if_pos first

/-! ### Steps -/

/-- What is taken at a boundary is what the core's next step does. -/
theorem step_of_boundary {i : Instr} (agenda : s.agenda = []) (powered : s.dev.out.powered = true) (up : s.dev.out.bust = 7)
    (run : s.core.x.run = .running) (stopped : s.core.x.stopped = none) (clock : s.clockGated s.core.id = false)
    (alone : s.core.gang = []) (within : s.dev.ending = false) (first : s.boundary = some i) : step s = exec i s.tickCore := by
  have wakes : s.wakes = false := by simp [State.wakes, run]
  have issues : s.canIssue s.core = true := by simp [State.canIssue, run, stopped, clock]
  have taken : s.tickCore.issueAlone = exec i s.tickCore := by
    unfold State.issueAlone
    rw [s.tickCore_boundary, first]
  rw [step, stepState_act powered up, State.act_nil agenda within, State.issue, wakes, issues, ← taken]
  simp [alone]

/-- An idle core takes a system event or does nothing. -/
theorem step_of_idle (agenda : s.agenda = []) (powered : s.dev.out.powered = true) (up : s.dev.out.bust = 7)
    (run : s.core.x.run = .idle) (within : s.dev.ending = false) :
    step s = if s.boundary = some .systemEventTake then exec .systemEventTake s.tickCore else .next s := by
  have issues : s.canIssue s.core = false := by simp [State.canIssue, run]
  rw [step, stepState_act powered up, State.act_nil agenda within, State.issue, issues]
  simp [State.wakes, run]

end Sys2Proof.Machine
end

section
/-! CERTIFICATE. What is taken between clauses. -/

open Sys2Proof Sys2Proof.Machine

/-- Settles O56: what may be taken decides what is (`State.boundary_eq`), and each `exec_` lemma says what taking it does. -/
theorem boundaryResults : Obligations.BoundaryResults := by
  refine ⟨fun s w w0 w1 a => ⟨rfl, rfl, rfl⟩, fun s word fuse run tip stopped clock => ?_, fun s tip => ?_,
    fun s word wait fresh run => State.boundary_of_word1 word wait fresh run,
    fun s i agenda powered up run stopped clock alone within first =>
      step_of_boundary agenda powered up run stopped clock alone within first,
    fun s agenda powered up run stopped clock fuse within => ?_⟩
  · have first := State.boundary_eq (Core.atBoundary_of_word0 word fuse run) stopped clock
    refine ⟨fun mode d rest deferred => ?_, fun noFault wfi mode => ⟨fun ev18 => ?_, fun v ev18 ev19 => ?_⟩, fun mode ctx wfi arrived => ?_,
      fun mode deferred ev18 ev19 handler n en pend below => ?_, fun mode handler deferred ev18 ev19 => ?_⟩
    · have taken : s.boundary = some .deferredFaultTake := by
        rw [first, Core.canTakeFault_of_deferred mode run tip deferred, if_pos rfl]
      obtain ⟨same, copies⟩ := (s.onX (fun x => { x with deferred := rest })).dropFailed_core d
      refine ⟨taken, _, (exec_deferredFaultTake deferred taken).trans ?_, congrArg ExecState.deferred same, copies⟩
      rw [same]
      rfl
    · have taken : s.boundary = some .systemEventTake := by
        rw [first, Core.canTakeFault_eq_false noFault, Core.canTakeEvent_eq tip wfi mode, ev18]
        rfl
      obtain ⟨d, event, gone, csr, pc⟩ := Core.takeEvent_of_ev18 ev18
      have entered := exec_systemEventTake event taken
      rw [pc] at entered
      exact ⟨taken, _, entered, gone, csr⟩
    · have taken : s.boundary = some .systemEventTake := by
        rw [first, Core.canTakeFault_eq_false noFault, Core.canTakeEvent_eq tip wfi mode, ev18, ev19]
        rfl
      obtain ⟨d, event, gone, csr, pc⟩ := Core.takeEvent_of_ev19 ev18 ev19
      have entered := exec_systemEventTake event taken
      rw [pc] at entered
      exact ⟨taken, _, entered, gone, csr⟩
    · rw [first, Core.canTakeFault_eq_false (.inl mode), Core.canTakeEvent_of_context mode ctx arrived, Core.canTakeUser_of_supervisor mode]
      rfl
    · have set : (s.core.sw.en &&& s.core.sw.pend).getLsbD n.val = true := by rw [BitVec.getLsbD_and, en, pend]; rfl
      have taken : s.boundary = some .userInterruptEntry := by
        rw [first, Core.canTakeFault_eq_false (.inr deferred), Core.canTakeEvent_of_none ev18 ev19,
          Core.canTakeUser_of_cause mode run handler set]
        rfl
      refine ⟨taken, exec_userInterruptEntry (lowestCause_eq_some set fun k before => ?_) taken⟩
      rw [BitVec.getLsbD_and, Bool.and_eq_false_iff]
      exact below k before
    · rw [first, Core.canTakeFault_eq_false (.inr deferred), Core.canTakeEvent_of_none ev18 ev19, Core.canTakeUser_in_handler handler]
      rfl
  · obtain ⟨fault, event⟩ := State.boundary_of_tip tip
    exact ⟨exec_deferredFaultTake_of_ne fault, exec_systemEventTake_of_ne event⟩
  · have first := State.boundary_eq (Core.atBoundary_of_idle fuse run) stopped clock
    rw [Core.canTakeFault_of_idle run, Core.canTakeUser_of_idle run] at first
    rw [step_of_idle agenda powered up run within, first]
    exact ⟨fun event => by rw [event]; rfl, fun event => by rw [event]; rfl⟩

end

section
/-! CERTIFICATE. Words that the spec writes out. -/

open Sys2Proof Sys2Proof.Machine

/-- Settles O54: the decoder run on each word of each table. -/
theorem decodedWords : Obligations.DecodedWords := by
  refine ⟨List.map_inj_left.mp rfl, List.map_inj_left.mp rfl, List.map_inj_left.mp rfl, List.map_inj_left.mp rfl,
    List.map_inj_left.mp rfl, List.map_inj_left.mp rfl, fun w listed i decoded => ?_⟩
  have refused : (decode w).isOk = false := List.map_inj_left (f := fun w => (decode w).isOk) (g := fun _ => false).mp rfl w listed
  rw [decoded] at refused
  cases refused

end

section
/-! SUPPORT. Scalar integer instructions: the result at either width, and the major and code of each layout (R112, R117, R118). -/

namespace Sys2Proof.Machine

/-! ### A result at either width -/

/-- A scalar instruction whose destination takes `v` writes it, and the next word follows (R117). -/
theorem State.setDone_eq {v v' : Word} (h : v = v') (s : State) (d : RegNo) :
    s.setDone d v = .next ((s.setG d v').finish .next) := by
  rw [h]
  rfl

/-- What goes by the width is the 64-bit result, or the sign-extended 32-bit one. -/
theorem atWidth_eq {g : BitVec 1 → Word} {r : Word} {q : BitVec 32} (w : BitVec 1) (wide : g 0 = r) (low : g 1 = q.signExtend 64) :
    g w = atWidth w r q := by
  rw [atWidth, ← wide, ← low]
  split
  next narrow => rw [narrow]
  next full => rw [(BitVec.eq_zero_or_eq_one w).resolve_right full]; rfl

variable {s : State} {d : RegNo} {w : BitVec 1} {x y r : Word} {q : BitVec 32}

/-- A binary operation gives its result at each width (R117). -/
theorem State.setDone_alu2 {f : {n : Nat} → BitVec n → BitVec n → BitVec n} (wide : f x y = r)
    (low : f (x.setWidth 32) (y.setWidth 32) = q) :
    s.setDone d (alu2 w f x y) = .next ((s.setG d (atWidth w r q)).finish .next) := by
  rw [← wide, ← low]
  rfl

/-- A number got from the operand's, as the counts of R122 are, at each width. -/
theorem State.setDone_count (g : Nat → Nat → Nat) (wide : BitVec.ofNat 64 (g 64 x.toNat) = r)
    (low : BitVec.ofNat 32 (g 32 (x.setWidth 32).toNat) = q) :
    s.setDone d (alu1 w (fun {n} x => BitVec.ofNat n (g n x.toNat)) x) = .next ((s.setG d (atWidth w r q)).finish .next) := by
  rw [← wide, ← low]
  rfl

/-- An operation on a field, whose length and place go by the width (R123). -/
theorem State.setDone_field (f : BitVec 1 → {n : Nat} → BitVec n → BitVec n) :
    s.setDone d (alu1 w (f w) x) = .next ((s.setG d (atWidth w (f 0 x) (f 1 (x.setWidth 32)))).finish .next) :=
  s.setDone_eq (atWidth_eq (g := fun w => alu1 w (f w) x) w rfl rfl) d

/-- The insertion of a field, which goes by the width too. -/
theorem State.setDone_insert (f : BitVec 1 → {n : Nat} → BitVec n → BitVec n → BitVec n) :
    s.setDone d (alu2 w (f w) x y) = .next ((s.setG d (atWidth w (f 0 x y) (f 1 (x.setWidth 32) (y.setWidth 32)))).finish .next) :=
  s.setDone_eq (atWidth_eq (g := fun w => alu2 w (f w) x y) w rfl rfl) d

/-! ### Comparisons and quotients (R118, R121) -/

theorem boolBits_slt {n : Nat} (x y : BitVec n) : boolBits (x.slt y) = if x.toInt < y.toInt then (1 : BitVec n) else 0 := by
  simp only [boolBits, BitVec.slt_iff_toInt_lt]
  rfl

theorem boolBits_ult {n : Nat} (x y : BitVec n) : boolBits (x.ult y) = if x.toNat < y.toNat then (1 : BitVec n) else 0 := by
  simp only [boolBits, BitVec.ult_iff_lt, BitVec.lt_def]
  rfl

theorem pickMin_slt {n : Nat} (x y : BitVec n) : pickMin BitVec.slt x y = if y.toInt < x.toInt then y else x := by
  simp only [pickMin, BitVec.slt_iff_toInt_lt]

theorem pickMax_slt {n : Nat} (x y : BitVec n) : pickMax BitVec.slt x y = if x.toInt < y.toInt then y else x := by
  simp only [pickMax, BitVec.slt_iff_toInt_lt]

theorem pickMin_ult {n : Nat} (x y : BitVec n) : pickMin BitVec.ult x y = if y.toNat < x.toNat then y else x := by
  simp only [pickMin, BitVec.ult_iff_lt, BitVec.lt_def]

theorem pickMax_ult {n : Nat} (x y : BitVec n) : pickMax BitVec.ult x y = if x.toNat < y.toNat then y else x := by
  simp only [pickMax, BitVec.ult_iff_lt, BitVec.lt_def]

theorem quotSigned_eq {n : Nat} (x y : BitVec n) :
    quotSigned x y = if y = 0 then -1 else BitVec.ofInt n (x.toInt.tdiv y.toInt) := by
  rw [quotSigned, sdiv_eq_ofInt, ← BitVec.neg_one_eq_allOnes]
  rfl

theorem quotUnsigned_eq {n : Nat} (x y : BitVec n) :
    quotUnsigned x y = if y = 0 then -1 else BitVec.ofNat n (x.toNat / y.toNat) := by
  rw [quotUnsigned, udiv_eq_ofNat, ← BitVec.neg_one_eq_allOnes]
  rfl

theorem remSigned_eq {n : Nat} (x y : BitVec n) :
    remSigned x y = if y = 0 then x else BitVec.ofInt n (x.toInt.tmod y.toInt) := by
  rw [remSigned, srem_eq_ofInt]

theorem remUnsigned_eq {n : Nat} (x y : BitVec n) :
    remUnsigned x y = if y = 0 then x else BitVec.ofNat n (x.toNat % y.toNat) := by
  rw [remUnsigned, umod_eq_ofNat]

/-! ### The major and the code of a word -/

theorem encode_major {i : Instr} {m : Nat} (h : encodeNat i / 33554432 % 64 = m) :
    (encode i).extractLsb' 25 6 = BitVec.ofNat 6 m := by
  apply BitVec.eq_of_toNat_eq
  simp only [encode, BitVec.extractLsb'_toNat, BitVec.toNat_ofNat, Nat.shiftRight_eq_div_pow]
  omega

theorem encode_code {i : Instr} {c : Nat} (h : encodeNat i / 16 % 64 = c) : (encode i).extractLsb' 4 6 = BitVec.ofNat 6 c := by
  apply BitVec.eq_of_toNat_eq
  simp only [encode, BitVec.extractLsb'_toNat, BitVec.toNat_ofNat, Nat.shiftRight_eq_div_pow]
  omega

/-- Layout AR with three registers (R112). -/
theorem encode_ar3 {i : Instr} {d a b : RegNo} {w : BitVec 1} {base major code : Nat}
    (word : encodeNat i = base + d.toNat * 1048576 + a.toNat * 32768 + b.toNat * 1024 + w.toNat)
    (fits : code < 64 ∧ major < 64 := by decide) (fixed : base = code * 16 + major * 33554432 := by rfl) :
    (encode i).extractLsb' 25 6 = BitVec.ofNat 6 major ∧ (encode i).extractLsb' 4 6 = BitVec.ofNat 6 code := by
  obtain ⟨-, hmajor, hcode, -⟩ := fields1 _ d a b w 0 code major base ⟨by decide, fits⟩ (by omega) word
  exact ⟨encode_major hmajor, encode_code hcode⟩

/-- The word of `sel`, which has a predicate in the place of the width (R118). -/
theorem encode_sel (d a b : RegNo) (p : BitVec 3) :
    (encode (.sel d a b p)).extractLsb' 25 6 = 0x00 ∧ (encode (.sel d a b p)).extractLsb' 4 6 = BitVec.ofNat 6 16 := by
  obtain ⟨-, hmajor, hcode, -⟩ := fields2 (encodeNat (.sel d a b p)) d a b p 0 16 0 256 (by decide) rfl rfl
  exact ⟨encode_major hmajor, encode_code hcode⟩

/-- Layout AR with two registers (R122). -/
theorem encode_ar2 {i : Instr} {d a : RegNo} {w : BitVec 1} {base major code : Nat}
    (word : encodeNat i = base + d.toNat * 1048576 + a.toNat * 32768 + w.toNat)
    (fits : code < 64 ∧ major < 64 := by decide) (fixed : base = code * 16 + major * 33554432 := by rfl) :
    (encode i).extractLsb' 25 6 = BitVec.ofNat 6 major ∧ (encode i).extractLsb' 4 6 = BitVec.ofNat 6 code := by
  obtain ⟨code_lt, major_lt⟩ := fits
  obtain ⟨-, hmajor, hcode, -⟩ := fields6 _ d a w 0 code 0 major base ⟨by decide, code_lt, by decide, major_lt⟩ (by omega) word
  exact ⟨encode_major hmajor, encode_code hcode⟩

/-- Layout AI (R112, R119). -/
theorem encode_ai {i : Instr} {d a : RegNo} {x : BitVec 15} {base major : Nat}
    (word : encodeNat i = base + d.toNat * 1048576 + a.toNat * 32768 + x.toNat) (fits : major < 64 := by decide)
    (fixed : base = major * 33554432 := by rfl) : (encode i).extractLsb' 25 6 = BitVec.ofNat 6 major := by
  obtain ⟨-, hmajor, -⟩ := fields3 _ d a x major base fits (by omega) word
  exact encode_major hmajor

/-- The shift immediates, of which `code` is the operation (R119). -/
theorem encode_shift {i : Instr} {d a : RegNo} {x : BitVec 6} {base : Nat} (code : Nat)
    (word : encodeNat i = base + d.toNat * 1048576 + a.toNat * 32768 + x.toNat)
    (fits : code < 4 := by decide) (fixed : base = code * 8192 + 167772160 := by rfl) :
    (encode i).extractLsb' 25 6 = 0x05 := by
  obtain ⟨-, hmajor, -⟩ := fields4 _ d a x 0 code 5 base ⟨by decide, fits, by decide⟩ (by rw [fixed]; ring) word
  exact encode_major hmajor

/-- Layout AW (R112, R120). -/
theorem encode_aw {i : Instr} {d : RegNo} {x : BitVec 20} {base major : Nat}
    (word : encodeNat i = base + d.toNat * 1048576 + x.toNat) (fits : major < 64 := by decide)
    (fixed : base = major * 33554432 := by rfl) : (encode i).extractLsb' 25 6 = BitVec.ofNat 6 major := by
  obtain ⟨-, hmajor, -⟩ := fields5 _ d x major base fits (by omega) word
  exact encode_major hmajor

end Sys2Proof.Machine
end

section
/-! SUPPORT. Counts of bits, reversal and fields, bit by bit (R122, R123). -/

namespace Sys2Proof.Machine

theorem ofNat_clzNat {n : Nat} (x : BitVec n) :
    BitVec.ofNat n (clzNat n x.toNat) = if x = 0 then BitVec.ofNat n n else BitVec.ofNat n (n - 1 - Nat.log2 x.toNat) := by
  split
  next zero => rw [zero, BitVec.ofNat_eq_ofNat, BitVec.toNat_ofNat, Nat.zero_mod, clzNat_zero]
  next nonzero => rw [clzNat_log n _ x.isLt fun h => nonzero (BitVec.eq_of_toNat_eq (by simpa using h))]

theorem ofNat_popNat {n : Nat} (x : BitVec n) :
    BitVec.ofNat n (popNat n x.toNat) = BitVec.ofNat n ((List.range n).countP (fun i => x.getLsbD i)) :=
  congrArg _ (popNat_count n _)

theorem ofNat_revNat {n : Nat} (x : BitVec n) : BitVec.ofNat n (revNat n x.toNat) = x.reverse := by
  apply BitVec.eq_of_getLsbD_eq
  intro i lt
  rw [BitVec.getLsbD_ofNat, revNat_testBit, BitVec.getLsbD_reverse, BitVec.getMsbD, BitVec.getLsbD]
  simp [lt]

/-- The number of the low bits as signed is the value of the word that holds them. -/
theorem signedOf_eq_toInt (k n : Nat) : signedOf k n = (BitVec.ofNat k n).toInt := by
  rw [signedOf, BitVec.toInt_eq_toNat_cond, BitVec.toNat_ofNat]

theorem fieldSext_bit {n i len : Nat} (x : BitVec n) (pos : 0 < len) (lt : i < n) :
    (fieldSext len x).getLsbD i = x.getLsbD (min i (len - 1)) := by
  have extended : fieldSext len x = (BitVec.ofNat len x.toNat).signExtend n := by rw [fieldSext, signedOf_eq_toInt]; rfl
  rw [extended, BitVec.getLsbD_signExtend, BitVec.msb_eq_getLsbD_last, BitVec.getLsbD_ofNat, BitVec.getLsbD_ofNat]
  split
  next inside => simp [lt, inside, Nat.min_eq_left (by omega : i ≤ len - 1), BitVec.getLsbD]
  next above => simp [lt, pos, Nat.min_eq_right (by omega : len - 1 ≤ i), BitVec.getLsbD]

theorem fieldGet_bit {n i : Nat} (len pos : Nat) (x : BitVec n) (lt : i < n) :
    (fieldGet len pos x).getLsbD i = (decide (i < len) && x.getLsbD (pos + i)) := by
  rw [fieldGet, BitVec.getLsbD_ofNat, Nat.testBit_mod_two_pow, Nat.testBit_div_two_pow]
  simp [lt, BitVec.getLsbD, Nat.add_comm]

theorem fieldGet_low_bit {n i : Nat} (len : Nat) (x : BitVec n) (lt : i < n) :
    (fieldGet len 0 x).getLsbD i = (decide (i < len) && x.getLsbD i) := by
  rw [fieldGet_bit len 0 x lt, Nat.zero_add]

theorem fieldPut_bit {n i : Nat} (len pos : Nat) (old x : BitVec n) (lt : i < n) :
    (fieldPut len pos old x).getLsbD i = if pos ≤ i ∧ i < pos + len then x.getLsbD (i - pos) else old.getLsbD i := by
  have mask : (BitVec.ofNat n (2 ^ len - 1) <<< pos).getLsbD i = decide (pos ≤ i ∧ i < pos + len) := by
    rw [BitVec.getLsbD_shiftLeft, BitVec.getLsbD_ofNat, Nat.testBit_two_pow_sub_one]
    simp only [lt, decide_true, Bool.true_and, ← decide_not, ← Bool.decide_and]
    exact decide_eq_decide.mpr (by omega)
  rw [fieldPut, BitVec.getLsbD_or, BitVec.getLsbD_and, BitVec.getLsbD_and, BitVec.getLsbD_not, mask, BitVec.getLsbD_shiftLeft]
  split
  next inside => simp [lt, inside]
  next outside => simp [lt, outside]

/-- The field of R123 has a bit at least. -/
theorem fieldLen_pos (w : BitVec 1) (y : Word) : 0 < fieldLen w y := by
  have width : 0 < opWidth w := by unfold opWidth; split <;> decide
  unfold fieldLen
  dsimp only
  split
  · exact width
  · omega

end Sys2Proof.Machine
end

section
/-! CERTIFICATE. Products, quotients and remainders; bit counts, reversal and fields; the ALU and the immediates. -/

open Sys2Proof Sys2Proof.Machine

/-- Settles O2: each operation at either width (`State.setDone_alu2`), its result that of the numbers (`mul_eq_ofInt`,
`quotSigned_eq` to `remUnsigned_eq`); the codes by the layout (`encode_ar3`). -/
theorem mulDivResults : Obligations.MulDivResults := by
  intro s d a b w
  refine ⟨State.setDone_alu2 (mul_eq_ofInt _ _) (mul_eq_ofInt _ _), State.setDone_alu2 rfl rfl, State.setDone_alu2 rfl rfl,
    State.setDone_alu2 (quotSigned_eq _ _) (quotSigned_eq _ _), State.setDone_alu2 (quotUnsigned_eq _ _) (quotUnsigned_eq _ _),
    State.setDone_alu2 (remSigned_eq _ _) (remSigned_eq _ _), State.setDone_alu2 (remUnsigned_eq _ _) (remUnsigned_eq _ _), ?_⟩
  simp only [List.forall_mem_cons, List.not_mem_nil, false_imp_iff, implies_true, and_true]
  exact ⟨encode_ar3 rfl, encode_ar3 rfl, encode_ar3 rfl, encode_ar3 rfl, encode_ar3 rfl, encode_ar3 rfl, encode_ar3 rfl⟩

/-- Settles O3: each count and each field at either width (`State.setDone_count` to `State.setDone_insert`), the counts as `ofNat_clzNat`
to `ofNat_revNat` give them, the fields bit by bit; the codes by the layouts (`encode_ar2`, `encode_ar3`). -/
theorem bitFieldResults : Obligations.BitFieldResults := by
  intro s d a b w
  refine ⟨State.setDone_count clzNat (ofNat_clzNat _) (ofNat_clzNat _), ⟨_, _, State.setDone_count ctzNat rfl rfl, ?_⟩,
    State.setDone_count popNat (ofNat_popNat _) (ofNat_popNat _), State.setDone_count revNat (ofNat_revNat _) (ofNat_revNat _),
    ⟨_, _, State.setDone_field fun w {_} x => fieldSext (fieldLen w (s.g b)) x,
      fun i => fieldSext_bit _ (fieldLen_pos 0 _), fun i => fieldSext_bit _ (fieldLen_pos 1 _)⟩,
    ⟨_, _, State.setDone_field fun w {_} x => fieldGet (fieldLen w (s.g b)) 0 x,
      fun i => fieldGet_low_bit _ _, fun i => fieldGet_low_bit _ _⟩,
    ⟨_, _, State.setDone_field fun w {_} x => fieldGet (fieldLen w (s.g b)) (fieldPos w (s.g b)) x,
      fun i => fieldGet_bit _ _ _, fun i => fieldGet_bit _ _ _⟩,
    ⟨_, _, State.setDone_insert fun w {_} old x => fieldPut (fieldLen w (s.g b)) (fieldPos w (s.g b)) old x,
      fun i => fieldPut_bit _ _ _ _, fun i lt => ?_⟩, ?_⟩
  · obtain ⟨few, zeros, one⟩ := ctzNat_spec 64 (s.g a).toNat
    obtain ⟨few', zeros', one'⟩ := ctzNat_spec 32 ((s.g a).setWidth 32).toNat
    exact ⟨few, zeros, one, few', zeros', one'⟩
  · have kept : ((s.g d).setWidth 32).getLsbD i = (s.g d).getLsbD i := by simp [lt]
    rw [← kept]
    exact fieldPut_bit _ _ _ _ lt
  · simp only [List.forall_mem_cons, List.not_mem_nil, false_imp_iff, implies_true, and_true]
    exact ⟨encode_ar2 rfl, encode_ar2 rfl, encode_ar2 rfl, encode_ar2 rfl, encode_ar3 rfl, encode_ar3 rfl, encode_ar3 rfl,
      encode_ar3 rfl⟩

/-- Settles O1: each ALU instruction at either width (`State.setDone_alu2`), a shift by its amount (`shAmt_low`), a comparison by the
numbers (`boolBits_slt` to `pickMax_ult`); an immediate form is what its definition writes; the codes by the layouts. -/
theorem scalarResults : Obligations.ScalarResults := by
  refine ⟨fun s d a b w p => ?_, fun s d a i n j => ?_⟩
  · have low := shAmt_low (s.g b)
    refine ⟨State.setDone_alu2 rfl rfl, State.setDone_alu2 rfl rfl, State.setDone_alu2 rfl rfl, State.setDone_alu2 rfl rfl,
      State.setDone_alu2 rfl rfl, State.setDone_alu2 rfl rfl, State.setDone_alu2 rfl (congrArg _ low),
      State.setDone_alu2 rfl (congrArg _ low), State.setDone_alu2 rfl (congrArg _ low), State.setDone_alu2 rfl (congrArg _ low),
      State.setDone_alu2 (boolBits_slt _ _) (boolBits_slt _ _), State.setDone_alu2 (boolBits_ult _ _) (boolBits_ult _ _),
      State.setDone_alu2 (pickMin_slt _ _) (pickMin_slt _ _), State.setDone_alu2 (pickMax_slt _ _) (pickMax_slt _ _),
      State.setDone_alu2 (pickMin_ult _ _) (pickMin_ult _ _), State.setDone_alu2 (pickMax_ult _ _) (pickMax_ult _ _), rfl, ?_⟩
    simp only [List.forall_mem_cons, List.not_mem_nil, false_imp_iff, implies_true, and_true]
    exact ⟨encode_ar3 (base := 0) (by rw [Nat.zero_add]; rfl), encode_ar3 rfl, encode_ar3 rfl, encode_ar3 rfl, encode_ar3 rfl,
      encode_ar3 rfl, encode_ar3 rfl, encode_ar3 rfl, encode_ar3 rfl, encode_ar3 rfl, encode_ar3 rfl, encode_ar3 rfl, encode_ar3 rfl,
      encode_ar3 rfl, encode_ar3 rfl, encode_ar3 rfl, encode_sel d a b p⟩
  · refine ⟨rfl, rfl, rfl, rfl, rfl, rfl, rfl, rfl, rfl, rfl, ?_⟩
    simp only [List.forall_mem_cons, List.not_mem_nil, false_imp_iff, implies_true, and_true]
    exact ⟨encode_ai rfl, encode_ai rfl, encode_ai rfl, encode_ai rfl, encode_shift 0 rfl, encode_shift 1 rfl, encode_shift 2 rfl,
      encode_shift 3 rfl, encode_aw rfl, encode_aw rfl⟩

end

section
/-! SUPPORT. The start of a loop: what nests, and what the start gives (R129, R131, R133). -/

namespace Sys2Proof.Machine

/-- A body that ends at `e` may start at a level: it stays in IM, and every active level is a shallower one that ends no earlier
(R129, R133). -/
def State.Nests (s : State) (l : Fin 3) (e : Nat) : Prop :=
  e ≤ 65536 ∧ ∀ k : Fin 3, s.core.x.loops[k].active = true → k < l ∧ e ≤ s.core.x.loops[k].stop

variable {s : State} {l : Fin 3} {len : Nat} {n r : Word}

/-- What `startLoop` asks of the levels, of the body's end and of the step record is that the body nests and that the record's
reserved bits are zero. -/
theorem State.startLoop_test (s : State) (l : Fin 3) (e : Nat) (r : Word) :
    (([0, 1, 2] : List (Fin 3)).any (fun k => s.core.x.loops[k].active && (decide (l ≤ k) || decide (s.core.x.loops[k].stop < e))) ||
      decide (0x10000 < e) || decide (r.toNat / 2 ^ 46 ≠ 0)) = false ↔ s.Nests l e ∧ r.toNat < 2 ^ 46 := by
  have every : ∀ k : Fin 3, k ∈ ([0, 1, 2] : List (Fin 3)) := by decide
  have levels : ([0, 1, 2] : List (Fin 3)).any (fun k => s.core.x.loops[k].active &&
      (decide (l ≤ k) || decide (s.core.x.loops[k].stop < e))) = false ↔
      ∀ k : Fin 3, s.core.x.loops[k].active = true → k < l ∧ e ≤ s.core.x.loops[k].stop := by
    simp only [List.any_eq_false, every, true_imp_iff, Bool.and_eq_true, Bool.or_eq_true, decide_eq_true_eq, not_and,
      not_or, not_le, not_lt]
  have record : r.toNat / 2 ^ 46 = 0 ↔ r.toNat < 2 ^ 46 := Nat.div_eq_zero_iff_lt (by decide)
  rw [Bool.or_eq_false_iff, Bool.or_eq_false_iff, levels, decide_eq_false_iff_not, decide_eq_false_iff_not, not_not, record, not_lt,
    State.Nests, and_comm (a := e ≤ 65536)]

/-- A body that nests starts its level with the trip count, or, with no trip, is left out (R129). -/
theorem State.startLoop_of_nests (nests : s.Nests l (s.clause.toNat + 8 + 8 * len)) (record : r.toNat < 2 ^ 46) :
    s.startLoop l len n r = if n = 0
      then .next (((s.onX (fun x => x.mark (60 + l.val))).setLoop l { s.core.x.loops[l] with lc := 0 }).finish
        (.zeroTrip (s.clause.toNat + 8 + 8 * len)))
      else .next (((s.onX (fun x => x.mark (60 + l.val))).setLoop l
        ⟨true, s.clause.toNat + 8, s.clause.toNat + 8 + 8 * len, r, 0, n, []⟩).finish .next) :=
  if_neg (Bool.eq_false_iff.mp ((s.startLoop_test l _ r).mpr ⟨nests, record⟩))

/-- A body that does not nest, or a malformed step record, takes the loop fault with nothing changed (R129, R131, R133). -/
theorem State.startLoop_faults (h : ¬s.Nests l (s.clause.toNat + 8 + 8 * len) ∨ 2 ^ 46 ≤ r.toNat) :
    s.startLoop l len n r = .next (s.finish (.trap 0x0B (BitVec.ofNat 64 l.val) 0)) := by
  refine if_pos (Bool.of_not_eq_false (mt (s.startLoop_test l _ r).mp ?_))
  rintro ⟨nests, record⟩
  exact h.elim (fun h => h nests) (Nat.not_le.mpr record)

theorem exec_loop (l : Fin 3) (c : RegNo) (n : BitVec 6) (s : State) :
    exec (.loop (BitVec.ofNat 2 l.val) c n) s = s.startLoop l (n.toNat + 1) (s.g c) 0 := by
  fin_cases l <;> rfl

theorem exec_loopx (l : Fin 3) (c : RegNo) (n : BitVec 6) (x : RegNo) (s : State) :
    exec (.loopx (BitVec.ofNat 2 l.val) c n x) s = s.startLoop l (n.toNat + 1) (s.g c) (s.g x) := by
  fin_cases l <;> rfl

/-- A body left out where no level ends: the clause after it is next (R129, R130). -/
theorem State.finish_zeroTrip {e : Nat} (inPair : s.core.x.inPair = false)
    (h : ∀ k : Fin 3, s.core.x.loops[k].active = true → s.core.x.loops[k].stop ≠ e) :
    s.finish (.zeroTrip e) = s.onX (fun y => { y with pc := BitVec.ofNat 16 e, wait := none }) := by
  have pc : BitVec.ofNat 16 (e % 65536) = BitVec.ofNat 16 e := BitVec.eq_of_toNat_eq (by simp)
  have ends : s.finish (.zeroTrip e) = (s.onX (fun y => { y with wait := none })).setPc (e % 65536) :=
    (State.finish_alone _ inPair).trans (endOfBodyFrom_none _ e (s.onX _) fun k _ => h k)
  rw [ends, State.setPc, pc]
  rfl

end Sys2Proof.Machine
end

section
/-! CERTIFICATE. Starting a loop. -/

open Sys2Proof Sys2Proof.Machine

/-- Settles O15: `loop` and `loopx` start a level alike (`exec_loop`, `exec_loopx`), and the start is decided by whether the body
nests, the step record is well formed and there is a trip (`State.startLoop_of_nests`, `State.startLoop_faults`). -/
theorem loopResults : Obligations.LoopResults := by
  intro s l n c x
  dsimp only
  rw [exec_loop, exec_loopx]
  have zero : (0 : Word).toNat < 2 ^ 46 := by decide
  exact ⟨fun nests trips => (State.startLoop_of_nests nests zero).trans (if_neg trips),
    fun nests none => (State.startLoop_of_nests nests zero).trans (if_pos none),
    fun h => State.startLoop_faults (.inl h),
    fun nests record trips => (State.startLoop_of_nests nests record).trans (if_neg trips),
    fun nests record none => (State.startLoop_of_nests nests record).trans (if_pos none),
    State.startLoop_faults, rfl, rfl, fun e => State.finish_zeroTrip⟩

end

section
/-! SUPPORT. The status of copies, code fetches and table loads at issue (R162, R168 to R170, R243, R257, R282). -/

namespace Sys2Proof.Machine

variable {s : State} {a d : RegNo} {v : Word}

/-! ### Copies of the acting core's context (R162) -/

/-- A copy of the acting core's context that the engine holds. -/
def State.OwnCopy (s : State) (y : Copy) : Prop := y ∈ s.core.eng.copies ∧ y.reader.run = s.core.run

theorem Core.run_of_ctx {c : Core} {x : Ctx} (task : c.x.ctx = some x) : c.run = x.run := by
  unfold Core.run
  rw [task]

theorem State.incomplete_none_iff : s.incomplete v = none ↔ ∀ y, s.OwnCopy y → ¬(v = 0 ∨ BitVec.ofNat 64 y.tag = v) := by
  simp only [State.incomplete, List.find?_eq_none, State.OwnCopy, Bool.and_eq_true, Bool.or_eq_true, decide_eq_true_eq, not_and, and_imp]

theorem State.incomplete_spec {y : Copy} (found : s.incomplete v = some y) : s.OwnCopy y ∧ (v = 0 ∨ BitVec.ofNat 64 y.tag = v) := by
  have first := List.find?_some found
  simp only [Bool.and_eq_true, Bool.or_eq_true, decide_eq_true_eq] at first
  exact ⟨⟨List.mem_of_find?_eq_some found, first.1⟩, first.2⟩

theorem State.incomplete_of_own {y : Copy} (own : s.OwnCopy y) (named : v = 0 ∨ BitVec.ofNat 64 y.tag = v) :
    ∃ z, s.incomplete v = some z :=
  Option.ne_none_iff_exists'.mp fun none => State.incomplete_none_iff.mp none y own named

theorem exec_xstat_none (h : s.g a = 0 ∨ s.incomplete (s.g a) = none) : exec (.xstat d a) s = .next ((s.setG d 0).finish .next) := by
  change execXstat d a s = _
  unfold execXstat
  split
  · rfl
  next tag =>
    rw [h.resolve_left tag]
    rfl

theorem exec_xstat_some {y : Copy} (tag : s.g a ≠ 0) (found : s.incomplete (s.g a) = some y) :
    exec (.xstat d a) s = if y.failed then s.stay .copy (s.g a) else .next ((s.setG d 1).finish .next) := by
  change execXstat d a s = _
  unfold execXstat
  rw [if_neg tag, found]
  rfl

theorem exec_xwait_done (h : (d ≠ 0 ∧ s.g d = 0) ∨ s.incomplete (s.g d) = none) : exec (.xwait d) s = .next (s.finish .next) := by
  change execXwait d s = _
  unfold execXwait
  split
  · rfl
  next all =>
    rw [h.resolve_left all]
    rfl

theorem exec_xwait_waits {y : Copy} (reg : d = 0 ∨ s.g d ≠ 0) (found : s.incomplete (s.g d) = some y) :
    exec (.xwait d) s = s.stay .copy (s.g d) := by
  change execXwait d s = _
  unfold execXwait
  rw [if_neg (not_and_or.mpr (reg.imp_left not_not.mpr)), found]

/-! ### Code (R168, R257) -/

/-- A page of code lies on one of the paths that code is fetched from. -/
def CodePath (src : Word) : Prop :=
  ∃ p o q, pathOf src = some (p, o) ∧ pathOf (src + 4095) = some (p, q) ∧ (p = .loft ∨ p = .global ∨ p = .globalRo)

variable {f : BitVec 4} {src : Word}

theorem State.fetchTrap_path (off : ¬CodePath src) : s.fetchTrap a f src = some (.trap 0x05 src 0) := by
  unfold State.fetchTrap
  refine if_pos ?_
  split
  next p o q o' start last =>
    rw [Bool.not_eq_true', decide_eq_false_iff_not]
    rintro ⟨rfl, kind⟩
    exact off ⟨p, o, o', start, last, kind⟩
  · rfl

/-- What stops a `cfetch` of a page of code: the frames that the supervisor holds, and then the checks of a load. -/
theorem State.fetchTrap_code (code : CodePath src) : s.fetchTrap a f src =
    if s.core.x.mode = .user ∧ s.core.csr.supEn = true ∧ s.core.csr.ifr.toNat ≤ f.toNat
    then some (.trap 0x03 (BitVec.ofNat 64 (f.toNat * 0x1000)) 0)
    else spanTrap s.core .load src 4096 64 (decide (a = 2)) := by
  obtain ⟨p, o, q, start, last, kind⟩ := code
  unfold State.fetchTrap
  rw [start, last]
  exact if_neg (by simp [kind])

theorem exec_cfetch_trap {t : Flow} (trap : s.fetchTrap a f (s.g a) = some t) : exec (.cfetch a f) s = .next (s.finish t) := by
  change execCfetch a f s = _
  unfold execCfetch
  rw [trap]

theorem exec_cfetch_none (free : s.fetchTrap a f (s.g a) = none) : exec (.cfetch a f) s =
    .next (State.finish ((s.onMem (fun m => m.setFrame f.toNat (.landing ⟨s.g a, s.loadInstant 0, s.reader, none, []⟩))).onX (fun x => { x with
      touchIm := if f.toNat < s.core.csr.ifr.toNat then x.touchIm ||| BitVec.ofNat 16 (2 ^ f.toNat) else x.touchIm })) .next) := by
  change execCfetch a f s = _
  unfold execCfetch
  rw [free]
  rfl

theorem exec_cstat (s : State) (d : RegNo) (f : BitVec 4) :
    exec (.cstat d f) s = .next ((s.setG d (BitVec.ofNat 64 (s.core.mem.frame f.toNat).code)).finish .next) := rfl

theorem CoreMem.frame_eq (m : CoreMem) (f : Fin 16) : m.frame f.val = m.frames[f] := by
  simp [CoreMem.frame, List.getD]

theorem CoreMem.setFrame_eq (m : CoreMem) (f : Fin 16) (v : Frame) : m.setFrame f.val v = { m with frames := m.frames.set f v } :=
  dif_pos f.isLt

/-! ### Tables (R169, R170, R282) -/

section
variable {n : BitVec 8} {v : BitVec 1} {t : BitVec 2}

section
variable (free : spanTrap s.core .load (s.g a) 1024 4 (decide (a = 2)) = none) (idle : s.viewHeld (s.g a) = false)
include free idle

theorem exec_dtld_error (error : s.errorAt [s.g a] 1024 ≠ none) :
    exec (.dtld a v n t) s = .next ((s.defer 0x12 (s.g a)).finish .next) := by
  change execDtld a v n t s = _
  unfold execDtld
  rw [free]
  dsimp only
  rw [if_neg (by simp [idle]), if_pos (Option.isSome_iff_ne_none.mpr error)]
  rfl

/-- The loads that go through the table's view decode by the table as it stands before, so they are performed first (R94). -/
theorem exec_dtld_none (intact : s.errorAt [s.g a] 1024 = none) :
    let u := (s.settleAt (s.g a) 1024).drain (fun p => match p.load with
      | some l => l.usesTable t.toNat
      | none => false)
    exec (.dtld a v n t) s = .next (State.finish ((u.loadsDone (fun l => l.usesTable t.toNat)).onEng (fun e => { e with
      dtLoads := e.dtLoads ++ [⟨t.toNat, if v = 1 then some n else none, s.g a, s.loadInstant 0, u.captured (s.g a) 1024, s.reader,
        s.clause⟩] })) .next) := by
  change execDtld a v n t s = _
  unfold execDtld
  rw [free]
  dsimp only
  rw [if_neg (by simp [idle]), if_neg (by simp [intact])]
  rfl

end

variable {p : Path} {o : Nat}

theorem exec_segld_path (path : pathOf (s.g a) = some (p, o)) (kind : p.isView = true ∨ p = .im ∨ p = .dev) :
    exec (.segld a t) s = .next (s.finish (.trap 0x05 (s.g a) 0)) := by
  change execSegld a t s = _
  unfold execSegld
  rw [path]
  refine if_pos ?_
  rw [Bool.not_eq_true', decide_eq_false_iff_not]
  rintro (rfl | rfl | rfl | rfl | rfl) <;> simp [Path.isView] at kind

variable (path : pathOf (s.g a) = some (p, o)) (kind : p = .tcm ∨ p = .spad ∨ p = .loft ∨ p = .global ∨ p = .globalRo)
  (free : spanTrap s.core .load (s.g a) 144 16 (decide (a = 2)) = none)
include path kind free

theorem exec_segld_error (error : s.errorAt [s.g a] 144 ≠ none) :
    exec (.segld a t) s = .next ((s.defer 0x12 (s.g a)).finish .next) := by
  change execSegld a t s = _
  unfold execSegld
  rw [path, free]
  dsimp only
  rw [if_neg (by simp [kind]), if_pos (Option.isSome_iff_ne_none.mpr error)]
  rfl

theorem exec_segld_none (intact : s.errorAt [s.g a] 144 = none) :
    let u := s.settleAt (s.g a) 144
    exec (.segld a t) s = .next (State.finish (u.onEng (fun e => { e with segLoads := e.segLoads ++
      [⟨t.toNat, none, s.g a, s.loadInstant 0, u.captured (s.g a) 144, s.reader, s.clause⟩] })) .next) := by
  change execSegld a t s = _
  unfold execSegld
  rw [path, free]
  dsimp only
  rw [if_neg (by simp [kind]), if_neg (by simp [intact])]
  rfl

end

theorem State.captured_remote {p : Path} {o n : Nat} (path : pathOf src = some (p, o)) (kind : p = .loft ∨ p = .global ∨ p = .globalRo) :
    s.captured src n = none := by
  unfold State.captured
  rw [path]
  refine if_pos ?_
  obtain rfl | rfl | rfl := kind <;> rfl

theorem State.captured_tcm {o n : Nat} (path : pathOf src = some (.tcm, o)) : s.captured src n = some (s.core.mem.tcm.readN o n) := by
  unfold State.captured
  rw [path]
  rfl

end Sys2Proof.Machine
end

section
/-! CERTIFICATE. What `xstat` and `xwait` say of copies. -/

open Sys2Proof Sys2Proof.Machine

/-- Settles O27: the copy that a tag names is one of the context's own (`State.incomplete_none_iff`, `State.incomplete_spec`), and
what either instruction does turns on whether there is one, and for `xstat` on whether it failed. -/
theorem copyStatus : Obligations.CopyStatus := by
  intro s d a x task
  rw [← Core.run_of_ctx task]
  dsimp only
  have unnamed (tag : s.g a ≠ 0) (no : ∀ y, ¬(s.OwnCopy y ∧ BitVec.ofNat 64 y.tag = s.g a)) : s.incomplete (s.g a) = none :=
    State.incomplete_none_iff.mpr fun y own named => no y ⟨own, named.resolve_left tag⟩
  have one (tag : s.g a ≠ 0) (named : ∃ y, s.OwnCopy y ∧ BitVec.ofNat 64 y.tag = s.g a) :
      ∃ y, s.incomplete (s.g a) = some y ∧ s.OwnCopy y ∧ BitVec.ofNat 64 y.tag = s.g a := by
    obtain ⟨y, own, name⟩ := named
    obtain ⟨z, found⟩ := State.incomplete_of_own own (.inr name)
    obtain ⟨own, named⟩ := State.incomplete_spec found
    exact ⟨z, found, own, named.resolve_left tag⟩
  refine ⟨fun h => ?_, fun tag some intact => ?_, fun tag some failed => ?_, fun h => ?_, fun tag some => ?_, fun no => ?_, fun some => ?_⟩
  · exact exec_xstat_none (or_iff_not_imp_left.mpr fun tag => unnamed tag (h.resolve_left tag))
  · obtain ⟨y, found, named⟩ := one tag some
    rw [exec_xstat_some tag found, intact y named]
    rfl
  · obtain ⟨y, found, named⟩ := one tag some
    rw [exec_xstat_some tag found, failed y named]
    rfl
  · exact exec_xwait_done (h.imp_right fun ⟨tag, no⟩ => unnamed tag no)
  · obtain ⟨y, found, -⟩ := one tag some
    exact exec_xwait_waits (.inr tag) found
  · exact exec_xwait_done (.inr (State.incomplete_none_iff.mpr fun y own _ => no y own))
  · obtain ⟨y, own⟩ := some
    obtain ⟨z, found⟩ := State.incomplete_of_own own (.inl rfl)
    exact exec_xwait_waits (.inl rfl) found

end

section
/-! CERTIFICATE. Code frames and table loads at issue. -/

open Sys2Proof Sys2Proof.Machine

/-- Settles O29: what stops a `cfetch` in its order (`State.fetchTrap_path`, `State.fetchTrap_code`), the frame that it leaves landing,
and a table load's traps, its deferred fault and what it captures. -/
theorem codeAndTables : Obligations.CodeAndTables := by
  intro s a d f n t
  have frame : (BitVec.ofNat 4 f.val).toNat = f.val := by simp
  have code := exec_cstat s d (BitVec.ofNat 4 f.val)
  rw [frame, CoreMem.frame_eq] at code
  dsimp only
  refine ⟨fun off => exec_cfetch_trap (State.fetchTrap_path off), fun page held => ?_, fun page mine free => ?_, ?_, ?_, ?_, ?_,
    fun v free idle => ⟨exec_dtld_none free idle, exec_dtld_error free idle⟩,
    fun p o path kind free => ⟨exec_segld_none path kind free, exec_segld_error path kind free⟩,
    fun p o path kind => exec_segld_path path kind, fun p o path kind => State.captured_remote path kind,
    fun o path => State.captured_tcm path⟩
  · have trap := State.fetchTrap_code (s := s) (a := a) (f := BitVec.ofNat 4 f.val) page
    rw [frame, if_pos held] at trap
    exact exec_cfetch_trap trap
  · have trap := State.fetchTrap_code (s := s) (a := a) (f := BitVec.ofNat 4 f.val) page
    rw [frame, if_neg mine, free] at trap
    rw [exec_cfetch_none trap, frame]
    simp only [CoreMem.setFrame_eq]
  · rintro ⟨g, resident⟩
    rwa [resident] at code
  · rintro ⟨r, landing⟩
    rwa [landing] at code
  · intro failed
    rwa [failed] at code
  · intro empty
    rwa [empty] at code

end

section
/-! SUPPORT. The handler's bank, and user-level interrupts that enter it and leave it (R171 to R174). -/

namespace Sys2Proof.Machine

variable {s : State} {c : Core}

/-! ### The bank (R173) -/

@[simp] theorem Regs.swapBank_banked (r : Regs) (i : Fin 8) : r.swapBank.g[12 + i.val]'(by omega) = r.bank[i] := by
  simp [Regs.swapBank, Vector.getElem_ofFn, show 12 + i.val < 20 by omega]

@[simp] theorem Regs.swapBank_bank (r : Regs) (i : Fin 8) : r.swapBank.bank[i] = r.g[12 + i.val]'(by omega) := by
  simp [Regs.swapBank, Vector.getElem_ofFn, Nat.add_comm]

@[simp] theorem Regs.swapBank_v (r : Regs) : r.swapBank.v = r.v := by simp only [Regs.swapBank]
@[simp] theorem Regs.swapBank_p (r : Regs) : r.swapBank.p = r.p := by simp only [Regs.swapBank]

theorem Regs.swapBank_other (r : Regs) {i : Fin 32} (other : i.val < 12 ∨ 20 ≤ i.val) : r.swapBank.g[i] = r.g[i] := by
  simp [Regs.swapBank, Vector.getElem_ofFn, show ¬(12 ≤ i.val ∧ i.val < 20) by omega]

/-- The registers and the mark of the bank in use are all that a change of banks writes. -/
theorem Core.useBank_eq (c : Core) (hand : Bool) : c.useBank hand = { c with
    r := (c.useBank hand).r
    x := { c.x with handBank := hand } } := by
  unfold Core.useBank
  split
  next same => rw [← same]
  · rfl

variable {hand : Bool}

theorem Core.useBank_r_same (same : c.x.handBank = hand) : (c.useBank hand).r = c.r := by rw [Core.useBank, if_pos same]

theorem Core.useBank_r_other (other : c.x.handBank ≠ hand) : (c.useBank hand).r = c.r.swapBank := by rw [Core.useBank, if_neg other]

/-- Outside g12 to g19 a change of banks leaves the registers as they are. -/
theorem Core.useBank_frame (c : Core) (hand : Bool) : (c.useBank hand).r.v = c.r.v ∧ (c.useBank hand).r.p = c.r.p ∧
    ∀ i : Fin 32, i.val < 12 ∨ 20 ≤ i.val → (c.useBank hand).r.g[i] = c.r.g[i] := by
  by_cases same : c.x.handBank = hand
  · rw [Core.useBank_r_same same]
    exact ⟨rfl, rfl, fun _ _ => rfl⟩
  · rw [Core.useBank_r_other same]
    exact ⟨Regs.swapBank_v _, Regs.swapBank_p _, fun i other => Regs.swapBank_other _ other⟩

/-- With the other bank in use, g12 to g19 and the hidden bank change places. -/
theorem Core.useBank_exchange (other : c.x.handBank ≠ hand) (i : Fin 8) :
    (c.useBank hand).r.g[12 + i.val]'(by omega) = c.r.bank[i] ∧ (c.useBank hand).r.bank[i] = c.r.g[12 + i.val]'(by omega) := by
  simp only [Core.useBank_r_other other]
  exact ⟨Regs.swapBank_banked _ i, Regs.swapBank_bank _ i⟩

/-! ### Entering a handler (R173) -/

theorem suspendLoops_getElem (ls : Vector LoopLevel 3) (k : Fin 3) : (suspendLoops ls)[k] = ls[k].suspended := by
  simp [suspendLoops]

/-- The causes that stay pending: all but the one that is taken. -/
theorem clearCause_getLsbD : ∀ (m : BitVec 6) (i : Fin 6), ∀ j < 6,
    (m &&& ~~~(BitVec.ofNat 6 (2 ^ i.val))).getLsbD j = (m.getLsbD j && decide (j ≠ i.val)) := by
  decide

/-- With no gang, entry changes the bank, saves what `uiret` gives back, and goes to the handler. -/
theorem State.enterHandler_alone (alone : s.core.gang = []) (i : Fin 6) : s.enterHandler i = { s with core := { s.core with
    r := (s.core.useBank true).r
    sw := { s.core.sw with
      uepc := s.core.x.pc, ucause := BitVec.ofNat 8 i.val, uval := s.core.sw.pendVal[i]
      pend := s.core.sw.pend &&& ~~~(BitVec.ofNat 6 (2 ^ i.val)) }
    x := { s.core.x with
      handBank := true, inHandler := true, uLoops := s.core.x.loops, loops := suspendLoops s.core.x.loops
      pc := s.core.sw.uvec &&& 0xFFF8, wait := none } } } := by
  unfold State.enterHandler
  rw [State.leaveGang_alone alone]
  dsimp only
  rw [Core.useBank_eq]

theorem exec_userInterruptEntry_of_ne (other : s.boundary ≠ some .userInterruptEntry) : exec .userInterruptEntry s = .next s := by
  show execUserInterruptEntry s = _
  unfold execUserInterruptEntry
  split
  · rfl
  · exact if_neg other

/-- A user-level interrupt is what is taken only where one may be and nothing comes before it (R263). -/
theorem State.boundary_userInterrupt (first : s.boundary = some .userInterruptEntry) : s.core.canTakeUser = true ∧
    s.core.canTakeFault = false ∧ s.core.canTakeEvent = false ∧ s.core.atBoundary = true ∧ s.core.x.stopped = none ∧
    s.clockGated s.core.id = false := by
  unfold State.boundary at first
  split_ifs at first with closed fault event user
  · simp at first
  · simp at first
  · simp only [Bool.or_eq_true, Bool.not_eq_true', not_or, Bool.not_eq_false, Bool.not_eq_true, Option.isSome_eq_false_iff,
      Option.isNone_iff_eq_none] at closed fault event
    exact ⟨user, fault, event, closed.1.1, closed.1.2, closed.2⟩

/-! ### `uiret` (R174) -/

theorem exec_uiret_in_handler (handler : s.core.x.inHandler = true) (rebind : s.core.ni.rebind = none)
    (alone : s.core.x.inPair = false) : exec .uiret s = .next { s with core := { s.core with
      r := (s.core.useBank false).r
      x := { s.core.x with handBank := false, pc := s.core.sw.uepc, inHandler := false, loops := s.core.x.uLoops, wait := none } } } := by
  have same : s.rebound = s := by
    unfold State.rebound
    rw [rebind]
  show execUiret s = _
  unfold execUiret
  rw [if_pos handler, same, State.finish_alone _ alone, State.applyFlow, State.leaveHandler]
  dsimp only
  rw [Core.useBank_eq]

theorem exec_uiret_outside (handler : s.core.x.inHandler = false) : exec .uiret s = s.illegal .uiret := by
  show execUiret s = _
  unfold execUiret
  exact if_neg (by simp [handler])

end Sys2Proof.Machine
end

section
/-! CERTIFICATE. User-level interrupts. -/

open Sys2Proof Sys2Proof.Machine

/-- Settles O39: `uiret` undoes what the entry did (`State.enterHandler_alone`, `exec_uiret_in_handler`), the banks exchanged where the
other one was in use (`Regs.swapBank_banked`), and an entry happens exactly where it is the first to be taken (`State.boundary_eq`,
`State.boundary_userInterrupt`). -/
theorem userInterruptResults : Obligations.UserInterruptResults := by
  intro s m n
  obtain ⟨v, p, g⟩ := s.core.useBank_frame false
  refine ⟨rfl, rfl, ?_, exec_uiret_outside, fun handler rebind alone => ⟨_, exec_uiret_in_handler handler rebind alone, rfl, rfl, rfl, rfl, rfl,
    fun bank => Core.useBank_exchange (by simp [bank]), Core.useBank_r_same, g, v, p, rfl, rfl, rfl, rfl⟩,
    fun i user fault event between stopped clock alone set below => ?_, fun h => exec_userInterruptEntry_of_ne fun first => ?_⟩
  · rw [BitVec.ofNat_toNat]
    rfl
  · have first : s.boundary = some .userInterruptEntry := by
      rw [State.boundary_eq between stopped clock, fault, event, user]
      rfl
    refine ⟨_, (exec_userInterruptEntry (lowestCause_eq_some set fun k => below k.val) first).trans
      (congrArg _ (State.enterHandler_alone alone i)), rfl, rfl, rfl, clearCause_getLsbD _ i, rfl, fun k => ?_, rfl, Core.useBank_r_same,
      fun bank => Core.useBank_exchange (by simp [bank]), rfl, rfl⟩
    dsimp only
    rw [suspendLoops_getElem]
    exact ⟨rfl, rfl⟩
  · obtain ⟨user, fault, event, between, stopped, clock⟩ := State.boundary_userInterrupt first
    simp [user, fault, event, between, stopped, clock] at h

end

section
/-! SUPPORT. A core with no context that owes an atomic to its scratchpad, and `xtend` there (R76, R80, R267). -/

namespace Sys2Proof.Machine

variable {s : State}

/-- Where there is no context to end, what is left of `xtend` is that the core's pending atomics and loads are performed. -/
theorem exec_xtendWrite_no_context (none : s.core.x.ctx = none) (v : Word) : exec (.xtendWrite v) s = .next s.drainAtomics := by
  change Host.Outcome.next (s.endContext _) = _
  unfold State.endContext
  dsimp only
  rw [s.performed_drainAtomics.ctx, none]

/-- After reset the supervisor of core 0, which has no context, issues an `aadd` of 1 to the first word of the scratchpad, its
destination `g3`; the bank has still to perform it. -/
def State.owesAtomic : State := State.reset.atomicSpad 0 3 ⟨0, false, 1, 0, 0, 0⟩

theorem State.Sound.owesAtomic : State.owesAtomic.Sound := State.Sound.afterReset.atomicSpad

theorem State.pend_owesAtomic : State.owesAtomic.core.eng.pend.length = 1 := rfl

/-- `xtend` has the bank perform it. -/
theorem State.drainAtomics_owesAtomic : State.owesAtomic.drainAtomics.core.eng.pend = [] := rfl

end Sys2Proof.Machine
end

section
/-! CERTIFICATE. What reaches an NI and what leaves it. -/

open Sys2Proof Sys2Proof.Machine

/-- Refutes O46: where the acting core has no context, the statement has `xtend` change nothing. But `xtend` first has the core's
pending scratchpad atomics and loads performed, whosever they are (`exec_xtendWrite_no_context`), and a supervisor with no context
may have issued one. -/
theorem not_networkEventResults : ¬ Obligations.NetworkEventResults := by
  intro holds
  obtain ⟨-, -, -, -, -, -, -, -, -, -, -, no_context, -⟩ :=
    holds State.owesAtomic 0 0 0 ⟨[], 0, 0, 0, false, 0⟩ 0 State.Sound.owesAtomic (by decide) (by decide)
  have unchanged : State.owesAtomic.drainAtomics = State.owesAtomic :=
    Host.Outcome.next.inj ((exec_xtendWrite_no_context rfl 0).symm.trans (no_context rfl))
  have one := State.pend_owesAtomic
  rw [← unchanged, State.drainAtomics_owesAtomic] at one
  exact absurd one (by decide)

end

section
/-! SUPPORT. Integer vector instructions lane by lane, and permutations (R175, R176, R181, R184). -/

namespace Sys2Proof.Machine

/-! ### Lanes that an integer instruction computes (R175, R176) -/

/-- A vector made lane by lane reads back each lane. -/
theorem lane_ofLanes_range {w n k : Nat} (f : Nat → BitVec w) (h : k < n) (room : w * (k + 1) ≤ 128) :
    lane w (ofLanes w 0 ((List.range n).map f)) k = f k := by
  rw [lane_ofLanes _ room, List.getD_eq_getElem _ _ (by simpa using h), List.getElem_map, List.getElem_range]

variable {l : BitVec 2} {k : Nat}

theorem lane_buildLanes (f : Nat → BitVec (laneBits l)) (h : k < laneCount l) : lane (laneBits l) (buildLanes l f) k = f k :=
  lane_ofLanes_range f h (lane_fits h)

theorem lane_lanes1 (f : {n : Nat} → BitVec n → BitVec n) (x : VReg) (h : k < laneCount l) :
    lane (laneBits l) (lanes1 l f x) k = f (lane (laneBits l) x k) := by
  rw [lanes1, lanesOf, List.map_map]
  exact lane_buildLanes _ h

theorem lane_lanes2 (f : {n : Nat} → BitVec n → BitVec n → BitVec n) (x y : VReg) (h : k < laneCount l) :
    lane (laneBits l) (lanes2 l f x y) k = f (lane (laneBits l) x k) (lane (laneBits l) y k) := by
  rw [lanes2, lanesOf, lanesOf, List.zipWith_map, List.zipWith_self]
  exact lane_buildLanes _ h

theorem lane_lanes3 (f : {n : Nat} → BitVec n → BitVec n → BitVec n → BitVec n) (x y z : VReg) (h : k < laneCount l) :
    lane (laneBits l) (lanes3 l f x y z) k = f (lane (laneBits l) x k) (lane (laneBits l) y k) (lane (laneBits l) z k) := by
  rw [lanes3, lanesOf, lanesOf, lanesOf, List.zipWith_map, List.zipWith_self, List.zipWith_map, List.zipWith_self]
  exact lane_buildLanes _ h

/-- An instruction ends with lane `k` of its destination `f k`, and raises no flag (R175, R176). -/
def State.GivesLanes (s : State) (srcs : List RegNo) (d : RegNo) (q : BitVec 16) (l : BitVec 2) (f : Nat → BitVec (laneBits l))
    (r : Result) : Prop :=
  ∃ v, (∀ k < laneCount l, lane (laneBits l) v k = f k) ∧ r = .next (s.vectorNext srcs d q v 0)

variable {s : State} {srcs dsts : List RegNo} {old : Bool} {d a b c : RegNo} {p : BitVec 3} {q : BitVec 16}
  {r : Nat → BitVec (laneBits l)}

/-- Where its ports let it issue, the instruction ends with the vector that it computes. -/
theorem State.withPorts_gives (ready : s.PortsReady srcs dsts old) {q : State → BitVec 16} {g : State → VReg}
    (lanes : ∀ k < laneCount l, lane (laneBits l) (g s) k = r k) :
    s.GivesLanes srcs d (q s) l r (s.withPorts srcs dsts old (fun s => s.finishV srcs d (q s) (g s) 0)) :=
  ⟨g s, lanes, State.withPorts_ready ready _⟩

theorem State.vec1_gives (ready : s.PortsReady [a] [d] false) {f : VReg → VReg}
    (lanes : ∀ k < laneCount l, lane (laneBits l) (f (s.v a)) k = r k) : s.GivesLanes [a] d (s.p p) l r (s.vec1 d a p f) :=
  State.withPorts_gives ready lanes

theorem State.vec2_gives (ready : s.PortsReady [a, b] [d] false) {f : VReg → VReg → VReg}
    (lanes : ∀ k < laneCount l, lane (laneBits l) (f (s.v a) (s.v b)) k = r k) :
    s.GivesLanes [a, b] d (s.p p) l r (s.vec2 d a b p f) :=
  State.withPorts_gives ready lanes

theorem State.vec1_lanes1 (ready : s.PortsReady [a] [d] false) {f : {n : Nat} → BitVec n → BitVec n}
    (lanes : ∀ k, f (lane (laneBits l) (s.v a) k) = r k) : s.GivesLanes [a] d (s.p p) l r (s.vec1 d a p (lanes1 l f)) :=
  State.vec1_gives ready fun k h => (lane_lanes1 f _ h).trans (lanes k)

theorem State.vec2_lanes2 (ready : s.PortsReady [a, b] [d] false) {f : {n : Nat} → BitVec n → BitVec n → BitVec n}
    (lanes : ∀ k, f (lane (laneBits l) (s.v a) k) (lane (laneBits l) (s.v b) k) = r k) :
    s.GivesLanes [a, b] d (s.p p) l r (s.vec2 d a b p (lanes2 l f)) :=
  State.vec2_gives ready fun k h => (lane_lanes2 f _ _ h).trans (lanes k)

theorem State.vec3_lanes3 (ready : s.PortsReady [a, b, c] [d] false)
    {f : {n : Nat} → BitVec n → BitVec n → BitVec n → BitVec n}
    (lanes : ∀ k, f (lane (laneBits l) (s.v a) k) (lane (laneBits l) (s.v b) k) (lane (laneBits l) (s.v c) k) = r k) :
    s.GivesLanes [a, b, c] d (BitVec.allOnes 16) l r (s.vec3 d a b c (lanes3 l f)) :=
  State.withPorts_gives (q := fun _ => BitVec.allOnes 16) ready fun k h => (lane_lanes3 f _ _ _ h).trans (lanes k)

/-! ### Saturation (R176) -/

theorem satInt_eq {lo hi : Int} (h : lo ≤ hi) (z : Int) : satInt z lo hi = max lo (min hi z) := by
  unfold satInt
  split_ifs <;> omega

theorem satSigned_eq {n : Nat} (z : Int) :
    (satSigned z : BitVec n) = BitVec.ofInt n (max (-2 ^ (n - 1)) (min (2 ^ (n - 1) - 1) z)) := by
  have low : (0 : Int) < 2 ^ (n - 1) := by positivity
  rw [satSigned, Nat.cast_pow, Nat.cast_ofNat, satInt_eq (by omega)]

theorem satUnsigned_ofNat {n : Nat} (m : Nat) : (satUnsigned (m : Int) : BitVec n) = BitVec.ofNat n (min (2 ^ n - 1) m) := by
  have low : 0 < 2 ^ n := by positivity
  have limited : satInt (m : Int) 0 (((2 ^ n : Nat) : Int) - 1) = ((min (2 ^ n - 1) m : Nat) : Int) := by
    rw [satInt_eq (by omega)]
    omega
  rw [satUnsigned, limited, BitVec.ofInt_natCast]

theorem satUnsigned_sub {n : Nat} (x y : BitVec n) :
    (satUnsigned ((x.toNat : Int) - y.toNat) : BitVec n) = BitVec.ofNat n (x.toNat - y.toNat) := by
  have limited : satInt ((x.toNat : Int) - y.toNat) 0 (((2 ^ n : Nat) : Int) - 1) = ((x.toNat - y.toNat : Nat) : Int) := by
    have fits := x.isLt
    rw [satInt_eq (by omega)]
    omega
  rw [satUnsigned, limited, BitVec.ofInt_natCast]

/-! ### Permutations (R181) -/

theorem execVmov_gives (ready : s.PortsReady [a] [d] false) :
    s.GivesLanes [a] d (s.p p) l (lane (laneBits l) (s.v a)) (execVmov d a p l s) :=
  State.vec1_gives ready fun _ _ => rfl

theorem execVrot_gives (ready : s.PortsReady [a] [d] false) :
    s.GivesLanes [a] d (s.p p) l (fun i => lane (laneBits l) (s.v a) ((i + (s.g b).toNat) % laneCount l)) (execVrot d a b p l s) :=
  State.vec1_gives ready fun _ => lane_buildLanes _

theorem execVsplat_gives (ready : s.PortsReady [] [d] false) :
    s.GivesLanes [] d (s.p p) l (fun _ => (s.g a).setWidth (laneBits l)) (execVsplat d a p l s) :=
  State.withPorts_gives ready fun _ => lane_buildLanes _

theorem execVins_gives (ready : s.PortsReady [] [d] true) :
    s.GivesLanes [] d (s.p p) l (fun i => if i = (s.g b).toNat % laneCount l then (s.g a).setWidth (laneBits l)
      else lane (laneBits l) (s.core.r.readV d) i) (execVins d a b p l s) :=
  State.withPorts_gives ready fun _ => lane_buildLanes _

theorem execVshuf_gives (ready : s.PortsReady [a, b] [d] false) :
    s.GivesLanes [a, b] d (s.p p) l (fun i => if (lane (laneBits l) (s.v b) i).toNat < laneCount l
      then lane (laneBits l) (s.v a) (lane (laneBits l) (s.v b) i).toNat else 0) (execVshuf d a b p l s) :=
  State.vec2_gives ready fun _ => lane_buildLanes _

theorem execVzip_gives (ready : s.PortsReady [a, b] [d] false) :
    s.GivesLanes [a, b] d (s.p p) l (fun i => if i % 2 = 0 then lane (laneBits l) (s.v a) (i / 2)
      else lane (laneBits l) (s.v b) (i / 2)) (execVzip d a b p l s) :=
  State.vec2_gives ready fun _ => lane_buildLanes _

theorem execVunzip_gives (ready : s.PortsReady [a, b] [d] false) :
    s.GivesLanes [a, b] d (s.p p) l (fun i => if i < laneCount l / 2 then lane (laneBits l) (s.v a) (2 * i)
      else lane (laneBits l) (s.v b) (2 * (i - laneCount l / 2))) (execVunzip d a b p l s) :=
  State.vec2_gives ready fun _ => lane_buildLanes _

/-! ### One source (R176, R184) -/

theorem abs_eq_ofInt {n : Nat} (x : BitVec n) : (if x.slt 0 then -x else x) = BitVec.ofInt n (x.toInt.natAbs : Int) := by
  rw [Int.natCast_natAbs]
  split
  next negative =>
    have below : x.toInt < 0 := by simpa [BitVec.slt_iff_toInt_lt] using negative
    rw [abs_of_neg below, BitVec.ofInt_neg, BitVec.ofInt_toInt]
  next nonneg =>
    have above : 0 ≤ x.toInt := by simpa [BitVec.slt_iff_toInt_lt] using nonneg
    rw [abs_of_nonneg above, BitVec.ofInt_toInt]

/-- The trailing zeros are the place of the lowest one bit, the width where there is none (R122). -/
theorem ctzNat_find (n x : Nat) : ctzNat n x = ((List.range n).find? (fun k => x.testBit k)).getD n := by
  obtain ⟨few, zeros, one⟩ := ctzNat_spec n x
  rcases few.lt_or_eq with inside | none
  · have found : (List.range n).find? (fun k => x.testBit k) = some (ctzNat n x) :=
      List.find?_range_eq_some.mpr ⟨one inside, List.mem_range.mpr inside, fun i lt => by simp [zeros i lt]⟩
    rw [found, Option.getD_some]
  · have missing : (List.range n).find? (fun k => x.testBit k) = Option.none :=
      List.find?_range_eq_none.mpr fun i lt => by simp [zeros i (lt.trans_eq none.symm)]
    rw [missing, Option.getD_none, none]

theorem ofNat_clzNat_ite {n : Nat} (x : BitVec n) :
    BitVec.ofNat n (clzNat n x.toNat) = BitVec.ofNat n (if x = 0 then n else n - 1 - Nat.log2 x.toNat) :=
  (ofNat_clzNat x).trans (apply_ite _ _ _ _).symm

end Sys2Proof.Machine
end

section
/-! CERTIFICATE. Integer lanes, one-source instructions and permutations. -/

open Sys2Proof Sys2Proof.Machine

/-- Settles O6: each instruction works on the lanes of its two sources alone (`State.vec2_lanes2`), and gives in each what the
numbers of the lanes make (`mul_eq_ofInt`, `pickMin_slt` to `pickMax_ult`, `satSigned_eq` to `satUnsigned_sub`). -/
theorem vectorIntegerResults : Obligations.VectorIntegerResults := by
  intro s d a b p l ready
  refine ⟨State.vec2_lanes2 ready fun _ => rfl, State.vec2_lanes2 ready fun _ => rfl,
    State.vec2_lanes2 ready fun _ => mul_eq_ofInt _ _, State.vec2_lanes2 ready fun _ => rfl, State.vec2_lanes2 ready fun _ => rfl,
    State.vec2_lanes2 ready fun _ => pickMin_slt _ _, State.vec2_lanes2 ready fun _ => pickMax_slt _ _,
    State.vec2_lanes2 ready fun _ => pickMin_ult _ _, State.vec2_lanes2 ready fun _ => pickMax_ult _ _,
    State.vec2_lanes2 ready fun _ => rfl, State.vec2_lanes2 ready fun _ => rfl, State.vec2_lanes2 ready fun _ => rfl,
    State.vec2_lanes2 ready fun _ => rfl, State.vec2_lanes2 ready fun _ => rfl, State.vec2_lanes2 ready fun _ => rfl,
    State.vec2_lanes2 ready fun _ => rfl, State.vec2_lanes2 ready fun _ => satSigned_eq _,
    State.vec2_lanes2 ready fun _ => satUnsigned_ofNat (_ + _), State.vec2_lanes2 ready fun _ => satSigned_eq _,
    State.vec2_lanes2 ready fun _ => satUnsigned_sub _ _, State.vec2_lanes2 ready fun _ => rfl,
    State.vec2_lanes2 ready fun _ => rfl⟩

/-- Settles O7: the instructions on each lane alone by what they give in it (`abs_eq_ofInt`, `ofNat_popNat` to `ctzNat_find`), the
permutations by the lane that each place takes (`execVmov_gives` to `execVunzip_gives`), `vsel` byte by byte (`lane_mergeBytes`). -/
theorem vectorUnaryAndPermuteResults : Obligations.VectorUnaryAndPermuteResults := by
  refine ⟨fun s d a b p l => ⟨fun ready => ?_, execVsplat_gives, execVins_gives,
    fun ready => State.withPorts_ready ready fun s => _⟩, fun s d a b p l ready => ?_⟩
  · exact ⟨State.vec1_lanes1 ready fun _ => abs_eq_ofInt _, State.vec1_lanes1 ready fun _ => rfl, execVmov_gives ready,
      execVrot_gives ready, State.vec1_lanes1 ready fun _ => ofNat_popNat _, State.vec1_lanes1 ready fun _ => ofNat_clzNat_ite _,
      State.vec1_lanes1 ready fun _ => congrArg _ (ctzNat_find _ _)⟩
  · exact ⟨execVshuf_gives ready, execVzip_gives ready, execVunzip_gives ready, _, fun _ => lane_mergeBytes _ _ _,
      State.withPorts_ready ready fun s => _⟩

end

section
/-! SUPPORT. Vector compares: the predicate that they write, and the flags of active lanes (R97, R112, R175, R177). -/

namespace Sys2Proof.Machine

variable {s : State} {d : BitVec 3} {a b : RegNo} {p : BitVec 3} {l : BitVec 2}

/-! ### Predicates set bit by bit (R177, R185) -/

/-- Bits set one after another are those that the test picks. -/
theorem getLsbD_foldl_setBits (c : Nat → Bool) {n k : Nat} (h : k < 16) :
    ((List.range n).foldl (fun acc b => if c b then acc ||| BitVec.ofNat 16 (2 ^ b) else acc) (0 : BitVec 16)).getLsbD k =
      (decide (k < n) && c k) := by
  induction n with
  | zero => simp
  | succ n ih =>
    have bit : (BitVec.ofNat 16 (2 ^ n)).getLsbD k = decide (n = k) := by rw [BitVec.getLsbD_ofNat, Nat.testBit_two_pow]; simp [h]
    rw [List.range_succ, List.foldl_append, List.foldl_cons, List.foldl_nil]
    split
    next set =>
      rw [BitVec.getLsbD_or, ih, bit]
      by_cases own : n = k
      · simp [← own, set]
      · simp [own, show k < n + 1 ↔ k < n by omega]
    next clear =>
      rw [ih]
      by_cases own : n = k
      · simp [← own, clear]
      · simp [show k < n + 1 ↔ k < n by omega]

/-- The lane that byte `k` belongs to. -/
def laneOfByte (l : BitVec 2) (k : Nat) : Nat := k / (laneBits l / 8)

theorem laneOfByte_lt (l : BitVec 2) {k : Nat} (h : k < 16) : laneOfByte l k < laneCount l := by
  have bytes : laneBits l / 8 * laneCount l = 16 := by revert l; decide
  exact Nat.div_lt_of_lt_mul (by omega)

/-- A compare sets the bytes of active lanes to their lane's result and keeps the others (R177). -/
theorem comparePred_bit (p old : BitVec 16) (c : Nat → Bool) {k : Nat} (h : k < 16) :
    (comparePred (laneBits l) p old ((List.range (laneCount l)).map c)).getLsbD k =
      if laneActive (laneBits l) p (laneOfByte l k) then c (laneOfByte l k) else old.getLsbD k := by
  have result : ((List.range (laneCount l)).map c).getD (laneOfByte l k) false = c (laneOfByte l k) := by
    rw [List.getD_eq_getElem _ _ (by simpa using laneOfByte_lt l h), List.getElem_map, List.getElem_range]
  refine (getLsbD_foldl_setBits _ h).trans ?_
  rw [decide_eq_true h, Bool.true_and, ← result]
  rfl

/-! ### Flags of active lanes (R97, R175) -/

/-- Only the flags that are counted in matter to their OR. -/
theorem foldl_or_filter (active : Nat → Bool) (f : Nat → FpFlags) (xs : List Nat) (z : FpFlags) :
    (xs.map (fun i => if active i then f i else 0)).foldl (fun a g => a ||| g) z =
      ((xs.filter active).map f).foldl (fun a g => a ||| g) z := by
  induction xs generalizing z with
  | nil => rfl
  | cons x xs ih =>
    rw [List.map_cons, List.foldl_cons, ih, List.filter_cons]
    split
    · rfl
    · rw [BitVec.ofNat_eq_ofNat, BitVec.or_zero]

theorem zipIdx_map_range {α : Type} (f : Nat → α) (n : Nat) :
    ((List.range n).map f).zipIdx = (List.range n).map (fun i => (f i, i)) :=
  List.ext_getElem (by simp) fun i _ _ => by simp

theorem activeFlags_range (w : Nat) (p : BitVec 16) (f : Nat → FpFlags) (n : Nat) :
    activeFlags w p ((List.range n).map f) = orFlags (((List.range n).filter (laneActive w p)).map f) := by
  rw [activeFlags, zipIdx_map_range, List.map_map]
  exact foldl_or_filter (laneActive w p) f _ 0

/-! ### Compares (R177) -/

/-- A compare has set byte `k` of its destination predicate to `c k` where the byte's lane is active, and ends as `ends` does. -/
def State.Compares (s : State) (d : BitVec 3) (a b : RegNo) (p : BitVec 3) (l : BitVec 2) (c : Nat → Bool)
    (ends : State → State) (r : Result) : Prop :=
  ∃ q : BitVec 16, (∀ k < 16, q.getLsbD k = if laneActive (laneBits l) (s.p p) (laneOfByte l k) then c k else (s.p d).getLsbD k) ∧
    r = .next ((ends ((s.takeUnits [a, b]).setP d q)).finish .next)

theorem State.compareInt_gives (ready : s.PortsReady [a, b] [] false) (f : {n : Nat} → BitVec n → BitVec n → Bool) {c : Nat → Bool}
    (result : ∀ k, f (lane (laneBits l) (s.v a) (laneOfByte l k)) (lane (laneBits l) (s.v b) (laneOfByte l k)) = c k) :
    s.Compares d a b p l c id (s.compareInt d a b p l f) := by
  refine ⟨comparePred (laneBits l) (s.p p) (s.p d)
    ((List.range (laneCount l)).map fun i => f (lane (laneBits l) (s.v a) i) (lane (laneBits l) (s.v b) i)), fun k h => ?_, ?_⟩
  · rw [comparePred_bit _ _ _ h, result]
  · unfold State.compareInt
    rw [State.withPorts_ready ready]
    dsimp only
    rw [lanesOf, lanesOf, List.zipWith_map, List.zipWith_self]
    rfl

/-- The flags raised are those of the active lanes (R97, R175). -/
theorem State.compareFp_gives (ready : s.PortsReady [a, b] [] false) (f : Fp → Fp → Bool × FpFlags) {c : Nat → Bool}
    {fl : Nat → FpFlags} (result : ∀ k, (f (fpDecode (laneFmt l) (lane (laneBits l) (s.v a) (laneOfByte l k)).toNat)
      (fpDecode (laneFmt l) (lane (laneBits l) (s.v b) (laneOfByte l k)).toNat)).1 = c k)
    (flags : ∀ i, (f (fpDecode (laneFmt l) (lane (laneBits l) (s.v a) i).toNat)
      (fpDecode (laneFmt l) (lane (laneBits l) (s.v b) i).toNat)).2 = fl i) :
    s.Compares d a b p l c
      (State.raise · (orFlags (((List.range (laneCount l)).filter (laneActive (laneBits l) (s.p p))).map fl)))
      (s.compareFp d a b p l f) := by
  refine ⟨comparePred (laneBits l) (s.p p) (s.p d) ((List.range (laneCount l)).map fun i => (f
    (fpDecode (laneFmt l) (lane (laneBits l) (s.v a) i).toNat) (fpDecode (laneFmt l) (lane (laneBits l) (s.v b) i).toNat)).1),
    fun k h => ?_, ?_⟩
  · rw [comparePred_bit _ _ _ h, result]
  · unfold State.compareFp
    rw [State.withPorts_ready ready]
    dsimp only
    rw [fpLanes_eq, fpLanes_eq, List.zipWith_map, List.zipWith_self, List.map_map, List.map_map, ← activeFlags_range, ← funext flags]
    rfl

/-! ### The words of vector instructions (R112) -/

theorem encode_low {i : Instr} {c : Nat} (h : encodeNat i % 32 = c) : (encode i).extractLsb' 0 5 = BitVec.ofNat 5 c := by
  apply BitVec.eq_of_toNat_eq
  simp only [encode, BitVec.extractLsb'_toNat, BitVec.toNat_ofNat, Nat.shiftRight_eq_div_pow]
  omega

/-- Layout AV of a compare, whose bits above the destination predicate are zero (R112, R177). -/
theorem encode_compare {i : Instr} {base code : Nat} {shape : Bool}
    (word : encodeNat i = base + d.toNat * 1048576 + a.toNat * 32768 + b.toNat * 1024 + p.toNat * 128 + l.toNat * 32)
    (shapes : wellFormed i = shape)
    (fits : code < 32 := by decide) (fixed : base = code + 570425344 := by rfl) :
    (encode i).extractLsb' 25 6 = 0x11 ∧ (encode i).extractLsb' 0 5 = BitVec.ofNat 5 code ∧
      (encode i).extractLsb' 20 5 = d.setWidth 5 ∧ wellFormed i = shape := by
  obtain ⟨-, hmajor, hcode, htop, hdest, -⟩ := fields9 _ d a b p l code 0 17 base ⟨fits, by decide, by decide⟩ (by omega) word
  have dest : encodeNat i / 2 ^ 20 % 2 ^ 3 = d.toNat := by rw [← hdest, bf, BitVec.toNat_ofNat]
  refine ⟨encode_major hmajor, encode_low hcode, BitVec.eq_of_toNat_eq ?_, shapes⟩
  rw [encode, BitVec.extractLsb'_toNat, BitVec.toNat_ofNat, Nat.shiftRight_eq_div_pow, BitVec.toNat_setWidth]
  have small := d.isLt
  omega

theorem floatShape_eq (l : BitVec 2) : floatShape l = (l == 1 || l == 2) := by revert l; decide

end Sys2Proof.Machine
end

section
/-! CERTIFICATE. Vector compares. -/

open Sys2Proof Sys2Proof.Machine

/-- Settles O8: the bits that a compare sets (`comparePred_bit`) and the flags of the active lanes (`activeFlags_range`), for
integer lanes (`State.compareInt_gives`) and for those of floating point (`State.compareFp_gives`); the words by the layout. -/
theorem vectorCompareResults : Obligations.VectorCompareResults := by
  intro s d a b p l ready
  refine ⟨State.compareInt_gives ready (fun x y => x == y) fun _ => rfl,
    State.compareInt_gives ready (fun x y => x != y) fun _ => decide_not.symm,
    State.compareInt_gives ready BitVec.slt fun _ => rfl, State.compareInt_gives ready BitVec.sle fun _ => rfl,
    State.compareInt_gives ready BitVec.ult fun _ => rfl, State.compareInt_gives ready BitVec.ule fun _ => rfl,
    fun _ => ⟨?_, ?_, ?_, ?_⟩, s.setP_zero, ?_⟩
  · exact State.compareFp_gives ready (fun x y => (!eitherNaN x y && decide (fpCompare x y = .eq), nvOf x y)) (fun _ => rfl)
      fun _ => rfl
  · exact State.compareFp_gives ready (fun x y => (!eitherNaN x y && decide (fpCompare x y = .lt), nvAny x y)) (fun _ => rfl)
      fun _ => rfl
  · exact State.compareFp_gives ready (fun x y => (!eitherNaN x y && decide (fpCompare x y ≠ .gt), nvAny x y)) (fun _ => rfl)
      fun _ => rfl
  · exact State.compareFp_gives ready (fun x y => (eitherNaN x y, nvOf x y)) (fun _ => rfl) fun _ => rfl
  · simp only [List.forall_mem_cons, List.not_mem_nil, false_imp_iff, implies_true, and_true]
    have shape := floatShape_eq l
    exact ⟨encode_compare rfl rfl, encode_compare rfl rfl, encode_compare rfl rfl, encode_compare rfl rfl, encode_compare rfl rfl,
      encode_compare rfl rfl, encode_compare rfl shape, encode_compare rfl shape, encode_compare rfl shape, encode_compare rfl shape⟩

end

section
/-! SUPPORT. Reductions and dot products (R102, R112, R182, R183). -/

namespace Sys2Proof.Machine

variable {s : State} {d a b c : RegNo} {p : BitVec 3} {l : BitVec 2}

/-! ### Reductions (R182) -/

/-- The active lanes of a vector, in order. -/
def enteringLanes (l : BitVec 2) (p : BitVec 16) : List Nat := (List.range (laneCount l)).filter (laneActive (laneBits l) p)

theorem activeLanes_eq (p : BitVec 16) (x : VReg) : activeLanes l p x = (enteringLanes l p).map (lane (laneBits l) x) := by
  have zipped : (lanesOf (laneBits l) x).zipIdx = (List.range (laneCount l)).map fun i => (lane (laneBits l) x i, i) :=
    zipIdx_map_range _ _
  rw [activeLanes, zipped, List.filter_map, List.map_map]
  rfl

/-- A reduction writes what it makes of the active lanes into the low half of its destination, whole (R182). -/
theorem State.reduce_gives (ready : s.PortsReady [a] [d] false) (f : List (BitVec (laneBits l)) → Word) {r : Word}
    (result : f ((enteringLanes l (s.p p)).map (lane (laneBits l) (s.v a))) = r) :
    s.reduce d a p l f = .next (s.vectorNext [a] d (BitVec.allOnes 16) (r.setWidth 128) 0) := by
  unfold State.reduce
  rw [State.withPorts_ready ready, activeLanes_eq, result]
  rfl

theorem laneBits_pos (l : BitVec 2) : 0 < laneBits l := by revert l; decide

theorem foldl_signExtend_add {n : Nat} (xs : List (BitVec n)) (z : Word) :
    xs.foldl (fun z x => z + x.signExtend 64) z = z + BitVec.ofInt 64 (xs.map BitVec.toInt).sum := by
  induction xs generalizing z with
  | nil => simp
  | cons x xs ih =>
    rw [List.foldl_cons, ih, List.map_cons, List.sum_cons, BitVec.ofInt_add, ← BitVec.add_assoc]
    rfl

section
variable {n : Nat} (g : Nat → BitVec n) (is : List Nat)

/-- A fold of minima is no larger than what it starts from and what it goes over, and is one of these; `key` is the number that a
lane stands for, and `e` that of the start. -/
theorem foldl_pickMin {β : Type} [LinearOrder β] (key : BitVec n → β) {below : BitVec n → BitVec n → Bool}
    (order : ∀ {x y}, below x y = true ↔ key x < key y) {m : BitVec n} {e : β} (start : key m = e) :
    let z := (is.map g).foldl (pickMin below) m
    key z ≤ e ∧ (∀ i ∈ is, key z ≤ key (g i)) ∧ (key z = e ∨ ∃ i ∈ is, key z = key (g i)) := by
  induction is generalizing m e with
  | nil => exact ⟨start.le, by simp, .inl start⟩
  | cons i is ih =>
    rw [List.map_cons, List.foldl_cons, pickMin]
    split
    next smaller =>
      have less : key (g i) < e := start ▸ order.mp smaller
      obtain ⟨first, rest, chosen⟩ := ih (m := g i) rfl
      exact ⟨first.trans less.le, List.forall_mem_cons.mpr ⟨first, rest⟩,
        .inr (chosen.elim (fun own => ⟨i, by simp, own⟩) fun ⟨j, mem, other⟩ => ⟨j, by simp [mem], other⟩)⟩
    next kept =>
      have most : e ≤ key (g i) := start ▸ not_lt.mp fun less => kept (order.mpr less)
      obtain ⟨first, rest, chosen⟩ := ih start
      exact ⟨first, List.forall_mem_cons.mpr ⟨first.trans most, rest⟩,
        chosen.imp_right fun ⟨j, mem, other⟩ => ⟨j, by simp [mem], other⟩⟩

/-- The least of signed lanes, from the largest value down. -/
theorem foldl_pickMin_slt :
    let z := (is.map g).foldl (pickMin BitVec.slt) (BitVec.intMax n)
    (∀ i ∈ is, z.toInt ≤ (g i).toInt) ∧ (z.toInt = 2 ^ (n - 1) - 1 ∨ ∃ i ∈ is, z.toInt = (g i).toInt) :=
  (foldl_pickMin g is BitVec.toInt BitVec.slt_iff_toInt_lt BitVec.toInt_intMax).2

/-- The largest of signed lanes, from the least value up. -/
theorem foldl_pickMax_slt (pos : 0 < n) :
    let z := (is.map g).foldl (pickMax BitVec.slt) (BitVec.intMin n)
    (∀ i ∈ is, (g i).toInt ≤ z.toInt) ∧ (z.toInt = -2 ^ (n - 1) ∨ ∃ i ∈ is, z.toInt = (g i).toInt) :=
  (foldl_pickMin g is (fun x => OrderDual.toDual x.toInt) (below := fun x y => y.slt x) BitVec.slt_iff_toInt_lt
    (BitVec.toInt_intMin_of_pos pos)).2

/-- The least of unsigned lanes, from the largest value down. -/
theorem foldl_pickMin_ult :
    let z := (is.map g).foldl (pickMin BitVec.ult) (BitVec.allOnes n)
    (∀ i ∈ is, z.toNat ≤ (g i).toNat) ∧ (z.toNat = 2 ^ n - 1 ∨ ∃ i ∈ is, z.toNat = (g i).toNat) :=
  (foldl_pickMin g is BitVec.toNat BitVec.ult_iff_lt BitVec.toNat_allOnes).2

/-- The largest of unsigned lanes, from zero up. -/
theorem foldl_pickMax_ult :
    let z := (is.map g).foldl (pickMax BitVec.ult) 0
    (∀ i ∈ is, (g i).toNat ≤ z.toNat) ∧ (z.toNat = 0 ∨ ∃ i ∈ is, z.toNat = (g i).toNat) :=
  (foldl_pickMin g is (fun x => OrderDual.toDual x.toNat) (below := fun x y => y.ult x) BitVec.ult_iff_lt
    (m := 0) (e := OrderDual.toDual 0) (by simp)).2

end

/-! ### The tree of `vfredadd` (R102, R182) -/

theorem pairTree_two (e : Nat → Nat) :
    let add (i j : Nat) : Nat × FpFlags := roundF32 (fpAdd (f32 i) (f32 j))
    let r := add (add (e 0) (e 1)).1 (add (e 2) (e 3)).1
    pairTree 2 [e 0, e 1, e 2, e 3] = (r.1, (add (e 0) (e 1)).2 ||| (add (e 2) (e 3)).2 ||| r.2) := by
  simp [pairTree, pairLevel]

theorem pairTree_three (e : Nat → Nat) :
    let add (i j : Nat) : Nat × FpFlags := roundF32 (fpAdd (f32 i) (f32 j))
    let p0 := add (e 0) (e 1)
    let p1 := add (e 2) (e 3)
    let p2 := add (e 4) (e 5)
    let p3 := add (e 6) (e 7)
    let q0 := add p0.1 p1.1
    let q1 := add p2.1 p3.1
    let r := add q0.1 q1.1
    pairTree 3 [e 0, e 1, e 2, e 3, e 4, e 5, e 6, e 7] = (r.1, p0.2 ||| p1.2 ||| p2.2 ||| p3.2 ||| q0.2 ||| q1.2 ||| r.2) := by
  simp [pairTree, pairLevel, BitVec.or_assoc]

/-- The f32 bits that a lane of `w` bits enters with: a bf16 is the upper half of its f32, an inactive lane +0. -/
def enteringF32 (l : BitVec 2) (p : BitVec 16) (x : VReg) (i : Nat) : Nat :=
  if laneActive (laneBits l) p i then
    (if l = 1 then (lane (laneBits l) x i).toNat * 65536 else (lane (laneBits l) x i).toNat) else 0

/-- The tree of the lanes that enter, whose number goes by the shape. -/
def treeOf (l : BitVec 2) (p : BitVec 16) (x : VReg) : Nat × FpFlags :=
  pairTree (if l = 1 then 3 else 2) ((List.range (laneCount l)).map (enteringF32 l p x))

theorem execVfredadd_gives (p : BitVec 3) (l : BitVec 2) (ready : s.PortsReady [a] [d] false) {v : Nat} {fl : FpFlags}
    (tree : treeOf l (s.p p) (s.v a) = (v, fl)) :
    execVfredadd d a p l s = .next (s.vectorNext [a] d (BitVec.allOnes 16) (BitVec.ofNat 128 v) fl) := by
  have zipped : (lanesOf (laneBits l) (s.v a)).zipIdx = (List.range (laneCount l)).map fun i => (lane (laneBits l) (s.v a) i, i) :=
    zipIdx_map_range _ _
  have runs : execVfredadd d a p l s = .next (s.vectorNext [a] d (BitVec.allOnes 16) (BitVec.ofNat 128
      (treeOf l (s.p p) (s.v a)).1) (treeOf l (s.p p) (s.v a)).2) := by
    unfold execVfredadd
    rw [State.withPorts_ready ready, zipped, List.map_map]
    rfl
  rw [runs, tree]

/-! ### Dot products (R183) -/

theorem State.dot8_gives (ready : s.PortsReady [a, b] [d] true) (signed : Bool) {e : Nat → Int} {fl : Nat → FpFlags}
    (sums : ∀ k, (if signed then (lane 32 (s.core.r.readV d) k).toInt else ((lane 32 (s.core.r.readV d) k).toNat : Int)) +
      ((List.range 4).map fun j =>
        (if signed then (lane 8 (s.v a) (4 * k + j)).toInt else ((lane 8 (s.v a) (4 * k + j)).toNat : Int)) *
        (if signed then (lane 8 (s.v b) (4 * k + j)).toInt else ((lane 8 (s.v b) (4 * k + j)).toNat : Int))).sum = e k)
    (flags : ∀ k, (if signed && (decide (e k < -2 ^ 31) || decide (2 ^ 31 ≤ e k)) then flagIO else 0) = fl k) :
    ∃ v, (∀ k < 4, lane 32 v k = BitVec.ofInt 32 (e k)) ∧ s.dot8 d a b p signed =
      .next (s.vectorNext [a, b] d (s.p p) v (writtenFlags 32 (s.p p) ((List.range 4).map fl))) := by
  refine ⟨ofLanes 32 0 ((List.range 4).map fun k => BitVec.ofInt 32 (e k)), fun k h => lane_ofLanes_range _ h (by omega), ?_⟩
  unfold State.dot8
  rw [State.withPorts_ready ready]
  dsimp only
  rw [funext sums, List.map_map, List.map_map, ← funext flags]
  rfl

/-! ### The words of reductions and dot products (R112) -/

/-- Layout AV of one source, whose vb field is zero (R112, R182). -/
theorem encode_reduce {i : Instr} {base code : Nat} {shape : Bool}
    (word : encodeNat i = base + d.toNat * 1048576 + a.toNat * 32768 + p.toNat * 128 + l.toNat * 32) (shapes : wellFormed i = shape)
    (fits : code < 32 := by decide) (fixed : base = code + 704643072 := by rfl) :
    (encode i).extractLsb' 25 6 = 0x15 ∧ (encode i).extractLsb' 0 5 = BitVec.ofNat 5 code ∧ wellFormed i = shape ∧
      (code < 6 → (encode i).extractLsb' 10 5 = 0) := by
  obtain ⟨-, hmajor, hcode, hzero, -⟩ := fields8 _ d a p l code 0 21 base ⟨fits, by decide, by decide⟩ (by omega) word
  refine ⟨encode_major hmajor, encode_low hcode, shapes, fun _ => BitVec.eq_of_toNat_eq ?_⟩
  simp only [encode, BitVec.extractLsb'_toNat, BitVec.toNat_ofNat, Nat.shiftRight_eq_div_pow, BitVec.ofNat_eq_ofNat]
  omega

/-- Layout AV of two sources (R112, R183). -/
theorem encode_dot8 {i : Instr} {base code : Nat} {shape : Bool}
    (word : encodeNat i = base + d.toNat * 1048576 + a.toNat * 32768 + b.toNat * 1024 + p.toNat * 128 + l.toNat * 32)
    (shapes : wellFormed i = shape) (fits : 6 ≤ code ∧ code < 32 := by decide) (fixed : base = code + 704643072 := by rfl) :
    (encode i).extractLsb' 25 6 = 0x15 ∧ (encode i).extractLsb' 0 5 = BitVec.ofNat 5 code ∧ wellFormed i = shape ∧
      (code < 6 → (encode i).extractLsb' 10 5 = 0) := by
  obtain ⟨-, hmajor, hcode, -⟩ := fields7 _ d a b p l code 21 base ⟨fits.2, by decide⟩ (by omega) word
  exact ⟨encode_major hmajor, encode_low hcode, shapes, fun low => absurd fits.1 (Nat.not_le.mpr low)⟩

theorem dotShape_eq (l : BitVec 2) : decide (l.toNat = 2) = (l == 2) := by revert l; decide

end Sys2Proof.Machine
end

section
/-! CERTIFICATE. Multiply-accumulates, reductions and dot products. -/

open Sys2Proof Sys2Proof.Machine

/-- Settles O10: the multiply-accumulates lane by lane; a reduction by its fold over the lanes that enter, a least or largest one
(`foldl_pickMin`) or a sum; `vfredadd` by its tree; the dot products by their sums (`State.dot8_gives`); the words by the layouts. -/
theorem vectorReduceResults : Obligations.VectorReduceResults := by
  intro s d a b c p l
  refine ⟨fun ready => ⟨?_, ?_⟩, fun ready => ⟨?_, ?_, ?_, ?_, ?_, ?_, ?_⟩, fun ready => ⟨?_, ?_⟩, ?_⟩
  · exact State.vec3_lanes3 ready fun _ => satSigned_eq _
  · exact State.vec3_lanes3 ready fun _ => satUnsigned_ofNat (_ * _ + _)
  · refine State.reduce_gives ready _ ((foldl_signExtend_add _ 0).trans ?_)
    rw [List.map_map]
    exact BitVec.zero_add _
  · exact ⟨_, State.reduce_gives ready (fun xs => (xs.foldl (pickMin BitVec.slt) (BitVec.intMax (laneBits l))).signExtend 64) rfl,
      foldl_pickMin_slt _ _⟩
  · exact ⟨_, State.reduce_gives ready (fun xs => (xs.foldl (pickMax BitVec.slt) (BitVec.intMin (laneBits l))).signExtend 64) rfl,
      foldl_pickMax_slt _ _ (laneBits_pos l)⟩
  · exact ⟨_, State.reduce_gives ready (fun xs => (xs.foldl (pickMin BitVec.ult) (BitVec.allOnes (laneBits l))).setWidth 64)
      (BitVec.ofNat_toNat 64 _).symm, foldl_pickMin_ult _ _⟩
  · exact ⟨_, State.reduce_gives ready (fun xs => (xs.foldl (pickMax BitVec.ult) 0).setWidth 64) (BitVec.ofNat_toNat 64 _).symm,
      foldl_pickMax_ult _ _⟩
  · rintro rfl e add r
    exact execVfredadd_gives p 2 ready (pairTree_two e)
  · rintro rfl e add p0 p1 p2 p3 q0 q1 r
    exact execVfredadd_gives p 1 ready (pairTree_three e)
  · exact State.dot8_gives ready true (fun _ => rfl) fun _ => rfl
  · exact State.dot8_gives ready false (fun _ => rfl) fun _ => rfl
  · simp only [List.forall_mem_cons, List.not_mem_nil, false_imp_iff, implies_true, and_true]
    have shape := floatShape_eq l
    exact ⟨encode_reduce rfl rfl, encode_reduce rfl shape, encode_reduce rfl rfl, encode_reduce rfl rfl, encode_reduce rfl rfl,
      encode_reduce rfl rfl, encode_dot8 rfl (dotShape_eq l), encode_dot8 rfl (dotShape_eq l)⟩

end

section
/-! SUPPORT. Conversions, and the decode, encode and segment tables (R185 to R189). -/

namespace Sys2Proof.Machine

variable {s : State} {d a : RegNo} {p r : BitVec 3} {f : BitVec 1} {k : BitVec 3} {n : BitVec 2}

/-! ### Elements of a conversion (R185) -/

theorem lane_toNat (w : Nat) (v : VReg) (i : Nat) : (lane w v i).toNat = v.toNat / 2 ^ (w * i) % 2 ^ w := by
  rw [lane, BitVec.extractLsb'_toNat, Nat.shiftRight_eq_div_pow]

/-- A vector made of lanes is zero above them. -/
theorem getLsbD_ofLanes_above {w i b : Nat} {xs : List (BitVec w)} (h : (i + xs.length) * w ≤ b) :
    (ofLanes w i xs).getLsbD b = false := by
  induction xs generalizing i with
  | nil => simp [ofLanes]
  | cons x xs ih =>
    have rest : (i + 1 + xs.length) * w ≤ b := by rwa [List.length_cons, ← Nat.add_assoc, Nat.add_right_comm] at h
    have own : w ≤ b - w * i := by
      have : (i + 1) * w ≤ b := (Nat.mul_le_mul_right w (Nat.le_add_right _ _)).trans rest
      rw [Nat.succ_mul, Nat.mul_comm] at this
      omega
    rw [ofLanes, BitVec.getLsbD_or, ih rest, Bool.or_false, BitVec.getLsbD_shiftLeft, BitVec.getLsbD_setWidth,
      BitVec.getLsbD_of_ge x _ own, Bool.and_false, Bool.and_false]

/-- The bytes that `vcvt` writes: those of active elements, and all above the last one. -/
theorem cvtMask_bit (wd n : Nat) (p : BitVec 16) {b : Nat} (h : b < 16) :
    (cvtMask wd n p).getLsbD b = if b < n * wd / 8 then laneActive wd p (b / (wd / 8)) else true := by
  refine (getLsbD_foldl_setBits _ h).trans ?_
  rw [decide_eq_true h, Bool.true_and]
  split
  next below => rw [decide_eq_false (Nat.not_le.mpr below), Bool.false_or]
  next above => rw [decide_eq_true (Nat.not_lt.mp above), Bool.true_or]

/-- The number of elements that a conversion between widths `ws` and `wd` makes. -/
theorem cvtCount_fits (ws wd : Nat) {i : Nat} (h : i < 128 / max ws wd) : wd * (i + 1) ≤ 128 :=
  calc wd * (i + 1) ≤ max ws wd * (128 / max ws wd) := Nat.mul_le_mul (Nat.le_max_right ws wd) h
    _ ≤ 128 := Nat.mul_div_le 128 _

/-- Where a port takes what is written, the bytes whose predicate bit is 0 are zero (log entry 83). -/
theorem lane_ported (port : Bool) (q : BitVec 16) (x : VReg) {b : Nat} (h : b < 16) :
    lane 8 (if port then mergeBytes q x 0 else x) b = if port && !q.getLsbD b then 0 else lane 8 x b := by
  cases port with
  | false => rfl
  | true =>
    have zero : lane 8 0 b = 0 := by simp [lane]
    rw [if_pos rfl, lane_mergeBytes q x 0 h, zero, Bool.true_and]
    cases q.getLsbD b <;> rfl

/-- What `vcvt` makes of element `i` of a vector. -/
def cvtElement (t u : BitVec 4) (r : BitVec 3) (x : VReg) (i : Nat) : Nat × FpFlags :=
  cvtWrite t.toNat (rndOf r) (cvtRead u.toNat (lane (cvtBits u.toNat) x i).toNat)

theorem execVcvt_gives {t u : BitVec 4} (other : t ≠ u) (ready : s.PortsReady [a] [d] false) :
    let wd := cvtBits t.toNat
    let count := 128 / max (cvtBits u.toNat) wd
    let y := cvtElement t u r (s.v a)
    let v := ofLanes wd 0 ((List.range count).map fun i => BitVec.ofNat wd (y i).1)
    execVcvt d a t u r p s = .next (s.vectorNext [a] d (cvtMask wd count (s.p p))
      (if s.core.boundWrite d then mergeBytes (s.p p) v 0 else v)
      (orFlags (((List.range count).filter (laneActive wd (s.p p))).map fun i => (y i).2))) := by
  intro wd count y v
  have elements : (fun i => cvtWrite t.toNat (rndOf r)
      (cvtRead u.toNat ((s.v a).toNat / 2 ^ (cvtBits u.toNat * i) % 2 ^ cvtBits u.toNat))) = y :=
    funext fun i => by rw [← lane_toNat]; rfl
  unfold execVcvt
  rw [if_neg other, State.withPorts_ready ready]
  dsimp only
  rw [elements, List.map_map, List.map_map, ← activeFlags_range]
  rfl

/-! ### Codes of a group (R186, R187) -/

/-- The number whose digits to the base `m` are given has each of them. -/
theorem digit_of_sum {m : Nat} (j : Nat) {y : Nat → Nat} (small : ∀ i < j, y i < m) {i : Nat} (h : i < j) :
    ((List.range j).map fun i => y i * m ^ i).sum / m ^ i % m = y i := by
  induction j generalizing y i with
  | zero => cases h
  | succ j ih =>
    have first := small 0 (Nat.zero_lt_succ j)
    have sum : ((List.range (j + 1)).map fun i => y i * m ^ i).sum =
        y 0 + m * ((List.range j).map fun i => y (i + 1) * m ^ i).sum := by
      rw [List.range_succ_eq_map, List.map_cons, List.sum_cons, List.map_map, ← List.sum_map_mul_left]
      simp [Function.comp_def, Nat.pow_succ', Nat.mul_left_comm]
    rw [sum]
    cases i with
    | zero => rw [Nat.pow_zero, Nat.div_one, Nat.add_mul_mod_self_left, Nat.mod_eq_of_lt first]
    | succ i =>
      rw [Nat.pow_succ', ← Nat.div_div_eq_div_mul, Nat.add_mul_div_left _ _ (by omega), Nat.div_eq_of_lt first, Nat.zero_add]
      exact ih (fun i lt => small (i + 1) (by omega)) (by omega)

/-- The width of a code. -/
def codeBits (f : BitVec 1) : Nat := if f = 1 then 4 else 8

theorem groupCode_eq (f : BitVec 1) (k : BitVec 3) (x : VReg) (i : Nat) :
    groupCode f k x i = x.toNat / 2 ^ (4 * codeBits f * k.toNat + codeBits f * i) % 2 ^ codeBits f := by
  unfold groupCode codeBits
  split <;> rfl

theorem group_fits (h : groupOk f k = true) : 4 * codeBits f * k.toNat + 4 * codeBits f ≤ 128 := by
  revert f k; decide

/-- The bits from place `c` of a field that has been put are those of the number put. -/
theorem fieldPut_get {len pos c w m : Nat} (old : BitVec m) (x : Nat) (inside : c + w ≤ len) (room : pos + len ≤ m) :
    (fieldPut len pos old (BitVec.ofNat m x)).toNat / 2 ^ (pos + c) % 2 ^ w = x / 2 ^ c % 2 ^ w := by
  apply Nat.eq_of_testBit_eq
  intro j
  simp only [Nat.testBit_mod_two_pow, Nat.testBit_div_two_pow]
  by_cases low : j < w
  · have bit := fieldPut_bit len pos old (BitVec.ofNat m x) (show j + (pos + c) < m by omega)
    rw [if_pos (by omega), BitVec.getLsbD_ofNat, show j + (pos + c) - pos = j + c by omega, decide_eq_true (show j + c < m by omega),
      Bool.true_and] at bit
    rw [← bit]
    rfl
  · rw [decide_eq_false low, Bool.false_and, Bool.false_and]

/-- A group put into a vector reads back the code at each of its places. -/
theorem groupCode_fieldPut (ok : groupOk f k = true) {y : Nat → Nat} (small : ∀ i < 4, y i < 2 ^ codeBits f) (old : VReg) {i : Nat}
    (h : i < 4) :
    groupCode f k (fieldPut (4 * codeBits f) (4 * codeBits f * k.toNat) old
      (BitVec.ofNat 128 ((List.range 4).map fun i => y i * 2 ^ (codeBits f * i)).sum)) i = y i := by
  have digit := digit_of_sum 4 small h
  simp only [← Nat.pow_mul] at digit
  have inside : codeBits f * i + codeBits f ≤ 4 * codeBits f := by
    rw [← Nat.mul_succ, Nat.mul_comm 4]
    exact Nat.mul_le_mul_left _ h
  rw [groupCode_eq, fieldPut_get old _ inside (group_fits ok), digit]

/-- A bit outside the group is kept. -/
theorem fieldPut_outside {len pos b m : Nat} (old x : BitVec m) (h : b < m) (out : b < pos ∨ pos + len ≤ b) :
    (fieldPut len pos old x).getLsbD b = old.getLsbD b := by
  rw [fieldPut_bit len pos old x h, if_neg (by omega)]

/-! ### Tables (R186, R187, R189) -/

/-- What `venc` makes of lane `i` of a vector. -/
def encLane (t : DecTab) (f : BitVec 1) (r : BitVec 3) (x : VReg) (i : Nat) : Nat × FpFlags :=
  tabEncode t (2 ^ codeBits f) (rndOf r) (f32 (lane 32 x i).toNat)

theorem execVenc_gives (ready : s.PortsReady [a] [d] true) (free : s.core.tableBusy n.toNat = false) :
    let y := encLane (s.core.eng.tabs[n.toNat]'n.isLt) f r (s.v a)
    execVenc d a f k n r s = .next (s.vectorNext [a] d (BitVec.allOnes 16)
      (fieldPut (4 * codeBits f) (4 * codeBits f * k.toNat) (s.core.r.readV d)
        (BitVec.ofNat 128 ((List.range 4).map fun i => (y i).1 * 2 ^ (codeBits f * i)).sum))
      (orFlags ((List.range 4).map fun i => (y i).2))) := by
  intro y
  unfold execVenc
  rw [State.withPorts_ready ready]
  dsimp only
  rw [if_neg (by simp [free]), zipIdx_map_range, List.map_map, List.map_map]
  rfl

theorem execVdec_gives (ready : s.PortsReady [a] [d] false) (free : s.core.tableBusy n.toNat = false) :
    execVdec d a f k n s = .next (s.vectorNext [a] d (BitVec.allOnes 16) (ofLanes 32 0 ((List.range 4).map fun i =>
      BitVec.ofNat 32 (tabDecode (s.core.eng.tabs[n.toNat]'n.isLt) (groupCode f k (s.v a) i)))) 0) := by
  unfold execVdec
  rw [State.withPorts_ready ready, if_neg (by simp [free])]
  rfl

theorem execVdec_busy (ready : s.PortsReady [a] [d] false) (busy : s.core.tableBusy n.toNat = true) :
    execVdec d a f k n s = s.stay .table (n.setWidth 64) := by
  unfold execVdec
  rw [State.withPorts_ready ready, if_pos busy]

theorem execVenc_busy (ready : s.PortsReady [a] [d] true) (busy : s.core.tableBusy n.toNat = true) :
    execVenc d a f k n r s = s.stay .table (n.setWidth 64) := by
  unfold execVenc
  rw [State.withPorts_ready ready, if_pos busy]

theorem execSegev_busy (ready : s.PortsReady [a] [d] false) (busy : s.core.eng.segLoads.any (fun x => x.table = n.toNat) = true) :
    execSegev d a n s = s.stay .table (n.setWidth 64) := by
  unfold execSegev
  rw [State.withPorts_ready ready, if_pos busy]

/-- What `segev` makes of lane `i` of a vector. -/
def segElement (m : Memory) (x : VReg) (i : Nat) : Nat × FpFlags :=
  if segValid (f32 (segWord m 0)) (f32 (segWord m 4)) (m.read 8).toNat then
    segLane m (f32 (segWord m 0)) (f32 (segWord m 4)) (m.read 8).toNat (lane 32 x i).toNat
  else (0x7FC00000, flagNV)

theorem execSegev_gives (ready : s.PortsReady [a] [d] false)
    (free : s.core.eng.segLoads.any (fun x => x.table = n.toNat) = false) :
    let y := segElement (s.core.eng.segs[n.toNat]'n.isLt) (s.v a)
    execSegev d a n s = .next (s.vectorNext [a] d (BitVec.allOnes 16)
      (ofLanes 32 0 ((List.range 4).map fun i => BitVec.ofNat 32 (y i).1)) (orFlags ((List.range 4).map fun i => (y i).2))) := by
  intro y
  unfold execSegev
  rw [State.withPorts_ready ready, if_neg (by simp [free])]
  dsimp only
  rw [lanesOf, List.map_map, List.map_map, List.map_map]
  rfl

end Sys2Proof.Machine
end

section
/-! CERTIFICATE. Conversions and tables. -/

open Sys2Proof Sys2Proof.Machine

/-- Settles O11: each instruction by the vector that it makes of its elements (`execVcvt_gives` to `execSegev_gives`), read back lane
by lane, or, for `venc`, code by code (`groupCode_fieldPut`). -/
theorem vectorConvertResults : Obligations.VectorConvertResults := by
  intro s d a t u r p f k n
  refine ⟨fun ready => ⟨fun same => if_pos same, fun other _ => ?_, fun free => ?_, execVdec_busy ready, execSegev_busy ready,
    fun free => ?_⟩, execVenc_busy, fun ready ok free => ?_⟩
  · exact ⟨_, _, _, fun i h => lane_ofLanes_range _ h (cvtCount_fits _ _ h),
      fun b high => getLsbD_ofLanes_above (by simpa using high), fun b h => cvtMask_bit _ _ _ h, fun b h => lane_ported _ _ _ h,
      execVcvt_gives other ready⟩
  · exact ⟨_, fun i h => lane_ofLanes_range _ h (by omega), execVdec_gives ready free⟩
  · exact ⟨_, fun i h => lane_ofLanes_range _ h (by omega), execSegev_gives ready free⟩
  · intro w y small
    exact ⟨_, fun i h => groupCode_fieldPut ok small _ h, fun b lt out => fieldPut_outside _ _ lt (by rwa [Nat.mul_succ] at out),
      execVenc_gives ready free⟩

end
